-- ==== Sys2Proof/Word.lean ====
section
/-!
DEFINITION. The word types of the machine and their plainest arithmetic.

Fildal 2 registers are 64 bits wide, addresses 48 (virtual) or 46 (physical) bits, and every
multi-byte value is little-endian (R2).  Nothing here is particular to one instruction.
-/

namespace Sys2Proof

/-- One byte of memory, of a hold or of a queue entry. -/
abbrev Byte := BitVec 8

/-- One 32-bit fetch word (R26). -/
abbrev W32 := BitVec 32

/-- A 64-bit register value. -/
abbrev Word := BitVec 64

/-- A 1024-bit queue entry (R211). -/
abbrev Entry := BitVec 1024

/-- A stored 128-bit wide operation (R33). -/
abbrev WideBits := BitVec 128

/-- Bits `[lo + len - 1 : lo]` of a natural number, as a number (R2). -/
def bits (v lo len : Nat) : Nat := v / 2 ^ lo % 2 ^ len

/-- Bit `i` of a natural number (R2). -/
def bit (v i : Nat) : Bool := v / 2 ^ i % 2 == 1

/-- The two's complement value of the low `w` bits of `v` (R7, `sext`). -/
def sextInt (v w : Nat) : Int :=
  if v % 2 ^ w < 2 ^ (w - 1) then ((v % 2 ^ w : Nat) : Int) else ((v % 2 ^ w : Nat) : Int) - ((2 ^ w : Nat) : Int)

/-- The low `w` bits of an unbounded integer, as a natural number (R8). -/
def lowBits (v : Int) (w : Nat) : Nat := (v % ((2 ^ w : Nat) : Int)).toNat

/-- The 64-bit register image of an unbounded integer. -/
def wordOfInt (v : Int) : Word := BitVec.ofInt 64 v

/-- The all-ones 64-bit word. -/
def ones64 : Word := BitVec.allOnes 64

end Sys2Proof
end

