-- ==== Sys2Proof/Syntax.lean ====
section
/-!
DEFINITION. The syntax of the machine: operands, bundles, and `Instr`, one constructor per row of
the opcode table.

An instruction that a stream issues carries its bundle (tokens, lockstep, length; R26 to R29) and
the operand fields of its wide operation (R33).  Rows of the table that are events of the machine
carry the plain data that says which event happened and where; they have no encoding.
-/

namespace Sys2Proof

/-- The four streams of a core, in ring order (R16). -/
inductive Stream where
  | P | L | X | S
  deriving DecidableEq, Repr

/-- The memory scopes, with the codes of Table 7.1 (R162). -/
inductive Scope where
  | core | clus | die | dev | sys
  deriving DecidableEq, Repr

/-- The operand types of Table 2.7 (R39). -/
inductive Typ where
  | untyped | i8 | i16 | i32 | i64 | n8 | n16 | n32 | n64
  | f32 | f16 | bf16 | e4m3 | e5m2 | e3m2 | e2m3 | e2m1 | q4 | f8
  deriving DecidableEq, Repr

/-- A register specifier of Table 2.6, decoded (R36). -/
inductive Operand where
  | s (n : Fin 32)        -- kind 000
  | p (n : Fin 16)        -- kind 001
  | q (n : Fin 16)        -- kind 010, pop or push
  | peek (n : Fin 16)     -- kind 010, numbers 16-31
  | acc (n : Fin 4)       -- kind 011, numbers 0-3
  | pb (n : Fin 2)        -- kind 011, numbers 4-5
  | lc (n : Fin 4)        -- kind 100, numbers 0-3
  | ln                    -- kind 100, number 4
  | sp                    -- kind 100, number 5
  | ml (n : Fin 4)        -- kind 100, numbers 8-11
  | special (n : Fin 26)  -- kind 101, the assigned numbers (R371)
  | sga | sgb             -- kind 110
  | imm                   -- kind 111
  deriving DecidableEq, Repr

/-- The predicate selection PR of a wide operation (R38). -/
structure Pred where
  inv : Bool
  num : Fin 16
  deriving DecidableEq, Repr

/-- The spill side-op of AUX2 (R34, R35). -/
inductive SideOp where
  | none
  | spill (r : Fin 32) (slot : Fin 512)
  | fill (r : Fin 32) (slot : Fin 512)
  deriving DecidableEq, Repr

/-- The operand fields of a wide operation (R33).  A position that an instruction does not use holds
the zero byte, which is `Operand.s 0`. -/
structure Fields where
  dst  : Operand
  sa   : Operand
  sb   : Operand
  sc   : Operand
  pr   : Pred
  mod  : BitVec 5
  typ  : Typ
  imm  : BitVec 32
  aux  : BitVec 16
  side : SideOp
  deriving DecidableEq, Repr

/-- The PUSH and POP codes of a patch word (R26, R41). -/
inductive TokenCode where
  | none | next | opposite | previous
  deriving DecidableEq, Repr

/-- What the patch word says of its bundle, and the number of 32-bit words it took (R26 to R29). -/
structure Bundle where
  push  : TokenCode
  pop   : TokenCode
  sync  : Bool
  words : Nat
  deriving DecidableEq, Repr

/-- What ends a mooring (R387).  A kick or doorbell names its queue. -/
inductive WakeCause where
  | kick | doorbell | hostLink | walris | armedWake
  deriving DecidableEq, Repr

/-- An access of a host or PCIe agent at the port (R390). -/
inductive PortAccess where
  | read (size : Nat)
  | write (data : List Byte)
  deriving DecidableEq, Repr

/-- The instructions and events of the opcode table, one constructor per row. -/
inductive Instr where
  /-- NOP_TIX0 (R28): the hardwired TIX 0 bundle. -/
  | nopTix0 (b : Bundle)
  /-- NOP (R92). -/
  | nop (b : Bundle) (f : Fields)
  /-- BR (R73). -/
  | br (b : Bundle) (f : Fields)
  /-- BRZ (R73). -/
  | brz (b : Bundle) (f : Fields)
  /-- JMP (R73). -/
  | jmp (b : Bundle) (f : Fields)
  /-- JAL (R74). -/
  | jal (b : Bundle) (f : Fields)
  /-- JALR (R74). -/
  | jalr (b : Bundle) (f : Fields)
  /-- LOOP (R76). -/
  | loop (b : Bundle) (f : Fields)
  /-- FORK (R78). -/
  | fork (b : Bundle) (f : Fields)
  /-- JOIN (R82). -/
  | join (b : Bundle) (f : Fields)
  /-- JOIN_D (R82). -/
  | joinD (b : Bundle) (f : Fields)
  /-- QBIND (R80). -/
  | qbind (b : Bundle) (f : Fields)
  /-- TOKP (R85). -/
  | tokp (b : Bundle) (f : Fields)
  /-- TOKW (R85). -/
  | tokw (b : Bundle) (f : Fields)
  /-- HALT (R81). -/
  | halt (b : Bundle) (f : Fields)
  /-- TMPL (R91). -/
  | tmpl (b : Bundle) (f : Fields)
  /-- ADD (R98). -/
  | add (b : Bundle) (f : Fields)
  /-- SUB (R98). -/
  | sub (b : Bundle) (f : Fields)
  /-- MIN (R98). -/
  | min (b : Bundle) (f : Fields)
  /-- MAX (R98). -/
  | max (b : Bundle) (f : Fields)
  /-- MINN (R98). -/
  | minn (b : Bundle) (f : Fields)
  /-- MAXN (R98). -/
  | maxn (b : Bundle) (f : Fields)
  /-- MUL (R99). -/
  | mul (b : Bundle) (f : Fields)
  /-- MULH (R99). -/
  | mulh (b : Bundle) (f : Fields)
  /-- MULHN (R99). -/
  | mulhn (b : Bundle) (f : Fields)
  /-- DIV (R100). -/
  | div (b : Bundle) (f : Fields)
  /-- DIVN (R100). -/
  | divn (b : Bundle) (f : Fields)
  /-- REM (R100). -/
  | rem (b : Bundle) (f : Fields)
  /-- REMN (R100). -/
  | remn (b : Bundle) (f : Fields)
  /-- AND (R101). -/
  | and (b : Bundle) (f : Fields)
  /-- OR (R101). -/
  | or (b : Bundle) (f : Fields)
  /-- XOR (R101). -/
  | xor (b : Bundle) (f : Fields)
  /-- ANDN (R101). -/
  | andn (b : Bundle) (f : Fields)
  /-- SHL (R102). -/
  | shl (b : Bundle) (f : Fields)
  /-- SHR (R102). -/
  | shr (b : Bundle) (f : Fields)
  /-- SRA (R102). -/
  | sra (b : Bundle) (f : Fields)
  /-- ROT (R102). -/
  | rot (b : Bundle) (f : Fields)
  /-- CLZ (R103). -/
  | clz (b : Bundle) (f : Fields)
  /-- POPC (R103). -/
  | popc (b : Bundle) (f : Fields)
  /-- SEL (R104). -/
  | sel (b : Bundle) (f : Fields)
  /-- LDI (R105). -/
  | ldi (b : Bundle) (f : Fields)
  /-- ADDR (R106). -/
  | addr (b : Bundle) (f : Fields)
  /-- BFX (R107). -/
  | bfx (b : Bundle) (f : Fields)
  /-- BFI (R107). -/
  | bfi (b : Bundle) (f : Fields)
  /-- CVT (R128). -/
  | cvt (b : Bundle) (f : Fields)
  /-- CVT_Q (R129). -/
  | cvtQ (b : Bundle) (f : Fields)
  /-- PACK4 (R130). -/
  | pack4 (b : Bundle) (f : Fields)
  /-- UNPK4 (R131). -/
  | unpk4 (b : Bundle) (f : Fields)
  /-- PACK8 (R130). -/
  | pack8 (b : Bundle) (f : Fields)
  /-- UNPK8 (R131). -/
  | unpk8 (b : Bundle) (f : Fields)
  /-- QTAG (R132). -/
  | qtag (b : Bundle) (f : Fields)
  /-- FFLAG (R133). -/
  | fflag (b : Bundle) (f : Fields)
  /-- FCLS (R134). -/
  | fcls (b : Bundle) (f : Fields)
  /-- CMP (R108). -/
  | cmp (b : Bundle) (f : Fields)
  /-- PLOG (R110). -/
  | plog (b : Bundle) (f : Fields)
  /-- PMOV (R111). -/
  | pmov (b : Bundle) (f : Fields)
  /-- LD (R155). -/
  | ld (b : Bundle) (f : Fields)
  /-- ST (R155). -/
  | st (b : Bundle) (f : Fields)
  /-- LDQ (R156). -/
  | ldq (b : Bundle) (f : Fields)
  /-- STQ (R156). -/
  | stq (b : Bundle) (f : Fields)
  /-- LDGQ (R157). -/
  | ldgq (b : Bundle) (f : Fields)
  /-- STSQ (R157). -/
  | stsq (b : Bundle) (f : Fields)
  /-- PF (R158). -/
  | pf (b : Bundle) (f : Fields)
  /-- PF_FR (R158). -/
  | pfFr (b : Bundle) (f : Fields)
  /-- LDS (R159). -/
  | lds (b : Bundle) (f : Fields)
  /-- FENCE (R180). -/
  | fence (sc : Scope) (b : Bundle) (f : Fields)
  /-- ACQ (R181). -/
  | acq (sc : Scope) (b : Bundle) (f : Fields)
  /-- REL (R181). -/
  | rel (sc : Scope) (b : Bundle) (f : Fields)
  /-- ACQP (R184). -/
  | acqp (b : Bundle) (f : Fields)
  /-- DBB (R190). -/
  | dbb (b : Bundle) (f : Fields)
  /-- DBB_U (R190). -/
  | dbbU (b : Bundle) (f : Fields)
  /-- PUBLISH (R191). -/
  | publish (b : Bundle) (f : Fields)
  /-- CPY_1D (R199). -/
  | cpy1 (b : Bundle) (f : Fields)
  /-- CPY_2D (R199). -/
  | cpy2 (b : Bundle) (f : Fields)
  /-- CPY_3D (R199). -/
  | cpy3 (b : Bundle) (f : Fields)
  /-- CPYG (R202). -/
  | cpyg (b : Bundle) (f : Fields)
  /-- CPYMC (R203). -/
  | cpymc (b : Bundle) (f : Fields)
  /-- CPYC (R206). -/
  | cpyc (b : Bundle) (f : Fields)
  /-- CPYS (R207). -/
  | cpys (b : Bundle) (f : Fields)
  /-- WAIT (R208). -/
  | wait (b : Bundle) (f : Fields)
  /-- VADD (R224). -/
  | vadd (b : Bundle) (f : Fields)
  /-- VSUB (R224). -/
  | vsub (b : Bundle) (f : Fields)
  /-- VMUL (R224). -/
  | vmul (b : Bundle) (f : Fields)
  /-- VFMA (R224). -/
  | vfma (b : Bundle) (f : Fields)
  /-- VMIN (R225). -/
  | vmin (b : Bundle) (f : Fields)
  /-- VMAX (R225). -/
  | vmax (b : Bundle) (f : Fields)
  /-- VABS (R226). -/
  | vabs (b : Bundle) (f : Fields)
  /-- VNEG (R226). -/
  | vneg (b : Bundle) (f : Fields)
  /-- VAND (R227). -/
  | vand (b : Bundle) (f : Fields)
  /-- VOR (R227). -/
  | vor (b : Bundle) (f : Fields)
  /-- VXOR (R227). -/
  | vxor (b : Bundle) (f : Fields)
  /-- VSHL (R228). -/
  | vshl (b : Bundle) (f : Fields)
  /-- VSHR (R228). -/
  | vshr (b : Bundle) (f : Fields)
  /-- VSRA (R228). -/
  | vsra (b : Bundle) (f : Fields)
  /-- VCMP (R229). -/
  | vcmp (b : Bundle) (f : Fields)
  /-- VSEL (R230). -/
  | vsel (b : Bundle) (f : Fields)
  /-- VEXP2 (R231). -/
  | vexp2 (b : Bundle) (f : Fields)
  /-- VLOG2 (R231). -/
  | vlog2 (b : Bundle) (f : Fields)
  /-- VRCP (R231). -/
  | vrcp (b : Bundle) (f : Fields)
  /-- VRSQ (R231). -/
  | vrsq (b : Bundle) (f : Fields)
  /-- VSQRT (R231). -/
  | vsqrt (b : Bundle) (f : Fields)
  /-- VRED_SUM (R232). -/
  | vredSum (b : Bundle) (f : Fields)
  /-- VRED_MAX (R232). -/
  | vredMax (b : Bundle) (f : Fields)
  /-- VRED_MIN (R232). -/
  | vredMin (b : Bundle) (f : Fields)
  /-- VSCAN_INCL (R233). -/
  | vscanIncl (b : Bundle) (f : Fields)
  /-- VSCAN_EXCL (R233). -/
  | vscanExcl (b : Bundle) (f : Fields)
  /-- VPERM (R234). -/
  | vperm (b : Bundle) (f : Fields)
  /-- VBCAST (R235). -/
  | vbcast (b : Bundle) (f : Fields)
  /-- VMOV (R236). -/
  | vmov (b : Bundle) (f : Fields)
  /-- VMOV_X (R236). -/
  | vmovX (b : Bundle) (f : Fields)
  /-- VMOV_I (R236). -/
  | vmovI (b : Bundle) (f : Fields)
  /-- VIOTA (R237). -/
  | viota (b : Bundle) (f : Fields)
  /-- VKEY (R238). -/
  | vkey (b : Bundle) (f : Fields)
  /-- VHIST (R239). -/
  | vhist (b : Bundle) (f : Fields)
  /-- VCUT (R240). -/
  | vcut (b : Bundle) (f : Fields)
  /-- MMA_Q4 (R251). -/
  | mmaQ4 (b : Bundle) (f : Fields)
  /-- MMA_F8 (R251). -/
  | mmaF8 (b : Bundle) (f : Fields)
  /-- MMA_BF (R251). -/
  | mmaBf (b : Bundle) (f : Fields)
  /-- MMA_H (R251). -/
  | mmaH (b : Bundle) (f : Fields)
  /-- SCAC (R257). -/
  | scac (b : Bundle) (f : Fields)
  /-- ACCZ (R258). -/
  | accz (b : Bundle) (f : Fields)
  /-- ACCLD (R259). -/
  | accld (b : Bundle) (f : Fields)
  /-- DRAIN (R262). -/
  | drain (b : Bundle) (f : Fields)
  /-- EPI (R263). -/
  | epi (b : Bundle) (f : Fields)
  /-- EPI_OUT (R267). -/
  | epiOut (b : Bundle) (f : Fields)
  /-- SAG (R245). -/
  | sag (b : Bundle) (f : Fields)
  /-- SAG_RD (R245). -/
  | sagRd (b : Bundle) (f : Fields)
  /-- MASKLD (R264). -/
  | maskld (b : Bundle) (f : Fields)
  /-- MSTAT (R260). -/
  | mstat (b : Bundle) (f : Fields)
  /-- MSTMP (R254). -/
  | mstmp (b : Bundle) (f : Fields)
  /-- MSTMP_ABS (R254). -/
  | mstmpAbs (b : Bundle) (f : Fields)
  /-- AMO_ADD (R276). -/
  | amoAdd (b : Bundle) (f : Fields)
  /-- AMO_AND (R276). -/
  | amoAnd (b : Bundle) (f : Fields)
  /-- AMO_OR (R276). -/
  | amoOr (b : Bundle) (f : Fields)
  /-- AMO_XOR (R276). -/
  | amoXor (b : Bundle) (f : Fields)
  /-- AMO_MIN (R276). -/
  | amoMin (b : Bundle) (f : Fields)
  /-- AMO_MAX (R276). -/
  | amoMax (b : Bundle) (f : Fields)
  /-- AMO_MINN (R276). -/
  | amoMinn (b : Bundle) (f : Fields)
  /-- AMO_MAXN (R279). -/
  | amoMaxn (b : Bundle) (f : Fields)
  /-- AMO_XCHG (R276). -/
  | amoXchg (b : Bundle) (f : Fields)
  /-- AMO_CAS (R276). -/
  | amoCas (b : Bundle) (f : Fields)
  /-- SEMI (R281). -/
  | semi (b : Bundle) (f : Fields)
  /-- SEMW (R282). -/
  | semw (b : Bundle) (f : Fields)
  /-- SEMS (R283). -/
  | sems (b : Bundle) (f : Fields)
  /-- SEMS_R (R283). -/
  | semsR (b : Bundle) (f : Fields)
  /-- BAR (R284). -/
  | bar (b : Bundle) (f : Fields)
  /-- MBS (R287). -/
  | mbs (b : Bundle) (f : Fields)
  /-- MBR (R288). -/
  | mbr (b : Bundle) (f : Fields)
  /-- SPAWN (R301). -/
  | spawn (b : Bundle) (f : Fields)
  /-- JOINW (R302). -/
  | joinw (b : Bundle) (f : Fields)
  /-- LAUNCH (R297). -/
  | launch (b : Bundle) (f : Fields)
  /-- YIELD (R320). -/
  | yield (b : Bundle) (f : Fields)
  /-- TTREL (R317). -/
  | ttrel (b : Bundle) (f : Fields)
  /-- WAITB (R322). -/
  | waitb (b : Bundle) (f : Fields)
  /-- EBUD (R342). -/
  | ebud (b : Bundle) (f : Fields)
  /-- EBUD_W (R342). -/
  | ebudW (b : Bundle) (f : Fields)
  /-- EVAR (R343). -/
  | evar (b : Bundle) (f : Fields)
  /-- EJRD (R344). -/
  | ejrd (b : Bundle) (f : Fields)
  /-- EJRD_I (R344). -/
  | ejrdI (b : Bundle) (f : Fields)
  /-- EJRD_B (R344). -/
  | ejrdB (b : Bundle) (f : Fields)
  /-- ECLS (R345). -/
  | ecls (b : Bundle) (f : Fields)
  /-- ECLS_W (R345). -/
  | eclsW (b : Bundle) (f : Fields)
  /-- ETHR (R346). -/
  | ethr (b : Bundle) (f : Fields)
  /-- ETHR_W (R346). -/
  | ethrW (b : Bundle) (f : Fields)
  /-- CHT_OPEN (R353). -/
  | chtOpen (b : Bundle) (f : Fields)
  /-- CHT_APPEND (R353). -/
  | chtAppend (b : Bundle) (f : Fields)
  /-- CHT_PROP (R355). -/
  | chtProp (b : Bundle) (f : Fields)
  /-- CHT_PROPT (R356). -/
  | chtPropt (b : Bundle) (f : Fields)
  /-- CHT_SAVE (R358). -/
  | chtSave (b : Bundle) (f : Fields)
  /-- CHT_LOAD (R358). -/
  | chtLoad (b : Bundle) (f : Fields)
  /-- CHT_CLOSE (R353). -/
  | chtClose (b : Bundle) (f : Fields)
  /-- SMP_TEMP (R361). -/
  | smpTemp (b : Bundle) (f : Fields)
  /-- SMP_FILT (R363). -/
  | smpFilt (b : Bundle) (f : Fields)
  /-- SMP_PICK (R364). -/
  | smpPick (b : Bundle) (f : Fields)
  /-- SMP_VER (R364). -/
  | smpVer (b : Bundle) (f : Fields)
  /-- SMP_STOP (R366). -/
  | smpStop (b : Bundle) (f : Fields)
  /-- RNG (R362). -/
  | rng (b : Bundle) (f : Fields)
  /-- TRAP (R379). -/
  | trap (b : Bundle) (f : Fields)
  /-- TRAP_FW (R379). -/
  | trapFw (b : Bundle) (f : Fields)
  /-- ERET (R380). -/
  | eret (b : Bundle) (f : Fields)
  /-- SREG (R371). -/
  | sreg (b : Bundle) (f : Fields)
  /-- SWREG (R371). -/
  | swreg (b : Bundle) (f : Fields)
  /-- TLBI (R385). -/
  | tlbi (b : Bundle) (f : Fields)
  /-- CTXS (R384). -/
  | ctxs (b : Bundle) (f : Fields)
  /-- CTXL (R384). -/
  | ctxl (b : Bundle) (f : Fields)
  /-- IDLE (R386). -/
  | idle (b : Bundle) (f : Fields)
  /-- IDLE_M (R387). -/
  | idleM (b : Bundle) (f : Fields)
  /-- CREW_DEADLOCK (R89), an event. -/
  | crewDeadlock (core : Nat)
  /-- PAGE_IN (R150), an event. -/
  | pageIn (leaf : Nat) (ok : Bool)
  /-- PAGE_OUT (R150), an event. -/
  | pageOut (leaf : Nat)
  /-- LOAD_DATA_LANDING (R212), an event. -/
  | loadDataLanding (core : Nat) (st : Stream) (seq : Nat)
  /-- MEM_UNCORR (R142), an event. -/
  | memUncorr (core : Nat) (st : Stream)
  /-- METERED_LINE (R329), an event. -/
  | meteredLine (core : Nat) (ended : Bool)
  /-- PROMOTION_REQUEST (R184), an event. -/
  | promotionRequest (core : Nat)
  /-- WIDENING_WAIT_BOUND (R185), an event. -/
  | wideningWaitBound (core : Nat)
  /-- COPY_START (R204), an event. -/
  | copyStart (core id : Nat)
  /-- COPY_ENTRY_DELIVERY (R200), an event. -/
  | copyEntryDelivery (core id : Nat)
  /-- COPY_END (R194), an event. -/
  | copyEnd (core id : Nat)
  /-- RESULT_LANDING (R49), an event. -/
  | resultLanding (core : Nat)
  /-- MATRIX_LANDING (R248), an event. -/
  | matrixLanding (core : Nat)
  /-- DRAIN_START (R262), an event. -/
  | drainStart (core id : Nat)
  /-- MAILBOX_ARRIVAL (R287), an event. -/
  | mailboxArrival (core : Nat)
  /-- WAITB_EXPIRY (R322), an event. -/
  | waitbExpiry (core : Nat)
  /-- DISPATCH_SLOT (R313), an event. -/
  | dispatchSlot (island : Nat)
  /-- PARENT_PREEMPT_TIMEOUT (R303), an event. -/
  | parentPreemptTimeout (core : Nat)
  /-- TASK_END (R299), an event. -/
  | taskEnd (core : Nat)
  /-- LAUNCH_DEADLINE (R319), an event. -/
  | launchDeadline (launch : Nat)
  /-- KICK (R306), an event. -/
  | kick (queue : Nat) (value : Word)
  /-- DOORBELL_FOLD (R306), an event. -/
  | doorbellFold (queue : Nat)
  /-- TOKSET (R304), an event. -/
  | tokset (queue : Nat) (value : Word)
  /-- TOKCLR (R304), an event. -/
  | tokclr (queue : Nat) (value : Word)
  /-- HOST_QUEUE_RESERVED_WRITE (R304), an event. -/
  | hostQueueReservedWrite (queue offset : Nat) (value : Word)
  /-- LFE_CYCLE (R310), an event. -/
  | lfeCycle
  /-- TIDE_BOUNDARY (R326), an event. -/
  | tideBoundary (die : Nat)
  /-- THROTTLE_WARN (R331), an event. -/
  | throttleWarn (core : Nat)
  /-- THROTTLE_STEP (R331), an event. -/
  | throttleStep (island : Nat)
  /-- BOOST_WINDOW_END (R334), an event. -/
  | boostWindowEnd (island : Nat)
  /-- POWER_LIMIT_STRETCH (R335), an event. -/
  | powerLimitStretch (island : Nat)
  /-- THERMAL_TRIP (R340), an event. -/
  | thermalTrip
  /-- THERMAL_RESUME (R340), an event. -/
  | thermalResume
  /-- TIME_CORRECTION (R339), an event. -/
  | timeCorrection (region value : Nat)
  /-- CHART_TRANSFER_END (R358), an event. -/
  | chartTransferEnd (die slot : Nat)
  /-- PREEMPTION (R381), an event. -/
  | preemption (core : Nat)
  /-- MOOR_WAKE (R387), an event. -/
  | moorWake (cause : WakeCause)
  /-- WALRIS_PEER_WRITE (R390), an event. -/
  | walrisPeerWrite (window offset : Nat) (data : List Byte)
  /-- COLD_START (R388), an event. -/
  | coldStart (imageGood recordGood : Bool)
  /-- WARM_START (R388), an event. -/
  | warmStart (orderly : Bool)
  /-- ATTESTATION_REQUEST (R389), an event. -/
  | attestationRequest (nonce : BitVec 256)
  /-- IDLE_TICK_LIMIT (R386), an event. -/
  | idleTickLimit (core : Nat)
  /-- NEXT_RELEASE (R317), an event. -/
  | nextRelease (core : Nat)
  /-- STORE_PERFORMED (R208), an event. -/
  | storePerformed (core : Nat) (st : Stream) (seq : Nat)
  /-- HOST_PORT_ACCESS (R390), an event. -/
  | hostPortAccess (addr : Nat) (access : PortAccess)
  deriving DecidableEq, Repr

/-- The encoded operations: the opcode and function pairs of Table 2.11 (R56). -/
inductive Op where
  | nop
  | br
  | brz
  | jmp
  | jal
  | jalr
  | loop
  | fork
  | join
  | joinD
  | qbind
  | tokp
  | tokw
  | halt
  | tmpl
  | add
  | sub
  | min
  | max
  | minn
  | maxn
  | mul
  | mulh
  | mulhn
  | div
  | divn
  | rem
  | remn
  | and
  | or
  | xor
  | andn
  | shl
  | shr
  | sra
  | rot
  | clz
  | popc
  | sel
  | ldi
  | addr
  | bfx
  | bfi
  | cvt
  | cvtQ
  | pack4
  | unpk4
  | pack8
  | unpk8
  | qtag
  | fflag
  | fcls
  | cmp
  | plog
  | pmov
  | ld
  | st
  | ldq
  | stq
  | ldgq
  | stsq
  | pf
  | pfFr
  | lds
  | fence (sc : Scope)
  | acq (sc : Scope)
  | rel (sc : Scope)
  | acqp
  | dbb
  | dbbU
  | publish
  | cpy1
  | cpy2
  | cpy3
  | cpyg
  | cpymc
  | cpyc
  | cpys
  | wait
  | vadd
  | vsub
  | vmul
  | vfma
  | vmin
  | vmax
  | vabs
  | vneg
  | vand
  | vor
  | vxor
  | vshl
  | vshr
  | vsra
  | vcmp
  | vsel
  | vexp2
  | vlog2
  | vrcp
  | vrsq
  | vsqrt
  | vredSum
  | vredMax
  | vredMin
  | vscanIncl
  | vscanExcl
  | vperm
  | vbcast
  | vmov
  | vmovX
  | vmovI
  | viota
  | vkey
  | vhist
  | vcut
  | mmaQ4
  | mmaF8
  | mmaBf
  | mmaH
  | scac
  | accz
  | accld
  | drain
  | epi
  | epiOut
  | sag
  | sagRd
  | maskld
  | mstat
  | mstmp
  | mstmpAbs
  | amoAdd
  | amoAnd
  | amoOr
  | amoXor
  | amoMin
  | amoMax
  | amoMinn
  | amoMaxn
  | amoXchg
  | amoCas
  | semi
  | semw
  | sems
  | semsR
  | bar
  | mbs
  | mbr
  | spawn
  | joinw
  | launch
  | yield
  | ttrel
  | waitb
  | ebud
  | ebudW
  | evar
  | ejrd
  | ejrdI
  | ejrdB
  | ecls
  | eclsW
  | ethr
  | ethrW
  | chtOpen
  | chtAppend
  | chtProp
  | chtPropt
  | chtSave
  | chtLoad
  | chtClose
  | smpTemp
  | smpFilt
  | smpPick
  | smpVer
  | smpStop
  | rng
  | trap
  | trapFw
  | eret
  | sreg
  | swreg
  | tlbi
  | ctxs
  | ctxl
  | idle
  | idleM
  deriving DecidableEq, Repr

/-- The instruction of an encoded operation, a bundle and its operand fields. -/
def Op.instr (o : Op) (b : Bundle) (f : Fields) : Instr :=
  match o with
  | .nop => .nop b f
  | .br => .br b f
  | .brz => .brz b f
  | .jmp => .jmp b f
  | .jal => .jal b f
  | .jalr => .jalr b f
  | .loop => .loop b f
  | .fork => .fork b f
  | .join => .join b f
  | .joinD => .joinD b f
  | .qbind => .qbind b f
  | .tokp => .tokp b f
  | .tokw => .tokw b f
  | .halt => .halt b f
  | .tmpl => .tmpl b f
  | .add => .add b f
  | .sub => .sub b f
  | .min => .min b f
  | .max => .max b f
  | .minn => .minn b f
  | .maxn => .maxn b f
  | .mul => .mul b f
  | .mulh => .mulh b f
  | .mulhn => .mulhn b f
  | .div => .div b f
  | .divn => .divn b f
  | .rem => .rem b f
  | .remn => .remn b f
  | .and => .and b f
  | .or => .or b f
  | .xor => .xor b f
  | .andn => .andn b f
  | .shl => .shl b f
  | .shr => .shr b f
  | .sra => .sra b f
  | .rot => .rot b f
  | .clz => .clz b f
  | .popc => .popc b f
  | .sel => .sel b f
  | .ldi => .ldi b f
  | .addr => .addr b f
  | .bfx => .bfx b f
  | .bfi => .bfi b f
  | .cvt => .cvt b f
  | .cvtQ => .cvtQ b f
  | .pack4 => .pack4 b f
  | .unpk4 => .unpk4 b f
  | .pack8 => .pack8 b f
  | .unpk8 => .unpk8 b f
  | .qtag => .qtag b f
  | .fflag => .fflag b f
  | .fcls => .fcls b f
  | .cmp => .cmp b f
  | .plog => .plog b f
  | .pmov => .pmov b f
  | .ld => .ld b f
  | .st => .st b f
  | .ldq => .ldq b f
  | .stq => .stq b f
  | .ldgq => .ldgq b f
  | .stsq => .stsq b f
  | .pf => .pf b f
  | .pfFr => .pfFr b f
  | .lds => .lds b f
  | .fence sc => .fence sc b f
  | .acq sc => .acq sc b f
  | .rel sc => .rel sc b f
  | .acqp => .acqp b f
  | .dbb => .dbb b f
  | .dbbU => .dbbU b f
  | .publish => .publish b f
  | .cpy1 => .cpy1 b f
  | .cpy2 => .cpy2 b f
  | .cpy3 => .cpy3 b f
  | .cpyg => .cpyg b f
  | .cpymc => .cpymc b f
  | .cpyc => .cpyc b f
  | .cpys => .cpys b f
  | .wait => .wait b f
  | .vadd => .vadd b f
  | .vsub => .vsub b f
  | .vmul => .vmul b f
  | .vfma => .vfma b f
  | .vmin => .vmin b f
  | .vmax => .vmax b f
  | .vabs => .vabs b f
  | .vneg => .vneg b f
  | .vand => .vand b f
  | .vor => .vor b f
  | .vxor => .vxor b f
  | .vshl => .vshl b f
  | .vshr => .vshr b f
  | .vsra => .vsra b f
  | .vcmp => .vcmp b f
  | .vsel => .vsel b f
  | .vexp2 => .vexp2 b f
  | .vlog2 => .vlog2 b f
  | .vrcp => .vrcp b f
  | .vrsq => .vrsq b f
  | .vsqrt => .vsqrt b f
  | .vredSum => .vredSum b f
  | .vredMax => .vredMax b f
  | .vredMin => .vredMin b f
  | .vscanIncl => .vscanIncl b f
  | .vscanExcl => .vscanExcl b f
  | .vperm => .vperm b f
  | .vbcast => .vbcast b f
  | .vmov => .vmov b f
  | .vmovX => .vmovX b f
  | .vmovI => .vmovI b f
  | .viota => .viota b f
  | .vkey => .vkey b f
  | .vhist => .vhist b f
  | .vcut => .vcut b f
  | .mmaQ4 => .mmaQ4 b f
  | .mmaF8 => .mmaF8 b f
  | .mmaBf => .mmaBf b f
  | .mmaH => .mmaH b f
  | .scac => .scac b f
  | .accz => .accz b f
  | .accld => .accld b f
  | .drain => .drain b f
  | .epi => .epi b f
  | .epiOut => .epiOut b f
  | .sag => .sag b f
  | .sagRd => .sagRd b f
  | .maskld => .maskld b f
  | .mstat => .mstat b f
  | .mstmp => .mstmp b f
  | .mstmpAbs => .mstmpAbs b f
  | .amoAdd => .amoAdd b f
  | .amoAnd => .amoAnd b f
  | .amoOr => .amoOr b f
  | .amoXor => .amoXor b f
  | .amoMin => .amoMin b f
  | .amoMax => .amoMax b f
  | .amoMinn => .amoMinn b f
  | .amoMaxn => .amoMaxn b f
  | .amoXchg => .amoXchg b f
  | .amoCas => .amoCas b f
  | .semi => .semi b f
  | .semw => .semw b f
  | .sems => .sems b f
  | .semsR => .semsR b f
  | .bar => .bar b f
  | .mbs => .mbs b f
  | .mbr => .mbr b f
  | .spawn => .spawn b f
  | .joinw => .joinw b f
  | .launch => .launch b f
  | .yield => .yield b f
  | .ttrel => .ttrel b f
  | .waitb => .waitb b f
  | .ebud => .ebud b f
  | .ebudW => .ebudW b f
  | .evar => .evar b f
  | .ejrd => .ejrd b f
  | .ejrdI => .ejrdI b f
  | .ejrdB => .ejrdB b f
  | .ecls => .ecls b f
  | .eclsW => .eclsW b f
  | .ethr => .ethr b f
  | .ethrW => .ethrW b f
  | .chtOpen => .chtOpen b f
  | .chtAppend => .chtAppend b f
  | .chtProp => .chtProp b f
  | .chtPropt => .chtPropt b f
  | .chtSave => .chtSave b f
  | .chtLoad => .chtLoad b f
  | .chtClose => .chtClose b f
  | .smpTemp => .smpTemp b f
  | .smpFilt => .smpFilt b f
  | .smpPick => .smpPick b f
  | .smpVer => .smpVer b f
  | .smpStop => .smpStop b f
  | .rng => .rng b f
  | .trap => .trap b f
  | .trapFw => .trapFw b f
  | .eret => .eret b f
  | .sreg => .sreg b f
  | .swreg => .swreg b f
  | .tlbi => .tlbi b f
  | .ctxs => .ctxs b f
  | .ctxl => .ctxl b f
  | .idle => .idle b f
  | .idleM => .idleM b f

/-- The operation, bundle and fields of an instruction that a wide operation encodes; none for the
hardwired TIX 0 bundle and for events. -/
def Instr.parts : Instr → Option (Op × Bundle × Fields)
  | .nopTix0 _ => none
  | .nop b f => some (.nop, b, f)
  | .br b f => some (.br, b, f)
  | .brz b f => some (.brz, b, f)
  | .jmp b f => some (.jmp, b, f)
  | .jal b f => some (.jal, b, f)
  | .jalr b f => some (.jalr, b, f)
  | .loop b f => some (.loop, b, f)
  | .fork b f => some (.fork, b, f)
  | .join b f => some (.join, b, f)
  | .joinD b f => some (.joinD, b, f)
  | .qbind b f => some (.qbind, b, f)
  | .tokp b f => some (.tokp, b, f)
  | .tokw b f => some (.tokw, b, f)
  | .halt b f => some (.halt, b, f)
  | .tmpl b f => some (.tmpl, b, f)
  | .add b f => some (.add, b, f)
  | .sub b f => some (.sub, b, f)
  | .min b f => some (.min, b, f)
  | .max b f => some (.max, b, f)
  | .minn b f => some (.minn, b, f)
  | .maxn b f => some (.maxn, b, f)
  | .mul b f => some (.mul, b, f)
  | .mulh b f => some (.mulh, b, f)
  | .mulhn b f => some (.mulhn, b, f)
  | .div b f => some (.div, b, f)
  | .divn b f => some (.divn, b, f)
  | .rem b f => some (.rem, b, f)
  | .remn b f => some (.remn, b, f)
  | .and b f => some (.and, b, f)
  | .or b f => some (.or, b, f)
  | .xor b f => some (.xor, b, f)
  | .andn b f => some (.andn, b, f)
  | .shl b f => some (.shl, b, f)
  | .shr b f => some (.shr, b, f)
  | .sra b f => some (.sra, b, f)
  | .rot b f => some (.rot, b, f)
  | .clz b f => some (.clz, b, f)
  | .popc b f => some (.popc, b, f)
  | .sel b f => some (.sel, b, f)
  | .ldi b f => some (.ldi, b, f)
  | .addr b f => some (.addr, b, f)
  | .bfx b f => some (.bfx, b, f)
  | .bfi b f => some (.bfi, b, f)
  | .cvt b f => some (.cvt, b, f)
  | .cvtQ b f => some (.cvtQ, b, f)
  | .pack4 b f => some (.pack4, b, f)
  | .unpk4 b f => some (.unpk4, b, f)
  | .pack8 b f => some (.pack8, b, f)
  | .unpk8 b f => some (.unpk8, b, f)
  | .qtag b f => some (.qtag, b, f)
  | .fflag b f => some (.fflag, b, f)
  | .fcls b f => some (.fcls, b, f)
  | .cmp b f => some (.cmp, b, f)
  | .plog b f => some (.plog, b, f)
  | .pmov b f => some (.pmov, b, f)
  | .ld b f => some (.ld, b, f)
  | .st b f => some (.st, b, f)
  | .ldq b f => some (.ldq, b, f)
  | .stq b f => some (.stq, b, f)
  | .ldgq b f => some (.ldgq, b, f)
  | .stsq b f => some (.stsq, b, f)
  | .pf b f => some (.pf, b, f)
  | .pfFr b f => some (.pfFr, b, f)
  | .lds b f => some (.lds, b, f)
  | .fence sc b f => some (.fence sc, b, f)
  | .acq sc b f => some (.acq sc, b, f)
  | .rel sc b f => some (.rel sc, b, f)
  | .acqp b f => some (.acqp, b, f)
  | .dbb b f => some (.dbb, b, f)
  | .dbbU b f => some (.dbbU, b, f)
  | .publish b f => some (.publish, b, f)
  | .cpy1 b f => some (.cpy1, b, f)
  | .cpy2 b f => some (.cpy2, b, f)
  | .cpy3 b f => some (.cpy3, b, f)
  | .cpyg b f => some (.cpyg, b, f)
  | .cpymc b f => some (.cpymc, b, f)
  | .cpyc b f => some (.cpyc, b, f)
  | .cpys b f => some (.cpys, b, f)
  | .wait b f => some (.wait, b, f)
  | .vadd b f => some (.vadd, b, f)
  | .vsub b f => some (.vsub, b, f)
  | .vmul b f => some (.vmul, b, f)
  | .vfma b f => some (.vfma, b, f)
  | .vmin b f => some (.vmin, b, f)
  | .vmax b f => some (.vmax, b, f)
  | .vabs b f => some (.vabs, b, f)
  | .vneg b f => some (.vneg, b, f)
  | .vand b f => some (.vand, b, f)
  | .vor b f => some (.vor, b, f)
  | .vxor b f => some (.vxor, b, f)
  | .vshl b f => some (.vshl, b, f)
  | .vshr b f => some (.vshr, b, f)
  | .vsra b f => some (.vsra, b, f)
  | .vcmp b f => some (.vcmp, b, f)
  | .vsel b f => some (.vsel, b, f)
  | .vexp2 b f => some (.vexp2, b, f)
  | .vlog2 b f => some (.vlog2, b, f)
  | .vrcp b f => some (.vrcp, b, f)
  | .vrsq b f => some (.vrsq, b, f)
  | .vsqrt b f => some (.vsqrt, b, f)
  | .vredSum b f => some (.vredSum, b, f)
  | .vredMax b f => some (.vredMax, b, f)
  | .vredMin b f => some (.vredMin, b, f)
  | .vscanIncl b f => some (.vscanIncl, b, f)
  | .vscanExcl b f => some (.vscanExcl, b, f)
  | .vperm b f => some (.vperm, b, f)
  | .vbcast b f => some (.vbcast, b, f)
  | .vmov b f => some (.vmov, b, f)
  | .vmovX b f => some (.vmovX, b, f)
  | .vmovI b f => some (.vmovI, b, f)
  | .viota b f => some (.viota, b, f)
  | .vkey b f => some (.vkey, b, f)
  | .vhist b f => some (.vhist, b, f)
  | .vcut b f => some (.vcut, b, f)
  | .mmaQ4 b f => some (.mmaQ4, b, f)
  | .mmaF8 b f => some (.mmaF8, b, f)
  | .mmaBf b f => some (.mmaBf, b, f)
  | .mmaH b f => some (.mmaH, b, f)
  | .scac b f => some (.scac, b, f)
  | .accz b f => some (.accz, b, f)
  | .accld b f => some (.accld, b, f)
  | .drain b f => some (.drain, b, f)
  | .epi b f => some (.epi, b, f)
  | .epiOut b f => some (.epiOut, b, f)
  | .sag b f => some (.sag, b, f)
  | .sagRd b f => some (.sagRd, b, f)
  | .maskld b f => some (.maskld, b, f)
  | .mstat b f => some (.mstat, b, f)
  | .mstmp b f => some (.mstmp, b, f)
  | .mstmpAbs b f => some (.mstmpAbs, b, f)
  | .amoAdd b f => some (.amoAdd, b, f)
  | .amoAnd b f => some (.amoAnd, b, f)
  | .amoOr b f => some (.amoOr, b, f)
  | .amoXor b f => some (.amoXor, b, f)
  | .amoMin b f => some (.amoMin, b, f)
  | .amoMax b f => some (.amoMax, b, f)
  | .amoMinn b f => some (.amoMinn, b, f)
  | .amoMaxn b f => some (.amoMaxn, b, f)
  | .amoXchg b f => some (.amoXchg, b, f)
  | .amoCas b f => some (.amoCas, b, f)
  | .semi b f => some (.semi, b, f)
  | .semw b f => some (.semw, b, f)
  | .sems b f => some (.sems, b, f)
  | .semsR b f => some (.semsR, b, f)
  | .bar b f => some (.bar, b, f)
  | .mbs b f => some (.mbs, b, f)
  | .mbr b f => some (.mbr, b, f)
  | .spawn b f => some (.spawn, b, f)
  | .joinw b f => some (.joinw, b, f)
  | .launch b f => some (.launch, b, f)
  | .yield b f => some (.yield, b, f)
  | .ttrel b f => some (.ttrel, b, f)
  | .waitb b f => some (.waitb, b, f)
  | .ebud b f => some (.ebud, b, f)
  | .ebudW b f => some (.ebudW, b, f)
  | .evar b f => some (.evar, b, f)
  | .ejrd b f => some (.ejrd, b, f)
  | .ejrdI b f => some (.ejrdI, b, f)
  | .ejrdB b f => some (.ejrdB, b, f)
  | .ecls b f => some (.ecls, b, f)
  | .eclsW b f => some (.eclsW, b, f)
  | .ethr b f => some (.ethr, b, f)
  | .ethrW b f => some (.ethrW, b, f)
  | .chtOpen b f => some (.chtOpen, b, f)
  | .chtAppend b f => some (.chtAppend, b, f)
  | .chtProp b f => some (.chtProp, b, f)
  | .chtPropt b f => some (.chtPropt, b, f)
  | .chtSave b f => some (.chtSave, b, f)
  | .chtLoad b f => some (.chtLoad, b, f)
  | .chtClose b f => some (.chtClose, b, f)
  | .smpTemp b f => some (.smpTemp, b, f)
  | .smpFilt b f => some (.smpFilt, b, f)
  | .smpPick b f => some (.smpPick, b, f)
  | .smpVer b f => some (.smpVer, b, f)
  | .smpStop b f => some (.smpStop, b, f)
  | .rng b f => some (.rng, b, f)
  | .trap b f => some (.trap, b, f)
  | .trapFw b f => some (.trapFw, b, f)
  | .eret b f => some (.eret, b, f)
  | .sreg b f => some (.sreg, b, f)
  | .swreg b f => some (.swreg, b, f)
  | .tlbi b f => some (.tlbi, b, f)
  | .ctxs b f => some (.ctxs, b, f)
  | .ctxl b f => some (.ctxl, b, f)
  | .idle b f => some (.idle, b, f)
  | .idleM b f => some (.idleM, b, f)
  | .crewDeadlock _ => none
  | .pageIn _ _ => none
  | .pageOut _ => none
  | .loadDataLanding _ _ _ => none
  | .memUncorr _ _ => none
  | .meteredLine _ _ => none
  | .promotionRequest _ => none
  | .wideningWaitBound _ => none
  | .copyStart _ _ => none
  | .copyEntryDelivery _ _ => none
  | .copyEnd _ _ => none
  | .resultLanding _ => none
  | .matrixLanding _ => none
  | .drainStart _ _ => none
  | .mailboxArrival _ => none
  | .waitbExpiry _ => none
  | .dispatchSlot _ => none
  | .parentPreemptTimeout _ => none
  | .taskEnd _ => none
  | .launchDeadline _ => none
  | .kick _ _ => none
  | .doorbellFold _ => none
  | .tokset _ _ => none
  | .tokclr _ _ => none
  | .hostQueueReservedWrite _ _ _ => none
  | .lfeCycle => none
  | .tideBoundary _ => none
  | .throttleWarn _ => none
  | .throttleStep _ => none
  | .boostWindowEnd _ => none
  | .powerLimitStretch _ => none
  | .thermalTrip => none
  | .thermalResume => none
  | .timeCorrection _ _ => none
  | .chartTransferEnd _ _ => none
  | .preemption _ => none
  | .moorWake _ => none
  | .walrisPeerWrite _ _ _ => none
  | .coldStart _ _ => none
  | .warmStart _ => none
  | .attestationRequest _ => none
  | .idleTickLimit _ => none
  | .nextRelease _ => none
  | .storePerformed _ _ _ => none
  | .hostPortAccess _ _ => none

end Sys2Proof
end

