-- ==== Sys2Proof/Machine/Encodings.lean ====
section
/-!
DEFINITION. The encoding tables: for every encoded operation its opcode and function (Table 2.11),
what its class chapter allows in each field, and the streams and privilege that may issue it
(Table 2.10 and the class encoding tables 3.2, 4.2, 5.7, 6.8, 7.5, 8.2, 9.2, 10.4, 11.2, 12.1, 13.6,
14.4, 14.7, 15.5).  The decoder, the encoder and well-formedness all read these rows.
-/

namespace Sys2Proof

/-- The function code of a scope (Table 7.1, R162). -/
def Scope.code : Scope → Nat
  | .core => 0 | .clus => 1 | .die => 2 | .dev => 3 | .sys => 4

/-- The scope with a code (Table 7.1); codes 5 to 7 name none. -/
def Scope.ofCode : Nat → Option Scope
  | 0 => some .core | 1 => some .clus | 2 => some .die | 3 => some .dev | 4 => some .sys
  | _ => none

/-- A scope narrower than DEV. -/
def Scope.narrow : Scope → Bool
  | .core | .clus | .die => true
  | _ => false

/-- The stream number used by QMAP, QBIND and FCAUSE (R79). -/
def Stream.num : Stream → Nat
  | .P => 0 | .L => 1 | .X => 2 | .S => 3

/-- The stream with a number; only the two low bits count (R79). -/
def Stream.ofNum (n : Nat) : Stream :=
  match n % 4 with
  | 0 => .P | 1 => .L | 2 => .X | _ => .S

/-- The type code of Table 2.7 (R39). -/
def Typ.code : Typ → Nat
  | .untyped => 0x00 | .i8 => 0x01 | .i16 => 0x02 | .i32 => 0x03 | .i64 => 0x04
  | .n8 => 0x05 | .n16 => 0x06 | .n32 => 0x07 | .n64 => 0x08
  | .f32 => 0x10 | .f16 => 0x11 | .bf16 => 0x12 | .e4m3 => 0x13 | .e5m2 => 0x14
  | .e3m2 => 0x15 | .e2m3 => 0x16 | .e2m1 => 0x17 | .q4 => 0x18 | .f8 => 0x19

/-- The type with a code; a code not listed in Table 2.7 names none (R39). -/
def Typ.ofCode : Nat → Option Typ
  | 0x00 => some .untyped | 0x01 => some .i8 | 0x02 => some .i16 | 0x03 => some .i32
  | 0x04 => some .i64 | 0x05 => some .n8 | 0x06 => some .n16 | 0x07 => some .n32
  | 0x08 => some .n64 | 0x10 => some .f32 | 0x11 => some .f16 | 0x12 => some .bf16
  | 0x13 => some .e4m3 | 0x14 => some .e5m2 | 0x15 => some .e3m2 | 0x16 => some .e2m3
  | 0x17 => some .e2m1 | 0x18 => some .q4 | 0x19 => some .f8
  | _ => none

/-- The width of a value of the type in bits (R39, R113). -/
def Typ.width : Typ → Nat
  | .untyped => 64 | .i8 => 8 | .i16 => 16 | .i32 => 32 | .i64 => 64
  | .n8 => 8 | .n16 => 16 | .n32 => 32 | .n64 => 64
  | .f32 => 32 | .f16 => 16 | .bf16 => 16 | .e4m3 => 8 | .e5m2 => 8
  | .e3m2 => 6 | .e2m3 => 6 | .e2m1 => 4 | .q4 => 4 | .f8 => 8

/-- The signed integer types (R95, `sg`). -/
def Typ.signed : Typ → Bool
  | .i8 | .i16 | .i32 | .i64 => true
  | _ => false

/-- The integer types 0x01 to 0x08 (Table 2.7). -/
def Typ.isInt : Typ → Bool
  | .i8 | .i16 | .i32 | .i64 | .n8 | .n16 | .n32 | .n64 => true
  | _ => false

/-- The floating-point types 0x10 to 0x17 (Table 2.7). -/
def Typ.isFloat : Typ → Bool
  | .f32 | .f16 | .bf16 | .e4m3 | .e5m2 | .e3m2 | .e2m3 | .e2m1 => true
  | _ => false

/-- The container width in bits of an element in a queue entry: the FP6 formats take a byte (R129). -/
def Typ.laneWidth (t : Typ) : Nat :=
  match t with
  | .e3m2 | .e2m3 => 8
  | _ => t.width

/-- The specifier byte of an operand (Table 2.6, R36). -/
def Operand.code : Operand → Nat
  | .s n => n.val
  | .p n => 0x20 + n.val
  | .q n => 0x40 + n.val
  | .peek n => 0x50 + n.val
  | .acc n => 0x60 + n.val
  | .pb n => 0x64 + n.val
  | .lc n => 0x80 + n.val
  | .ln => 0x84
  | .sp => 0x85
  | .ml n => 0x88 + n.val
  | .special n => 0xA0 + n.val
  | .sga => 0xC0
  | .sgb => 0xC1
  | .imm => 0xE0

/-- The operand that a specifier byte names, or none where it names no register of its kind (R36). -/
def Operand.ofCode (c : Nat) : Option Operand :=
  let n := c % 32
  match c / 32 with
  | 0 => some (.s (Fin.ofNat 32 n))
  | 1 => if n < 16 then some (.p (Fin.ofNat 16 n)) else none
  | 2 => if n < 16 then some (.q (Fin.ofNat 16 n)) else some (.peek (Fin.ofNat 16 n))
  | 3 => if n < 4 then some (.acc (Fin.ofNat 4 n))
         else if n < 6 then some (.pb (Fin.ofNat 2 (n - 4))) else none
  | 4 => if n < 4 then some (.lc (Fin.ofNat 4 n))
         else if n = 4 then some .ln
         else if n = 5 then some .sp
         else if 8 ≤ n ∧ n < 12 then some (.ml (Fin.ofNat 4 (n - 8))) else none
  | 5 => if n < 26 then some (.special (Fin.ofNat 26 n)) else none
  | 6 => if n = 0 then some .sga else if n = 1 then some .sgb else none
  | 7 => if n = 0 then some .imm else none
  | _ => none

/-- What a class entry allows in one operand position (R36). -/
inductive PosKind where
  | zero           -- the position must be zero (R34)
  | dest           -- scalar destination of R94
  | src            -- scalar source of R94, the immediate included
  | reg            -- scalar source of R94, the immediate excluded
  | gpr            -- kind 000 only
  | token          -- s0-s31, of which sp names one
  | gprOrImm       -- kind 000 or 111
  | pred           -- kind 001
  | predOrZero     -- kind 001, or zero
  | brz            -- s, lc or ml (R67)
  | jump           -- s or ln (R67)
  | lc             -- lc0-lc3
  | queue          -- q0-q15, no peek
  | queueIn        -- a queue pop or peek
  | destOrQueue    -- scalar destination or queue
  | regOrQueueIn   -- scalar register or queue pop or peek
  | destOrPred     -- scalar destination or predicate
  | srcOrPred      -- scalar source or predicate
  | gprOrQueue     -- kind 000 or q0-q15
  | vec            -- vector source of R219
  | predOrQueue    -- predicate or q0-q15
  | pb             -- pb0-pb1
  | acc            -- acc0-acc3
  | accOrPb        -- acc0-acc3 or pb0-pb1
  | sag            -- sga or sgb
  | ml             -- ml0-ml3
  | special        -- kind 101
  deriving DecidableEq, Repr

/-- Kind 000, or kind 100 numbers 0 to 5: the scalar destinations of R94. -/
def Operand.isDest : Operand → Bool
  | .s _ | .lc _ | .ln | .sp => true
  | _ => false

/-- The scalar registers that R94 lets a source name. -/
def Operand.isReg : Operand → Bool
  | .s _ | .lc _ | .ln | .sp | .ml _ => true
  | _ => false

def Operand.isGpr : Operand → Bool
  | .s _ => true
  | _ => false

def Operand.isPred : Operand → Bool
  | .p _ => true
  | _ => false

def Operand.isQueue : Operand → Bool
  | .q _ => true
  | _ => false

def Operand.isQueueIn : Operand → Bool
  | .q _ | .peek _ => true
  | _ => false

/-- Whether a class entry allows the operand in a position (R36, R37). -/
def PosKind.allows (k : PosKind) (o : Operand) : Bool :=
  match k with
  | .zero => o == .s 0
  | .dest => o.isDest
  | .src => o.isReg || o == .imm
  | .reg => o.isReg
  | .gpr => o.isGpr
  | .token => o.isGpr || o == .sp
  | .gprOrImm => o.isGpr || o == .imm
  | .pred => o.isPred
  | .predOrZero => o.isPred || o == .s 0
  | .brz => match o with | .s _ | .lc _ | .ml _ => true | _ => false
  | .jump => match o with | .s _ | .ln => true | _ => false
  | .lc => match o with | .lc _ => true | _ => false
  | .queue => o.isQueue
  | .queueIn => o.isQueueIn
  | .destOrQueue => o.isDest || o.isQueue
  | .regOrQueueIn => o.isReg || o.isQueueIn
  | .destOrPred => o.isDest || o.isPred
  | .srcOrPred => o.isReg || o == .imm || o.isPred
  | .gprOrQueue => o.isGpr || o.isQueue
  | .vec => o.isReg || o == .imm || o.isQueueIn
  | .predOrQueue => o.isPred || o.isQueue
  | .pb => match o with | .pb _ => true | _ => false
  | .acc => match o with | .acc _ => true | _ => false
  | .accOrPb => match o with | .acc _ | .pb _ => true | _ => false
  | .sag => o == .sga || o == .sgb
  | .ml => match o with | .ml _ => true | _ => false
  | .special => match o with | .special _ => true | _ => false

/-- The sets of types that the class tables name. -/
inductive TypSet where
  | untyped | ints | signed | unsigned | addr | wide64 | cvt | cvtQ | vecFloats | fp32 | floats
  | lanes | lanes2 | vecAll | vecSignedFloats | vecInts | q4 | f8 | bf16 | fp16 | accld | drain
  | amo | amoSigned | words
  deriving DecidableEq, Repr

/-- The type codes in a set, as the class tables list them. -/
def TypSet.codes : TypSet → List Nat
  | .untyped => [0x00]
  | .ints => [0x01, 0x02, 0x03, 0x04, 0x05, 0x06, 0x07, 0x08]
  | .signed => [0x01, 0x02, 0x03, 0x04]
  | .unsigned => [0x05, 0x06, 0x07, 0x08]
  | .addr => [0x00, 0x03, 0x04, 0x07, 0x08]
  | .wide64 => [0x04, 0x08]
  | .cvt => [0x01, 0x02, 0x03, 0x04, 0x05, 0x06, 0x07, 0x08,
             0x10, 0x11, 0x12, 0x13, 0x14, 0x15, 0x16, 0x17]
  | .cvtQ => [0x01, 0x02, 0x03, 0x05, 0x06, 0x07, 0x10, 0x11, 0x12, 0x13, 0x14, 0x15, 0x16]
  | .vecFloats => [0x10, 0x11, 0x12]
  | .fp32 => [0x10]
  | .floats => [0x10, 0x11, 0x12, 0x13, 0x14, 0x15, 0x16, 0x17]
  | .lanes => [0x05, 0x06, 0x07]
  | .lanes2 => [0x06, 0x07]
  | .vecAll => [0x01, 0x02, 0x03, 0x05, 0x06, 0x07, 0x10, 0x11, 0x12]
  | .vecSignedFloats => [0x01, 0x02, 0x03, 0x10, 0x11, 0x12]
  | .vecInts => [0x01, 0x02, 0x03, 0x05, 0x06, 0x07]
  | .q4 => [0x18]
  | .f8 => [0x19]
  | .bf16 => [0x12]
  | .fp16 => [0x11]
  | .accld => [0x10, 0x12]
  | .drain => [0x10, 0x11, 0x12, 0x13, 0x14]
  | .amo => [0x03, 0x04, 0x07, 0x08]
  | .amoSigned => [0x03, 0x04]
  | .words => [0x07, 0x08]

/-- How a class entry uses IMM (R34). -/
inductive ImmUse where
  | never              -- must be zero
  | any                -- all 32 bits
  | ifImm              -- all 32 bits when some position is kind 111, else zero
  | mask (m : Nat)     -- the named bits
  deriving DecidableEq, Repr

/-- One row of the encoding tables. -/
structure Row where
  opc      : Nat
  fn       : Nat
  dst      : PosKind
  sa       : PosKind
  sb       : PosKind
  sc       : PosKind
  typs     : TypSet
  modMask  : Nat
  imm      : ImmUse
  auxMask  : Nat
  streams  : List Stream
  /-- Allowed in a native delay slot and at a loop's end (R70). -/
  slotOk   : Bool := true
  /-- Requires firmware privilege (R370). -/
  firmware : Bool := false
  /-- The value of MOD[0] that tells two rows of one OPC and FN apart (DBB and DBB.U, R179). -/
  modSel   : Option Bool := none
  deriving DecidableEq, Repr

/-- The encoding row of each operation.  The prefix of VHIST and the value of VMOV's insert, which their tables give as a
plain s beside rows that say "s or imm", take no immediate (R220, R236; log entry 117).  The token of a DRAIN is one
of s0 to s31, as a copy's is, sp among them (R194, R246, R261; log entry 134). -/
def Op.row (o : Op) : Row :=
  match o with
  | .nop => { opc := 0x00, fn := 0x00, dst := .zero, sa := .zero, sb := .zero, sc := .zero, typs := .untyped, modMask := 0x00, imm := .never, auxMask := 0, streams := [.P, .L, .X, .S] }
  | .br => { opc := 0x01, fn := 0x00, dst := .zero, sa := .zero, sb := .zero, sc := .zero, typs := .untyped, modMask := 0x01, imm := .any, auxMask := 0, streams := [.P, .L, .X, .S], slotOk := false }
  | .brz => { opc := 0x02, fn := 0x00, dst := .zero, sa := .brz, sb := .zero, sc := .zero, typs := .untyped, modMask := 0x03, imm := .any, auxMask := 0, streams := [.P, .L, .X, .S], slotOk := false }
  | .jmp => { opc := 0x03, fn := 0x00, dst := .zero, sa := .jump, sb := .zero, sc := .zero, typs := .untyped, modMask := 0x00, imm := .any, auxMask := 0, streams := [.P, .L, .X, .S], slotOk := false }
  | .jal => { opc := 0x04, fn := 0x00, dst := .jump, sa := .zero, sb := .zero, sc := .zero, typs := .untyped, modMask := 0x00, imm := .any, auxMask := 0, streams := [.P, .L, .X, .S], slotOk := false }
  | .jalr => { opc := 0x05, fn := 0x00, dst := .jump, sa := .jump, sb := .zero, sc := .zero, typs := .untyped, modMask := 0x00, imm := .any, auxMask := 0, streams := [.P, .L, .X, .S], slotOk := false }
  | .loop => { opc := 0x06, fn := 0x00, dst := .lc, sa := .gpr, sb := .zero, sc := .zero, typs := .untyped, modMask := 0x01, imm := .any, auxMask := 0xFFFF, streams := [.P, .L, .X, .S], slotOk := false }
  | .fork => { opc := 0x07, fn := 0x00, dst := .zero, sa := .gpr, sb := .zero, sc := .zero, typs := .untyped, modMask := 0x00, imm := .any, auxMask := 0, streams := [.P], slotOk := false }
  | .join => { opc := 0x08, fn := 0x00, dst := .zero, sa := .zero, sb := .zero, sc := .zero, typs := .untyped, modMask := 0x00, imm := .never, auxMask := 0, streams := [.P], slotOk := false }
  | .joinD => { opc := 0x08, fn := 0x01, dst := .zero, sa := .zero, sb := .zero, sc := .zero, typs := .untyped, modMask := 0x00, imm := .never, auxMask := 0, streams := [.P], slotOk := false }
  | .qbind => { opc := 0x09, fn := 0x00, dst := .queue, sa := .zero, sb := .zero, sc := .zero, typs := .untyped, modMask := 0x00, imm := .never, auxMask := 0xF, streams := [.P] }
  | .tokp => { opc := 0x0A, fn := 0x00, dst := .zero, sa := .zero, sb := .zero, sc := .zero, typs := .untyped, modMask := 0x00, imm := .any, auxMask := 0x3, streams := [.P, .L, .X, .S] }
  | .tokw => { opc := 0x0B, fn := 0x00, dst := .gpr, sa := .zero, sb := .zero, sc := .zero, typs := .untyped, modMask := 0x03, imm := .any, auxMask := 0x3, streams := [.P, .L, .X, .S] }
  | .halt => { opc := 0x0C, fn := 0x00, dst := .zero, sa := .zero, sb := .zero, sc := .zero, typs := .untyped, modMask := 0x00, imm := .never, auxMask := 0, streams := [.P, .L, .X, .S], slotOk := false }
  | .tmpl => { opc := 0x0D, fn := 0x00, dst := .zero, sa := .gpr, sb := .zero, sc := .zero, typs := .untyped, modMask := 0x00, imm := .any, auxMask := 0xFFFF, streams := [.P, .L, .X, .S] }
  | .add => { opc := 0x10, fn := 0x00, dst := .dest, sa := .src, sb := .src, sc := .zero, typs := .ints, modMask := 0x04, imm := .ifImm, auxMask := 0, streams := [.P, .L, .X, .S] }
  | .sub => { opc := 0x10, fn := 0x01, dst := .dest, sa := .src, sb := .src, sc := .zero, typs := .ints, modMask := 0x04, imm := .ifImm, auxMask := 0, streams := [.P, .L, .X, .S] }
  | .min => { opc := 0x10, fn := 0x02, dst := .dest, sa := .src, sb := .src, sc := .zero, typs := .signed, modMask := 0x00, imm := .ifImm, auxMask := 0, streams := [.P, .L, .X, .S] }
  | .max => { opc := 0x10, fn := 0x03, dst := .dest, sa := .src, sb := .src, sc := .zero, typs := .signed, modMask := 0x00, imm := .ifImm, auxMask := 0, streams := [.P, .L, .X, .S] }
  | .minn => { opc := 0x10, fn := 0x04, dst := .dest, sa := .src, sb := .src, sc := .zero, typs := .unsigned, modMask := 0x00, imm := .ifImm, auxMask := 0, streams := [.P, .L, .X, .S] }
  | .maxn => { opc := 0x10, fn := 0x05, dst := .dest, sa := .src, sb := .src, sc := .zero, typs := .unsigned, modMask := 0x00, imm := .ifImm, auxMask := 0, streams := [.P, .L, .X, .S] }
  | .mul => { opc := 0x11, fn := 0x00, dst := .dest, sa := .src, sb := .src, sc := .zero, typs := .ints, modMask := 0x04, imm := .ifImm, auxMask := 0, streams := [.P, .L, .X, .S] }
  | .mulh => { opc := 0x11, fn := 0x01, dst := .dest, sa := .src, sb := .src, sc := .zero, typs := .signed, modMask := 0x00, imm := .ifImm, auxMask := 0, streams := [.P, .L, .X, .S] }
  | .mulhn => { opc := 0x11, fn := 0x02, dst := .dest, sa := .src, sb := .src, sc := .zero, typs := .unsigned, modMask := 0x00, imm := .ifImm, auxMask := 0, streams := [.P, .L, .X, .S] }
  | .div => { opc := 0x12, fn := 0x00, dst := .dest, sa := .src, sb := .src, sc := .zero, typs := .signed, modMask := 0x00, imm := .ifImm, auxMask := 0, streams := [.P, .L, .X, .S] }
  | .divn => { opc := 0x12, fn := 0x01, dst := .dest, sa := .src, sb := .src, sc := .zero, typs := .unsigned, modMask := 0x00, imm := .ifImm, auxMask := 0, streams := [.P, .L, .X, .S] }
  | .rem => { opc := 0x12, fn := 0x02, dst := .dest, sa := .src, sb := .src, sc := .zero, typs := .signed, modMask := 0x00, imm := .ifImm, auxMask := 0, streams := [.P, .L, .X, .S] }
  | .remn => { opc := 0x12, fn := 0x03, dst := .dest, sa := .src, sb := .src, sc := .zero, typs := .unsigned, modMask := 0x00, imm := .ifImm, auxMask := 0, streams := [.P, .L, .X, .S] }
  | .and => { opc := 0x13, fn := 0x00, dst := .dest, sa := .src, sb := .src, sc := .zero, typs := .untyped, modMask := 0x00, imm := .ifImm, auxMask := 0, streams := [.P, .L, .X, .S] }
  | .or => { opc := 0x13, fn := 0x01, dst := .dest, sa := .src, sb := .src, sc := .zero, typs := .untyped, modMask := 0x00, imm := .ifImm, auxMask := 0, streams := [.P, .L, .X, .S] }
  | .xor => { opc := 0x13, fn := 0x02, dst := .dest, sa := .src, sb := .src, sc := .zero, typs := .untyped, modMask := 0x00, imm := .ifImm, auxMask := 0, streams := [.P, .L, .X, .S] }
  | .andn => { opc := 0x13, fn := 0x03, dst := .dest, sa := .src, sb := .src, sc := .zero, typs := .untyped, modMask := 0x00, imm := .ifImm, auxMask := 0, streams := [.P, .L, .X, .S] }
  | .shl => { opc := 0x14, fn := 0x00, dst := .dest, sa := .src, sb := .src, sc := .zero, typs := .ints, modMask := 0x00, imm := .ifImm, auxMask := 0, streams := [.P, .L, .X, .S] }
  | .shr => { opc := 0x14, fn := 0x01, dst := .dest, sa := .src, sb := .src, sc := .zero, typs := .ints, modMask := 0x00, imm := .ifImm, auxMask := 0, streams := [.P, .L, .X, .S] }
  | .sra => { opc := 0x14, fn := 0x02, dst := .dest, sa := .src, sb := .src, sc := .zero, typs := .ints, modMask := 0x00, imm := .ifImm, auxMask := 0, streams := [.P, .L, .X, .S] }
  | .rot => { opc := 0x14, fn := 0x03, dst := .dest, sa := .src, sb := .src, sc := .zero, typs := .ints, modMask := 0x00, imm := .ifImm, auxMask := 0, streams := [.P, .L, .X, .S] }
  | .clz => { opc := 0x15, fn := 0x00, dst := .dest, sa := .src, sb := .zero, sc := .zero, typs := .ints, modMask := 0x00, imm := .ifImm, auxMask := 0, streams := [.P, .L, .X, .S] }
  | .popc => { opc := 0x15, fn := 0x01, dst := .dest, sa := .src, sb := .zero, sc := .zero, typs := .ints, modMask := 0x00, imm := .ifImm, auxMask := 0, streams := [.P, .L, .X, .S] }
  | .sel => { opc := 0x16, fn := 0x00, dst := .dest, sa := .src, sb := .src, sc := .pred, typs := .untyped, modMask := 0x00, imm := .ifImm, auxMask := 0, streams := [.P, .L, .X, .S] }
  | .ldi => { opc := 0x17, fn := 0x00, dst := .dest, sa := .zero, sb := .zero, sc := .zero, typs := .untyped, modMask := 0x03, imm := .any, auxMask := 0, streams := [.P, .L, .X, .S] }
  | .addr => { opc := 0x18, fn := 0x00, dst := .dest, sa := .reg, sb := .reg, sc := .zero, typs := .addr, modMask := 0x07, imm := .any, auxMask := 0, streams := [.P, .L, .X, .S] }
  | .bfx => { opc := 0x19, fn := 0x00, dst := .dest, sa := .reg, sb := .zero, sc := .zero, typs := .wide64, modMask := 0x00, imm := (.mask 0x3F3F), auxMask := 0, streams := [.P, .L, .X, .S] }
  | .bfi => { opc := 0x19, fn := 0x01, dst := .dest, sa := .reg, sb := .reg, sc := .zero, typs := .untyped, modMask := 0x00, imm := (.mask 0x3F3F), auxMask := 0, streams := [.P, .L, .X, .S] }
  | .cvt => { opc := 0x20, fn := 0x00, dst := .dest, sa := .src, sb := .zero, sc := .zero, typs := .cvt, modMask := 0x07, imm := .ifImm, auxMask := 0x3F, streams := [.P, .L, .X, .S] }
  | .cvtQ => { opc := 0x20, fn := 0x01, dst := .queue, sa := .queueIn, sb := .zero, sc := .zero, typs := .cvtQ, modMask := 0x1F, imm := .never, auxMask := 0x3F, streams := [.X] }
  | .pack4 => { opc := 0x21, fn := 0x00, dst := .queue, sa := .queueIn, sb := .src, sc := .zero, typs := .vecFloats, modMask := 0x03, imm := .ifImm, auxMask := 0, streams := [.X] }
  | .unpk4 => { opc := 0x22, fn := 0x00, dst := .queue, sa := .queueIn, sb := .src, sc := .zero, typs := .vecFloats, modMask := 0x07, imm := .ifImm, auxMask := 0, streams := [.X] }
  | .pack8 => { opc := 0x23, fn := 0x00, dst := .queue, sa := .queueIn, sb := .src, sc := .zero, typs := .vecFloats, modMask := 0x07, imm := .ifImm, auxMask := 0, streams := [.X] }
  | .unpk8 => { opc := 0x24, fn := 0x00, dst := .queue, sa := .queueIn, sb := .src, sc := .zero, typs := .vecFloats, modMask := 0x07, imm := .ifImm, auxMask := 0, streams := [.X] }
  | .qtag => { opc := 0x25, fn := 0x00, dst := .destOrQueue, sa := .regOrQueueIn, sb := .zero, sc := .zero, typs := .fp32, modMask := 0x03, imm := (.mask 0x3), auxMask := 0, streams := [.X] }
  | .fflag => { opc := 0x26, fn := 0x00, dst := .dest, sa := .zero, sb := .zero, sc := .zero, typs := .untyped, modMask := 0x03, imm := (.mask 0x1F), auxMask := 0, streams := [.P, .L, .X, .S] }
  | .fcls => { opc := 0x27, fn := 0x00, dst := .destOrPred, sa := .reg, sb := .zero, sc := .zero, typs := .floats, modMask := 0x00, imm := (.mask 0x3FF), auxMask := 0, streams := [.P, .L, .X, .S] }
  | .cmp => { opc := 0x28, fn := 0x00, dst := .pred, sa := .src, sb := .src, sc := .zero, typs := .ints, modMask := 0x1F, imm := .ifImm, auxMask := 0, streams := [.P, .L, .X, .S] }
  | .plog => { opc := 0x29, fn := 0x00, dst := .pred, sa := .pred, sb := .pred, sc := .zero, typs := .untyped, modMask := 0x00, imm := (.mask 0xF), auxMask := 0, streams := [.P, .L, .X, .S] }
  | .pmov => { opc := 0x2A, fn := 0x00, dst := .destOrPred, sa := .srcOrPred, sb := .zero, sc := .zero, typs := .untyped, modMask := 0x00, imm := .ifImm, auxMask := 0, streams := [.P, .L, .X, .S] }
  | .ld => { opc := 0x30, fn := 0x00, dst := .dest, sa := .reg, sb := .zero, sc := .zero, typs := .ints, modMask := 0x03, imm := .any, auxMask := 0, streams := [.P, .L] }
  | .st => { opc := 0x31, fn := 0x00, dst := .zero, sa := .reg, sb := .reg, sc := .zero, typs := .ints, modMask := 0x03, imm := .any, auxMask := 0, streams := [.P, .S] }
  | .ldq => { opc := 0x32, fn := 0x00, dst := .queue, sa := .reg, sb := .zero, sc := .zero, typs := .lanes, modMask := 0x03, imm := .any, auxMask := 0, streams := [.L] }
  | .stq => { opc := 0x33, fn := 0x00, dst := .zero, sa := .reg, sb := .queueIn, sc := .zero, typs := .lanes, modMask := 0x03, imm := .any, auxMask := 0, streams := [.S] }
  | .ldgq => { opc := 0x34, fn := 0x00, dst := .queue, sa := .reg, sb := .queueIn, sc := .zero, typs := .lanes2, modMask := 0x01, imm := .any, auxMask := 0, streams := [.L] }
  | .stsq => { opc := 0x35, fn := 0x00, dst := .zero, sa := .reg, sb := .queueIn, sc := .queueIn, typs := .lanes2, modMask := 0x01, imm := .any, auxMask := 0, streams := [.S] }
  | .pf => { opc := 0x36, fn := 0x00, dst := .zero, sa := .reg, sb := .zero, sc := .zero, typs := .untyped, modMask := 0x00, imm := .any, auxMask := 0, streams := [.P, .L] }
  | .pfFr => { opc := 0x36, fn := 0x01, dst := .zero, sa := .reg, sb := .zero, sc := .zero, typs := .untyped, modMask := 0x00, imm := .any, auxMask := 0, streams := [.P, .L] }
  | .lds => { opc := 0x37, fn := 0x00, dst := .dest, sa := .reg, sb := .reg, sc := .zero, typs := .ints, modMask := 0x00, imm := .any, auxMask := 0, streams := [.P, .L] }
  | .fence sc => { opc := 0x40, fn := sc.code, dst := .zero, sa := .zero, sb := .zero, sc := .zero, typs := .untyped, modMask := 0x00, imm := .never, auxMask := 0, streams := [.P, .L, .X, .S] }
  | .acq sc => { opc := 0x41, fn := sc.code, dst := .dest, sa := .reg, sb := .zero, sc := .zero, typs := .ints, modMask := 0x00, imm := .any, auxMask := 0, streams := [.P, .L, .X, .S] }
  | .rel sc => { opc := 0x42, fn := sc.code, dst := .zero, sa := .reg, sb := .reg, sc := .zero, typs := .ints, modMask := 0x00, imm := .any, auxMask := 0, streams := [.P, .L, .X, .S] }
  | .acqp => { opc := 0x43, fn := 0x00, dst := .dest, sa := .reg, sb := .reg, sc := .zero, typs := .ints, modMask := 0x00, imm := .any, auxMask := 0, streams := [.P] }
  | .dbb => { opc := 0x44, fn := 0x00, dst := .zero, sa := .src, sb := .src, sc := .src, typs := .untyped, modMask := 0x00, imm := (.mask 0x3F), auxMask := 0, streams := [.P], modSel := some false }
  | .dbbU => { opc := 0x44, fn := 0x00, dst := .zero, sa := .zero, sb := .zero, sc := .zero, typs := .untyped, modMask := 0x01, imm := (.mask 0x3F), auxMask := 0, streams := [.P], modSel := some true }
  | .publish => { opc := 0x45, fn := 0x00, dst := .dest, sa := .zero, sb := .zero, sc := .zero, typs := .untyped, modMask := 0x00, imm := (.mask 0x3F), auxMask := 0, streams := [.P] }
  | .cpy1 => { opc := 0x48, fn := 0x01, dst := .gpr, sa := .gpr, sb := .gprOrQueue, sc := .gpr, typs := .untyped, modMask := 0x1F, imm := (.mask 0xF7F), auxMask := 0xFFFF, streams := [.L, .S] }
  | .cpy2 => { opc := 0x48, fn := 0x02, dst := .gpr, sa := .gpr, sb := .gprOrQueue, sc := .gpr, typs := .untyped, modMask := 0x1F, imm := (.mask 0xF7F), auxMask := 0xFFFF, streams := [.L, .S] }
  | .cpy3 => { opc := 0x48, fn := 0x03, dst := .gpr, sa := .gpr, sb := .gprOrQueue, sc := .gpr, typs := .untyped, modMask := 0x1F, imm := (.mask 0xF7F), auxMask := 0xFFFF, streams := [.L, .S] }
  | .cpyg => { opc := 0x49, fn := 0x00, dst := .gpr, sa := .gpr, sb := .gprOrQueue, sc := .gpr, typs := .untyped, modMask := 0x1F, imm := (.mask 0xF7F), auxMask := 0xFFFF, streams := [.L, .S] }
  | .cpymc => { opc := 0x4A, fn := 0x00, dst := .gpr, sa := .gpr, sb := .gpr, sc := .gpr, typs := .untyped, modMask := 0x1F, imm := (.mask 0xF7F), auxMask := 0xFFFF, streams := [.L, .S] }
  | .cpyc => { opc := 0x4B, fn := 0x00, dst := .gpr, sa := .zero, sb := .zero, sc := .zero, typs := .untyped, modMask := 0x01, imm := (.mask 0x7F), auxMask := 0, streams := [.P, .L, .S] }
  | .cpys => { opc := 0x4C, fn := 0x00, dst := .gpr, sa := .zero, sb := .zero, sc := .zero, typs := .untyped, modMask := 0x00, imm := (.mask 0x7F), auxMask := 0, streams := [.P, .L, .S] }
  | .wait => { opc := 0x4D, fn := 0x00, dst := .zero, sa := .zero, sb := .zero, sc := .zero, typs := .untyped, modMask := 0x00, imm := .any, auxMask := 0, streams := [.P, .L, .X, .S] }
  | .vadd => { opc := 0x50, fn := 0x00, dst := .queue, sa := .vec, sb := .vec, sc := .zero, typs := .vecAll, modMask := 0x07, imm := .ifImm, auxMask := 0, streams := [.X] }
  | .vsub => { opc := 0x51, fn := 0x00, dst := .queue, sa := .vec, sb := .vec, sc := .zero, typs := .vecAll, modMask := 0x07, imm := .ifImm, auxMask := 0, streams := [.X] }
  | .vmul => { opc := 0x52, fn := 0x00, dst := .queue, sa := .vec, sb := .vec, sc := .zero, typs := .vecAll, modMask := 0x07, imm := .ifImm, auxMask := 0, streams := [.X] }
  | .vfma => { opc := 0x53, fn := 0x00, dst := .queue, sa := .vec, sb := .vec, sc := .vec, typs := .vecAll, modMask := 0x07, imm := .ifImm, auxMask := 0, streams := [.X] }
  | .vmin => { opc := 0x54, fn := 0x00, dst := .queue, sa := .vec, sb := .vec, sc := .zero, typs := .vecAll, modMask := 0x00, imm := .ifImm, auxMask := 0, streams := [.X] }
  | .vmax => { opc := 0x55, fn := 0x00, dst := .queue, sa := .vec, sb := .vec, sc := .zero, typs := .vecAll, modMask := 0x00, imm := .ifImm, auxMask := 0, streams := [.X] }
  | .vabs => { opc := 0x56, fn := 0x00, dst := .queue, sa := .vec, sb := .zero, sc := .zero, typs := .vecSignedFloats, modMask := 0x04, imm := .ifImm, auxMask := 0, streams := [.X] }
  | .vneg => { opc := 0x57, fn := 0x00, dst := .queue, sa := .vec, sb := .zero, sc := .zero, typs := .vecSignedFloats, modMask := 0x04, imm := .ifImm, auxMask := 0, streams := [.X] }
  | .vand => { opc := 0x58, fn := 0x00, dst := .queue, sa := .vec, sb := .vec, sc := .zero, typs := .lanes, modMask := 0x00, imm := .ifImm, auxMask := 0, streams := [.X] }
  | .vor => { opc := 0x59, fn := 0x00, dst := .queue, sa := .vec, sb := .vec, sc := .zero, typs := .lanes, modMask := 0x00, imm := .ifImm, auxMask := 0, streams := [.X] }
  | .vxor => { opc := 0x5A, fn := 0x00, dst := .queue, sa := .vec, sb := .vec, sc := .zero, typs := .lanes, modMask := 0x00, imm := .ifImm, auxMask := 0, streams := [.X] }
  | .vshl => { opc := 0x5B, fn := 0x00, dst := .queue, sa := .vec, sb := .vec, sc := .zero, typs := .vecInts, modMask := 0x00, imm := .ifImm, auxMask := 0, streams := [.X] }
  | .vshr => { opc := 0x5C, fn := 0x00, dst := .queue, sa := .vec, sb := .vec, sc := .zero, typs := .vecInts, modMask := 0x00, imm := .ifImm, auxMask := 0, streams := [.X] }
  | .vsra => { opc := 0x5D, fn := 0x00, dst := .queue, sa := .vec, sb := .vec, sc := .zero, typs := .vecInts, modMask := 0x00, imm := .ifImm, auxMask := 0, streams := [.X] }
  | .vcmp => { opc := 0x5E, fn := 0x00, dst := .predOrQueue, sa := .vec, sb := .vec, sc := .zero, typs := .vecAll, modMask := 0x1F, imm := .ifImm, auxMask := 0, streams := [.X] }
  | .vsel => { opc := 0x5F, fn := 0x00, dst := .queue, sa := .vec, sb := .vec, sc := .pred, typs := .vecAll, modMask := 0x00, imm := .ifImm, auxMask := 0, streams := [.X] }
  | .vexp2 => { opc := 0x60, fn := 0x00, dst := .queue, sa := .vec, sb := .zero, sc := .zero, typs := .vecFloats, modMask := 0x00, imm := .ifImm, auxMask := 0, streams := [.X] }
  | .vlog2 => { opc := 0x61, fn := 0x00, dst := .queue, sa := .vec, sb := .zero, sc := .zero, typs := .vecFloats, modMask := 0x00, imm := .ifImm, auxMask := 0, streams := [.X] }
  | .vrcp => { opc := 0x62, fn := 0x00, dst := .queue, sa := .vec, sb := .zero, sc := .zero, typs := .vecFloats, modMask := 0x00, imm := .ifImm, auxMask := 0, streams := [.X] }
  | .vrsq => { opc := 0x63, fn := 0x00, dst := .queue, sa := .vec, sb := .zero, sc := .zero, typs := .vecFloats, modMask := 0x00, imm := .ifImm, auxMask := 0, streams := [.X] }
  | .vsqrt => { opc := 0x64, fn := 0x00, dst := .queue, sa := .vec, sb := .zero, sc := .zero, typs := .vecFloats, modMask := 0x00, imm := .ifImm, auxMask := 0, streams := [.X] }
  | .vredSum => { opc := 0x65, fn := 0x00, dst := .destOrQueue, sa := .queueIn, sb := .zero, sc := .zero, typs := .vecAll, modMask := 0x07, imm := .never, auxMask := 0, streams := [.X] }
  | .vredMax => { opc := 0x65, fn := 0x01, dst := .destOrQueue, sa := .queueIn, sb := .zero, sc := .zero, typs := .vecAll, modMask := 0x00, imm := .never, auxMask := 0, streams := [.X] }
  | .vredMin => { opc := 0x65, fn := 0x02, dst := .destOrQueue, sa := .queueIn, sb := .zero, sc := .zero, typs := .vecAll, modMask := 0x00, imm := .never, auxMask := 0, streams := [.X] }
  | .vscanIncl => { opc := 0x66, fn := 0x00, dst := .queue, sa := .queueIn, sb := .zero, sc := .zero, typs := .vecAll, modMask := 0x07, imm := .never, auxMask := 0, streams := [.X] }
  | .vscanExcl => { opc := 0x66, fn := 0x01, dst := .queue, sa := .queueIn, sb := .zero, sc := .zero, typs := .vecAll, modMask := 0x07, imm := .never, auxMask := 0, streams := [.X] }
  | .vperm => { opc := 0x67, fn := 0x00, dst := .queue, sa := .queueIn, sb := .queueIn, sc := .zero, typs := .lanes, modMask := 0x00, imm := .never, auxMask := 0, streams := [.X] }
  | .vbcast => { opc := 0x68, fn := 0x00, dst := .queue, sa := .queueIn, sb := .zero, sc := .zero, typs := .lanes, modMask := 0x00, imm := (.mask 0x7F), auxMask := 0, streams := [.X] }
  | .vmov => { opc := 0x69, fn := 0x00, dst := .queue, sa := .queueIn, sb := .zero, sc := .zero, typs := .lanes, modMask := 0x00, imm := .never, auxMask := 0, streams := [.X] }
  | .vmovX => { opc := 0x69, fn := 0x01, dst := .dest, sa := .queueIn, sb := .zero, sc := .zero, typs := .lanes, modMask := 0x00, imm := (.mask 0x7F), auxMask := 0, streams := [.X] }
  | .vmovI => { opc := 0x69, fn := 0x02, dst := .queue, sa := .queueIn, sb := .reg, sc := .zero, typs := .lanes, modMask := 0x00, imm := (.mask 0x7F), auxMask := 0, streams := [.X] }
  | .viota => { opc := 0x6A, fn := 0x00, dst := .queue, sa := .src, sb := .zero, sc := .zero, typs := .vecInts, modMask := 0x00, imm := .ifImm, auxMask := 0, streams := [.X] }
  | .vkey => { opc := 0x6B, fn := 0x00, dst := .queue, sa := .queueIn, sb := .zero, sc := .zero, typs := .vecAll, modMask := 0x00, imm := .never, auxMask := 0, streams := [.X] }
  | .vhist => { opc := 0x6C, fn := 0x00, dst := .zero, sa := .queueIn, sb := .reg, sc := .zero, typs := .lanes, modMask := 0x01, imm := (.mask 0x1F), auxMask := 0, streams := [.X] }
  | .vcut => { opc := 0x6D, fn := 0x00, dst := .dest, sa := .src, sb := .zero, sc := .zero, typs := .untyped, modMask := 0x01, imm := .ifImm, auxMask := 0, streams := [.X] }
  | .mmaQ4 => { opc := 0x70, fn := 0x00, dst := .pb, sa := .reg, sb := .reg, sc := .reg, typs := .q4, modMask := 0x03, imm := .any, auxMask := 0xFFFF, streams := [.X] }
  | .mmaF8 => { opc := 0x70, fn := 0x01, dst := .pb, sa := .reg, sb := .reg, sc := .reg, typs := .f8, modMask := 0x03, imm := .any, auxMask := 0xFFFF, streams := [.X] }
  | .mmaBf => { opc := 0x70, fn := 0x02, dst := .acc, sa := .reg, sb := .reg, sc := .reg, typs := .bf16, modMask := 0x03, imm := .any, auxMask := 0xFFFF, streams := [.X] }
  | .mmaH => { opc := 0x70, fn := 0x03, dst := .acc, sa := .reg, sb := .reg, sc := .reg, typs := .fp16, modMask := 0x03, imm := .any, auxMask := 0xFFFF, streams := [.X] }
  | .scac => { opc := 0x71, fn := 0x00, dst := .acc, sa := .pb, sb := .zero, sc := .zero, typs := .fp32, modMask := 0x04, imm := .never, auxMask := 0, streams := [.X] }
  | .accz => { opc := 0x72, fn := 0x00, dst := .accOrPb, sa := .zero, sb := .zero, sc := .zero, typs := .untyped, modMask := 0x00, imm := .never, auxMask := 0, streams := [.X] }
  | .accld => { opc := 0x73, fn := 0x00, dst := .acc, sa := .reg, sb := .reg, sc := .zero, typs := .accld, modMask := 0x00, imm := (.mask 0xFFFF), auxMask := 0, streams := [.X] }
  | .drain => { opc := 0x74, fn := 0x00, dst := .token, sa := .reg, sb := .reg, sc := .acc, typs := .drain, modMask := 0x1F, imm := (.mask 0x1F7F), auxMask := 0xFFFF, streams := [.S] }
  | .epi => { opc := 0x75, fn := 0x00, dst := .zero, sa := .reg, sb := .zero, sc := .zero, typs := .untyped, modMask := 0x01, imm := .any, auxMask := 0, streams := [.X] }
  | .epiOut => { opc := 0x75, fn := 0x01, dst := .zero, sa := .zero, sb := .zero, sc := .zero, typs := .untyped, modMask := 0x01, imm := .never, auxMask := 0, streams := [.X] }
  | .sag => { opc := 0x76, fn := 0x00, dst := .sag, sa := .reg, sb := .reg, sc := .zero, typs := .untyped, modMask := 0x00, imm := (.mask 0x7), auxMask := 0, streams := [.X] }
  | .sagRd => { opc := 0x76, fn := 0x01, dst := .dest, sa := .sag, sb := .zero, sc := .zero, typs := .untyped, modMask := 0x00, imm := .never, auxMask := 0, streams := [.X] }
  | .maskld => { opc := 0x77, fn := 0x00, dst := .zero, sa := .reg, sb := .zero, sc := .zero, typs := .untyped, modMask := 0x00, imm := .any, auxMask := 0, streams := [.X] }
  | .mstat => { opc := 0x78, fn := 0x00, dst := .dest, sa := .zero, sb := .zero, sc := .zero, typs := .untyped, modMask := 0x03, imm := (.mask 0x17), auxMask := 0, streams := [.X] }
  | .mstmp => { opc := 0x79, fn := 0x00, dst := .dest, sa := .src, sb := .zero, sc := .zero, typs := .untyped, modMask := 0x00, imm := .any, auxMask := 0, streams := [.X] }
  | .mstmpAbs => { opc := 0x79, fn := 0x01, dst := .dest, sa := .src, sb := .zero, sc := .zero, typs := .untyped, modMask := 0x00, imm := .any, auxMask := 0, streams := [.X] }
  | .amoAdd => { opc := 0x80, fn := 0x00, dst := .gpr, sa := .gpr, sb := .gpr, sc := .zero, typs := .amo, modMask := 0x1F, imm := .any, auxMask := 0, streams := [.P] }
  | .amoAnd => { opc := 0x80, fn := 0x01, dst := .gpr, sa := .gpr, sb := .gpr, sc := .zero, typs := .amo, modMask := 0x1F, imm := .any, auxMask := 0, streams := [.P] }
  | .amoOr => { opc := 0x80, fn := 0x02, dst := .gpr, sa := .gpr, sb := .gpr, sc := .zero, typs := .amo, modMask := 0x1F, imm := .any, auxMask := 0, streams := [.P] }
  | .amoXor => { opc := 0x80, fn := 0x03, dst := .gpr, sa := .gpr, sb := .gpr, sc := .zero, typs := .amo, modMask := 0x1F, imm := .any, auxMask := 0, streams := [.P] }
  | .amoMin => { opc := 0x80, fn := 0x04, dst := .gpr, sa := .gpr, sb := .gpr, sc := .zero, typs := .amoSigned, modMask := 0x1F, imm := .any, auxMask := 0, streams := [.P] }
  | .amoMax => { opc := 0x80, fn := 0x05, dst := .gpr, sa := .gpr, sb := .gpr, sc := .zero, typs := .amoSigned, modMask := 0x1F, imm := .any, auxMask := 0, streams := [.P] }
  | .amoMinn => { opc := 0x80, fn := 0x06, dst := .gpr, sa := .gpr, sb := .gpr, sc := .zero, typs := .words, modMask := 0x1F, imm := .any, auxMask := 0, streams := [.P] }
  | .amoMaxn => { opc := 0x80, fn := 0x07, dst := .gpr, sa := .gpr, sb := .gpr, sc := .zero, typs := .words, modMask := 0x1F, imm := .any, auxMask := 0x1, streams := [.P] }
  | .amoXchg => { opc := 0x80, fn := 0x08, dst := .gpr, sa := .gpr, sb := .gpr, sc := .zero, typs := .amo, modMask := 0x1F, imm := .any, auxMask := 0, streams := [.P] }
  | .amoCas => { opc := 0x80, fn := 0x09, dst := .gpr, sa := .gpr, sb := .gpr, sc := .gpr, typs := .amo, modMask := 0x1F, imm := .any, auxMask := 0, streams := [.P] }
  | .semi => { opc := 0x81, fn := 0x00, dst := .gpr, sa := .gprOrImm, sb := .gpr, sc := .zero, typs := .untyped, modMask := 0x07, imm := .ifImm, auxMask := 0xFF, streams := [.P] }
  | .semw => { opc := 0x82, fn := 0x00, dst := .gpr, sa := .gprOrImm, sb := .zero, sc := .zero, typs := .untyped, modMask := 0x0F, imm := .ifImm, auxMask := 0xFF, streams := [.P] }
  | .sems => { opc := 0x83, fn := 0x00, dst := .gpr, sa := .gprOrImm, sb := .zero, sc := .zero, typs := .untyped, modMask := 0x00, imm := .ifImm, auxMask := 0xFF, streams := [.P] }
  | .semsR => { opc := 0x83, fn := 0x01, dst := .gpr, sa := .zero, sb := .zero, sc := .zero, typs := .untyped, modMask := 0x00, imm := .never, auxMask := 0xFF, streams := [.P] }
  | .bar => { opc := 0x84, fn := 0x00, dst := .gpr, sa := .zero, sb := .zero, sc := .zero, typs := .untyped, modMask := 0x07, imm := .never, auxMask := 0xF, streams := [.P] }
  | .mbs => { opc := 0x85, fn := 0x00, dst := .gpr, sa := .gpr, sb := .gpr, sc := .zero, typs := .untyped, modMask := 0x01, imm := .never, auxMask := 0x7, streams := [.P] }
  | .mbr => { opc := 0x86, fn := 0x00, dst := .gpr, sa := .zero, sb := .zero, sc := .predOrZero, typs := .untyped, modMask := 0x03, imm := .never, auxMask := 0x7, streams := [.P] }
  | .spawn => { opc := 0x90, fn := 0x00, dst := .gpr, sa := .gpr, sb := .zero, sc := .zero, typs := .untyped, modMask := 0x00, imm := .never, auxMask := 0, streams := [.P], slotOk := false }
  | .joinw => { opc := 0x91, fn := 0x00, dst := .gpr, sa := .zero, sb := .zero, sc := .zero, typs := .untyped, modMask := 0x01, imm := (.mask 0xFFFF), auxMask := 0, streams := [.P] }
  | .launch => { opc := 0x92, fn := 0x00, dst := .gpr, sa := .gpr, sb := .gpr, sc := .gpr, typs := .untyped, modMask := 0x01, imm := .never, auxMask := 0, streams := [.P] }
  | .yield => { opc := 0x93, fn := 0x00, dst := .gpr, sa := .zero, sb := .zero, sc := .zero, typs := .untyped, modMask := 0x00, imm := .never, auxMask := 0, streams := [.P] }
  | .ttrel => { opc := 0x94, fn := 0x00, dst := .gpr, sa := .zero, sb := .zero, sc := .zero, typs := .untyped, modMask := 0x01, imm := .never, auxMask := 0, streams := [.P] }
  | .waitb => { opc := 0x95, fn := 0x00, dst := .gpr, sa := .gpr, sb := .gpr, sc := .gpr, typs := .words, modMask := 0x07, imm := .any, auxMask := 0xFFFF, streams := [.P] }
  | .ebud => { opc := 0x98, fn := 0x00, dst := .gpr, sa := .gpr, sb := .zero, sc := .zero, typs := .untyped, modMask := 0x00, imm := (.mask 0x7), auxMask := 0, streams := [.P] }
  | .ebudW => { opc := 0x98, fn := 0x01, dst := .gpr, sa := .gpr, sb := .gpr, sc := .zero, typs := .untyped, modMask := 0x00, imm := (.mask 0x7), auxMask := 0, streams := [.P], firmware := true }
  | .evar => { opc := 0x99, fn := 0x00, dst := .gpr, sa := .zero, sb := .zero, sc := .zero, typs := .untyped, modMask := 0x00, imm := .never, auxMask := 0, streams := [.P] }
  | .ejrd => { opc := 0x9A, fn := 0x00, dst := .gpr, sa := .zero, sb := .zero, sc := .zero, typs := .untyped, modMask := 0x00, imm := .never, auxMask := 0, streams := [.P] }
  | .ejrdI => { opc := 0x9A, fn := 0x01, dst := .gpr, sa := .gpr, sb := .zero, sc := .zero, typs := .untyped, modMask := 0x00, imm := .never, auxMask := 0, streams := [.P] }
  | .ejrdB => { opc := 0x9A, fn := 0x02, dst := .gpr, sa := .zero, sb := .zero, sc := .zero, typs := .untyped, modMask := 0x00, imm := .never, auxMask := 0, streams := [.P] }
  | .ecls => { opc := 0x9B, fn := 0x00, dst := .gpr, sa := .gpr, sb := .zero, sc := .zero, typs := .untyped, modMask := 0x00, imm := (.mask 0xF), auxMask := 0, streams := [.P] }
  | .eclsW => { opc := 0x9B, fn := 0x01, dst := .gpr, sa := .gpr, sb := .gpr, sc := .zero, typs := .untyped, modMask := 0x00, imm := (.mask 0xF), auxMask := 0, streams := [.P], firmware := true }
  | .ethr => { opc := 0x9C, fn := 0x00, dst := .gpr, sa := .gpr, sb := .zero, sc := .zero, typs := .untyped, modMask := 0x00, imm := .never, auxMask := 0, streams := [.P] }
  | .ethrW => { opc := 0x9C, fn := 0x01, dst := .gpr, sa := .gpr, sb := .gpr, sc := .zero, typs := .untyped, modMask := 0x00, imm := .never, auxMask := 0, streams := [.P], firmware := true }
  | .chtOpen => { opc := 0xA0, fn := 0x00, dst := .gpr, sa := .gprOrImm, sb := .zero, sc := .zero, typs := .untyped, modMask := 0x01, imm := .ifImm, auxMask := 0, streams := [.P] }
  | .chtAppend => { opc := 0xA1, fn := 0x00, dst := .gpr, sa := .gpr, sb := .gpr, sc := .gpr, typs := .untyped, modMask := 0x00, imm := .never, auxMask := 0, streams := [.P] }
  | .chtProp => { opc := 0xA2, fn := 0x00, dst := .ml, sa := .gpr, sb := .gpr, sc := .zero, typs := .untyped, modMask := 0x00, imm := (.mask 0x1F7F7F), auxMask := 0, streams := [.P] }
  | .chtPropt => { opc := 0xA3, fn := 0x00, dst := .ml, sa := .gpr, sb := .gpr, sc := .zero, typs := .untyped, modMask := 0x00, imm := (.mask 0xDF7F7F), auxMask := 0, streams := [.P] }
  | .chtSave => { opc := 0xA4, fn := 0x00, dst := .gpr, sa := .gpr, sb := .gpr, sc := .zero, typs := .untyped, modMask := 0x00, imm := .never, auxMask := 0, streams := [.P] }
  | .chtLoad => { opc := 0xA5, fn := 0x00, dst := .gpr, sa := .gpr, sb := .gpr, sc := .zero, typs := .untyped, modMask := 0x00, imm := .never, auxMask := 0, streams := [.P] }
  | .chtClose => { opc := 0xA6, fn := 0x00, dst := .gpr, sa := .gpr, sb := .zero, sc := .zero, typs := .untyped, modMask := 0x00, imm := .never, auxMask := 0, streams := [.P] }
  | .smpTemp => { opc := 0xA8, fn := 0x00, dst := .gpr, sa := .gprOrImm, sb := .zero, sc := .zero, typs := .untyped, modMask := 0x00, imm := .ifImm, auxMask := 0, streams := [.P, .X] }
  | .smpFilt => { opc := 0xA9, fn := 0x00, dst := .gpr, sa := .gpr, sb := .gpr, sc := .gpr, typs := .untyped, modMask := 0x00, imm := (.mask 0x7F), auxMask := 0, streams := [.P, .X] }
  | .smpPick => { opc := 0xAA, fn := 0x00, dst := .gpr, sa := .gpr, sb := .gpr, sc := .zero, typs := .untyped, modMask := 0x00, imm := .never, auxMask := 0, streams := [.P, .X] }
  | .smpVer => { opc := 0xAB, fn := 0x00, dst := .gpr, sa := .gpr, sb := .gpr, sc := .gpr, typs := .untyped, modMask := 0x00, imm := .never, auxMask := 0, streams := [.P, .X] }
  | .smpStop => { opc := 0xAC, fn := 0x00, dst := .gpr, sa := .gpr, sb := .gpr, sc := .zero, typs := .untyped, modMask := 0x00, imm := .never, auxMask := 0, streams := [.P, .X] }
  | .rng => { opc := 0xAD, fn := 0x00, dst := .gpr, sa := .gpr, sb := .gpr, sc := .gpr, typs := .untyped, modMask := 0x03, imm := .never, auxMask := 0, streams := [.P, .X] }
  | .trap => { opc := 0xB0, fn := 0x00, dst := .zero, sa := .zero, sb := .zero, sc := .zero, typs := .untyped, modMask := 0x00, imm := (.mask 0xFFFF), auxMask := 0, streams := [.P, .L, .X, .S], slotOk := false }
  | .trapFw => { opc := 0xB0, fn := 0x01, dst := .zero, sa := .zero, sb := .zero, sc := .zero, typs := .untyped, modMask := 0x00, imm := (.mask 0xFFFF), auxMask := 0, streams := [.P, .L, .X, .S], slotOk := false }
  | .eret => { opc := 0xB1, fn := 0x00, dst := .zero, sa := .zero, sb := .zero, sc := .zero, typs := .untyped, modMask := 0x00, imm := .never, auxMask := 0, streams := [.P], slotOk := false }
  | .sreg => { opc := 0xB2, fn := 0x00, dst := .gpr, sa := .special, sb := .zero, sc := .zero, typs := .untyped, modMask := 0x00, imm := .never, auxMask := 0, streams := [.P, .L, .X, .S] }
  | .swreg => { opc := 0xB3, fn := 0x00, dst := .special, sa := .gprOrImm, sb := .zero, sc := .zero, typs := .untyped, modMask := 0x00, imm := .ifImm, auxMask := 0, streams := [.P] }
  | .tlbi => { opc := 0xB4, fn := 0x00, dst := .zero, sa := .gpr, sb := .gpr, sc := .zero, typs := .untyped, modMask := 0x0F, imm := .never, auxMask := 0, streams := [.P], firmware := true }
  | .ctxs => { opc := 0xB5, fn := 0x00, dst := .gpr, sa := .gpr, sb := .gpr, sc := .zero, typs := .untyped, modMask := 0x01, imm := .never, auxMask := 0, streams := [.P], firmware := true }
  | .ctxl => { opc := 0xB6, fn := 0x00, dst := .gpr, sa := .gpr, sb := .gpr, sc := .zero, typs := .untyped, modMask := 0x01, imm := .never, auxMask := 0, streams := [.P], firmware := true }
  | .idle => { opc := 0xB7, fn := 0x00, dst := .gpr, sa := .zero, sb := .zero, sc := .zero, typs := .untyped, modMask := 0x00, imm := .any, auxMask := 0, streams := [.P], slotOk := false }
  | .idleM => { opc := 0xB7, fn := 0x01, dst := .gpr, sa := .zero, sb := .zero, sc := .zero, typs := .untyped, modMask := 0x00, imm := .never, auxMask := 0, streams := [.P], slotOk := false, firmware := true }

/-- Operations of Table 2.11, part 0. -/
def Op.all0 : List Op := [.nop, .br, .brz, .jmp, .jal, .jalr, .loop, .fork, .join, .joinD, .qbind, .tokp, .tokw, .halt, .tmpl, .add, .sub, .min, .max, .minn, .maxn, .mul, .mulh, .mulhn, .div, .divn, .rem, .remn, .and, .or, .xor, .andn, .shl, .shr, .sra, .rot, .clz, .popc, .sel, .ldi, .addr, .bfx, .bfi, .cvt, .cvtQ, .pack4, .unpk4, .pack8]

/-- Operations of Table 2.11, part 1. -/
def Op.all1 : List Op := [.unpk8, .qtag, .fflag, .fcls, .cmp, .plog, .pmov, .ld, .st, .ldq, .stq, .ldgq, .stsq, .pf, .pfFr, .lds, .fence .core, .fence .clus, .fence .die, .fence .dev, .fence .sys, .acq .core, .acq .clus, .acq .die, .acq .dev, .acq .sys, .rel .core, .rel .clus, .rel .die, .rel .dev, .rel .sys, .acqp, .dbb, .dbbU, .publish, .cpy1, .cpy2, .cpy3, .cpyg, .cpymc, .cpyc, .cpys, .wait, .vadd, .vsub, .vmul, .vfma, .vmin]

/-- Operations of Table 2.11, part 2. -/
def Op.all2 : List Op := [.vmax, .vabs, .vneg, .vand, .vor, .vxor, .vshl, .vshr, .vsra, .vcmp, .vsel, .vexp2, .vlog2, .vrcp, .vrsq, .vsqrt, .vredSum, .vredMax, .vredMin, .vscanIncl, .vscanExcl, .vperm, .vbcast, .vmov, .vmovX, .vmovI, .viota, .vkey, .vhist, .vcut, .mmaQ4, .mmaF8, .mmaBf, .mmaH, .scac, .accz, .accld, .drain, .epi, .epiOut, .sag, .sagRd, .maskld, .mstat, .mstmp, .mstmpAbs, .amoAdd, .amoAnd]

/-- Operations of Table 2.11, part 3. -/
def Op.all3 : List Op := [.amoOr, .amoXor, .amoMin, .amoMax, .amoMinn, .amoMaxn, .amoXchg, .amoCas, .semi, .semw, .sems, .semsR, .bar, .mbs, .mbr, .spawn, .joinw, .launch, .yield, .ttrel, .waitb, .ebud, .ebudW, .evar, .ejrd, .ejrdI, .ejrdB, .ecls, .eclsW, .ethr, .ethrW, .chtOpen, .chtAppend, .chtProp, .chtPropt, .chtSave, .chtLoad, .chtClose, .smpTemp, .smpFilt, .smpPick, .smpVer, .smpStop, .rng, .trap, .trapFw, .eret, .sreg]

/-- Operations of Table 2.11, part 4. -/
def Op.all4 : List Op := [.swreg, .tlbi, .ctxs, .ctxl, .idle, .idleM]

/-- Every encoded operation of Table 2.11 (R56). -/
def Op.all : List Op := Op.all0 ++ Op.all1 ++ Op.all2 ++ Op.all3 ++ Op.all4

/-- The operation that OPC, FN and, for DBB, MOD[0] select; none is ILLOP (R56, R57). -/
def Op.ofCode (opc fn mod : Nat) : Option Op :=
  Op.all.find? (fun o =>
    o.row.opc == opc && o.row.fn == fn &&
      (match o.row.modSel with
       | none => true
       | some v => v == bit mod 0))

/-- The fields of IMM that the immediate of a bit-field instruction holds (R107). -/
def bitFieldOk (imm : Nat) : Bool := bits imm 0 6 + (bits imm 8 6 + 1) ≤ 64

/-- The conversion limits of R128: no rounding between integers, no SAT from float to integer. -/
def cvtModOk (dst src : Typ) (mod : Nat) : Bool :=
  if dst.isInt && src.isInt then bits mod 0 2 == 0
  else if dst.isInt && src.isFloat then bits mod 2 1 == 0
  else true

/-- The source type of a conversion, in AUX[5:0] (R128). -/
def Fields.srcTyp (f : Fields) : Typ := (Typ.ofCode (bits f.aux.toNat 0 6)).getD .untyped

/-- The part limits of CVT.Q (R129). -/
def cvtPartOk (dst src : Typ) (mod : Nat) : Bool :=
  let wd := dst.laneWidth
  let ws := src.laneWidth
  let k := bits mod 3 2
  if ws < wd then k < wd / ws else k == 0

/-- The MOD limits of the typed vector arithmetic (R223). -/
def vecModOk (t : Typ) (mod : Nat) : Bool := t.isFloat || bits mod 0 2 == 0

/-- The number of lanes of an entry of the type (R218). -/
def Typ.laneCount (t : Typ) : Nat := 1024 / t.laneWidth

/-- The control fields of a copy (Table 8.3, R197); `mc` for CPYMC. -/
def copyFieldsOk (mc : Bool) (f : Fields) : Bool :=
  let mod := f.mod.toNat
  let imm := f.imm.toNat
  let aux := f.aux.toNat
  let shold := bit mod 0
  let dhold := bit mod 1
  let sh := bit mod 2
  let toQueue := f.sb.isQueue
  let score := bits imm 4 3
  bits imm 0 3 ≤ 4 && (score == 0 || 4 ≤ score) &&
  !(bit imm 3 && shold && (dhold || toQueue)) &&
  !(sh && (dhold || toQueue)) && !(dhold && toQueue) &&
  (if mc then dhold && bits imm 8 4 != 0 else bits imm 8 4 == 0) &&
  (bit mod 3 || bits aux 8 8 == 0) && (bit mod 4 || bits aux 0 8 == 0)

/-- The control fields of a drain (Table 10.6, R261). -/
def drainFieldsOk (f : Fields) : Bool :=
  let imm := f.imm.toNat
  let aux := f.aux.toNat
  let dhold := bit f.mod.toNat 3
  bits imm 0 3 ≤ 4 && !(bit imm 3 && dhold) && !(bit imm 6 && dhold) &&
  (bit imm 4 || bits aux 8 8 == 0) && (bit imm 5 || bits aux 0 8 == 0)

/-- The value limits that the class entries put on MOD, TYP, IMM, AUX and pairs of specifiers beyond
the row's masks, and that are checked at decode (R57). -/
def Op.fieldsOk (o : Op) (f : Fields) : Bool :=
  let mod := f.mod.toNat
  let imm := f.imm.toNat
  let aux := f.aux.toNat
  match o with
  | .tokp | .tokw => bits aux 0 2 != 0
  | .ldi => bits mod 0 2 != 3
  | .bfx | .bfi => bitFieldOk imm
  | .cvt => TypSet.cvt.codes.contains (bits aux 0 6) && cvtModOk f.typ f.srcTyp mod
  | .cvtQ => TypSet.cvtQ.codes.contains (bits aux 0 6) && cvtModOk f.typ f.srcTyp mod &&
      cvtPartOk f.typ f.srcTyp mod
  | .unpk4 => bits mod 0 3 < 1024 / (if f.typ == .f32 then 128 else 256)
  | .unpk8 => bits mod 0 3 < 1024 / (if f.typ == .f32 then 256 else 512)
  | .qtag => f.dst.isQueue == f.sa.isQueueIn
  | .fflag | .mstat => bits mod 0 2 != 3 && (bits mod 0 2 != 0 || imm == 0)
  | .fcls => f.dst.isPred || imm == 0
  | .cmp => bits mod 3 2 != 3
  | .pmov => f.dst.isPred || f.sa.isPred
  | .ld | .st | .ldq | .stq => !(bit mod 0 && bit mod 1)
  | .stsq =>
      match f.sb, f.sc with
      | .q a, .q b | .q a, .peek b | .peek a, .q b | .peek a, .peek b => a != b
      | _, _ => true
  | .cpy1 | .cpy2 | .cpy3 | .cpyg => copyFieldsOk false f
  | .cpymc => copyFieldsOk true f
  | .cpyc => (bits imm 2 5 == 0) == bit mod 0
  | .cpys => bits imm 2 5 != 0
  | .vadd | .vsub | .vmul | .vfma | .vredSum | .vscanIncl | .vscanExcl => vecModOk f.typ mod
  | .vabs | .vneg => !f.typ.isFloat || mod == 0
  | .vcmp => bits mod 3 2 != 3 && !(f.typ.isFloat && 6 ≤ bits mod 0 3) &&
      (f.dst.isPred || bits mod 3 2 == 0)
  | .vbcast | .vmovX | .vmovI => bits imm 0 7 < f.typ.laneCount
  | .vhist => bits imm 0 5 + 8 ≤ f.typ.width
  | .mmaQ4 | .mmaF8 | .mmaBf | .mmaH =>
      !(bit mod 0 && !bit mod 1) && (bit mod 1 || aux == 0)
  | .drain => drainFieldsOk f
  | .sag => bits imm 0 3 == 0 || 4 ≤ bits imm 0 3
  | .amoAdd | .amoAnd | .amoOr | .amoXor | .amoMin | .amoMax | .amoMinn | .amoMaxn | .amoXchg
  | .amoCas => bits mod 0 3 ≤ 4
  | .semi | .semw => bits mod 0 3 ≤ 1
  | .bar => 1 ≤ bits mod 0 3 && bits mod 0 3 ≤ 4
  | .mbs => bit mod 0 || f.dst == .s 0
  | .mbr => if bit mod 0 then f.sc.isPred else f.sc == .s 0
  | .launch => bit mod 0 || f.sb == .s 0
  | .waitb => bits mod 0 3 ≤ 4 && (bits mod 0 3 == 4 || f.sc == .s 0)
  | .chtProp | .chtPropt =>
      let mmin := bits imm 0 7
      let lmax := bits imm 8 7
      let d := bits imm 16 5
      1 ≤ mmin && mmin ≤ 64 && mmin ≤ lmax && lmax ≤ 64 && 1 ≤ d && d ≤ 16
  | .smpFilt => bits imm 0 7 ≤ 64
  | .tlbi => bits mod 0 2 != 3 && bits mod 2 2 != 3 && (bits mod 0 2 == 2 || f.sa == .s 0)
  | _ => true

/-- Whether some operand position of the fields is the immediate (R34). -/
def Fields.usesImm (f : Fields) : Bool :=
  f.dst == .imm || f.sa == .imm || f.sb == .imm || f.sc == .imm

/-- IMM holds only bits that its entry names (R34). -/
def ImmUse.ok (u : ImmUse) (f : Fields) : Bool :=
  match u with
  | .never => f.imm.toNat == 0
  | .any => true
  | .ifImm => f.usesImm || f.imm.toNat == 0
  | .mask m => f.imm.toNat &&& m == f.imm.toNat

/-- The field checks of R57: specifiers, TYP, MOD, IMM and AUX allowed by the operation's entry. -/
def Op.legal (o : Op) (f : Fields) : Bool :=
  let r := o.row
  r.dst.allows f.dst && r.sa.allows f.sa && r.sb.allows f.sb && r.sc.allows f.sc &&
  r.typs.codes.contains f.typ.code && (f.mod.toNat &&& r.modMask == f.mod.toNat) &&
  r.imm.ok f && (f.aux.toNat &&& r.auxMask == f.aux.toNat) &&
  (match r.modSel with
   | none => true
   | some v => v == bit f.mod.toNat 0) &&
  o.fieldsOk f

end Sys2Proof
end

