-- ==== Sys2Proof/WellFormed.lean ====
section
/-!
DEFINITION. Well-formed instructions: the field combinations that decode to an instruction (R34 to
R40, R57), the bundle lengths of R28, and events that name agents that exist (R12, R13).
-/

namespace Sys2Proof

/-- A bundle is one patch word with up to three extension words, or the five words of a literal
(R28). -/
def Bundle.wf (b : Bundle) : Bool := 1 ≤ b.words && b.words ≤ 5

/-- The number of tile cores (R13). -/
def coreCount : Nat := 192

/-- The number of islands (R12). -/
def islandCount : Nat := 24

/-- The number of compute dies (R12). -/
def dieCount : Nat := 4

/-- Well-formedness: legal fields and bundle of an encoded instruction, existing agents in an
event. -/
def Instr.wf (i : Instr) : Bool :=
  match i.parts with
  | some (o, b, f) => b.wf && o.legal f
  | none =>
    match i with
    | .nopTix0 b => b.words == 1
    | .crewDeadlock c | .loadDataLanding c _ _ | .memUncorr c _ | .meteredLine c _
    | .promotionRequest c | .wideningWaitBound c | .copyStart c _ | .copyEntryDelivery c _
    | .copyEnd c _ | .resultLanding c | .matrixLanding c | .drainStart c _ | .mailboxArrival c
    | .waitbExpiry c | .parentPreemptTimeout c | .taskEnd c | .throttleWarn c | .preemption c
    | .idleTickLimit c | .nextRelease c | .storePerformed c _ _ => c < coreCount
    | .dispatchSlot i | .throttleStep i | .boostWindowEnd i | .powerLimitStretch i =>
      i < islandCount
    | .kick q _ | .doorbellFold q | .tokset q _ | .tokclr q _ => q < 64
    | .hostQueueReservedWrite q off _ => q < 64 && off < 0x1000
    | .tideBoundary d => d < dieCount
    | .chartTransferEnd d s => d < dieCount && s < 512
    | .timeCorrection r _ => r < 29
    | _ => true

end Sys2Proof
end

