-- ==== Sys2Proof/Decode.lean ====
section
/-!
DEFINITION. The decoder and the encoder of bundles (R26 to R40, R55 to R58).

`decode` is total: it takes the words of a bundle, forms the wide operation from the template table
or the literal words, and answers the instruction or the reason why there is none, in the order of
R58.  `encode` writes the words of a well-formed instruction from the same tables.
-/

namespace Sys2Proof

/-- Why bytes are no instruction. -/
inductive DecodeError where
  /-- The bytes end before the bundle does. -/
  | truncated
  /-- A bundle-format violation (R27, R28, R31): traps with ILLFIELD. -/
  | format
  /-- An unassigned OPC or FN, or a stream that may not issue the operation (R55 to R57): ILLOP. -/
  | illop
  /-- A field that the operation's entry does not allow (R34 to R40): ILLFIELD. -/
  | illfield
  deriving DecidableEq, Repr

/-- The wide operation of Table 2.4, field by field (R33). -/
structure Wide where
  opc  : BitVec 8
  fn   : BitVec 8
  dst  : BitVec 8
  sa   : BitVec 8
  sb   : BitVec 8
  sc   : BitVec 8
  pr   : BitVec 5
  mod  : BitVec 5
  typ  : BitVec 6
  imm  : BitVec 32
  aux  : BitVec 16
  aux2 : BitVec 16
  deriving DecidableEq, Repr

/-- The fields of a stored 128-bit operation (Table 2.4). -/
def Wide.ofBits (v : WideBits) : Wide :=
  let n := v.toNat
  { opc := BitVec.ofNat 8 (n / 2 ^ 120), fn := BitVec.ofNat 8 (n / 2 ^ 112),
    dst := BitVec.ofNat 8 (n / 2 ^ 104), sa := BitVec.ofNat 8 (n / 2 ^ 96),
    sb := BitVec.ofNat 8 (n / 2 ^ 88), sc := BitVec.ofNat 8 (n / 2 ^ 80),
    pr := BitVec.ofNat 5 (n / 2 ^ 75), mod := BitVec.ofNat 5 (n / 2 ^ 70),
    typ := BitVec.ofNat 6 (n / 2 ^ 64), imm := BitVec.ofNat 32 (n / 2 ^ 32),
    aux := BitVec.ofNat 16 (n / 2 ^ 16), aux2 := BitVec.ofNat 16 n }

/-- The stored 128 bits of an operation (Table 2.4). -/
def Wide.toBits (w : Wide) : WideBits :=
  BitVec.ofNat 128
    (w.opc.toNat * 2 ^ 120 + w.fn.toNat * 2 ^ 112 + w.dst.toNat * 2 ^ 104 + w.sa.toNat * 2 ^ 96 +
      w.sb.toNat * 2 ^ 88 + w.sc.toNat * 2 ^ 80 + w.pr.toNat * 2 ^ 75 + w.mod.toNat * 2 ^ 70 +
      w.typ.toNat * 2 ^ 64 + w.imm.toNat * 2 ^ 32 + w.aux.toNat * 2 ^ 16 + w.aux2.toNat)

/-- The token code of a two-bit field (R26). -/
def TokenCode.ofBits (n : Nat) : TokenCode :=
  match n % 4 with
  | 0 => .none | 1 => .next | 2 => .opposite | _ => .previous

/-- The two-bit field of a token code (R26). -/
def TokenCode.code : TokenCode → Nat
  | .none => 0 | .next => 1 | .opposite => 2 | .previous => 3

/-- The spill side-op of an AUX2 field; none where the encoding traps (R34). -/
def SideOp.ofBits (n : Nat) : Option SideOp :=
  let r := Fin.ofNat 32 (n / 2 ^ 9)
  let slot := Fin.ofNat 512 n
  match n / 2 ^ 14 % 4 with
  | 0 => if n % 2 ^ 14 = 0 then some SideOp.none else Option.none
  | 1 => some (.spill r slot)
  | 2 => some (.fill r slot)
  | _ => Option.none

/-- The AUX2 field of a side-op (Table 2.5). -/
def SideOp.code : SideOp → Nat
  | .none => 0
  | .spill r slot => 1 * 2 ^ 14 + r.val * 2 ^ 9 + slot.val
  | .fill r slot => 2 * 2 ^ 14 + r.val * 2 ^ 9 + slot.val

/-- The predicate selection of a PR field (R38). -/
def Pred.ofBits (n : Nat) : Pred := { inv := bit n 4, num := Fin.ofNat 16 n }

/-- The PR field of a predicate selection. -/
def Pred.code (p : Pred) : Nat := (if p.inv then 16 else 0) + p.num.val

/-- The word with bits `[31:0]` first: the four little-endian bytes of a word (R2). -/
def wordOfBytes (b0 b1 b2 b3 : Byte) : W32 :=
  BitVec.ofNat 32 (b0.toNat + b1.toNat * 2 ^ 8 + b2.toNat * 2 ^ 16 + b3.toNat * 2 ^ 24)

/-- The little-endian bytes of a word (R2). -/
def bytesOfWord (w : W32) : List Byte :=
  [BitVec.ofNat 8 w.toNat, BitVec.ofNat 8 (w.toNat / 2 ^ 8), BitVec.ofNat 8 (w.toNat / 2 ^ 16),
   BitVec.ofNat 8 (w.toNat / 2 ^ 24)]

/-- The whole words at the head of a byte list. -/
def wordsOfBytes : List Byte → List W32
  | b0 :: b1 :: b2 :: b3 :: rest => wordOfBytes b0 b1 b2 b3 :: wordsOfBytes rest
  | _ => []

/-- The template index of a patch word (R26). -/
def patchTix (w : W32) : Nat := bits w.toNat 26 6

/-- CONT of a patch or extension word (R26, R27). -/
def wordCont (w : W32) : Bool := bit w.toNat 0

/-- How many further words the bundle with these first words needs (R28).  At most three extension
words follow a patch word, so the answer is 0 after the third whatever its CONT. -/
def moreWords : List W32 → Nat
  | [] => 1
  | w :: rest =>
    if patchTix w = 63 then 4 - rest.length
    else if patchTix w = 0 then 0
    else
      match rest with
      | [] => if wordCont w then 1 else 0
      | [a] => if wordCont a then 1 else 0
      | [_, b] => if wordCont b then 1 else 0
      | _ => 0

/-- Amend one field of an operation: Table 2.3 with a value of `width` bits (R31). -/
def Wide.amend (op : Wide) (fsel val width : Nat) : Option Wide :=
  let small (n : Nat) (r : Wide) : Option Wide := if val < 2 ^ n then some r else none
  match fsel with
  | 0 => small 0 op
  | 1 => small 8 { op with dst := BitVec.ofNat 8 val }
  | 2 => small 8 { op with sa := BitVec.ofNat 8 val }
  | 3 => small 8 { op with sb := BitVec.ofNat 8 val }
  | 4 => small 8 { op with sc := BitVec.ofNat 8 val }
  | 5 => small 5 { op with pr := BitVec.ofNat 5 val }
  | 6 => small 5 { op with mod := BitVec.ofNat 5 val }
  | 7 => small 6 { op with typ := BitVec.ofNat 6 val }
  | 8 => small 16 { op with imm := BitVec.ofNat 32 (op.imm.toNat / 2 ^ 16 * 2 ^ 16 + val) }
  | 9 => small 16 { op with imm := BitVec.ofNat 32 (op.imm.toNat % 2 ^ 16 + val * 2 ^ 16) }
  | 10 => some { op with imm := BitVec.ofInt 32 (sextInt val width) }
  | 11 => small 16 { op with aux := BitVec.ofNat 16 val }
  | 12 => small 16 { op with aux2 := BitVec.ofNat 16 val }
  | 13 => small 16 { op with sa := BitVec.ofNat 8 (val / 2 ^ 8), sb := BitVec.ofNat 8 val }
  | 14 => small 16 { op with dst := BitVec.ofNat 8 (val / 2 ^ 8), sa := BitVec.ofNat 8 val }
  | 15 => small 8 { op with fn := BitVec.ofNat 8 val }
  | _ => none

/-- Apply the extension words of a template bundle, in address order (R27, R32). -/
def applyExts : Wide → List W32 → Option Wide
  | op, [] => some op
  | op, e :: rest =>
    let n := e.toNat
    if bits n 1 3 = 0 ∧ wordCont e = !rest.isEmpty then
      match op.amend (bits n 28 4) (bits n 4 24) 24 with
      | some op' => applyExts op' rest
      | none => none
    else none

/-- The bundle fields of a patch word (R26). -/
def bundleOfPatch (w : W32) (words : Nat) : Bundle :=
  { push := TokenCode.ofBits (bits w.toNat 4 2), pop := TokenCode.ofBits (bits w.toNat 2 2),
    sync := bit w.toNat 1, words := words }

/-- FSEL, VAL and CONT of a patch word are zero (R28). -/
def patchPlain (w : W32) : Bool := bits w.toNat 6 20 == 0 && !wordCont w

/-- The wide operation that four literal words carry (R29). -/
def wideOfLiteral (w1 w2 w3 w4 : W32) : Wide :=
  Wide.ofBits (BitVec.ofNat 128
    (w1.toNat + w2.toNat * 2 ^ 32 + w3.toNat * 2 ^ 64 + w4.toNat * 2 ^ 96))

/-- What a bundle carries: the hardwired NOP, or a wide operation. -/
inductive BundleOp where
  | tix0
  | wide (op : Wide)
  deriving DecidableEq, Repr

/-- Form the bundle of a word list, its operation amended (R26 to R32). -/
def formBundle (tpl : Nat → WideBits) (ws : List W32) :
    Except DecodeError (Bundle × BundleOp × List W32) :=
  match ws with
  | [] => .error .truncated
  | w :: rest =>
    if patchTix w = 0 then
      if patchPlain w then .ok (bundleOfPatch w 1, .tix0, rest) else .error .format
    else if patchTix w = 63 then
      match rest with
      | w1 :: w2 :: w3 :: w4 :: rest' =>
        if patchPlain w then .ok (bundleOfPatch w 5, .wide (wideOfLiteral w1 w2 w3 w4), rest')
        else .error .format
      | _ => .error .truncated
    else
      let n := if !wordCont w then 0
        else match rest with
          | a :: b :: _ => if !wordCont a then 1 else if !wordCont b then 2 else 3
          | [a] => if !wordCont a then 1 else 2
          | [] => 1
      let exts := rest.take n
      if exts.length < n then .error .truncated
      else
        match (Wide.ofBits (tpl (patchTix w))).amend (bits w.toNat 22 4) (bits w.toNat 6 16) 16 with
        | none => .error .format
        | some op =>
          match applyExts op exts with
          | none => .error .format
          | some op' => .ok (bundleOfPatch w (n + 1), .wide op', rest.drop n)

/-- The operand fields of a wide operation, where every specifier names a register of its kind, TYP is
listed and AUX2 is a side-op (R34, R36, R39). -/
def fieldsOfWide (w : Wide) : Option Fields :=
  match Operand.ofCode w.dst.toNat, Operand.ofCode w.sa.toNat, Operand.ofCode w.sb.toNat,
      Operand.ofCode w.sc.toNat, Typ.ofCode w.typ.toNat, SideOp.ofBits w.aux2.toNat with
  | some dst, some sa, some sb, some sc, some typ, some side =>
    some { dst, sa, sb, sc, pr := Pred.ofBits w.pr.toNat, mod := w.mod, typ, imm := w.imm,
           aux := w.aux, side }
  | _, _, _, _, _, _ => none

/-- Decode a wide operation issued by a stream, in the order ILLOP, then ILLFIELD (R57, R58).  With
no stream given, the stream check of R55 is left to the issue. -/
def decodeWide (st : Option Stream) (b : Bundle) (w : Wide) : Except DecodeError Instr :=
  match Op.ofCode w.opc.toNat w.fn.toNat w.mod.toNat with
  | none => .error .illop
  | some o =>
    if (match st with | none => true | some x => o.row.streams.contains x) then
      match fieldsOfWide w with
      | none => .error .illfield
      | some f => if o.legal f then .ok (o.instr b f) else .error .illfield
    else .error .illop

/-- Decode the bundle at the head of a word list; the rest of the list is answered with it. -/
def decode (tpl : Nat → WideBits) (st : Option Stream) (ws : List W32) :
    Except DecodeError (Instr × List W32) :=
  match formBundle tpl ws with
  | .error e => .error e
  | .ok (b, .tix0, rest) => .ok (.nopTix0 b, rest)
  | .ok (b, .wide w, rest) =>
    match decodeWide st b w with
    | .ok i => .ok (i, rest)
    | .error e => .error e

/-- The wide operation of an encoded operation and its fields (Table 2.4). -/
def wideOfFields (o : Op) (f : Fields) : Wide :=
  { opc := BitVec.ofNat 8 o.row.opc, fn := BitVec.ofNat 8 o.row.fn,
    dst := BitVec.ofNat 8 f.dst.code, sa := BitVec.ofNat 8 f.sa.code,
    sb := BitVec.ofNat 8 f.sb.code, sc := BitVec.ofNat 8 f.sc.code,
    pr := BitVec.ofNat 5 f.pr.code, mod := f.mod, typ := BitVec.ofNat 6 f.typ.code,
    imm := f.imm, aux := f.aux, aux2 := BitVec.ofNat 16 f.side.code }

/-- The patch word with a template index and a bundle's fields, amending nothing. -/
def patchWord (tix : Nat) (b : Bundle) (cont : Bool) : W32 :=
  BitVec.ofNat 32
    (tix * 2 ^ 26 + b.push.code * 2 ^ 4 + b.pop.code * 2 ^ 2 + (if b.sync then 2 else 0) +
      (if cont then 1 else 0))

/-- `n` extension words that amend nothing; each but the last has CONT set. -/
def plainExts : Nat → List W32
  | 0 => []
  | n + 1 => BitVec.ofNat 32 (if n = 0 then 0 else 1) :: plainExts n

/-- The words of an instruction: a literal bundle when it takes five words, else a bundle that names
template entry 1, whose contents `encodeTemplate` gives.  Events have no words. -/
def encode (i : Instr) : List W32 :=
  match i with
  | .nopTix0 b => [patchWord 0 b false]
  | _ =>
    match i.parts with
    | none => []
    | some (o, b, f) =>
      if b.words = 5 then
        let n := (wideOfFields o f).toBits.toNat
        [patchWord 63 b false, BitVec.ofNat 32 n, BitVec.ofNat 32 (n / 2 ^ 32),
         BitVec.ofNat 32 (n / 2 ^ 64), BitVec.ofNat 32 (n / 2 ^ 96)]
      else patchWord 1 b (b.words != 1) :: plainExts (b.words - 1)

/-- The template entry that `encode` lets a bundle name. -/
def encodeTemplate (i : Instr) : WideBits :=
  match i.parts with
  | some (o, _, f) => (wideOfFields o f).toBits
  | none => 0

/-- The `n` low 32-bit words of a number, the first at the lowest address. -/
def wordsOfNat (v : Nat) : Nat → List W32
  | 0 => []
  | n + 1 => BitVec.ofNat 32 v :: wordsOfNat (v / 2 ^ 32) n

/-- The bytes in memory of an instruction given as a number of `nbits` bits, the first word lowest,
with zeros up to the longest bundle (20 bytes, R29). -/
def tableWordBytes (nbits w : Nat) : List Byte :=
  (wordsOfNat (w % 2 ^ nbits) 5).flatMap bytesOfWord

/-- The instruction that the decoder reads from a word of the opcode table, every template entry
being zero (R30). -/
def decodeTableWord (nbits w : Nat) : Option Instr :=
  match decode (fun _ => 0) none (wordsOfBytes (tableWordBytes nbits w)) with
  | .ok (i, _) => some i
  | .error _ => none

end Sys2Proof
end

