-- ==== Sys2Proof/Config.lean ====
section
/-!
DEFINITION. What the spec leaves open: uninterpreted constants that nothing in Lean can evaluate.  Each
is applied to a plain counter of the state, or to the operands it depends on, so that a statement
about it holds for every value.
-/

namespace Sys2Proof

/-- What moves next.  Each turn is one indivisible happening of the machine or of its surroundings;
the agenda of the state lists the turns to come. -/
inductive Turn where
  /-- A stream of a core tries to issue its next bundle. -/
  | issue (core : Nat) (st : Stream)
  /-- An event row of the opcode table. -/
  | event (i : Instr)
  /-- One edge of an island's clock (R5, R17). -/
  | tick (island : Nat)
  /-- Nanoseconds of the package time reference pass (R17, R339). -/
  | time (ns : Nat)
  /-- The images that a starting task's manifest names are read (R295). -/
  | load (core : Nat)
  /-- A CTXL onto a core runs (R384). -/
  | restore (core : Nat)
  /-- Duwen enables a host queue again after a fault (R412). -/
  | enableQueue (queue : Nat)
  /-- Duwen opens a Walris window into its LPDDR 6 (R390). -/
  | openWindow (window base size : Nat)
  /-- A die drops, writing back if dirty, one line of its RDC (R171, Table 7.3). -/
  | evictLine (die line : Nat)
  /-- A core and its die drop their TLB entries for one page (R149). -/
  | evictPage (core page : Nat)
  /-- A stream's instruction cache drops a line (R48). -/
  | evictCode (core : Nat) (st : Stream) (line : Nat)
  /-- Duwen tears down an address space that nothing uses any more (R350). -/
  | tearDown (asid : Nat)
  /-- A stream fetches a line of code ahead of its PC (R47, R48). -/
  | fetchCode (core : Nat) (st : Stream) (line : Nat)
  /-- The walker of a die reads the next entry of one of its walks (R147). -/
  | walk (die n : Nat)
  /-- A prefetch in the background goes on (R158). -/
  | prefetch (core who : Nat)
  /-- A moving copy reads the next entry of its gather list (R202). -/
  | copyList (core id : Nat)
  /-- A moving copy reads a run of its source bytes, by place in loop order, or takes what it will itself have
  written there (R201). -/
  | copyRead (core id first n : Nat) (own : Bool)
  /-- A tile operation in flight reads bytes of one of its hold ranges (R249). -/
  | tileRead (core seq range first n : Nat)
  /-- The chart load being performed on a slot reads a run of its image (R358). -/
  | chartRead (die slot first n : Nat)
  /-- A line of LPDDR 6 has, or no longer has, an error that the code cannot correct (R142, R143). -/
  | lineError (line : Nat) (bad : Bool)
  /-- A 64-byte piece of a core's hold has, or no longer has, such an error (R142). -/
  | holdError (core piece : Nat) (bad : Bool)
  deriving DecidableEq, Repr, Inhabited

/-- The turn that comes when the agenda lists none: what the streams, the engines, the clocks and the
outside world do next is open (R42, R165, R313; log entry 3). -/
opaque Config.freeTurn : Nat → Turn

/-- A 64-bit value that the spec leaves open, fresh at each count. -/
opaque Config.freeWord : Nat → Word

/-- A choice between two outcomes that the spec both allows, fresh at each count. -/
opaque Config.freeBit : Nat → Bool

/-- A choice among several outcomes that the spec all allows, fresh at each count. -/
opaque Config.freePick : Nat → Nat

/-- The byte of a failed read or of a value no rule states, fresh at each count. -/
opaque Config.freeByte : Nat → Byte

/-- The silicon stepping STEP of DEVID (R10, per module). -/
opaque Config.step : BitVec 4

/-- The capability word that the signed repair record gives each core (R372, R388). -/
opaque Config.repairCaps : Nat → BitVec 32

/-- The entry address, page-table root and trap-handler address with which Duwen starts on core 0 of a
die (R388). -/
opaque Config.firmwareEntry : Nat → Word
opaque Config.firmwareRoot : Nat → Word

/-- The address of the context area that Duwen allocates for a task: of launch number and task
index (R382). -/
opaque Config.contextArea : Nat → Nat → Nat

/-- The region that Duwen reserves for the commit-buffer lines that a context area has no room for (R177). -/
opaque Config.overflowRegion : Nat → Nat

/-- The energy in µJ that an island's regulator measures over one tick, fresh at each count (R330). -/
opaque Config.measuredEnergy : Nat → Nat

/-- What Duwen's descriptor of a host queue gives: ring base before alignment, a number that chooses LOG2SZ,
DOORBELL and RMIRROR before alignment, and the address space that the queue is mapped into (R305). -/
opaque Config.queueRing : Nat → Nat
opaque Config.queueLog : Nat → Nat
opaque Config.queueDoorbell : Nat → Nat
opaque Config.queueMirror : Nat → Nat
opaque Config.queueRoot : Nat → Word

/-- Whether the module's host privilege allows the launch of a manifest address (R311). -/
opaque Config.hostMayLaunch : Nat → Bool

/-- The flash location that Duwen's locator table gives for a page-table leaf (R150). -/
opaque Config.flashLocation : Nat → Nat

/-- The 3072-bit signature of an attestation report over its nonce (R389). -/
opaque Config.attestationSignature : BitVec 256 → BitVec 3072

/-- The signed identity record of the module (R11, R389). -/
opaque Config.identityRecord : BitVec 1024

/-- The SHA-256 of the Duwen image and of the repair record (R389). -/
opaque Config.imageHash : BitVec 256
opaque Config.repairHash : BitVec 256

end Sys2Proof
end

