-- ==== Sys2Proof/Machine/Memory.lean ====
section
/-!
DEFINITION. Byte stores: device memory, host memory, holds and flash are lists of address and byte in
one canonical form.  Addresses rise strictly and no entry holds the byte that an unlisted address
reads as, so equal stores are equal lists.
-/

namespace Sys2Proof.Machine

/-- A store of bytes by address. -/
abbrev Memory := List Host.Cell

/-- What an unlisted address reads as (log entry 1; R308 and R137 for ring slots and holds). -/
def Memory.blank : Byte := 0

/-- The byte at an address. -/
def Memory.get : Memory → Nat → Byte
  | [], _ => Memory.blank
  | (a, b) :: t, k => if a = k then b else Memory.get t k

/-- Write one byte, keeping the canonical form. -/
def Memory.set : Memory → Nat → Byte → Memory
  | [], k, v => if v = Memory.blank then [] else [(k, v)]
  | (a, b) :: t, k, v =>
    if k < a then (if v = Memory.blank then (a, b) :: t else (k, v) :: (a, b) :: t)
    else if k = a then (if v = Memory.blank then t else (k, v) :: t)
    else (a, b) :: Memory.set t k v

/-- The canonical form, above a lower bound on the addresses. -/
def Memory.wfAbove : Nat → Memory → Bool
  | _, [] => true
  | lo, (a, b) :: t => lo ≤ a && b != Memory.blank && Memory.wfAbove (a + 1) t

/-- The canonical form: addresses strictly rising, no entry equal to the blank byte. -/
def Memory.wf (m : Memory) : Bool := Memory.wfAbove 0 m

/-- Write the bytes of a list from an address up. -/
def Memory.setBytes (m : Memory) (a : Nat) : List Byte → Memory
  | [] => m
  | b :: rest => Memory.setBytes (m.set a b) (a + 1) rest

/-- Write listed pairs of address and byte, in order. -/
def Memory.setAll (m : Memory) : List (Nat × Byte) → Memory
  | [] => m
  | (a, b) :: rest => Memory.setAll (m.set a b) rest

/-- The `n` bytes from an address up. -/
def Memory.getBytes (m : Memory) (a : Nat) : Nat → List Byte
  | 0 => []
  | n + 1 => m.get a :: m.getBytes (a + 1) n

/-- The little-endian number of a byte list (R2). -/
def numOfBytes : List Byte → Nat
  | [] => 0
  | b :: rest => b.toNat + 256 * numOfBytes rest

/-- The `n` little-endian bytes of a number (R2). -/
def bytesOfNum (v : Nat) : Nat → List Byte
  | 0 => []
  | n + 1 => BitVec.ofNat 8 v :: bytesOfNum (v / 256) n

/-- The little-endian number of `n` bytes from an address (R2). -/
def Memory.read (m : Memory) (a n : Nat) : Nat := numOfBytes (m.getBytes a n)

/-- Write a number as `n` little-endian bytes from an address (R2). -/
def Memory.write (m : Memory) (a n v : Nat) : Memory := m.setBytes a (bytesOfNum v n)

/-- Drop every listed byte in `[a, a + n)`: the range then reads blank. -/
def Memory.clear (m : Memory) (a n : Nat) : Memory :=
  m.filter (fun c => c.1 < a || a + n ≤ c.1)

/-- The listed bytes of `[a, a + n)`, at offsets from `a`. -/
def Memory.window (m : Memory) (a n : Nat) : Memory :=
  (m.filter (fun c => a ≤ c.1 && c.1 < a + n)).map (fun c => (c.1 - a, c.2))

end Sys2Proof.Machine
end

