-- ==== Sys2Proof/Machine/Table.lean ====
section
/-!
DEFINITION. Finite tables: lists of key and value with rising keys, a missing key reading as a stated
default.  Register files, slots and the like are tables, so that the reset state lists nothing.
-/

namespace Sys2Proof.Machine

/-- A table from numbers to values: entries with strictly rising keys. -/
abbrev Tbl (α : Type) := List (Nat × α)

/-- The value at a key; `d` where the table lists none. -/
def Tbl.get {α : Type} (d : α) : Tbl α → Nat → α
  | [], _ => d
  | (a, v) :: t, k => if a = k then v else Tbl.get d t k

/-- Write the value at a key. -/
def Tbl.set {α : Type} : Tbl α → Nat → α → Tbl α
  | [], k, v => [(k, v)]
  | (a, w) :: t, k, v =>
    if k < a then (k, v) :: (a, w) :: t
    else if k = a then (k, v) :: t
    else (a, w) :: Tbl.set t k v

/-- Remove a key, so that it reads as the default again. -/
def Tbl.erase {α : Type} : Tbl α → Nat → Tbl α
  | [], _ => []
  | (a, w) :: t, k => if a = k then t else (a, w) :: Tbl.erase t k

/-- Write the entries of a list of pairs in order. -/
def Tbl.setAll {α : Type} (t : Tbl α) : List (Nat × α) → Tbl α
  | [] => t
  | (k, v) :: rest => Tbl.setAll (Tbl.set t k v) rest

/-- Insert into a list sorted by an order, after equals. -/
def insertBy {α : Type} (le : α → α → Bool) (x : α) : List α → List α
  | [] => [x]
  | y :: t => if le y x then y :: insertBy le x t else x :: y :: t

/-- Sort a list by an order, equals in their order. -/
def sortBy {α : Type} (le : α → α → Bool) (l : List α) : List α := l.foldl (fun r x => insertBy le x r) []

/-- The keys rise strictly. -/
def Tbl.wf {α : Type} : Tbl α → Bool
  | [] => true
  | [_] => true
  | (a, _) :: (b, w) :: t => a < b && Tbl.wf ((b, w) :: t)

/-- Values for the four streams of a core. -/
structure Four (α : Type) where
  p : α
  l : α
  x : α
  s : α
  deriving DecidableEq, Repr

/-- The value of one stream. -/
def Four.get {α : Type} (f : Four α) : Stream → α
  | .P => f.p | .L => f.l | .X => f.x | .S => f.s

/-- Write the value of one stream. -/
def Four.set {α : Type} (f : Four α) (st : Stream) (v : α) : Four α :=
  match st with
  | .P => { f with p := v } | .L => { f with l := v }
  | .X => { f with x := v } | .S => { f with s := v }

/-- The same value for every stream. -/
def Four.all {α : Type} (v : α) : Four α := { p := v, l := v, x := v, s := v }

/-- The streams in ring order (R16). -/
def streams : List Stream := [.P, .L, .X, .S]

end Sys2Proof.Machine
end

