-- ==== Sys2Proof/Machine/State.lean ====
section
/-!
DEFINITION. The state of the module: everything the spec gives the machine, as plain data.

Streams, cores, islands, dies, the launch front end, the dispatcher's records and the module as a
whole each have a structure.  `State.reset` is the module right after reset.
-/

namespace Sys2Proof.Machine

/-- The trap causes of Table 15.2 (R373). -/
inductive Cause where
  | illop | illfield | dslot | fetchPage | fetchAccess | align | loadPage | storePage | access
  | holdRange | qovf | qund | qjoin | crewDeadlock | tokovf | schedMiss | waitExpire | throttleWarn
  | smpParam | chart | copyFail | memUncorr | launchRange | priv | leaseRevoked | brk | restoreCaps
  deriving DecidableEq, Repr

/-- Why the machine stops. -/
inductive Fault where
  /-- Raised by an event that names a core, island, die, slot or queue that does not exist (R12,
  R13).  Safe: the machine has no such event. -/
  | noSuchAgent
  deriving DecidableEq, Repr

/-- Why an instruction has no meaning here. -/
inductive Refusal where
  /-- Raised by the dispatch arm of an instruction whose meaning is not written yet.  Safe: nothing
  is claimed about it. -/
  | notModelled (mnemonic : String)
  deriving DecidableEq, Repr

/-- What a stream waits for at its next bundle.  `blocked` of R88 is read from it. -/
inductive Wait where
  | none
  | pop (src : Stream)     -- step 2 of R42, on the FIFO from a stream
  | sync           -- step 3 of R42
  | tokens (src : Stream) (n : Nat)   -- that many counts in TOKW
  | queueEmpty (q : Nat)
  | queueFull (q : Nat)
  | copyAhead (q : Nat)    -- a push that waits behind an earlier copy into the queue (R200)
  | join           -- JOIN, or HALT in P
  | latency        -- a published latency, a unit's spacing, a mode drain, a frequency stop
  | memory         -- a fetch, a copy token, an interlock, room in an engine or a log
  | access         -- an access of an operation that has issued: a walk, a page-in, an acquire before it (R86)
  | other          -- WAIT, SEMW, BAR, MBS, MBR, WAITB, IDLE and the waits of R88 that never block
  deriving DecidableEq, Repr

/-- The order kinds of pages (Table 7.4, R174). -/
inductive OrderKind where
  | rc | so | un | dc
  deriving DecidableEq, Repr

/-- A bundle of P that waits beyond its issue, with its fields, its address and its page's modes, so that the
step that serves it can complete it (R282, R284, R287). -/
structure HeldBundle where
  b    : Bundle
  f    : Fields
  a    : Nat
  fl   : Bool
  bh   : Bool
  deriving DecidableEq, Repr

/-- A bundle that has issued and is still to complete, with the registers of its stream as they stood at its issue
(R49, R86). -/
structure Issued where
  o    : Op
  held : HeldBundle
  s    : Tbl Word
  p    : Tbl Word
  lc   : Tbl Word
  ml   : Tbl Word
  ln   : Word
  deriving DecidableEq, Repr

/-- What a stream has seen of UN locations, by the places that their stores have taken at their homes (R176): at its
last fence, of stores that had a fixed place; in a load since of a store with a fixed place; and in other loads that a
fence went before, which its next fence makes final. -/
structure UnSeen where
  fenced : Tbl Nat
  fixed  : Tbl Nat
  later  : Tbl Nat
  deriving DecidableEq, Repr

/-- Sequencer, register and private state of one stream (Tables 3.1, 4.1 and 5.6). -/
structure StreamState where
  /-- Address of the next bundle to issue (R65). -/
  pc        : BitVec 48
  run       : Bool
  pend      : BitVec 2
  ptarget   : BitVec 48
  syncDone  : Bool
  lc        : Tbl Word
  lstart    : Tbl (BitVec 48)
  lexit     : Tbl (BitVec 48)
  lact      : Tbl Bool
  ln        : Word
  /-- s1 to s31 by number (R93); s0 is never listed. -/
  s         : Tbl Word
  /-- p1 to p15 by number (R93); p0 is never listed. -/
  p         : Tbl Word
  /-- ml0 to ml3 (R36). -/
  ml        : Tbl Word
  /-- FSTAT[4:0]: NV, DZ, OF, UF, NX (R125). -/
  fstat     : BitVec 5
  /-- Template entries 1 to 62 (R30). -/
  templates : Tbl WideBits
  /-- The status word last written into a token register by a copy (R207). -/
  tokenLast : Tbl Word
  /-- Token registers whose copy has ended and which have not been read since: the scope of the acquire
  that the first read makes (R187).  Number 0 holds the widest scope of the copies of the stream that have
  ended, at which a WAIT acquires (R208). -/
  tokenAcq  : Tbl Scope
  /-- The scope of the copy that wrote each of those status words (R207). -/
  tokenScope : Tbl Scope
  /-- The instruction cache: 64-byte lines of fetch words by line address (R25, R48). -/
  icache    : Tbl (List W32)
  /-- FL of the page of the previous bundle (R53). -/
  prevFl    : Option Bool
  /-- The program order up to which a mode drain waits for landings (R53). -/
  drain     : Option Nat
  /-- Bundles that are still delay slots of a native transfer, taken or not (R70). -/
  slotsLeft : Nat
  /-- The tick from which the stream may issue its next bundle (R68, R78, R380). -/
  nextTick  : Nat
  /-- The stream from whose FIFO the waiting bundle's POP has taken its count (R42, R43). -/
  popFrom   : Option Stream
  /-- The waiting bundle has come to step 3 of R42, and its rendezvous has formed (R86). -/
  atSync    : Bool
  syncGo    : Bool
  wait      : Wait
  /-- TICK at which a bundle that waits beyond its issue issued (R322, R386). -/
  waitStart : Option Nat
  /-- The reading of the word last made by a waiting WAITB (R322). -/
  waitValue : Word
  /-- Uncorrectable errors to be delivered, one at each boundary, oldest first: address, the access's bundle
  and FDET (R142). -/
  uncorr    : List (Nat × Nat × Nat)
  /-- A link register to be written when the second delay slot issues, because the slots' lengths could
  not be read earlier (R74). -/
  link      : Option Operand
  /-- Program order of P up to which every access must be performed before a started stream's first
  bundle (R78). -/
  after     : Option Nat
  /-- The bundle that the stream has issued and that is still to complete. -/
  kept      : Option Issued
  un        : UnSeen
  deriving DecidableEq, Repr

/-- A queue register (Table 9.1, R211). -/
structure QueueReg where
  slots : Tbl Entry
  head  : Nat
  cnt   : Nat
  rdy   : Tbl Bool
  /-- Reservation numbers of the slots, so that a late landing finds its slot (R216). -/
  rsv   : Tbl Nat
  /-- The tick at which a slot's data landed (R214). -/
  landed : Tbl Nat
  /-- The tick of the last pop, which frees a slot for the next tick (R214). -/
  popTick : Option Nat
  deriving DecidableEq, Repr

/-- A mailbox (Table 11.1, R273). -/
structure Mailbox where
  slots : Tbl Word
  head  : Nat
  cnt   : Nat
  deriving DecidableEq, Repr

/-- A mailbox entry on its way to another core, with the MBS that sent it (R287, R289). -/
structure Mail where
  box    : Nat
  value  : Word
  sender : Nat
  held   : HeldBundle
  deriving DecidableEq, Repr

/-- What a landing writes. -/
inductive Effect where
  | reg (st : Stream) (o : Operand) (v : Word)
  | entry (q slot rid : Nat) (v : Entry)
  | flags (st : Stream) (fl : BitVec 5)
  | hist (clear : Bool) (digits : List Nat)
  | template (st : Stream) (n : Nat) (v : WideBits)
  | acc (n : Nat) (vals : Tbl (BitVec 32))
  | accZero (n : Nat)
  | pb (n : Nat) (vals : Tbl (BitVec 32)) (kind : BitVec 2) (pn : Nat) (tags : Tbl (BitVec 16))
  | pbZero (n : Nat)
  | mflags (fl : BitVec 5)
  | eparam (bytes : Memory) (reset : Bool)
  | emask (bytes : Memory)
  | epiOut (bytes : List (Nat × Byte)) (reset : Bool)
  | sag (second : Bool) (v : Word)
  | special (n : Nat) (v : Word)
  /-- A handler has written the frame's PC of a stream: what its pending transfer has left goes with it (R380). -/
  | framePc (st : Stream)
  | mbase (v : Word)
  deriving DecidableEq, Repr

/-- What a tile operation in flight reads, so that a byte stored meanwhile may still be read with its new value
(R249): the hold ranges as core, offset and size with the numbers read there, and the accumulator that it adds
onto, which later operations of the chain continue (R248). -/
structure MatrixRead where
  op     : Op
  typ    : Typ
  dst    : Nat
  n      : Nat
  ranges : List (Nat × Nat × Nat)
  nums   : List Nat
  base   : Tbl (BitVec 32)
  /-- The later operations in flight that add onto this one, by program order. -/
  users  : List Nat
  deriving DecidableEq, Repr

/-- A result in flight (R49, R51). -/
structure Landing where
  /-- Landing tick of the core's island. -/
  tick   : Nat
  /-- Program order. -/
  seq    : Nat
  st     : Stream
  /-- A result of the matrix class, which WAIT counts (R208). -/
  matrix : Bool
  /-- The unit of the operation: 0 for none, 1 array and 2 SCAC for the accumulate chains of R248, 3 the
  divider of the stream (R97). -/
  unit   : Nat
  /-- Interlocked on both page kinds (R50). -/
  locked : Bool
  effects : List Effect
  /-- What the operation reads until it lands (R249). -/
  reads  : Option MatrixRead := none
  deriving DecidableEq, Repr

/-- Where a load's data goes (R155 to R157, R181). -/
inductive LoadDest where
  | reg (o : Operand) (signed : Bool) (bytes : Nat)
  | entry (q slot rid : Nat)
  deriving DecidableEq, Repr

/-- What an atomic does with the location that its load reads (R276, R277). -/
structure AmoWork where
  /-- FN of Table 2.11. -/
  fn   : Nat
  size : Nat
  signed : Bool
  ser  : Bool
  b    : Nat
  c    : Nat
  rel  : Option Scope
  deriving DecidableEq, Repr

/-- Where a byte of an access comes from: its virtual address, its lane, whether it lies in the upper page of
a straddling access, and the 8-byte part or the byte that it is performed with (R141, R152, R157). -/
structure Origin where
  va    : Nat
  lane  : Nat
  upper : Bool
  piece : Nat
  deriving DecidableEq, Repr

/-- A memory load, or an atomic, issued and not yet wholly performed (R141, R154, R163, R276). -/
structure PLoad where
  st    : Stream
  seq   : Nat
  /-- Byte of the result, physical address and order kind of each byte still to be read. -/
  parts : List (Nat × Nat × OrderKind)
  /-- The bytes of the result that are read. -/
  got   : List (Nat × Byte) := []
  dest  : LoadDest
  /-- The acquire scope of ACQ, of an atomic and of an SO load (R168, R175, R277). -/
  acq   : Option Scope
  /-- An atomic's work. -/
  amo   : Option AmoWork := none
  /-- Where each part comes from, and the bundle's address (R141, R142, R152, R189). -/
  origin : List Origin
  bundle : Nat
  /-- The origin of the lowest lane's error that a performed part has met (R142, R152). -/
  err    : Option Origin := none
  deriving DecidableEq, Repr

/-- A memory store issued and not yet wholly performed (R141, R163). -/
structure PStore where
  st    : Stream
  seq   : Nat
  parts : List (Nat × Byte × OrderKind)
  /-- The release scope of REL and of an SO store (R167, R175). -/
  rel   : Option Scope
  /-- Where each part comes from, and the bundle's address (R141, R142, R152, R189). -/
  origin : List Origin
  bundle : Nat
  /-- The origin of the lowest lane's error that a performed part has met (R142, R152). -/
  err   : Option Origin := none
  deriving DecidableEq, Repr

/-- Who stored a byte that waits in a commit buffer: the stream, the origin, the bundle and the program order of the
store; or an engine, which meets no trap, with .SH into the shadow backing (R142, R177, R189). -/
structure DcOrigin where
  st     : Stream
  origin : Origin
  bundle : Nat
  seq    : Nat
  engine : Bool := false
  shadow : Bool := false
  /-- An error of another part of the store is known to its stream already (R151). -/
  told   : Bool := false
  deriving DecidableEq, Repr

/-- A UN store performed (R176): its task, none on a Duwen core, and its stream; its bytes, and the bytes they
replaced where it is the first of the location; the number of the place that each byte has taken at its home, none
while it is dirty in the RDC of its die; and whether a FENCE of its stream has made those places final. -/
structure UnStore where
  core  : Nat
  task  : Option Nat
  st    : Stream
  bytes : List (Nat × Byte)
  old   : List (Nat × Byte)
  place : Tbl Nat
  fixed : Bool
  deriving DecidableEq, Repr

/-- A token push whose count is not yet visible (R42 step 5). -/
structure Push where
  src  : Stream
  dst  : Stream
  n    : Nat
  tick : Nat
  seq  : Nat
  deriving DecidableEq, Repr

/-- A waiter of a semaphore (R280): the SEMW of P, or a queued copy by its number. -/
inductive Waiter where
  | semw (sem n : Nat)
  | copy (sem id : Nat)
  deriving DecidableEq, Repr

/-- What kind of copy an engine record is (R193, R261). -/
inductive CopyKind where
  | linear (dims : Nat)   -- CPY.1D, .2D, .3D
  | gather                -- CPYG
  | multicast             -- CPYMC
  | drain                 -- DRAIN
  deriving DecidableEq, Repr

/-- Another core's hold that a copy reads or writes, as it stood at the issue: the core, how often it had entered lease
mode, the task that ran there, how often the hold of that task had been lost to other cores and how many of its berths
others had claimed there (R199, R203). -/
structure Aim where
  core   : Nat
  leases : Nat
  task   : Option Nat
  losses : Nat
  claims : Nat
  deriving DecidableEq, Repr

/-- A copy or drain in flight (R193, Table 15.8). -/
structure Copy where
  id      : Nat
  kind    : CopyKind
  st      : Stream
  token   : Nat
  mod     : BitVec 5
  typ     : Typ
  imm     : BitVec 32
  aux     : BitVec 16
  sa      : Word
  sb      : Word
  sc      : Word
  /-- The queue of a queue destination. -/
  queue   : Option Nat
  /-- LEN0, CNT1, CNT2 and the four strides as read at issue (Table 8.4). -/
  shape   : List (BitVec 32)
  started : Bool
  /-- Bytes already delivered into a queue (R217). -/
  done    : Nat
  /-- Program order of the issue: earlier accesses of the stream come first (R187). -/
  seq     : Nat
  /-- The tick of the issue (R193). -/
  tick    : Nat
  /-- The accumulator image read by a drain at its start, with its converted bytes (R262). -/
  image   : Memory
  /-- Flags of a drain, into MFLAG at its end (R260). -/
  flags   : BitVec 5
  /-- The cause, hold flag and address of a failure already met (R205). -/
  failed  : Option (Cause × Bool × Nat)
  /-- Dual-backed slots that a started .SH operation counts in (R189). -/
  shadow  : List Nat
  /-- Source bytes already read, by place in loop order, and the gather list entries already read (R201,
  R202). -/
  got     : Tbl Byte
  list    : List (Nat × Nat)
  /-- The other core's hold that the source lies in (R199). -/
  source  : Option Aim
  aims    : List Aim := []
  /-- Lines of memory that it has read: one copy reads a line from its device once (R409). -/
  lines   : List Nat := []
  /-- The cores, by their places in the cluster, that it had lost before a save (R199, R203, R209). -/
  gone    : List Nat := []
  /-- It entered the engines again at a restore (R209). -/
  replayed : Bool := false
  deriving DecidableEq, Repr

/-- The task that a line is metered to, and its island (R329). -/
structure Meter where
  task   : Nat
  island : Nat
  deriving DecidableEq, Repr

/-- A prefetch whose translation runs in the background: a waiter of its own, with what it needs of the context that
issued it; `ahead` tells a PF.FR from a PF (R149, R158). -/
structure Prefetch where
  who      : Nat
  root     : Word
  va       : Nat
  ahead    : Bool
  meter    : Option Meter
  bundle   : Nat
  deriving DecidableEq, Repr

/-- A chart save or load that has arrived at its slot, or a synchronous operation that waits behind one there
(R354, R358). -/
structure ChartMove where
  sync  : Bool := false
  save  : Bool
  core  : Nat
  token : Nat
  image : Nat
  slot  : Nat
  asid  : Nat
  seq   : Nat
  /-- Image bytes that a load has read, by place (R358). -/
  got   : Tbl Byte := []
  deriving DecidableEq, Repr

/-- An entry of the promotion log: the stream and the program order of the release (R182). -/
structure LogEntry where
  st  : Stream
  seq : Nat
  deriving DecidableEq, Repr

/-- A promoting acquire's request at its target core: the issuing core, the program order of its load and
the entries logged before the request arrived (R184). -/
structure PromoRequest where
  source : Nat
  seq    : Nat
  /-- The entries still to be widened for it, oldest first; none before it arrives. -/
  covers : Option Nat
  /-- It arrived during a widening: the next one serves it (R185). -/
  late : Bool := false
  deriving DecidableEq, Repr

/-- A TLB entry (R149). -/
structure TlbEntry where
  asid  : Nat
  /-- Virtual address of the page. -/
  vbase : Nat
  /-- Leaf level, 0 to 2. -/
  lvl   : Nat
  /-- The leaf entry as cached. -/
  pte   : Nat
  /-- Physical address of the leaf entry. -/
  leaf  : Nat
  deriving DecidableEq, Repr

/-- A unit's task as its core runs it (R295, R325, R382). -/
structure Task where
  /-- Serial number of the task on this module. -/
  id       : Nat
  launch   : Nat
  index    : Nat
  member   : Nat
  convoy   : Nat
  /-- Convoy record number, when a member (R285). -/
  convoyId : Option Nat
  eclass   : Nat
  /-- 0 T0, 1 T1, 2 T2 (R23). -/
  cls      : Nat
  manifest : Nat
  handler  : Nat
  needCaps : BitVec 32
  /-- The parent's task number for a spawned child (R300). -/
  parent   : Option Nat
  jctr     : Word
  mbytes   : Word
  mrem     : BitVec 32
  drec     : Word
  /-- FRAME of the current release, BUDGET and PERIOD of a T0 task (R317). -/
  release  : Nat
  budget   : Nat
  period   : Nat
  slips    : Nat
  /-- The slip of the current release is recorded already (R317, R318). -/
  slipDone : Bool
  /-- Did not receive the pending throttle warning (R331, TWS-exempt). -/
  twsExempt : Bool
  /-- How often its hold has been lost to other cores: by a save of it alone, or when its core entered lease mode
  (R199). -/
  losses   : Nat
  dbbFirst : Nat
  dbbCnt   : Nat
  /-- Order of start, for T0 pre-emption (R315). -/
  started  : Nat
  deriving DecidableEq, Repr

/-- An access that a TLBI waits for: one that a core has issued, or a store in the commit buffer of a task, wherever
the task's context is (R177, R385). -/
inductive OpenAccess where
  | issued (core seq : Nat)
  | kept (task seq : Nat)
  deriving DecidableEq, Repr

/-- A context parked on a core: its area and the physical berths it still owns (R383). -/
structure Parked where
  area : Nat
  map  : Tbl Nat
  deriving DecidableEq, Repr

/-- A CTXS or CTXL that runs for a Duwen core, whose token register is pending (R384). -/
structure CtxOp where
  save    : Bool
  area    : Nat
  token   : Nat
  /-- .CONVOY: each member has an area of its own, by its index. -/
  convoy  : Bool
  /-- The cores that it saves or restores onto, in member order. -/
  targets : List Nat
  /-- The tasks that a CTXS found there. -/
  tasks   : List Nat
  deriving DecidableEq, Repr

/-- A spawned task record in the local task queue (Table 12.5). -/
structure SpawnRecord where
  entry  : Nat
  args   : List Word
  sp     : Word
  parent : Nat
  /-- Program order of the SPAWN, which is a release (R298). -/
  seq    : Nat
  deriving DecidableEq, Repr

/-- The fault frame and handler state of a core (R375, R376, R371). -/
structure Frame where
  fcause : Word
  faddr0 : Word
  faddr1 : Word
  fdet   : Word
  fpc    : Four Word
  wxtag  : Word
  wxval  : Word
  wxcmp  : Word
  flact  : Word
  fptg   : Word
  /-- Delay slots of P still to come at delivery, those of an untaken transfer included (R69), and P's link
  still to be written (R74). -/
  fslots : Nat
  flink  : Option Operand
  /-- SYNCDONE of P's recorded bundle (R87). -/
  fsync  : Bool
  deriving DecidableEq, Repr

/-- What a launch keeps of its manifest (Table 12.2). -/
structure Manifest where
  addr     : Nat
  cls      : Nat
  convoy   : Nat
  varok    : Bool
  count    : Nat
  eclass   : Nat
  dies     : Nat
  entry    : Four Nat
  handler  : Nat
  qmap     : Nat
  tokinit  : Nat
  tmplimg  : Nat
  holdimg  : Nat
  holdlen  : Nat
  needcaps : Nat
  stacktop : Nat
  stackstr : Nat
  semimg   : Nat
  arg      : Nat
  relframe : Nat
  period   : Nat
  budget   : Nat
  deadline : Nat
  dbbfirst : Nat
  dbbcnt   : Nat
  varman   : Nat
  completion : Nat
  deriving DecidableEq, Repr

/-- One tile core. -/
structure Core where
  st      : Four StreamState
  qmap    : Word
  /-- Token FIFO counts by 4·source + destination, visible and not yet visible together (R84). -/
  fifo    : Tbl Nat
  pushes  : List Push
  queues  : Tbl QueueReg
  hist    : Tbl (BitVec 32)
  acc     : Four (Tbl (BitVec 32))
  pb0     : Tbl (BitVec 32)
  pb1     : Tbl (BitVec 32)
  pkind0  : BitVec 2
  pkind1  : BitVec 2
  pn0     : Nat
  pn1     : Nat
  ptag0   : Tbl (BitVec 16)
  ptag1   : Tbl (BitVec 16)
  sga     : Word
  sgb     : Word
  /-- MFLAG[4:0] (Table 10.9). -/
  mflag   : BitVec 5
  mbase   : Word
  eparam  : Memory
  emask   : Memory
  /-- EHEAP by row: pairs of key and column in rank order (R266). -/
  eheap   : Tbl (List (Nat × Nat))
  ehist   : Tbl (BitVec 32)
  /-- Ticks from which the array, the SCAC unit, the acc port and the vector unit accept work (R247,
  R221). -/
  arrayFree  : Nat
  scacFree   : Nat
  accFree    : Nat
  epiFree    : Nat
  vecFree    : Nat
  sem     : Tbl Nat
  swq     : List Waiter
  /-- The waiting SEMW of P (R282). -/
  semw    : Option HeldBundle
  /-- P's BAR, waiting at its barrier (R284). -/
  bar     : Option HeldBundle
  mb      : Tbl Mailbox
  mail    : List Mail
  /-- The member that P's waiting MBS has addressed (R289). -/
  mbsTo   : Option Nat
  /-- Program order of the accesses and results of the core: the number of the next one. -/
  seq     : Nat
  /-- Results in flight (R49). -/
  flight  : List Landing
  loads   : List PLoad
  stores  : List PStore
  copies  : List Copy
  charts  : List ChartMove
  log     : List LogEntry
  requests : List PromoRequest
  /-- Entries covered by the running widening, and the TIME of its start (R183, R185). -/
  widening : Option (Nat × Nat)
  /-- The bound on waits for the running widening has passed (R185). -/
  wideBound : Bool
  /-- The DC commit buffer: bytes by physical address, and who stored them (R142, R177). -/
  dc      : Tbl Byte
  dcFrom  : Tbl DcOrigin
  /-- Stores that wait in the buffer, by stream and program order: WAIT counts them (R154, R177). -/
  dcStores : List (Stream × Nat)
  tlb     : List TlbEntry
  /-- Hold bytes by physical offset, berth 65536·n up (R137). -/
  hold    : Memory
  /-- 64-byte pieces of the hold, by logical offset, with an uncorrectable error (R142). -/
  badHold : List Nat
  /-- How often the core has entered lease mode (R203). -/
  leaseGen : Nat
  /-- The task that last claimed each physical berth, and how many berths each task has lost to others so (R203). -/
  claimant : Tbl Nat
  overrun : Tbl Nat
  /-- Prefetches in the background (R158). -/
  prefetches : List Prefetch
  /-- Physical berth plus one of each logical berth; 0 where never used (R383). -/
  berths  : Tbl Nat
  parked  : List Parked
  /-- Hold bytes stored in this tick, with their stream (R155). -/
  holdTick : List (Nat × Stream)
  task    : Option Task
  /-- Firmware state of a Duwen core: running (R388). -/
  fwRun   : Bool
  /-- The tick in which a stream last became idle: a rendezvous that it leaves behind forms in the next
  (R86). -/
  idleTick : Option Nat
  /-- P's HALT has completed, or its start has failed: the task is about to end (R299, R318). -/
  halted  : Bool
  /-- The streams that run once the images of the manifest are read (R295). -/
  loading : Option (List Stream)
  /-- The fault of an image read (R295). -/
  startFault : Option Cause
  jcount  : Nat
  ltq     : List SpawnRecord
  childSerial : Nat
  /-- The manifest and the variant's that P's LAUNCH has read and checked, while it waits for a free entry
  (R297). -/
  launching : Option (Manifest × Option Manifest)
  cbl     : List Word
  evl     : BitVec 4
  /-- YIELD has given the core up: P issues no more before the pre-emption (R320). -/
  yielded : Bool
  ctxOps  : List CtxOp
  /-- P's TTREL, WAITB, IDLE or IDLE.M that waits beyond its issue, or its chart operation in the line of a slot
  (R317, R322, R354, R386, R387). -/
  held    : Option (Op × HeldBundle)
  /-- The accesses that a TLBI of P waits for (R385). -/
  tlbWait : Option (List OpenAccess)
  inh     : Bool
  warnHeld : Bool
  warnDue : Bool
  frame   : Frame
  ptroot  : Word
  tvec    : Word
  ctxptr  : Word
  lease   : Bool
  /-- The lease was revoked and no side-op has met it yet (R138). -/
  leaseGone : Bool
  caps    : BitVec 32
  ballast : Bool
  /-- Physical line of a running WAITB of P (R322). -/
  waitLine : Option Nat
  /-- TIME since which P waits in JOINW or HALT for a child, with a record not started (R303). -/
  parentWait : Option Nat
  deriving DecidableEq, Repr

/-- A write of Duwen to the budget of an island (R342, R345, R346). -/
inductive IslandWrite where
  | field (n x : Nat)
  | cls (n x : Nat)
  | limit (opmax : Nat) (boost : Bool)
  deriving DecidableEq, Repr

/-- A write on its way to another island: the tick of the receiver at which it arrives, and the core that sent it
(R17, R341). -/
structure Crossing where
  tick   : Nat
  sender : Nat
  write  : IslandWrite
  deriving DecidableEq, Repr

/-- Budget, throttle, operating point and clock state of one island (Tables 13.1, 13.5, 13.8). -/
structure Island where
  tick    : Nat
  bal     : Int
  rbal    : Nat
  grant   : Nat
  res     : Nat
  cost    : Tbl Nat
  weight  : Tbl Nat
  mrate   : Nat
  bcost   : Nat
  bweight : Nat
  fweight : Nat
  tides   : Nat
  thr     : Nat
  tws     : Bool
  tstep   : Nat
  stepped : Bool
  emeas   : Nat
  pgrant  : Option Nat
  pres    : Option Nat
  pcost   : Tbl Nat
  pweight : Tbl Nat
  pmrate  : Option Nat
  pballast : Option Nat
  op      : Nat
  target  : Nat
  opmax   : Nat
  /-- OPMAX raised and not yet in effect (R346). -/
  popmax  : Option Nat
  boost   : Bool
  ceil    : Nat
  /-- Window counts M and V, and the windows ended (R334). -/
  wm      : Nat
  wv      : Nat
  windows : Nat
  /-- TICK of the last dispatch slot (R313). -/
  slotTick : Option Nat
  /-- A frequency stop is in force: no bundle issues and TICK holds (R17). -/
  stop    : Bool
  /-- The clock stretcher lengthens periods (R335). -/
  stretch : Bool
  /-- A layer that no unit may start on until balance returns (R336). -/
  barred  : Option Nat
  /-- TIME of the region less the package reference, in ns, and the value that it is slewing to (R339). -/
  skew    : Int
  slew    : Int
  /-- Writes from other islands on their way (R17). -/
  inbox   : List Crossing
  /-- A dispatch slot, a charge or a write of Duwen has come in the tick that runs: a tide boundary comes in a later
  one (R326). -/
  acted   : Bool
  deriving DecidableEq, Repr

/-- One line of a die's remote-data cache (R171, R172).  UN accesses have lines of their own, so that an
address mapped under two kinds keeps the rules of each (R178). -/
structure RdcLine where
  line  : Nat
  un    : Bool
  /-- A DC access has used the line, so that a barrier invalidates it (Table 7.3). -/
  dc    : Bool
  /-- The bytes held, by offset: an acquire drops those that are not dirty (R168, R173). -/
  data  : Tbl Byte
  /-- Offsets written and not yet written back. -/
  dirty : List Nat
  /-- The core that owns the dirty bytes, and the task that its write-back is metered to (R171, R329). -/
  owner : Option Nat
  meter : Option Meter
  /-- The last place of a UN store at its home when the line was filled (R176). -/
  place : Nat
  deriving DecidableEq, Repr

/-- A line that a die's L2 holds; the bytes are those of the home copy.  Dirty since the store of a task, which
its write-back is metered to, or of nobody (R140, R329). -/
structure L2Line where
  line  : Nat
  dirty : Bool
  meter : Option Meter
  deriving DecidableEq, Repr

/-- The end of a walk: the leaf with its address and level, or the fault (R147). -/
inductive WalkEnd where
  | leaf (pte addr lvl : Nat)
  | fault (lvl : Nat) (rsvd uncorr : Bool)
  deriving DecidableEq, Repr

/-- A walk of a die's walker: the page walked, the table and level it has come to, and how it ended.  The
accesses that wait for it, by core and by stream or engine, take its result (R147, R149). -/
structure Walk where
  asid    : Nat
  page    : Nat
  tbl     : Nat
  lvl     : Nat
  ended   : Option WalkEnd
  waiters : List (Nat × Nat)
  deriving DecidableEq, Repr

/-- A chart slot (Table 14.1). -/
structure ChartSlot where
  opn   : Bool
  gen   : Nat
  asid  : Nat
  log2c : Nat
  n     : Nat
  /-- The lowest position whose token the slot holds: above N − C after the load of a shorter window (R359). -/
  low   : Nat
  win   : Tbl (BitVec 32)
  busy  : Bool
  /-- The operation being performed, where it is not of the moment, and those that arrived behind it (R354). -/
  moves : List ChartMove
  deriving DecidableEq, Repr

/-- One compute die. -/
structure Die where
  rdc    : List RdcLine
  l2     : List L2Line
  tlb    : List TlbEntry
  /-- Walks running or ended and not yet taken (R149). -/
  walks  : List Walk
  charts : Tbl ChartSlot
  /-- Number of the next tide boundary of the die's governor (R326). -/
  tideNo : Nat
  /-- Aligned words on which an atomic has been performed (R272). -/
  syncVars : List Nat
  skew   : Int
  slew   : Int
  deriving DecidableEq, Repr

/-- A dual-backed buffer slot (Table 7.6). -/
structure DbbSlot where
  bound  : Bool
  asid   : Nat
  fbase  : Nat
  abase  : Nat
  len    : Nat
  sel    : Bool
  pcount : Nat
  infl   : Nat
  /-- The launch that Duwen granted the slot to (R188). -/
  launch : Option Nat
  /-- The core whose PUBLISH waits for INFL to reach 0 and holds new shadow writes (R191). -/
  held   : Option Nat
  deriving DecidableEq, Repr

/-- A launch entered in the dispatcher (R297, R310). -/
structure Launch where
  number   : Nat
  man      : Manifest
  variant  : Option Manifest
  asid     : Nat
  root     : Word
  /-- The die whose launch entry it holds, and order of entry (R310, R312). -/
  die      : Nat
  /-- Issuing core and log position, for the child's acquire (R298). -/
  source   : Option Nat
  srcSeq   : Nat
  /-- First unstarted unit. -/
  nextUnit : Nat
  ended    : Nat
  slips    : Nat
  variants : Nat
  energy   : Nat
  cause    : Nat
  failed   : Bool
  firstStart : Option Nat
  /-- Slots in which the head was passed over, by island; aged islands (R314). -/
  passed   : Tbl Nat
  aged     : Tbl Bool
  /-- Address of the completion record; 0 for none (Table 12.2, R310). -/
  completion : Nat
  granted  : Bool
  deriving DecidableEq, Repr

/-- A convoy placed on a die, with its barrier state in the SYE (R284, R285). -/
structure Convoy where
  id      : Nat
  launch  : Nat
  size    : Nat
  /-- Core of each member by member index. -/
  cores   : Tbl Nat
  gen     : Tbl Nat
  /-- Arrival masks by barrier (R284). -/
  arrived : Tbl Nat
  ended   : List Nat
  /-- The ended members whose cores the convoy keeps until its last member ends (R21). -/
  kept    : List Nat
  /-- DC buffers of ended members, by member index (R285). -/
  endedDc : Tbl (Tbl Byte)
  /-- Who stored those bytes (R189). -/
  endedFrom : Tbl (Tbl DcOrigin)
  /-- The tasks that those buffers are metered to (R329). -/
  endedMeter : Tbl Meter
  /-- Members whose contexts are saved (R286). -/
  saved   : Bool
  deriving DecidableEq, Repr

/-- A context saved by the dispatcher or for a cause (R377, R381). -/
structure SavedContext where
  area    : Nat
  /-- Physical address space of the running context: PTROOT at the save. -/
  ptroot  : Word
  core    : Nat
  task    : Task
  /-- Saved for a cause or by CTXS: Duwen resumes or ends it; otherwise the dispatcher ranks it (R315). -/
  forCause : Bool
  /-- The cause that it was saved for; 0 for none (R377). -/
  cause   : Nat
  /-- The convoy that the task is a member of (R316). -/
  convoyId : Option Nat
  /-- Saved with the whole of its convoy, so that its area holds the barriers as they stand (R286). -/
  whole    : Bool := false
  /-- Commit buffer lines, kept with the context (R177), and the stores in them (R142, R154). -/
  dc      : Tbl Byte
  dcFrom  : Tbl DcOrigin
  dcStores : List (Stream × Nat)
  /-- Errors still to be delivered in its streams (R142). -/
  uncorr  : Four (List (Nat × Nat × Nat))
  /-- Links still to be written (R74). -/
  links   : Four (Option Operand)
  /-- Token registers not read since their copy ended (R187). -/
  tokens  : Four (Tbl Scope)
  /-- Status words last written into token registers (R207). -/
  last    : Four (Tbl Word)
  scopes  : Four (Tbl Scope)
  /-- Delay slots still to come in each stream (R69). -/
  slots   : Four Nat
  /-- What each stream has seen of UN locations (R176). -/
  un      : Four UnSeen
  /-- The descriptors in full, in issue order (R209). -/
  copies  : List Copy
  /-- The frame of the last delivery to the task's handler (R371). -/
  frame   : Frame
  deriving DecidableEq, Repr

/-- A host packet in the dispatch window (Table 12.7). -/
structure Packet where
  index    : Nat
  hdr      : Nat
  count    : Nat
  manifest : Nat
  waitmask : Word
  setmask  : Word
  clearmask : Word
  completion : Nat
  arg      : Nat
  bad      : Bool
  /-- Order of the copy into a window (R310). -/
  age      : Nat
  /-- The launch started for it, until its completion (R310). -/
  launch   : Option Nat
  deriving DecidableEq, Repr

/-- A host queue: registers, Duwen's descriptor and window (Tables 12.6, R305). -/
structure HostQueue where
  widx    : BitVec 32
  ridx    : BitVec 32
  tokens  : Word
  enabled : Bool
  rfault  : Bool
  ring    : Nat
  log2sz  : Nat
  doorbell : Nat
  rmirror : Nat
  /-- PTROOT of the address space that the queue is mapped into (R304). -/
  root    : Word
  window  : List Packet
  /-- A kick or head-line store since the last examination (R308). -/
  examine : Bool
  /-- Doorbell values passed by the SYE and not yet folded (R306). -/
  bells   : List (BitVec 32)
  deriving DecidableEq, Repr

/-- An entry of the Duwen fault log (R377, R205, R412).  For a failed host queue or packet, `addr` is the
packet's index and `info` the queue number with 64 added (R311, R412). -/
structure FaultEntry where
  cause : Cause
  core  : Nat
  addr  : Nat
  info  : Nat
  deriving DecidableEq, Repr

/-- An entry of the Duwen slip log (R318). -/
structure SlipEntry where
  launch  : Nat
  release : Nat
  core    : Nat
  deriving DecidableEq, Repr

/-- A page-in or page-out in progress (R150). -/
structure PagerJob where
  leaf    : Nat
  pageIn  : Bool
  /-- The core whose PF.FR started it (R158). -/
  ahead   : Option Nat
  deriving DecidableEq, Repr

/-- An access that waits for a page-in (R147, R150): the core, who waits there (a stream by its number,
an engine operation above that), the leaf, the page of its address, and whether the page-in has failed. -/
structure PageWait where
  core   : Nat
  who    : Nat
  leaf   : Nat
  page   : Nat
  failed : Bool
  deriving DecidableEq, Repr

/-- A Walris window that Duwen has opened (R390). -/
structure WalrisWindow where
  base : Nat
  size : Nat
  deriving DecidableEq, Repr

/-- An attestation report (R389). -/
structure Report where
  nonce      : BitVec 256
  identity   : BitVec 1024
  devid      : Word
  imageHash  : BitVec 256
  repairHash : BitVec 256
  signature  : BitVec 3072
  deriving DecidableEq, Repr

/-- How the last attempt to issue a bundle ended: the model's own record, by which the step forms a
rendezvous (R86, R87).  `late` is a trap decided only after issue. -/
inductive Note where
  | none | issued | waited | trapped | late
  deriving DecidableEq, Repr

/-- Who issues the instruction that `exec` runs, and the code-page modes of its page (R46, R54). -/
structure Cur where
  core : Nat
  st   : Stream
  fl   : Bool
  bh   : Bool
  deriving DecidableEq, Repr

/-- An LFE cycle in which a start waits: the packets that were startable at its beginning, and those still to be tried
in it, by number, oldest first (R310). -/
structure LfeCycle where
  first : List Nat
  left  : List Nat
  deriving DecidableEq, Repr

/-- The module. -/
structure State where
  /-- The turns to come; when none is listed, `Config.freeTurn` gives the next. -/
  agenda   : List Turn
  /-- The counter that free values are applied to: the model's own field. -/
  fresh    : Nat
  cur      : Cur
  note     : Note
  /-- Device memory, device registers' backing and host memory by physical address (Table 6.2). -/
  mem      : Memory
  /-- Lines of LPDDR 6 with an uncorrectable error (R142, R143). -/
  badLines : List Nat
  /-- The UN stores performed, and the number of places that their bytes have taken at their homes (R176). -/
  unLog    : List UnStore
  unPlaces : Nat
  /-- Lines that have passed between LPDDR 6 and its controllers and are still to be metered (R329). -/
  lines    : List Meter
  /-- The flash that pages are kept in (R150). -/
  flash    : Memory
  cores    : Tbl Core
  islands  : Tbl Island
  dies     : Tbl Die
  queues   : Tbl HostQueue
  dbb      : Tbl DbbSlot
  launches : List Launch
  convoys  : List Convoy
  saved    : List SavedContext
  launchSerial : Nat
  taskSerial   : Nat
  /-- Package reference time in ns since module reset (R17). -/
  refTime  : Nat
  ioSkew   : Int
  ioSlew   : Int
  /-- TIDE and FLEN in µs (R324). -/
  tide     : Nat
  flen     : Nat
  faultLog : List FaultEntry
  slipLog  : List SlipEntry
  /-- Launches that ended and whose packets await the LFE (R310). -/
  completions : List Nat
  /-- The LFE's cycle, while a start of it waits for a page (R310). -/
  lfe      : Option LfeCycle
  pager    : List PagerJob
  pageWaits : List PageWait
  windows  : Tbl WalrisWindow
  walrisHeld : List (Nat × Nat × List Byte)
  thermal  : Bool
  moored   : Bool
  /-- Core that issued the IDLE.M in force, TIME of mooring and armed wake (R387). -/
  moorCore : Nat
  moorFrom : Nat
  moorWake : Option Nat
  /-- Duwen runs: a cold start has succeeded (R388). -/
  booted   : Bool
  /-- Attestation reports answered to the host, latest first (R389). -/
  reports  : List Report
  /-- Values returned to host and PCIe readers, latest first (R390). -/
  hostReads : List (List Byte)
  deriving DecidableEq, Repr

/-- Nothing seen of UN locations. -/
def UnSeen.reset : UnSeen := { fenced := [], fixed := [], later := [] }

/-- A stream at task start or reset: idle, everything zero (Tables 3.1, 4.1, 5.6). -/
def StreamState.reset : StreamState :=
  { pc := 0, run := false, pend := 0, ptarget := 0, syncDone := false, lc := [], lstart := [],
    lexit := [], lact := [], ln := 0, s := [], p := [], ml := [], fstat := 0, templates := [],
    tokenLast := [], tokenAcq := [], tokenScope := [], icache := [], prevFl := none, drain := none, slotsLeft := 0,
    nextTick := 0, popFrom := none,
    atSync := false, syncGo := false, wait := .none, waitStart := none, waitValue := 0, uncorr := [], link := none,
    after := none, kept := none,
    un := UnSeen.reset }

/-- An empty queue register (Table 9.1). -/
def QueueReg.reset : QueueReg :=
  { slots := [], head := 0, cnt := 0, rdy := [], rsv := [], landed := [], popTick := none }

/-- An empty mailbox (Table 11.1). -/
def Mailbox.reset : Mailbox := { slots := [], head := 0, cnt := 0 }

/-- A frame with every word zero (R371). -/
def Frame.reset : Frame :=
  { fcause := 0, faddr0 := 0, faddr1 := 0, fdet := 0, fpc := Four.all 0, wxtag := 0, wxval := 0,
    wxcmp := 0, flact := 0, fptg := 0, fslots := 0, flink := none, fsync := false }

/-- QMAP of a manifest whose QMAP is 0 (Table 3.1): every queue produced and consumed by X. -/
def qmapDefault : Word := 0xAAAAAAAAAAAAAAAA

/-- The capability word of a whole core: BERTHS 48, QREGS 16, ROWS 64 (R372). -/
def wholeCaps : BitVec 32 := 0x00020430

/-- A free core at reset. -/
def Core.reset : Core :=
  { st := Four.all StreamState.reset, qmap := qmapDefault, fifo := [], pushes := [], queues := [],
    hist := [], acc := Four.all [], pb0 := [], pb1 := [], pkind0 := 0, pkind1 := 0, pn0 := 0,
    pn1 := 0, ptag0 := [], ptag1 := [], sga := 0, sgb := 0, mflag := 0, mbase := 0, eparam := [],
    emask := [], eheap := [], ehist := [], arrayFree := 0, scacFree := 0, accFree := 0,
    epiFree := 0, vecFree := 0, sem := [], swq := [], semw := none, bar := none, mb := [], mail := [], mbsTo := none,
    seq := 0, flight := [],
    loads := [], stores := [], copies := [], charts := [], log := [], requests := [],
    widening := none, wideBound := false, dc := [], dcFrom := [], dcStores := [], tlb := [], hold := [], badHold := [],
    leaseGen := 0, claimant := [], overrun := [], prefetches := [], berths := [], parked := [], holdTick := [],
    task := none, fwRun := false, idleTick := none, halted := false, loading := none, startFault := none, jcount := 0,
    ltq := [], childSerial := 0, launching := none, cbl := [], evl := 0, yielded := false, ctxOps := [], held := none,
    tlbWait := none,
    inh := false, warnHeld := false, warnDue := false, frame := Frame.reset, ptroot := 0,
    tvec := 0, ctxptr := 0, lease := false, leaseGone := false, caps := wholeCaps,
    ballast := false, waitLine := none, parentWait := none }

/-- An island at reset (Tables 13.1, 13.5 and 13.8). -/
def Island.reset : Island :=
  { tick := 0, bal := 0, rbal := 0, grant := 0, res := 0, cost := [], weight := [], mrate := 22,
    bcost := 0, bweight := 0, fweight := 0, tides := 0, thr := 0, tws := false, tstep := 0,
    stepped := false, emeas := 0, pgrant := none, pres := none, pcost := [], pweight := [],
    pmrate := none, pballast := none, op := 2, target := 2, opmax := 2, popmax := none,
    boost := false, ceil := 3, wm := 0, wv := 0, windows := 0, slotTick := none, stop := false, stretch := false,
    barred := none,
    skew := 0, slew := 0, inbox := [], acted := false }

/-- A closed chart slot (Table 14.1). -/
def ChartSlot.reset : ChartSlot :=
  { opn := false, gen := 0, asid := 0, log2c := 0, n := 0, low := 0, win := [], busy := false, moves := [] }

/-- A die at reset. -/
def Die.reset : Die :=
  { rdc := [], l2 := [], tlb := [], walks := [], charts := [], tideNo := 0, syncVars := [], skew := 0, slew := 0 }

/-- An unbound dual-backed buffer slot (Table 7.6). -/
def DbbSlot.reset : DbbSlot :=
  { bound := false, asid := 0, fbase := 0, abase := 0, len := 0, sel := false, pcount := 0,
    infl := 0, launch := none, held := none }

/-- A host queue at reset (Table 12.6). -/
def HostQueue.reset : HostQueue :=
  { widx := 0, ridx := 0, tokens := 0, enabled := false, rfault := false, ring := 0, log2sz := 0,
    doorbell := 0, rmirror := 0, root := 0, window := [], examine := false, bells := [] }

/-- The module right after reset: no core runs, TIME and every TICK are 0, TIDE is 100 and FLEN 10
(R324, R338, R388). -/
def State.reset : State :=
  { agenda := [], fresh := 0, cur := { core := 0, st := .P, fl := false, bh := false }, note := .none, mem := [],
    badLines := [], unLog := [], unPlaces := 0, lines := [], flash := [], cores := [], islands := [], dies := [],
    queues := [], dbb := [], launches := [],
    convoys := [], saved := [], launchSerial := 0, taskSerial := 0, refTime := 0, ioSkew := 0, ioSlew := 0,
    tide := 100, flen := 10, faultLog := [], slipLog := [], completions := [], lfe := none, pager := [],
    pageWaits := [],
    windows := [], walrisHeld := [], thermal := false, moored := false, moorCore := 0,
    moorFrom := 0, moorWake := none, booted := false, reports := [], hostReads := [] }

end Sys2Proof.Machine
end

