-- ==== Sys2Proof/Machine/Access.lean ====
section
/-!
DEFINITION. Named access to the parts of the state: cores, islands, dies, registers, time counters,
holds with their lazily saved berths, and the landing of results in flight.
-/

namespace Sys2Proof.Machine

/-! ### Places (R12 to R14) -/

/-- The compute die of a core (R13). -/
def dieOf (c : Nat) : Nat := c / 48

/-- The island of a core, die × 6 + island (R13, R341). -/
def islandOf (c : Nat) : Nat := c / 48 * 6 + c % 48 / 8

/-- The lowest core of a core's cluster (R13). -/
def clusterBase (c : Nat) : Nat := c / 4 * 4

/-- Core 0 of each die is reserved for Duwen and runs at firmware privilege (R14, R370). -/
def isFirmware (c : Nat) : Bool := c % 48 == 0

/-- The cores of an island in number order. -/
def islandCores (i : Nat) : List Nat := (List.range 8).map (fun k => i / 6 * 48 + i % 6 * 8 + k)

/-- The cores of a die in number order. -/
def dieCores (d : Nat) : List Nat := (List.range 48).map (fun k => d * 48 + k)

/-! ### Parts of the state -/

def State.core (s : State) (c : Nat) : Core := Tbl.get Core.reset s.cores c

def State.setCore (s : State) (c : Nat) (k : Core) : State := { s with cores := Tbl.set s.cores c k }

def State.modCore (s : State) (c : Nat) (f : Core → Core) : State := s.setCore c (f (s.core c))

def State.island (s : State) (i : Nat) : Island := Tbl.get Island.reset s.islands i

def State.setIsland (s : State) (i : Nat) (v : Island) : State :=
  { s with islands := Tbl.set s.islands i v }

def State.die (s : State) (d : Nat) : Die := Tbl.get Die.reset s.dies d

def State.setDie (s : State) (d : Nat) (v : Die) : State := { s with dies := Tbl.set s.dies d v }

def State.queue (s : State) (q : Nat) : HostQueue := Tbl.get HostQueue.reset s.queues q

def State.setQueue (s : State) (q : Nat) (v : HostQueue) : State :=
  { s with queues := Tbl.set s.queues q v }

def State.slot (s : State) (n : Nat) : DbbSlot := Tbl.get DbbSlot.reset s.dbb n

def State.setSlot (s : State) (n : Nat) (v : DbbSlot) : State := { s with dbb := Tbl.set s.dbb n v }

def Core.stream (k : Core) (st : Stream) : StreamState := k.st.get st

def Core.setStream (k : Core) (st : Stream) (t : StreamState) : Core := { k with st := k.st.set st t }

def Core.modStream (k : Core) (st : Stream) (f : StreamState → StreamState) : Core :=
  k.setStream st (f (k.stream st))

def State.stream (s : State) (c : Nat) (st : Stream) : StreamState := (s.core c).stream st

def State.setStream (s : State) (c : Nat) (st : Stream) (t : StreamState) : State :=
  s.modCore c (fun k => k.setStream st t)

def State.modStream (s : State) (c : Nat) (st : Stream) (f : StreamState → StreamState) : State :=
  s.modCore c (fun k => k.modStream st f)

def Core.queueReg (k : Core) (q : Nat) : QueueReg := Tbl.get QueueReg.reset k.queues q

def Core.setQueueReg (k : Core) (q : Nat) (v : QueueReg) : Core :=
  { k with queues := Tbl.set k.queues q v }

def Core.mailbox (k : Core) (n : Nat) : Mailbox := Tbl.get Mailbox.reset k.mb n

def Core.setMailbox (k : Core) (n : Nat) (m : Mailbox) : Core := { k with mb := Tbl.set k.mb n m }

/-- A free value's number, and the state that has used it up. -/
def State.draw (s : State) : Nat × State := (s.fresh, { s with fresh := s.fresh + 1 })

/-! ### Time (R17, R338, R339) -/

/-- TICK of the island of a core. -/
def State.tickOf (s : State) (c : Nat) : Nat := (s.island (islandOf c)).tick

/-- TIME of a region with a skew, in ns. -/
def State.timeWith (s : State) (skew : Int) : Nat := ((s.refTime : Int) + skew).toNat

/-- TIME as an island reads it. -/
def State.islandTime (s : State) (i : Nat) : Nat := s.timeWith (s.island i).skew

/-- TIME as a core reads it. -/
def State.timeOf (s : State) (c : Nat) : Nat := s.islandTime (islandOf c)

/-- FRAME as an island reads it: floor(TIME / (1000 × FLEN)); no value is stated for a frame length of
0. -/
def State.islandFrame (s : State) (i : Nat) : Nat :=
  if s.flen = 0 then Config.freePick s.fresh else s.islandTime i / (1000 * s.flen)

/-- FRAME as a core reads it. -/
def State.frameOf (s : State) (c : Nat) : Nat := s.islandFrame (islandOf c)

/-! ### Registers (R36, R37, R93) -/

/-- sp is s31 under another specifier (R93). -/
def canonReg : Operand → Operand
  | .sp => .s 31
  | o => o

/-- The value a register holds: s0 reads zero and p0 all ones (R36). -/
def StreamState.reg (t : StreamState) (o : Operand) : Word :=
  match o with
  | .s n => if n.val = 0 then 0 else Tbl.get 0 t.s n.val
  | .sp => Tbl.get 0 t.s 31
  | .p n => if n.val = 0 then ones64 else Tbl.get 0 t.p n.val
  | .lc n => Tbl.get 0 t.lc n.val
  | .ln => t.ln
  | .ml n => Tbl.get 0 t.ml n.val
  | _ => 0

/-- The value of a register as the stream's bundle reads it: one that waits beyond its issue goes on with the values
that it read then. -/
def StreamState.operand (t : StreamState) (o : Operand) : Word :=
  match t.kept with
  | some e => { t with s := e.s, p := e.p, lc := e.lc, ml := e.ml, ln := e.ln : StreamState }.reg o
  | none => t.reg o

/-- Write a register: writes to s0 and p0 are discarded (R37). -/
def StreamState.setReg (t : StreamState) (o : Operand) (v : Word) : StreamState :=
  match o with
  | .s n => if n.val = 0 then t else { t with s := Tbl.set t.s n.val v }
  | .sp => { t with s := Tbl.set t.s 31 v }
  | .p n => if n.val = 0 then t else { t with p := Tbl.set t.p n.val v }
  | .lc n => { t with lc := Tbl.set t.lc n.val v }
  | .ln => { t with ln := v }
  | .ml n => { t with ml := Tbl.set t.ml n.val v }
  | _ => t

/-- Whether two operands name one register. -/
def sameReg (a b : Operand) : Bool := canonReg a == canonReg b

/-- An address as a PC: 48 bits, bits [1:0] zero (R45). -/
def pcOf (w : Nat) : BitVec 48 := BitVec.ofNat 48 (w / 4 * 4)

/-- The clocks of all islands are gated, in a thermal emergency or a mooring (R340, R387). -/
def State.gated (s : State) : Bool := s.thermal || s.moored

/-! ### Token FIFOs (R41, R84) -/

/-- The stream that a code names relative to an issuing stream (Table 2.9); none for code 00. -/
def namedStream (st : Stream) : TokenCode → Option Stream
  | .none => none
  | .next => some (Stream.ofNum (st.num + 1))
  | .opposite => some (Stream.ofNum (st.num + 2))
  | .previous => some (Stream.ofNum (st.num + 3))

/-- The table key of the FIFO from one stream to another. -/
def fifoKey (a b : Stream) : Nat := 4 * a.num + b.num

/-- The count a FIFO holds, pushes not yet visible included (R42 step 4). -/
def Core.fifoCount (k : Core) (a b : Stream) : Nat := Tbl.get 0 k.fifo (fifoKey a b)

/-- Set the count of a FIFO. -/
def Core.setFifo (k : Core) (a b : Stream) (n : Nat) : Core :=
  { k with fifo := Tbl.set k.fifo (fifoKey a b) n }

/-- A result that other streams can reach, and so an access of its stream: queue entries, accumulators,
psum buffers and images, but not registers, flags or templates (R42, R248). -/
def Landing.shared (l : Landing) : Bool :=
  l.effects.any (fun e => match e with
    | .reg _ _ _ | .flags _ _ | .template _ _ _ => false
    | _ => true)

/-- Accesses of kinds RC, SO and DC count for R165; UN ones do not. -/
def PLoad.unOnly (l : PLoad) : Bool := l.parts.all (fun p => p.2.2 == .un)
def PStore.unOnly (x : PStore) : Bool := x.parts.all (fun p => p.2.2 == .un)

/-- A load that only a FENCE orders: tokens, releases and synchronisation do not wait for one to UN pages, but for every
atomic (R167, R176, R275). -/
def PLoad.fenceOnly (l : PLoad) : Bool := l.unOnly && !l.parts.isEmpty && l.amo.isNone

/-- Loads and stores of a stream before a place in program order, but for those that only a FENCE orders. -/
def Core.orderedBefore (k : Core) (st : Stream) (seq : Nat) : Bool :=
  k.stores.any (fun x => x.st == st && x.seq < seq && !x.unOnly) ||
    k.loads.any (fun x => x.st == st && x.seq < seq && !x.fenceOnly)

/-- A push is visible from the tick after it, once every access of its stream up to it that tokens order is performed
(R42 step 5, R176). -/
def Core.pushVisible (k : Core) (now : Nat) (p : Push) : Bool :=
  p.tick < now && !k.orderedBefore p.src p.seq &&
    !(k.flight.any (fun l => l.st == p.src && l.seq < p.seq && l.shared))

/-- The counts of a FIFO that a pop may take now. -/
def Core.fifoVisible (k : Core) (now : Nat) (a b : Stream) : Nat :=
  k.fifoCount a b -
    ((k.pushes.filter (fun p => p.src == a && p.dst == b && !k.pushVisible now p)).map
      (fun p => p.n)).sum

/-! ### Holds and berths (R137, R138, R383) -/

/-- Usable berths of a core (R372). -/
def Core.berthCount (k : Core) : Nat := bits k.caps.toNat 0 6

/-- Usable queue registers (R372). -/
def Core.queueCount (k : Core) : Nat := bits k.caps.toNat 6 5

/-- Usable rows of the matrix array (R372). -/
def Core.rowCount (k : Core) : Nat := bits k.caps.toNat 11 7

/-- HSIZE (R137). -/
def Core.hsize (k : Core) : Nat := k.berthCount * 65536

/-- HDATA, the size of the data part (R137). -/
def Core.hdata (k : Core) : Nat := k.hsize - 16384

/-- The bytes that a hold access may reach: none in spill lease mode (R138). -/
def Core.holdLimit (k : Core) : Nat := if k.lease then 0 else k.hdata

/-- The byte at a hold offset of the running context; a berth it has never used reads zero (R383). -/
def Core.holdByte (k : Core) (off : Nat) : Byte :=
  match Tbl.get 0 k.berths (off / 65536) with
  | 0 => 0
  | m + 1 => k.hold.get (m * 65536 + off % 65536)

/-- The `n` bytes at a hold offset. -/
def Core.holdBytes (k : Core) (off : Nat) : Nat → List Byte
  | 0 => []
  | n + 1 => k.holdByte off :: k.holdBytes (off + 1) n

/-- The little-endian value of `n` bytes at a hold offset (R7, `HOLD`). -/
def Core.holdRead (k : Core) (off n : Nat) : Nat := numOfBytes (k.holdBytes off n)

/-- The physical berths that the running context or a parked one owns. -/
def Core.ownedBerths (k : Core) : List Nat :=
  (k.berths.map (fun e => e.2)) ++ k.parked.flatMap (fun p => p.map.map (fun e => e.2))

/-- The lowest physical berth, plus one, that no context owns (R383). -/
def Core.freeBerth (k : Core) : Option Nat :=
  ((List.range k.berthCount).map (fun n => n + 1)).find? (fun n => !k.ownedBerths.contains n)

/-- The entry of a parked context's map with the lowest physical berth. -/
def lowestBerth : Tbl Nat → Option (Nat × Nat)
  | [] => none
  | e :: t =>
    match lowestBerth t with
    | none => some e
    | some f => if f.2 < e.2 then some f else some e

/-- Offsets of the context area used here (Table 15.6). -/
def areaBerthMap : Nat := 0x40
def areaBerthLive : Nat := 0x48
def areaBerths : Nat := 0x150000

/-- Write one live berth of a parked context to its area (R383). -/
def saveBerth (mem : Memory) (k : Core) (area logical phys : Nat) : Memory :=
  let base := area + areaBerths + logical * 65536
  let mem := (mem.clear base 65536).setAll
    ((k.hold.window (phys * 65536) 65536).map (fun e => (base + e.1, e.2)))
  let map := mem.read (area + areaBerthMap) 8
  let live := mem.read (area + areaBerthLive) 8
  (mem.write (area + areaBerthMap) 8 (map ||| 2 ^ logical)).write (area + areaBerthLive) 8
    (if bit live logical then live - 2 ^ logical else live)

/-- The running context claims a physical berth: a task that had claimed it before has lost it (R203). -/
def Core.noteClaim (k : Core) (m : Nat) : Core :=
  let me := k.task.map (fun t => t.id)
  let was := (k.claimant.find? (fun e => e.1 == m)).map (fun e => e.2)
  { k with overrun := match was with
             | some u => if was = me then k.overrun else Tbl.set k.overrun u (Tbl.get 0 k.overrun u + 1)
             | none => k.overrun,
           claimant := match me with
             | some t => Tbl.set k.claimant m t
             | none => Tbl.erase k.claimant m }

/-- Claim a physical berth for a logical berth of the running context (R383). -/
def State.claimBerth (s : State) (c n : Nat) : State :=
  let k := s.core c
  if Tbl.get 0 k.berths n ≠ 0 then s
  else
    match k.freeBerth with
    | some m =>
      s.setCore c { k.noteClaim m with berths := Tbl.set k.berths n m,
                                       hold := k.hold.clear ((m - 1) * 65536) 65536 }
    | none =>
      match k.parked with
      | [] => s
      | v :: rest =>
        match lowestBerth v.map with
        | none => s.setCore c { k with parked := rest }
        | some (logical, m) =>
          let mem := saveBerth s.mem k v.area logical (m - 1)
          let v' : Parked := { v with map := Tbl.erase v.map logical }
          { s with mem := mem }.setCore c
            { k.noteClaim m with parked := if v'.map.isEmpty then rest else v' :: rest,
                                 berths := Tbl.set k.berths n m,
                                 hold := k.hold.clear ((m - 1) * 65536) 65536 }

/-- Whether an earlier store of this tick by a later stream of the order P, L, X, S keeps a byte
(R155). -/
def Core.holdKept (k : Core) (st : Stream) (off : Nat) : Bool :=
  k.holdTick.any (fun e => e.1 == off && st.num < e.2.num)

/-- Store bytes at a hold offset of the running context, claiming berths on first use. -/
def State.holdStore (s : State) (c : Nat) (st : Stream) (off : Nat) : List Byte → State
  | [] => s
  | b :: rest =>
    let s := s.claimBerth c (off / 65536)
    let k := s.core c
    let s :=
      if k.holdKept st off then s
      else
        match Tbl.get 0 k.berths (off / 65536) with
        | 0 => s
        | m + 1 =>
          s.setCore c { k with hold := k.hold.set (m * 65536 + off % 65536) b,
                               holdTick := (off, st) :: k.holdTick }
    State.holdStore s c st (off + 1) rest

/-- Store a number as `n` little-endian bytes at a hold offset. -/
def State.holdWrite (s : State) (c : Nat) (st : Stream) (off n v : Nat) : State :=
  s.holdStore c st off (bytesOfNum v n)

/-- Store listed pairs of offset and byte in a hold, outside the same-tick rule of streams (engines,
images). -/
def State.holdSetAll (s : State) (c : Nat) : List (Nat × Byte) → State
  | [] => s
  | (off, b) :: rest =>
    let s := s.claimBerth c (off / 65536)
    let k := s.core c
    let s := match Tbl.get 0 k.berths (off / 65536) with
      | 0 => s
      | m + 1 => s.setCore c { k with hold := k.hold.set (m * 65536 + off % 65536) b }
    State.holdSetAll s c rest

/-! ### Matrix elements (R242) -/

/-- The index of acc[m][n]. -/
def accIx (m n : Nat) : Nat := m * 512 + n

/-- The index of PB[m][n][j]. -/
def pbIx (m n j : Nat) : Nat := (m * 512 + n) * 2 + j

/-- The accumulator with a number. -/
def Core.accOf (k : Core) (n : Nat) : Tbl (BitVec 32) := k.acc.get (Stream.ofNum n)

/-- Write an accumulator. -/
def Core.setAcc (k : Core) (n : Nat) (v : Tbl (BitVec 32)) : Core :=
  { k with acc := k.acc.set (Stream.ofNum n) v }

/-! ### Landings (R49 to R52, R212, R248) -/

/-- Add one to a histogram bin, stopping at 2^32 − 1 (R239, R265). -/
def bumpBin (h : Tbl (BitVec 32)) (d : Nat) : Tbl (BitVec 32) :=
  Tbl.set h d (BitVec.ofNat 32 (min ((Tbl.get 0 h d).toNat + 1) (2 ^ 32 - 1)))

/-- Write the landed data of a reservation still held into its slot (R212, R216). -/
def QueueReg.land (r : QueueReg) (slot rid tick : Nat) (v : Entry) : QueueReg :=
  if Tbl.get 0 r.rsv slot = rid ∧ Tbl.get true r.rdy slot = false then
    { r with slots := Tbl.set r.slots slot v, rdy := Tbl.set r.rdy slot true,
             landed := Tbl.set r.landed slot tick }
  else r

/-- Bits [63:48] and [45:13] of PTROOT; the others read zero (Table 6.5). -/
def ptrootMask : Word := 0xFFFF3FFFFFFFE000

/-- FCAUSE bits that exist (Table 15.4). -/
def fcauseMask : Word := 0x00000000FFFF0FFF

/-- FDET bits that exist (Table 6.7). -/
def fdetMask : Word := 0x000000000000FFFF

/-- The hold of a task is lost to other cores (R199). -/
def Task.lose (t : Task) : Task := { t with losses := t.losses + 1 }

/-- A handler has written FPC of a stream: of P, the frame's PEND goes, of the others the live one, with what their
untaken or pending transfers have left (R71, R74, R87, R380). -/
def Core.forgetPending (k : Core) (st : Stream) : Core :=
  let fr := k.frame
  match st with
  | .P =>
    { k with frame := { fr with flact := fr.flact &&& 0x0F, fslots := 0, flink := none, fsync := false } }
  | st => k.modStream st (fun t => { t with pend := 0, slotsLeft := 0, link := none, syncDone := false })

/-- Write a special register that a core holds (Table 15.1); reserved bits are dropped. -/
def Core.setSpecial (k : Core) (n : Nat) (v : Word) : Core :=
  let fr := k.frame
  match n with
  | 8 => { k with ptroot := v &&& ptrootMask }
  | 10 => { k with frame := { fr with fcause := v &&& fcauseMask } }
  | 11 => { k with frame := { fr with faddr0 := v } }
  | 12 => { k with frame := { fr with faddr1 := v } }
  | 13 => { k with frame := { fr with fdet := v &&& fdetMask } }
  | 14 => { k with frame := { fr with fpc := fr.fpc.set .P v } }
  | 15 => { k with frame := { fr with fpc := fr.fpc.set .L v } }
  | 16 => { k with frame := { fr with fpc := fr.fpc.set .X v } }
  | 17 => { k with frame := { fr with fpc := fr.fpc.set .S v } }
  | 18 => { k with frame := { fr with wxtag := v } }
  | 19 => { k with frame := { fr with wxval := v } }
  | 20 => { k with frame := { fr with wxcmp := v } }
  | 21 => { k with frame := { fr with flact := v &&& 0x3F } }
  | 22 => { k with tvec := v }
  | 23 => { k with ctxptr := v }
  | 24 => { k with lease := v.toNat % 2 == 1,
                   task := if !k.lease && v.toNat % 2 == 1 then k.task.map Task.lose else k.task,
                   leaseGen := if !k.lease && v.toNat % 2 == 1 then k.leaseGen + 1 else k.leaseGen,
                   leaseGone := k.leaseGone || (k.lease && v.toNat % 2 == 0) }
  | 25 => { k with frame := { fr with fptg := v } }
  | _ => k

/-- Apply what one landing writes to a core (R49).  The landing of an MMA writes PTAG of its buffer whole: of columns at
and above its N the old tags are gone (R251; log entry 124). -/
def Core.apply (k : Core) (tick : Nat) (e : Effect) : Core :=
  match e with
  | .reg st o v => k.modStream st (fun t => t.setReg o v)
  | .entry q slot rid v => k.setQueueReg q ((k.queueReg q).land slot rid tick v)
  | .flags st fl => k.modStream st (fun t => { t with fstat := t.fstat ||| fl })
  | .hist clear digits =>
    { k with hist := digits.foldl bumpBin (if clear then [] else k.hist) }
  | .template st n v => k.modStream st (fun t => { t with templates := Tbl.set t.templates n v })
  | .acc n vals => k.setAcc n ((k.accOf n).setAll vals)
  | .accZero n => k.setAcc n []
  | .pb n vals kind pn tags =>
    if n = 0 then { k with pb0 := k.pb0.setAll vals, pkind0 := kind, pn0 := pn, ptag0 := tags }
    else { k with pb1 := k.pb1.setAll vals, pkind1 := kind, pn1 := pn, ptag1 := tags }
  | .pbZero n =>
    if n = 0 then { k with pb0 := [], pkind0 := 0, pn0 := 0, ptag0 := [] }
    else { k with pb1 := [], pkind1 := 0, pn1 := 0, ptag1 := [] }
  | .mflags fl => { k with mflag := k.mflag ||| fl }
  | .eparam bytes reset =>
    let n := bits (bytes.read 0x04 4) 8 6 + 1
    if reset then { k with eparam := bytes, eheap := [], ehist := [] }
    else { k with eparam := bytes, eheap := k.eheap.map (fun e => (e.1, e.2.take n)) }
  | .emask bytes => { k with emask := bytes }
  | .epiOut _ reset => if reset then { k with eheap := [], ehist := [] } else k
  | .sag second v => if second then { k with sgb := v } else { k with sga := v }
  | .special n v => k.setSpecial n v
  | .framePc st => k.forgetPending st
  | .mbase v => { k with mbase := v }

/-- The images of the heap and the histogram that EPI.OUT writes into the hold, as they stand at its issue
(R49, R267). -/
def Core.epiImages (k : Core) : List (Nat × Byte) :=
  let heapOut := k.eparam.read 0x10 8
  let histOut := k.eparam.read 0x18 8
  let heapRow (m : Nat) : List (Nat × Byte) :=
    let row := Tbl.get [] k.eheap m
    (List.range 64).flatMap (fun i =>
      let e := (row[i]?).getD (0, 0xFFFFFFFF)
      (bytesOfNum (e.2 % 2 ^ 32 + e.1 % 2 ^ 32 * 2 ^ 32) 8).mapIdx
        (fun j b => (heapOut + 512 * m + 8 * i + j, b)))
  let histRow (m : Nat) : List (Nat × Byte) :=
    (List.range 256).flatMap (fun b =>
      (bytesOfNum (Tbl.get 0 k.ehist (m * 256 + b)).toNat 4).mapIdx
        (fun j v => (histOut + 1024 * m + 4 * b + j, v)))
  (List.range 64).flatMap heapRow ++ (List.range 64).flatMap histRow

/-- The hold bytes that a landing writes: the images of EPI.OUT. -/
def Landing.holdBytes (l : Landing) : List (Nat × Byte) :=
  l.effects.flatMap (fun e => match e with
    | .epiOut bytes _ => bytes
    | _ => [])

/-- Whether a landing writes the images of EPI.OUT. -/
def Landing.isEpiOut (l : Landing) : Bool :=
  l.effects.any (fun e => match e with
    | .epiOut _ _ => true
    | _ => false)

/-- TIDE and FLEN, which belong to the module (R324, R371). -/
def State.applyLength (s : State) (e : Effect) : State :=
  match e with
  | .special 6 v => { s with tide := v.toNat }
  | .special 7 v => { s with flen := v.toNat }
  | _ => s

/-- Land one result on its core; EPI.OUT's images are hold stores of X, which its earlier tile operations do not
read (R164, R249, R267). -/
def State.landOne (s : State) (c : Nat) (l : Landing) : State :=
  let s := l.holdBytes.foldl (fun s e => s.holdStore c l.st e.1 [e.2]) s
  let s := if l.isEpiOut then s.modCore c (fun k =>
      { k with flight := k.flight.map (fun m => if m.st = l.st then { m with reads := none } else m) }) else s
  let s := l.effects.foldl State.applyLength s
  s.modCore c (fun k => l.effects.foldl (fun k e => k.apply l.tick e) k)

/-- Order of landing: by tick, then by program order (R49). -/
def Landing.before (a b : Landing) : Bool :=
  a.tick < b.tick || (a.tick == b.tick && a.seq ≤ b.seq)

/-- Insert a landing in landing order. -/
def insertLanding (l : Landing) : List Landing → List Landing
  | [] => [l]
  | x :: t => if Landing.before x l then x :: insertLanding l t else l :: x :: t

/-- Land in order the results of a list. -/
def State.landList (s : State) (c : Nat) : List Landing → State
  | [] => s
  | l :: t => State.landList (s.landOne c l) c t

/-- Land every result of a core that satisfies a test and is due at its island's tick. -/
def State.landDue (s : State) (c : Nat) (sel : Landing → Bool) : State :=
  let now := s.tickOf c
  let k := s.core c
  let due := k.flight.filter (fun l => l.tick ≤ now && sel l)
  (s.setCore c { k with flight := k.flight.filter (fun l => !(l.tick ≤ now && sel l)) }).landList c due

/-- Land every result in flight, as before a trap or a save (R52). -/
def State.landAll (s : State) (c : Nat) : State :=
  let k := s.core c
  (s.setCore c { k with flight := [] }).landList c k.flight

/-- Whether an effect writes a register. -/
def Effect.writesReg (e : Effect) (st : Stream) (o : Operand) : Bool :=
  match e with
  | .reg st' o' _ => st == st' && sameReg o o'
  | _ => false

/-- Whether two effects write one destination, for the order of R51. -/
def Effect.sameDest (a b : Effect) : Bool :=
  match a, b with
  | .reg st o _, .reg st' o' _ => st == st' && sameReg o o'
  | .template st n _, .template st' n' _ => st == st' && n == n'
  | .acc n _, .acc n' _ | .acc n _, .accZero n' | .accZero n, .acc n' _
  | .accZero n, .accZero n' => n == n'
  | .pb n _ _ _ _, .pb n' _ _ _ _ | .pb n _ _ _ _, .pbZero n' | .pbZero n, .pb n' _ _ _ _
  | .pbZero n, .pbZero n' => n == n'
  | .sag a _, .sag b _ => a == b
  | .mbase _, .mbase _ => true
  | .special n _, .special n' _ => n == n'
  | .hist _ _, .hist _ _ => true
  | .flags st _, .flags st' _ => st == st'
  | _, _ => false

/-- The landing tick of a result issued now with a latency: on an FL = 0 page never before an
earlier write of the same destination (R51). -/
def Core.landingTick (k : Core) (fl : Bool) (now lat : Nat) (es : List Effect) : Nat :=
  if fl then now + lat
  else
    k.flight.foldl (fun t l =>
      if l.effects.any (fun a => es.any (fun b => a.sameDest b)) then max t l.tick else t) (now + lat)

/-- Put a result in flight. -/
def State.launchResult (s : State) (c : Nat) (st : Stream) (fl : Bool) (lat : Nat)
    (matrix : Bool) (unit : Nat) (locked : Bool) (es : List Effect) : State :=
  let k := s.core c
  let l : Landing :=
    { tick := k.landingTick fl (s.tickOf c) lat es, seq := k.seq, st, matrix, unit, locked,
      effects := es }
  s.setCore c { k with flight := insertLanding l k.flight, seq := k.seq + 1 }

/-! ### Interlocks (R50, R51, R194) -/

/-- A copy or chart transfer in flight names the scalar register as its token (R194, R351). -/
def Core.tokenPending (k : Core) (st : Stream) (o : Operand) : Bool :=
  match canonReg o with
  | .s n =>
    n.val ≠ 0 && (k.copies.any (fun c => c.st == st && c.token == n.val) ||
      (st == .P && k.charts.any (fun m => m.token == n.val)) ||
      (st == .P && k.ctxOps.any (fun m => m.token == n.val)))
  | _ => false

/-- A load in flight will write the register (R50). -/
def Core.loadPending (k : Core) (st : Stream) (o : Operand) : Bool :=
  k.loads.any (fun l => l.st == st && (match l.dest with
    | .reg o' _ _ => sameReg o o' && !sameReg o (.s 0)
    | _ => false))

/-- A result in flight will write the register and holds readers back: an interlocked one on both page
kinds, every one on an FL = 0 page (R50, R51). -/
def Core.resultPending (k : Core) (fl : Bool) (st : Stream) (o : Operand) : Bool :=
  k.flight.any (fun l => (l.locked || !fl) && l.effects.any (fun e => e.writesReg st o))

/-- s0 and p0 never wait for a result (R36, R194). -/
def hardwired (o : Operand) : Bool :=
  match o with
  | .s n => n.val == 0
  | .p n => n.val == 0
  | _ => false

/-- A stream may read a register now. -/
def Core.readable (k : Core) (fl : Bool) (st : Stream) (o : Operand) : Bool :=
  hardwired o || (!k.tokenPending st o && !k.loadPending st o && !k.resultPending fl st o)

/-- A stream may write a register now: no copy token is pending in it (R194), and on an FL = 0 page no load
will still write it, nor, for a value that memory or an engine delivers, an earlier result (R51). -/
def Core.writable (k : Core) (fl delivered : Bool) (st : Stream) (o : Operand) : Bool :=
  !k.tokenPending st o && (fl || (!k.loadPending st o && !(delivered && !hardwired o && k.resultPending fl st o)))

end Sys2Proof.Machine
end

