-- ==== Sys2Proof/Machine/Budget.lean ====
section
/-!
DEFINITION. The budget of an island: balance, tides and throttle (R324 to R332), operating points (R333 to
R335), and the charges for dispatch and for metered lines (R327 to R329).
-/

namespace Sys2Proof.Machine

/-! ### Balance (R324, R327, R331) -/

/-- BAL saturates at −2^31 (R324). -/
def satBal (v : Int) : Int := max v (-((2 ^ 31 : Nat) : Int))

/-- The condition of the throttle check (R331). -/
def Island.throttles (v : Island) : Bool := v.bal < -(v.grant : Int) && !v.tws && !v.stepped

/-- The cores of an island that run a task. -/
def State.busyCores (s : State) (i : Nat) : List Nat :=
  (islandCores i).filter (fun c => (s.core c).task.isSome)

/-- A throttle warning falls due on a core (R331). -/
def State.warn (s : State) (c : Nat) : State := s.modCore c (fun k => { k with warnDue := true })

/-- The throttle check of an island (R331). -/
def State.throttleCheck (s : State) (i : Nat) : State :=
  let v := s.island i
  if v.throttles then
    (s.busyCores i).foldl State.warn
      (s.setIsland i { v with tws := true, tstep := (s.islandTime i + 20000) % 2 ^ 64 })
  else s

/-- A balance pays a cost, and a full one pays any.  A T0 unit whose cost the reserve alone covers is never
held, however low the balance (R327, Table 1.6; log entry 82). -/
def Island.payable (v : Island) (t0 : Bool) (c : Nat) : Bool :=
  (c : Int) ≤ v.bal + (if t0 then (v.rbal : Int) else 0) ||
    (0 < v.grant && (v.bal == 2 * (v.grant : Int) || (t0 && c ≤ v.rbal)))

/-! ### Operating points (R333) -/

/-- The operating point of R333. -/
def Island.point (v : Island) : Nat :=
  let p := min v.target v.opmax
  if 0 < v.thr then min p (2 - v.thr) else p

/-- A change of operating point is one frequency stop. -/
def Island.settle (v : Island) : Island :=
  if v.point = v.op then v else { v with op := v.point, stop := true }

/-- A raised OPMAX takes effect (R346). -/
def Island.raiseMax (v : Island) : Island := { v with opmax := v.popmax.getD v.opmax, popmax := none }

/-- One throttle step (R331). -/
def Island.throttleStep (v : Island) : Island :=
  { v with thr := min (v.thr + 1) 2, tws := false, stepped := true }.settle

/-- The step of a warning is due, and the island's clock runs or is about to (R331, R340). -/
def State.stepDue (s : State) (i : Nat) : Bool :=
  (s.island i).tws && (s.island i).tstep ≤ s.islandTime i

/-- A window of 4096 ticks has run out (R334). -/
def Island.windowDue (v : Island) : Bool := v.windows * 4096 + 4096 ≤ v.tick

/-- The end of a window: ceiling, boost, target and operating point (R334). -/
def Island.endWindow (v : Island) : Island :=
  let v := v.raiseMax
  let ceil := if v.wv ≤ 8 * v.wm then 3 else 5
  let boost := v.boost && v.thr == 0 && !v.tws && (v.grant : Int) ≤ v.bal
  let target := if ceil < v.op then ceil else if boost then min ceil (v.op + 1) else 2
  { v with ceil, target, wm := 0, wv := 0, windows := v.windows + 1 }.settle

/-- Count one vector instruction in the window of an island (R334). -/
def State.countVector (s : State) (i : Nat) : State :=
  s.setIsland i { s.island i with wv := (s.island i).wv + 1 }

/-! ### Tides (R326, R332) -/

/-- The pending values take effect (R324, R326). -/
def Island.applyPending (v : Island) : Island :=
  let b := v.pballast
  { v with
    grant := v.pgrant.getD v.grant, res := v.pres.getD v.res, mrate := v.pmrate.getD v.mrate,
    cost := Tbl.setAll v.cost v.pcost, weight := Tbl.setAll v.weight v.pweight,
    bcost := (b.map (fun n => bits n 0 16)).getD v.bcost,
    bweight := (b.map (fun n => bits n 16 8)).getD v.bweight,
    fweight := (b.map (fun n => bits n 24 8)).getD v.fweight,
    pgrant := none, pres := none, pmrate := none, pcost := [], pweight := [], pballast := none }

/-- Balance after the refill of a boundary. -/
def Island.refilled (v : Island) : Int :=
  satBal (min (v.bal + v.grant - v.res) (2 * (v.grant : Int)))

/-- The arithmetic of a boundary with a number of ballast cores, up to the throttle check. -/
def Island.boundary (v : Island) (ballast : Nat) : Island :=
  let v := v.applyPending
  { v with rbal := v.res, bal := satBal (v.refilled - ((ballast * v.bcost : Nat) : Int)),
           tides := (v.tides + 1) % 2 ^ 64, stepped := false }

/-- The recovery step and a raised OPMAX (R332, R346). -/
def Island.recover (v : Island) : Island :=
  (if 0 ≤ v.bal ∧ 0 < v.thr then { v with thr := v.thr - 1 } else v).raiseMax.settle

/-- The cores of an island that run ballast. -/
def State.ballastCores (s : State) (i : Nat) : List Nat :=
  (islandCores i).filter (fun c => (s.core c).ballast)

/-- A boundary on one island. -/
def State.tideIsland (s : State) (i : Nat) : State :=
  let s := (s.setIsland i ((s.island i).boundary (s.ballastCores i).length)).throttleCheck i
  s.setIsland i (s.island i).recover

/-- The islands of a die. -/
def dieIslands (d : Nat) : List Nat := (List.range 6).map (fun k => d * 6 + k)

/-- The next boundary of a die has come (R326). -/
def State.tideDue (s : State) (d : Nat) : Bool :=
  (s.die d).tideNo * (1000 * s.tide) ≤ s.timeWith (s.die d).skew

/-- The step of a warning on an island, if TIME has reached it; a thermal emergency holds it back (R331). -/
def State.stepNow (s : State) (i : Nat) : State :=
  if s.stepDue i && !s.thermal then s.setIsland i (s.island i).throttleStep else s

/-- The next boundary of a die, if it has come, after the throttle steps of earlier times (R326, R331).  A step that
falls at the TIME of the boundary comes after it and so counts in the new tide (log entry 129). -/
def State.nextTide (s : State) (d : Nat) : State :=
  if s.tideDue d then
    let b := (s.die d).tideNo * (1000 * s.tide)
    let s := (dieIslands d).foldl (fun s i => if (s.island i).tstep < b then s.stepNow i else s) s
    (dieIslands d).foldl State.tideIsland
      (s.setDie d { s.die d with tideNo := (s.die d).tideNo + 1 })
  else s

/-- Some boundaries in turn. -/
def State.tides (s : State) (d : Nat) : Nat → State
  | 0 => s
  | n + 1 => State.tides (s.nextTide d) d n

/-- Every boundary of a die that has come, before a charge or a dispatch slot of the same tick (R326). -/
def State.catchTides (s : State) (d : Nat) : State :=
  s.tides d (s.timeWith (s.die d).skew / (1000 * s.tide) + 1 - (s.die d).tideNo)

/-- The window of an island that has run out ends (R334). -/
def State.closeWindow (s : State) (i : Nat) : State :=
  if (s.island i).windowDue then s.setIsland i (s.island i).endWindow else s

/-- What TIME and TICK have brought about in the governors: boundaries and throttle steps in the order of their times,
then the ends of windows (R326, R331, R334). -/
def State.govern (s : State) : State :=
  let s := (List.range 4).foldl State.catchTides s
  let s := (List.range 24).foldl State.stepNow s
  (List.range 24).foldl State.closeWindow s

/-! ### Writes of Duwen, and what crosses to another island (R17, R341, R342, R345, R346) -/

/-- The pending value of a field written; none where it may not be (R342). -/
def Island.writeField (v : Island) (n x : Nat) : Option Island :=
  match n with
  | 1 =>
    if x ≤ 16383 then
      some { v with pgrant := some x,
                    pres := if x < v.pres.getD v.res then some x else v.pres }
    else none
  | 2 => if x ≤ v.pgrant.getD v.grant then some { v with pres := some x } else none
  | 6 => if 16 ≤ x ∧ x ≤ 30 then some { v with pmrate := some x } else none
  | 7 => if x < 2 ^ 32 then some { v with pballast := some x } else none
  | _ => none

/-- OPMAX and BOOST written: a lower OPMAX takes effect at once, a higher one later. -/
def Island.setLimit (v : Island) (n : Nat) (boost : Bool) : Island :=
  let v := { v with boost }
  if n ≤ v.opmax then { v with opmax := n, popmax := none }.settle else { v with popmax := some n }

/-- A write of Duwen is performed at its island.  A RES that is more than the pending GRANT when the write arrives,
because another core has lowered it since the check at issue, is dropped (R342; log entry 128). -/
def Island.write (v : Island) (w : IslandWrite) : Island :=
  match w with
  | .field n x => (v.writeField n x).getD v
  | .cls n x =>
    { v with pcost := Tbl.set v.pcost n (bits x 0 16), pweight := Tbl.set v.pweight n (bits x 16 8) }
  | .limit n boost => v.setLimit n boost

/-- An island as an operation of a core finds it that follows the core's own writes on their way (R17; log entry
98). -/
def Island.seenBy (v : Island) (c : Nat) : Island :=
  ((v.inbox.filter (fun e => e.sender == c)).map (fun e => e.write)).foldl Island.write v

/-- The writes whose time has come are performed, after the boundaries that have come (R17, R326, R347). -/
def State.receive (s : State) (i : Nat) : State :=
  let due (e : Crossing) : Bool := e.tick ≤ (s.island i).tick
  if (s.island i).inbox.any due then
    let s := s.catchTides (i / 6)
    let v := s.island i
    s.setIsland i (((v.inbox.filter due).map (fun e => e.write)).foldl Island.write
      { v with inbox := v.inbox.filter (fun e => !due e), acted := true })
  else s

/-- A core's write to an island: at once to its own, and 6 to 9 ticks of the receiver later to another, behind
the core's earlier ones (R17, R341). -/
def State.sendWrite (s : State) (c i : Nat) (w : IslandWrite) : State :=
  let v := s.island i
  if i = islandOf c then s.setIsland i ({ v with acted := true }.write w)
  else
    let last := (v.inbox.filter (fun e => e.sender == c)).foldl (fun n e => max n e.tick) 0
    let tick := max last (v.tick + 6 + Config.freePick s.fresh % 4)
    let e : Crossing := { tick, sender := c, write := w }
    { s with fresh := s.fresh + 1 }.setIsland i { v with inbox := v.inbox ++ [e] }

/-! ### Charges (R327, R329) -/

/-- Change BAL, with the check that follows every change; boundaries that have come are applied first
(R326, R331). -/
def State.changeBal (s : State) (i : Nat) (d : Int) : State :=
  let s := s.catchTides (i / 6)
  let v := s.island i
  (s.setIsland i { v with bal := satBal (v.bal + d), acted := true }).throttleCheck i

/-- Charge a cost, a T0 unit's first to the reserve (R327). -/
def State.charge (s : State) (i : Nat) (t0 : Bool) (c : Nat) : State :=
  let s := s.catchTides (i / 6)
  let v := s.island i
  let t := if t0 then min v.rbal c else 0
  (s.setIsland i { v with rbal := v.rbal - t }).changeBal i (-((c - t : Nat) : Int))

/-- The task that an access of a core is metered to; accesses of Duwen are metered to none (R329). -/
def State.meterOf (s : State) (c : Nat) : Option Meter :=
  (s.core c).task.map (fun t => { task := t.id, island := islandOf c })

/-- The counters of a task after one metered line, and the BU that it charges (R329). -/
def Task.meter (t : Task) (mrate : Nat) : Task × Nat :=
  let rem := t.mrem.toNat + 64
  let n := rem / 2 ^ mrate
  ({ t with mbytes := t.mbytes + 64, mrem := BitVec.ofNat 32 (rem % 2 ^ mrate),
            jctr := t.jctr + BitVec.ofNat 64 (100 * n) }, n)

/-- Something has been charged to an island, or written to its budget, in its present tick: a boundary of that tick has
come before it (R326, R347). -/
def State.act (s : State) (i : Nat) : State := s.setIsland i { s.island i with acted := true }

/-- Draw the BU of metered lines from an island (R329). -/
def State.drawLines (s : State) (i n : Nat) : State := if n = 0 then s.act i else s.changeBal i (-(n : Int))

/-- One line metered to the task on a core. -/
def State.meterCore (s : State) (c : Nat) (t : Task) : State :=
  let s := s.catchTides (dieOf c)
  let (t, n) := t.meter (s.island (islandOf c)).mrate
  (s.modCore c (fun k => { k with task := some t })).drawLines (islandOf c) n

/-- The counters of a saved task as its area holds them (Table 15.6). -/
def saveCounters (m : Memory) (area : Nat) (t : Task) : Memory :=
  ((m.write (area + 0x300) 8 t.jctr.toNat).write (area + 0x308) 8 t.mbytes.toNat).write (area + 0x310) 8
    t.mrem.toNat

/-- One line metered to a saved task, on the island that it last ran on. -/
def State.meterSaved (s : State) (i : Nat) (v : SavedContext) : State :=
  let s := s.catchTides (i / 6)
  let (t, n) := v.task.meter (s.island i).mrate
  let saved := s.saved.map (fun (w : SavedContext) => if w.area = v.area then { w with task := t } else w)
  { s with mem := saveCounters s.mem v.area t, saved }.drawLines i n

/-- One line metered to a task that has ended: its island is charged, and no counter changes.  No rule says
how much; the charge is free between 0 and 1 BU (R329; log entry 48). -/
def State.meterEnded (s : State) (i : Nat) : State :=
  { s with fresh := s.fresh + 1 }.drawLines i (if Config.freeBit s.fresh then 1 else 0)

/-- A line reaches or leaves its LPDDR 6 device: it is metered to the task given, wherever that task is now
(R329). -/
def State.meterTo (s : State) (m : Option Meter) : State :=
  match m with
  | none => s
  | some m =>
    match s.cores.find? (fun e => e.2.task.any (fun t => t.id == m.task)) with
    | some (c, k) =>
      match k.task with
      | some t => s.meterCore c t
      | none => s
    | none =>
      match s.saved.find? (fun v => v.task.id == m.task) with
      | some v => s.meterSaved m.island v
      | none => s.meterEnded m.island

end Sys2Proof.Machine
end

