-- ==== Sys2Proof/Machine/Translate.lean ====
section
/-!
DEFINITION. Address translation, as far as it reads the state only: the physical map (R139), page-table
entries (R145), the levels of a walk (R147), the checks on a leaf and dual-backed redirection (R189).
-/

namespace Sys2Proof.Machine

/-- The kinds of access that a translation checks (R147); an AMO is a store that also needs R
(R276). -/
inductive AccessKind where
  | load | store | fetch | amo
  deriving DecidableEq, Repr

/-- KIND of FDET (Table 6.7). -/
def AccessKind.code : AccessKind → Nat
  | .load => 0 | .store => 1 | .amo => 1 | .fetch => 2

/-- The k_PAGE cause of an access kind (R147). -/
def AccessKind.pageCause : AccessKind → Cause
  | .load => .loadPage | .store => .storePage | .amo => .storePage | .fetch => .fetchPage

/-- The permission cause of an access kind (R147). -/
def AccessKind.accessCause : AccessKind → Cause
  | .fetch => .fetchAccess
  | _ => .access

/-! ### The physical map (Table 6.2, R139) -/

def lpddrTop : Nat := 0xC000000000
def deviceBase : Nat := 0x200000000000
def hostBase : Nat := 0x300000000000

/-- LPDDR 6. -/
def isLpddr (pa : Nat) : Bool := pa < lpddrTop

/-- Device registers and host queue pages. -/
def isDevice (pa : Nat) : Bool := deviceBase ≤ pa && pa < hostBase

/-- Host memory over PCIe. -/
def isHostMem (pa : Nat) : Bool := hostBase ≤ pa && pa < 0x400000000000

/-- Assigned to none. -/
def isUnassigned (pa : Nat) : Bool := !isLpddr pa && !isDevice pa && !isHostMem pa

/-- The home die of an LPDDR 6 address (R19). -/
def homeDie (pa : Nat) : Nat := pa / 0x3000000000

/-- A physical address that an access at a privilege may not reach (R139). -/
def forbiddenPa (firmware : Bool) (pa : Nat) : Bool := isUnassigned pa || (isDevice pa && !firmware)

/-! ### Page-table entries (Table 6.4, R145) -/

def pteV (e : Nat) : Bool := bit e 0
def pteR (e : Nat) : Bool := bit e 1
def pteW (e : Nat) : Bool := bit e 2
def pteX (e : Nat) : Bool := bit e 3
def pteFl (e : Nat) : Bool := bit e 6
def pteBh (e : Nat) : Bool := bit e 7
def pteD (e : Nat) : Bool := bit e 9
def pteG (e : Nat) : Bool := bit e 10
def pteFr (e : Nat) : Bool := bit e 11
def ptePb (e : Nat) : Bool := bit e 12
def pteU (e : Nat) : Bool := bit e 56
/-- PA[45:13] of the page or next table, as an address. -/
def pteFrame (e : Nat) : Nat := bits e 13 33 * 2 ^ 13
/-- An entry with V = 1 and none of R, W and X points to the next table. -/
def ptePointer (e : Nat) : Bool := bits e 1 3 == 0

/-- The order kind of a leaf (Table 7.4); device registers are SO whatever their OK field (R175). -/
def orderOf (e pa : Nat) : OrderKind :=
  if isDevice pa then .so
  else match bits e 4 2 with
    | 0 => .rc | 1 => .so | 2 => .un | _ => .dc

/-- The size of a leaf's page by level (R144). -/
def pageBits (lvl : Nat) : Nat := 13 + 10 * lvl

/-- The reserved-entry conditions of an entry with V = 1 (R145). -/
def pteReserved (e lvl : Nat) : Bool :=
  bits e 57 7 != 0 ||
  (if ptePointer e then bit e 56 || bits e 4 9 != 0 || lvl == 0
   else lvl == 3 || (pteFrame e % 2 ^ pageBits lvl != 0) ||
     (lvl != 0 && (pteFr e || ptePb e)))

/-- Why a translation fails: the cause and what FDET says (R152). -/
structure TransFault where
  cause : Cause
  lvl   : Nat
  rsvd  : Bool
  pager : Bool
  deriving DecidableEq, Repr

/-- A translated byte: its physical address, order kind and leaf. -/
structure Mapped where
  pa    : Nat
  kind  : OrderKind
  pte   : Nat
  lvl   : Nat
  deriving DecidableEq, Repr

/-- A walk's fault, as the access that waits for it raises it (R143, R147). -/
def walkFault (k : AccessKind) (lvl : Nat) (rsvd uncorr : Bool) : TransFault :=
  { cause := if uncorr then .memUncorr else k.pageCause, lvl, rsvd, pager := false }

/-- The physical address of the entry of a table that a virtual address selects (Table 6.3). -/
def entryAddr (va lvl tbl : Nat) : Nat := tbl + 8 * bits va (13 + 10 * lvl) (if lvl = 3 then 5 else 10)

/-- What one entry read does: the walk goes on at the next table, or ends.  The entry is checked before a
pointer is followed, and a pointer at level 0 is a reserved-entry violation (R145, R147). -/
def entryStep (bad : Bool) (addr lvl e : Nat) : WalkEnd ⊕ Nat :=
  if bad then .inl (.fault lvl false true)
  else if !pteV e then .inl (.fault lvl false false)
  else if pteReserved e lvl then .inl (.fault lvl true false)
  else if ptePointer e then .inr (pteFrame e)
  else .inl (.leaf e addr lvl)

/-- The walk from a table of a level down, all its entries as the home copies hold them now (R147). -/
def walkFrom (s : State) (va : Nat) : Nat → Nat → WalkEnd
  | 0, tbl =>
    let addr := entryAddr va 0 tbl
    match entryStep (s.badLines.contains (addr / 64)) addr 0 (s.mem.read addr 8) with
    | .inl w => w
    | .inr _ => .fault 0 true false
  | l + 1, tbl =>
    let addr := entryAddr va (l + 1) tbl
    match entryStep (s.badLines.contains (addr / 64)) addr (l + 1) (s.mem.read addr 8) with
    | .inl w => w
    | .inr n => walkFrom s va l n

/-- The permission checks on a leaf (R147), then the range checks of Table 6.2. -/
def checkLeaf (firmware : Bool) (k : AccessKind) (e lvl pa : Nat) : Option TransFault :=
  let denied : TransFault := { cause := k.accessCause, lvl := lvl, rsvd := false, pager := false }
  if (k == .load || k == .amo) && !pteR e then some denied
  else if (k == .store || k == .amo) && !pteW e then some denied
  else if k == .fetch && !pteX e then some denied
  else if !firmware && !pteU e then some denied
  else if forbiddenPa firmware pa then some denied
  else none

/-- The physical address of a virtual one under a leaf (R147). -/
def leafPa (e lvl va : Nat) : Nat := pteFrame e + va % 2 ^ pageBits lvl

/-- A TLB entry serves an address (R149). -/
def TlbEntry.serves (t : TlbEntry) (asid va : Nat) : Bool :=
  (t.asid == asid || pteG t.pte) && va / 2 ^ pageBits t.lvl == t.vbase / 2 ^ pageBits t.lvl

/-- ASID and level-3 table of PTROOT (Table 6.5). -/
def rootAsid (r : Word) : Nat := bits r.toNat 48 16
def rootTable (r : Word) : Nat := bits r.toNat 13 33 * 2 ^ 13

/-- The bound dual-backed slot that an address lies in (R189). -/
def State.dbbAt (s : State) (asid va : Nat) : Option (Nat × DbbSlot) :=
  ((List.range 64).map (fun n => (n, s.slot n))).find? (fun e =>
    e.2.bound && e.2.asid == asid && e.2.fbase ≤ va && va < e.2.fbase + e.2.len)

/-- The address translated for an access: the selected backing of a dual-backed range, or the other
one for a shadow write (R189). -/
def State.redirect (s : State) (asid va : Nat) (shadow : Bool) : Nat :=
  match s.dbbAt asid va with
  | some (_, d) => if d.sel != shadow then d.abase + (va - d.fbase) else va
  | none => va

/-- The `n` byte addresses from one up, modulo 2^64 (R154). -/
def addrsFrom (ea : Nat) (n : Nat) : List Nat := (List.range n).map (fun i => (ea + i) % 2 ^ 64)

end Sys2Proof.Machine
end

