-- ==== Sys2Proof/Machine/Home.lean ====
section
/-!
DEFINITION. Where bytes live: the host queue registers in the device range (R304), the home copies with the L2
lines that metering counts (R140, R329), the remote-data caches of the dies (R171 to R173) and the atomics of
the SYEs (R271 to R279).

Device memory is the home copy of every line.  An RC byte homed on another die than its writer becomes a dirty
byte of that die's RDC, which only the owning core sees (R171).
-/

namespace Sys2Proof.Machine

/-! ### Host queue registers (Table 12.6) -/

/-- Fold an index into WIDX as a serial-number maximum (R306). -/
def foldWidx (q : HostQueue) (w : BitVec 32) : HostQueue :=
  let d := (w - q.widx).toNat
  { q with widx := if 1 ≤ d ∧ d < 2 ^ 31 then w else q.widx, examine := true }

/-- The byte address of a ring slot (R305). -/
def HostQueue.slotAddr (q : HostQueue) (i : Nat) : Nat := q.ring + 64 * (i % 2 ^ q.log2sz)

/-- The physical address of an address of a queue's descriptor: ring, DOORBELL and RMIRROR lie in the
address space that the queue is mapped into (R304, R305, R412). -/
def HostQueue.phys (q : HostQueue) (s : State) (va : Nat) : Option Nat :=
  match walkFrom s va 3 (rootTable q.root) with
  | .leaf pte _ lvl => some (leafPa pte lvl va)
  | .fault _ _ _ => none

/-- The phase of a packet is that of its pass (R308). -/
def HostQueue.phaseOk (q : HostQueue) (i hdr : Nat) : Bool := bit hdr 0 == (i / 2 ^ q.log2sz % 2 == 0)

/-- The packet at an index is valid: PHASE = 1 − (pass mod 2) (R308). -/
def HostQueue.validAt (q : HostQueue) (s : State) (i : Nat) : Bool :=
  match q.phys s (q.slotAddr i) with
  | some pa => q.phaseOk i (s.mem.read pa 4)
  | none => false

/-- QSTAT (Table 12.6). -/
def HostQueue.qstat (q : HostQueue) (s : State) : Nat :=
  (if q.enabled then 1 else 0) +
  (if q.ridx ≠ q.widx ∧ q.validAt s q.ridx.toNat = false then 2 else 0) +
  (if q.rfault then 4 else 0) + q.window.length * 2 ^ 8

/-- The queue and offset of an address in the host queue pages (R304). -/
def queuePage (pa : Nat) : Option (Nat × Nat) :=
  if deviceBase ≤ pa ∧ pa < deviceBase + 64 * 0x1000 then
    some ((pa - deviceBase) / 0x1000, (pa - deviceBase) % 0x1000)
  else none

/-- The 64-bit value of a host queue register; reserved and write-only ones read zero (R304). -/
def queueRegister (s : State) (q off : Nat) : Nat :=
  let h := s.queue q
  match off with
  | 0x008 => h.widx.toNat
  | 0x010 => h.ridx.toNat
  | 0x018 => h.tokens.toNat
  | 0x030 => h.qstat s
  | _ => 0

/-- A write to a host queue register: KICK, TOKSET and TOKCLR act, the others ignore it (R304,
R306). -/
def writeQueueRegister (s : State) (q off : Nat) (v : Word) : State :=
  let h := s.queue q
  match off with
  | 0x000 => s.setQueue q (foldWidx h (BitVec.ofNat 32 v.toNat))
  | 0x020 => s.setQueue q { h with tokens := h.tokens ||| v }
  | 0x028 => s.setQueue q { h with tokens := h.tokens &&& ~~~v }
  | _ => s

/-! ### The home copy -/

/-- The byte of the home copy of an address.  Host queue pages read their registers; the spec gives no
contents for other device registers, so those bytes are free values (log entry 12). -/
def State.homeByte (s : State) (pa : Nat) : Byte :=
  if isDevice pa then
    match queuePage pa with
    | some (q, off) => BitVec.ofNat 8 (queueRegister s q (off / 8 * 8) / 256 ^ (off % 8))
    | none => Config.freeByte (s.fresh + pa)
  else s.mem.get pa

/-- What an access performed at the home does beyond its bytes: a DOORBELL word passes its value to the LFE
after every store and atomic (R306), and a store to the head line of a ring lets the LFE examine it again
(R308). -/
def State.homeEvents (s : State) (store : Bool) (pas : List Nat) : List Nat → State
  | [] => s
  | q :: rest =>
    let h := s.queue q
    let h :=
      match h.phys s h.doorbell with
      | some d =>
        if pas.any (fun a => a / 8 == d / 8) then
          { h with bells := h.bells ++ [BitVec.ofNat 32 (s.mem.read d 4)] }
        else h
      | none => h
    let h :=
      match h.phys s (h.slotAddr h.ridx.toNat) with
      | some r =>
        if store && isLpddr r && pas.any (fun a => a / 64 == r / 64) then { h with examine := true } else h
      | none => h
    State.homeEvents (if h = s.queue q then s else s.setQueue q h) store pas rest

/-- The queues that Duwen has configured, or that have stopped at a fault. -/
def State.listedQueues (s : State) : List Nat :=
  (s.queues.filter (fun e => e.2.enabled || e.2.rfault)).map (fun e => e.1)

/-- A WAITB that waits for a store to a line performed at its home reads its word again (R322). -/
def State.wakeLines (s : State) (pas : List Nat) : State :=
  let woken (k : Core) : Bool :=
    match k.waitLine with
    | some l => pas.any (fun a => a / 64 == l)
    | none => false
  if s.cores.any (fun e => woken e.2) then
    { s with cores := s.cores.map (fun e => if woken e.2 then (e.1, { e.2 with waitLine := none }) else e) }
  else s

/-- A list without the repeats that follow each other. -/
def withoutRuns : List Nat → List Nat
  | [] => []
  | a :: rest =>
    match withoutRuns rest with
    | [] => [a]
    | b :: t => if a = b then b :: t else a :: b :: t

/-- Bytes of an access reach a host queue register: KICK ignores its upper half (Table 12.6). -/
def registerTakes (off : Nat) (own : List (Nat × Byte)) : Bool :=
  off != 0 || own.any (fun e => e.1 % 8 < 4)

/-- The registers that the bytes of one access cover, in address order, each written with its own bytes
(R304).  The bytes that an access does not cover count as 0, of the index that a store to KICK passes too (log entry
127). -/
def State.writeRegisters (s : State) (bytes : List (Nat × Byte)) : List Nat → State
  | [] => s
  | r :: rest =>
    let own := bytes.filter (fun e => e.1 / 8 == r)
    let v := own.foldl (fun n e => n + e.2.toNat * 256 ^ (e.1 % 8)) 0
    let s := match queuePage (r * 8) with
      | some (q, off) => if registerTakes off own then writeQueueRegister s q off (BitVec.ofNat 64 v) else s
      | none => s
    State.writeRegisters s bytes rest

/-- Write bytes to the home copies, one access. -/
def State.storeHome (s : State) (bytes : List (Nat × Byte)) : State :=
  let s := { s with mem := s.mem.setAll (bytes.filter (fun e => !isDevice e.1)) }
  let dev := bytes.filter (fun e => isDevice e.1)
  let s := s.writeRegisters dev (withoutRuns (dev.map (fun e => e.1 / 8)))
  let pas := bytes.map (fun (e : Nat × Byte) => e.1)
  (s.homeEvents true pas s.listedQueues).wakeLines pas

/-! ### Lines between the L2 and its devices (R25, R140, R329) -/

/-- Lines of a die's L2 and of its RDC: 96 MiB and 16 MiB (Tables 1.1 and 1.8). -/
def l2Lines : Nat := 1572864
def rdcLines : Nat := 262144

/-- A 64-byte line reaches or leaves its LPDDR 6 device for a task: it is to be metered (R329). -/
def State.noteLine (s : State) (m : Option Meter) : State :=
  match m with
  | none => s
  | some m => { s with lines := s.lines ++ [m] }

/-- Every noted line is metered, in order (R329). -/
def State.meterLines (s : State) : State :=
  if s.lines.isEmpty then s else s.lines.foldl (fun s m => s.meterTo (some m)) { s with lines := [] }

/-- The L2 line of a number. -/
def Die.l2Line (d : Die) (line : Nat) : Option L2Line := d.l2.find? (fun l => l.line == line)

/-- The L2 of the home gives up a line: a dirty one is written back, metered to the task that last made it
dirty (R329). -/
def State.dropL2 (s : State) (line : Nat) : State :=
  let d := homeDie (line * 64)
  match (s.die d).l2Line line with
  | none => s
  | some l =>
    (s.setDie d { s.die d with l2 := (s.die d).l2.filter (fun x => x.line != line) }).noteLine
      (if l.dirty then l.meter else none)

/-- One of some lines, freely: which line a full cache replaces is open (log entry 83). -/
def State.victim (s : State) (lines : List Nat) : Nat :=
  (lines[Config.freePick s.fresh % lines.length]?).getD 0

/-- Room for one more line in the L2 of a die. -/
def State.roomL2 (s : State) (d : Nat) : State :=
  if (s.die d).l2.length < l2Lines then s
  else { s with fresh := s.fresh + 1 }.dropL2 (s.victim ((s.die d).l2.map (fun (l : L2Line) => l.line)))

/-- An access reaches a line at its home, for a task or for nobody: a line that the L2 lacks is read from its
device and metered, and a store makes it dirty (R140, R329; log entry 83). -/
def State.touchLine (s : State) (line : Nat) (store : Bool) (m : Option Meter) : State :=
  if !isLpddr (line * 64) then s
  else
    let d := homeDie (line * 64)
    match (s.die d).l2Line line with
    | some l =>
      if !store || (l.dirty && l.meter == m) then s
      else
        s.setDie d { s.die d with
          l2 := (s.die d).l2.map (fun x => if x.line = line then { x with dirty := true, meter := m } else x) }
    | none =>
      let s := s.roomL2 d
      (s.setDie d { s.die d with
        l2 := { line, dirty := store, meter := if store then m else none } :: (s.die d).l2 }).noteLine m

/-- Write bytes to the home copies for a task, one access. -/
def State.storeFor (s : State) (m : Option Meter) (bytes : List (Nat × Byte)) : State :=
  ((withoutRuns (bytes.map (fun (e : Nat × Byte) => e.1 / 64))).foldl (fun s l => s.touchLine l true m)
    s).storeHome bytes

/-! ### The remote-data cache (R171 to R173) -/

/-- The line of a die's RDC that holds an address, for UN accesses or for the others (R178). -/
def Die.line (d : Die) (pa : Nat) (un : Bool) : Option RdcLine :=
  d.rdc.find? (fun l => l.line == pa / 64 && l.un == un)

/-- Replace or add an RDC line. -/
def Die.setLine (d : Die) (l : RdcLine) : Die :=
  { d with rdc := l :: d.rdc.filter (fun x => x.line != l.line || x.un != l.un) }

/-- The byte held at an offset. -/
def RdcLine.byte (l : RdcLine) (o : Nat) : Option Byte := (l.data.find? (fun e => e.1 == o)).map (fun e => e.2)

/-- The dirty bytes of a line, with their addresses. -/
def RdcLine.dirtyBytes (l : RdcLine) : List (Nat × Byte) :=
  l.dirty.map (fun o => (l.line * 64 + o, (l.byte o).getD 0))

/-- A line belongs to some order kinds (Table 7.3). -/
def RdcLine.ofKinds (l : RdcLine) (kinds : List OrderKind) : Bool :=
  if l.un then kinds.contains .un else kinds.contains .rc || (l.dc && kinds.contains .dc)

/-- A line without its clean bytes: nothing is left of a clean one (R168; log entry 84). -/
def RdcLine.onlyDirty (l : RdcLine) : Option RdcLine :=
  if l.dirty.isEmpty then none else some { l with data := l.data.filter (fun e => l.dirty.contains e.1) }

/-- The place that the byte of a UN store at an address has taken at its home. -/
def UnStore.placeAt (u : UnStore) (pa : Nat) : Option Nat := (u.place.find? (fun e => e.1 == pa)).map (fun e => e.2)

/-- The bytes of a UN store at some addresses that have no place yet. -/
def UnStore.unplaced (u : UnStore) (pas : List Nat) : List Nat :=
  (u.bytes.map (fun e => e.1)).filter (fun a => pas.contains a && (u.placeAt a).isNone)

/-- The bytes of some UN stores of a die at some addresses take the next places, in the order of the stores. -/
def takePlaces (d : Nat) (pas : List Nat) : List UnStore → Nat → List UnStore × Nat
  | [], n => ([], n)
  | u :: rest, n =>
    let as' := if dieOf u.core = d then u.unplaced pas else []
    if as'.isEmpty then
      let (l, m) := takePlaces d pas rest n
      (u :: l, m)
    else
      let (l, m) := takePlaces d pas rest (n + 1)
      ({ u with place := as'.foldl (fun t a => Tbl.set t a (n + 1)) u.place } :: l, m)

/-- The UN bytes of a die at some addresses reach their homes, one location after another's (R164, R176). -/
def State.reachHome (s : State) (d : Nat) (pas : List Nat) : State :=
  if s.unLog.isEmpty then s
  else
    let (l, n) := takePlaces d pas s.unLog s.unPlaces
    { s with unLog := l, unPlaces := n }

/-- Write one line back to its home; it stays clean, but a UN line is given up, which a die may do at any time
(R171, R176). -/
def State.writeBackLine (s : State) (d : Nat) (l : RdcLine) : State :=
  if l.un then
    let s := s.setDie d { s.die d with rdc := (s.die d).rdc.filter (fun x => x.line != l.line || !x.un) }
    (s.storeFor l.meter l.dirtyBytes).reachHome d (l.dirtyBytes.map (fun e => e.1))
  else
    let s := s.setDie d ((s.die d).setLine { l with dirty := [], owner := none, meter := none })
    s.storeFor l.meter l.dirtyBytes

/-- Write back the lines of a list. -/
def State.writeBackList (s : State) (d : Nat) : List RdcLine → State
  | [] => s
  | l :: rest => State.writeBackList (s.writeBackLine d l) d rest

/-- Write back every dirty line of a die's RDC that satisfies a test. -/
def State.writeBackIf (s : State) (d : Nat) (sel : RdcLine → Bool) : State :=
  s.writeBackList d ((s.die d).rdc.filter (fun l => sel l && !l.dirty.isEmpty))

/-- Write back every dirty line of the kinds given in a die's RDC (R173). -/
def State.writeBack (s : State) (d : Nat) (kinds : List OrderKind) : State :=
  s.writeBackIf d (fun l => l.ofKinds kinds)

/-- Invalidate what is clean of the lines of the kinds given in a die's RDC (R173). -/
def State.invalidate (s : State) (d : Nat) (kinds : List OrderKind) : State :=
  let die := s.die d
  s.setDie d { die with rdc := die.rdc.filterMap (fun l => if l.ofKinds kinds then l.onlyDirty else some l) }

/-- Drop lines of a die's RDC that satisfy a test, the dirty ones written back first. -/
def State.dropLines (s : State) (d : Nat) (sel : RdcLine → Bool) : State :=
  if (s.die d).rdc.any sel then
    let s := s.writeBackIf d sel
    s.setDie d { s.die d with rdc := (s.die d).rdc.filter (fun l => !sel l) }
  else s

/-- A die drops a line of its RDC, writing it back when it is dirty (R171). -/
def State.evictLine (s : State) (d line : Nat) : State := s.dropLines d (fun l => l.line == line)

/-- A die's RC and DC copy of a line leaves its RDC, before an access that goes to the home itself: an SO
access of the die, or a read of its walker (R162, R164, R178). -/
def State.bypassRdc (s : State) (d pa : Nat) : State :=
  s.dropLines d (fun l => l.line == pa / 64 && !l.un)

/-- What an acquire at a scope does to the RDC of its die (R168, R173). -/
def State.acquireRdc (s : State) (c : Nat) (sc : Scope) : State :=
  match sc with
  | .dev | .sys => s.invalidate (dieOf c) [.rc, .dc]
  | _ => s

/-- What a release at a scope does to the RDC of its die (R173). -/
def State.releaseRdc (s : State) (c : Nat) (sc : Scope) : State :=
  match sc with
  | .dev | .sys => s.writeBack (dieOf c) [.rc]
  | _ => s

/-- A die may hold a line of an address in its RDC: LPDDR 6 homed elsewhere, and no word of the line a
sync variable (R140, R272). -/
def State.rdcMayHold (s : State) (d pa : Nat) (kind : OrderKind) : Bool :=
  isLpddr pa && homeDie pa != d && kind != .so &&
    !((s.die (homeDie pa)).syncVars.any (fun w => w / 64 == pa / 64))

/-- Room for one more line in the RDC of a die: a full one gives up a line, written back if dirty (R25,
R171). -/
def State.roomRdc (s : State) (d : Nat) : State :=
  if (s.die d).rdc.length < rdcLines then s
  else { s with fresh := s.fresh + 1 }.evictLine d (s.victim ((s.die d).rdc.map (fun (l : RdcLine) => l.line)))

/-- An RDC line that holds nothing yet. -/
def RdcLine.fresh (pa : Nat) (un : Bool) : RdcLine :=
  { line := pa / 64, un, dc := false, data := [], dirty := [], owner := none, meter := none, place := 0 }

/-- The line of an address in a die's RDC, for an access by a core: written back first when another core owns
it dirty (R171), with room made when it is not there. -/
def State.rdcOpen (s : State) (c pa : Nat) (un : Bool) : State × RdcLine :=
  let d := dieOf c
  match (s.die d).line pa un with
  | some l =>
    if !un && !l.dirty.isEmpty && l.owner != some c then
      let s := s.writeBackLine d l
      (s, ((s.die d).line pa un).getD (.fresh pa un))
    else (s, l)
  | none => (s.roomRdc d, .fresh pa un)

/-- The line of an address in a die's RDC, as an access of a kind finds it for a task: filled from the home where it
lacks the byte (R171, R172). -/
def State.rdcFetchFor (s : State) (m : Option Meter) (c pa : Nat) (kind : OrderKind) : State × RdcLine :=
  let un := kind == .un
  let (s, l) := s.rdcOpen c pa un
  let l := { l with dc := l.dc || kind == .dc }
  if (l.byte (pa % 64)).isSome then (s.setDie (dieOf c) ((s.die (dieOf c)).setLine l), l)
  else
    let s := s.touchLine (pa / 64) false m
    let l := { l with
      data := (List.range 64).map (fun o => (o, (l.byte o).getD (s.mem.get (pa / 64 * 64 + o)))),
      place := s.unPlaces }
    (s.setDie (dieOf c) ((s.die (dieOf c)).setLine l), l)

/-- The line of an address for the task that runs on a core. -/
def State.rdcFetch (s : State) (c pa : Nat) (kind : OrderKind) : State × RdcLine :=
  s.rdcFetchFor (s.meterOf c) c pa kind

/-- Read one byte as a core's access of an order kind finds it below its own stream's stores, for a task or for
nobody. -/
def State.readByteFor (s : State) (m : Option Meter) (c pa : Nat) (kind : OrderKind) : State × Byte :=
  if s.rdcMayHold (dieOf c) pa kind then
    let (s, l) := s.rdcFetchFor m c pa kind
    (s, (l.byte (pa % 64)).getD 0)
  else
    let s := if kind == .so then s.bypassRdc (dieOf c) pa else s
    let s := s.touchLine (pa / 64) false m
    (s, s.homeByte pa)

/-- Read one byte for the task that runs on a core. -/
def State.readByte (s : State) (c pa : Nat) (kind : OrderKind) : State × Byte :=
  s.readByteFor (s.meterOf c) c pa kind

/-- Perform one byte of a store (R171, R172): to the RDC for a cacheable remote line, else home. -/
def State.writeByte (s : State) (c pa : Nat) (b : Byte) (kind : OrderKind) :
    State × List (Nat × Byte) :=
  if s.rdcMayHold (dieOf c) pa kind then
    let (s, l) := s.rdcFetch c pa kind
    let o := pa % 64
    let l : RdcLine :=
      { l with data := Tbl.set l.data o b,
               dirty := if l.dirty.contains o then l.dirty else o :: l.dirty,
               owner := if kind == .un then none else some c, meter := s.meterOf c }
    (s.setDie (dieOf c) ((s.die (dieOf c)).setLine l), [])
  else (if kind == .so then s.bypassRdc (dieOf c) pa else s, [(pa, b)])

/-! ### Atomics at the home (R271 to R279) -/

/-- The new value of an atomic (R276, R279); none where a CAS stores nothing. -/
def AmoWork.new (w : AmoWork) (old : Nat) : Option Nat :=
  let n := 8 * w.size
  let m := 2 ^ n
  let d := (w.b + m - old) % m
  match w.fn with
  | 0 => some ((old + w.b) % m)
  | 1 => some (old &&& w.b)
  | 2 => some (old ||| w.b)
  | 3 => some (old ^^^ w.b)
  | 4 => some (if sextInt old n ≤ sextInt w.b n then old else w.b)
  | 5 => some (if sextInt w.b n ≤ sextInt old n then old else w.b)
  | 6 => some (if old ≤ w.b then old else w.b)
  | 7 =>
    if w.ser then some (if 1 ≤ d ∧ d < 2 ^ (n - 1) then w.b else old)
    else some (if w.b ≤ old then old else w.b)
  | 8 => some w.b
  | _ => if old = w.c then some w.b else none

/-- An aligned word becomes a sync variable of its home (R272). -/
def State.syncWord (s : State) (pa : Nat) : State :=
  let d := s.die (homeDie pa)
  if d.syncVars.contains (pa / 8 * 8) then s
  else s.setDie (homeDie pa) { d with syncVars := pa / 8 * 8 :: d.syncVars }

/-- No die keeps the line of an address in its RDC: what is dirty of it is written back. -/
def State.leaveRdcs (s : State) (pa : Nat) : State :=
  [0, 1, 2, 3].foldl (fun s d => s.evictLine d (pa / 64)) s

/-- The number at an address after every dirty copy of its line has reached its home: what an atomic reads there. -/
def State.homeNumber (s : State) (pa n : Nat) : Nat := (s.leaveRdcs pa).mem.read pa n

/-- The indivisible operation at the home for a task: no RDC keeps the line, the word becomes a sync variable,
and the old value is answered.  A CAS that stores nothing still passes the word of a DOORBELL and wakes the
waiters of the line (R271, R272, R276, R306, R322). -/
def State.atomic (s : State) (m : Option Meter) (pa : Nat) (w : AmoWork) : State × Nat :=
  let s := ((s.leaveRdcs pa).syncWord pa).touchLine (pa / 64) false m
  let old := s.mem.read pa w.size
  let pas := addrsFrom pa w.size
  match w.new old with
  | some v => (s.storeFor m (pas.zip (bytesOfNum v w.size)), old)
  | none => ((s.homeEvents false pas s.listedQueues).wakeLines pas, old)

/-- An atomic OR of bits into a page-table entry, executed in the SYE of its home on the value that it reads there,
with the bits of a mask cleared (R148, R150, R164, R271). -/
def State.markEntry (s : State) (m : Option Meter) (addr set clear : Nat) : State :=
  let e := (s.homeNumber addr 8 ||| set) &&& (2 ^ 64 - 1 - clear)
  (s.atomic m addr { fn := 8, size := 8, signed := false, ser := false, b := e, c := 0, rel := none }).1

end Sys2Proof.Machine
end

