-- ==== Sys2Proof/Machine/Walk.lean ====
section
/-!
DEFINITION. Translation as a machine does it: the TLBs, the walkers of the dies with their running walks (R147
to R149), the A and D bits (R148), the waits for pages (R150), and the translation of an access that may lie
in several pages (R141, R160).

An access that no TLB entry serves starts a walk or joins one, and waits.  A turn of the walker reads one
entry.  The access comes back when its walk has ended and takes the result; nothing is marked or cached
before every page of the access is found and checked.
-/

namespace Sys2Proof.Machine

/-! ### TLBs (R149) -/

/-- Entries of a core's TLB and of a die's, and walks that a die's walker runs at once (Table 1.8). -/
def coreTlb : Nat := 1024
def dieTlb : Nat := 16384
def walkLimit : Nat := 64

/-- Replace or add a TLB entry for the same page; a full TLB gives up another. -/
def addTlb (size victim : Nat) (t : List TlbEntry) (e : TlbEntry) : List TlbEntry :=
  let rest := t.filter (fun x => !(x.asid == e.asid && x.vbase == e.vbase && x.lvl == e.lvl))
  e :: (if rest.length < size then rest else rest.eraseIdx (victim % size))

/-- A translation enters the TLBs of a core and of its die. -/
def State.cachePage (s : State) (c : Nat) (e : TlbEntry) : State :=
  let n := Config.freePick s.fresh
  let s := { s with fresh := s.fresh + 1 }.modCore c (fun k => { k with tlb := addTlb coreTlb n k.tlb e })
  let d := s.die (dieOf c)
  s.setDie (dieOf c) { d with tlb := addTlb dieTlb n d.tlb e }

/-! ### Walks (R147, R149) -/

/-- A walk of a page is running. -/
def Walk.runs (w : Walk) (asid page : Nat) : Bool := w.asid == asid && w.page == page && w.ended.isNone

/-- A walk of a page has ended, and an access waits for its result. -/
def Walk.serves (w : Walk) (asid page c who : Nat) : Bool :=
  w.asid == asid && w.page == page && w.ended.isSome && w.waiters.contains (c, who)

/-- A miss joins the running walk of its page, or starts one; with every walk busy it only waits (R149). -/
def State.joinWalk (s : State) (c who : Nat) (root : Word) (va : Nat) : State :=
  let d := s.die (dieOf c)
  let asid := rootAsid root
  let page := va / 8192
  if d.walks.any (fun w => w.runs asid page) then
    s.setDie (dieOf c) { d with walks := d.walks.map (fun w =>
      if w.runs asid page && !w.waiters.contains (c, who) then { w with waiters := w.waiters ++ [(c, who)] }
      else w) }
  else if (d.walks.filter (fun w => w.ended.isNone)).length < walkLimit then
    s.setDie (dieOf c) { d with walks := d.walks ++
      [{ asid, page, tbl := rootTable root, lvl := 3, ended := none, waiters := [(c, who)] }] }
  else s

/-- An access takes no more results of some walks: it has them, or is given up. -/
def State.leaveWalksIf (s : State) (c who : Nat) (sel : Walk → Bool) : State :=
  let d := s.die (dieOf c)
  if d.walks.any (fun w => sel w && w.waiters.contains (c, who)) then
    s.setDie (dieOf c) { d with walks := (d.walks.map (fun w =>
      if sel w then { w with waiters := w.waiters.filter (fun x => x != (c, who)) } else w)).filter (fun w =>
        w.ended.isNone || !w.waiters.isEmpty) }
  else s

/-- An access takes no more results of walks. -/
def State.leaveWalks (s : State) (c who : Nat) : State := s.leaveWalksIf c who (fun _ => true)

/-- An access has the results of the walks of some pages. -/
def State.leavePages (s : State) (c who asid : Nat) (vas : List Nat) : State :=
  if vas.isEmpty then s
  else s.leaveWalksIf c who (fun w => w.asid == asid && vas.any (fun a => a / 8192 == w.page))

/-- The walker of a die reads an entry, for a task: a DEV acquire by an observer of the die, to which a dirty
byte of the die's RDC is visible (R147, R162, R168).  An entry that lies outside LPDDR 6, where the spec gives a walk
no fault, reads as the bytes that the module holds for the address (log entry 106). -/
def State.walkRead (s : State) (d addr : Nat) (m : Option Meter) : State × Nat :=
  let s := ((s.bypassRdc d addr).invalidate d [.rc, .dc]).touchLine (addr / 64) false m
  (s, s.mem.read addr 8)

/-- One entry read of a walk, with where the walk stands then. -/
def State.walkLevel (s : State) (d : Nat) (m : Option Meter) (va lvl tbl : Nat) : State × (WalkEnd ⊕ Nat) :=
  let addr := entryAddr va lvl tbl
  let (s, e) := s.walkRead d addr m
  (s, match entryStep (s.badLines.contains (addr / 64)) addr lvl e with
    | .inl r => .inl r
    | .inr t => if lvl = 0 then .inl (.fault 0 true false) else .inr t)

/-- The task that a walk's reads are metered to: that of the access that started it (R329). -/
def State.walkMeter (s : State) (w : Walk) : Option Meter :=
  match w.waiters with
  | [] => none
  | e :: _ =>
    match (s.core e.1).prefetches.find? (fun p => p.who == e.2) with
    | some p => p.meter
    | none => s.meterOf e.1

/-- A turn of a die's walker: a running walk reads its next entry (R147). -/
def State.stepWalk (s : State) (d n : Nat) : State :=
  match (s.die d).walks[n]? with
  | none => s
  | some w =>
    if w.ended.isSome then s
    else
      let (s, r) := s.walkLevel d (s.walkMeter w) (w.page * 8192) w.lvl w.tbl
      let w' := match r with
        | .inl e => { w with ended := some e }
        | .inr t => { w with tbl := t, lvl := w.lvl - 1 }
      let v := s.die d
      s.setDie d { v with walks := (v.walks.set n w').filter (fun w => w.ended.isNone || !w.waiters.isEmpty) }

/-- Every running walk of the module is read to its end. -/
def State.endWalks (s : State) : State :=
  [0, 1, 2, 3].foldl (fun s d =>
    (List.range (s.die d).walks.length).foldl (fun s n =>
      (((s.stepWalk d n).stepWalk d n).stepWalk d n).stepWalk d n) s) s

/-! ### Waits for pages (R147, R150) -/

/-- Note that somebody waits for a page, by its leaf and its virtual page. -/
def State.waitPage (s : State) (c who leaf page : Nat) : State :=
  if s.pageWaits.any (fun w => w.core == c && w.who == who && w.leaf == leaf && w.page == page) then s
  else { s with pageWaits := { core := c, who, leaf, page, failed := false } :: s.pageWaits }

/-- A page-in that an access waited for has failed: the access faults, whatever has become of the page since
(R150). -/
def State.pageFailed (s : State) (c who va : Nat) : Bool :=
  s.pageWaits.any (fun w => w.core == c && w.who == who && w.page == va / 8192 && w.failed)

/-- Forget the waits of somebody, when its access faults or is given up. -/
def State.dropPageWaits (s : State) (c who : Nat) : State :=
  { s with pageWaits := s.pageWaits.filter (fun w => !(w.core == c && w.who == who)) }.leaveWalks c who

/-- The pager starts a page-in: it marks the leaf busy (R150). -/
def State.startPageIn (s : State) (m : Option Meter) (leaf : Nat) (ahead : Option Nat) : State :=
  { s.markEntry m leaf (2 ^ 12) 0 with
    pager := s.pager ++ [{ leaf, pageIn := true, ahead }] }

/-! ### One address -/

/-- A leaf that a walk has found. -/
structure Leaf where
  pte  : Nat
  /-- Physical address of the entry. -/
  addr : Nat
  lvl  : Nat
  deriving DecidableEq, Repr

/-- What is known of the translation of one address, without changing anything. -/
inductive Look where
  /-- Found in a TLB, or by the walk whose leaf is given. -/
  | ok (m : Mapped) (walked : Option Leaf)
  | fault (f : TransFault)
  /-- A walk is needed, or runs. -/
  | walk
  /-- The entry has changed since the walk read it: the walk restarts (R148). -/
  | stale
  /-- PB is set: the access waits for the pager. -/
  | busy (leaf : Nat)
  /-- FR is set: the page-in of the leaf is started. -/
  | away (leaf : Nat)

/-- The TLB entry of the core or of its die that serves an access (R149). -/
def State.tlbHit (s : State) (c asid : Nat) (k : AccessKind) (va : Nat) : Option TlbEntry :=
  ((s.core c).tlb ++ (s.die (dieOf c)).tlb).find? (fun t =>
    t.serves asid va && !((k == .store || k == .amo) && !pteD t.pte))

/-- The checks on the leaf of a walk, in the order of R147 and R148, against the entry as the atomic OR on it would
find it. -/
def State.lookLeaf (s : State) (firmware : Bool) (k : AccessKind) (va : Nat) (l : Leaf) : Look :=
  let e := s.homeNumber l.addr 8
  let pa := leafPa l.pte l.lvl va
  if ptePb l.pte then .busy l.addr
  else if pteFr l.pte then (if pteFr e && !ptePb e then .away l.addr else .stale)
  else
    match checkLeaf firmware k l.pte l.lvl pa with
    | some f => .fault f
    | none =>
      if s.badLines.contains (l.addr / 64) then .fault (walkFault k l.lvl false true)
      else if !pteV e || ptePb e || pteFr e || pteFrame e != pteFrame l.pte then .stale
      else .ok { pa, kind := orderOf l.pte pa, pte := l.pte, lvl := l.lvl } (some l)

/-- What is known of the translation of an address for a core under an address space; `who` names the access
(R147 to R149). -/
def State.look (s : State) (c who : Nat) (root : Word) (firmware : Bool) (k : AccessKind) (va : Nat) : Look :=
  let asid := rootAsid root
  if 2 ^ 48 ≤ va then .fault { cause := k.pageCause, lvl := 7, rsvd := false, pager := false }
  else if s.pageFailed c who va then .fault { cause := k.pageCause, lvl := 0, rsvd := false, pager := true }
  else
    match s.tlbHit c asid k va with
    | some t =>
      let pa := leafPa t.pte t.lvl va
      match checkLeaf firmware k t.pte t.lvl pa with
      | some f => .fault f
      | none => .ok { pa, kind := orderOf t.pte pa, pte := t.pte, lvl := t.lvl } none
    | none =>
      match (s.die (dieOf c)).walks.find? (fun w => w.serves asid (va / 8192) c who) with
      | none => .walk
      | some w =>
        match w.ended with
        | none => .walk
        | some (.fault lvl rsvd uncorr) => .fault (walkFault k lvl rsvd uncorr)
        | some (.leaf pte addr lvl) => s.lookLeaf firmware k va { pte, addr, lvl }

/-- The A bit, and the D bit of a store, are set by an atomic OR on the leaf, and the entry is cached (R148,
R149). -/
def State.markLeaf (s : State) (c : Nat) (root : Word) (k : AccessKind) (va : Nat) (l : Leaf) : State :=
  let m := 2 ^ 8 + (if k == .store || k == .amo then 2 ^ 9 else 0)
  (s.markEntry (s.meterOf c) l.addr m 0).cachePage c
    { asid := rootAsid root, vbase := va / 2 ^ pageBits l.lvl * 2 ^ pageBits l.lvl, lvl := l.lvl,
      pte := l.pte ||| m, leaf := l.addr }

/-- What an access that cannot be translated yet leaves: its walk asked for, or its wait for the pager
noted. -/
def State.await (s : State) (c who : Nat) (root : Word) (va : Nat) (l : Look) : State :=
  let left := s.leavePages c who (rootAsid root) [va]
  match l with
  | .walk => s.joinWalk c who root va
  | .stale => left.joinWalk c who root va
  | .busy leaf => left.waitPage c who leaf (va / 8192)
  | .away leaf => (left.waitPage c who leaf (va / 8192)).startPageIn (s.meterOf c) leaf none
  | _ => s

/-! ### Accesses -/

/-- How the translation of the bytes of an access ends. -/
inductive TransAll where
  | ok (s : State) (ms : List Mapped)
  | fault (f : TransFault) (va : Nat)
  | wait (s : State)

/-- What is known of the translation of some addresses, in order: all of it, or the first that is not found
(R141, R151). -/
def lookAll (look : Nat → Look) : List Nat → List (Nat × Mapped × Option Leaf) × Option (Nat × Look)
  | [] => ([], none)
  | va :: rest =>
    match look va with
    | .ok m l =>
      let (ms, stop) := lookAll look rest
      ((va, m, l) :: ms, stop)
    | r => ([], some (va, r))

/-- Mark and cache the leaves that walks have found, each once. -/
def State.markLeaves (s : State) (c : Nat) (root : Word) (k : AccessKind) : List (Nat × Mapped × Option Leaf) → State
  | [] => s
  | (va, _, some l) :: rest =>
    let t := s.tlbHit c (rootAsid root) k va
    State.markLeaves (if t.isSome then s else s.markLeaf c root k va l) c root k rest
  | (_, _, none) :: rest => State.markLeaves s c root k rest

/-- Translate the bytes of an access under an address space: each is found and checked before any leaf is
marked (R141, R147, R148, R160).  `shadow` selects the other backing of a dual-backed range (R189). -/
def State.translateList (s : State) (c who : Nat) (root : Word) (firmware : Bool) (k : AccessKind)
    (shadow : Bool) (vas : List Nat) : TransAll :=
  let target (va : Nat) : Nat := s.redirect (rootAsid root) va shadow
  let (ms, stop) := lookAll (fun va => s.look c who root firmware k (target va)) vas
  match stop with
  | some (va, .fault f) => .fault f va
  | some (va, r) => .wait (s.await c who root (target va) r)
  | none =>
    let ms := ms.map (fun e => (target e.1, e.2))
    let walked := (ms.filter (fun e => e.2.2.isSome)).map (fun e => e.1)
    .ok ((s.leavePages c who (rootAsid root) walked).markLeaves c root k ms) (ms.map (fun e => e.2.1))

/-- Translate the bytes of an access of the context that runs on a core. -/
def State.translateAll (s : State) (c who : Nat) (k : AccessKind) (vas : List Nat) : TransAll :=
  s.translateList c who (s.core c).ptroot (isFirmware c) k false vas

/-- How the translation of one address ends. -/
inductive Trans where
  | ok (s : State) (m : Mapped)
  | fault (f : TransFault)
  | wait (s : State)

/-- Translate one address under an address space. -/
def State.translateAs (s : State) (c who : Nat) (root : Word) (firmware : Bool) (k : AccessKind)
    (shadow : Bool) (va : Nat) : Trans :=
  match s.translateList c who root firmware k shadow [va] with
  | .ok s (m :: _) => .ok s m
  | .ok s [] => .wait s
  | .fault f _ => .fault f
  | .wait s => .wait s

/-- Translate one address of the context that runs on a core. -/
def State.translate (s : State) (c who : Nat) (k : AccessKind) (va : Nat) : Trans :=
  s.translateAs c who (s.core c).ptroot (isFirmware c) k false va

/-! ### Prefetches (R158) -/

/-- An error that a prefetch's walk meets is logged (R143). -/
def State.logWalk (s : State) (c : Nat) (p : Prefetch) (f : TransFault) : State :=
  if f.cause = .memUncorr then
    { s with faultLog := { cause := .memUncorr, core := c, addr := p.va, info := p.bundle } :: s.faultLog }
  else s

/-- A prefetch is over. -/
def State.endPrefetch (s : State) (c : Nat) (p : Prefetch) : State :=
  (s.dropPageWaits c p.who).modCore c (fun k =>
    { k with prefetches := k.prefetches.filter (fun q => q.who != p.who) })

/-- PF brings the line towards the issuing die: into the L2 of its home, or into the die's RDC (R158). -/
def State.bringLine (s : State) (c : Nat) (p : Prefetch) (m : Mapped) : State :=
  if s.rdcMayHold (dieOf c) m.pa m.kind then (s.rdcFetchFor p.meter c m.pa m.kind).1
  else if homeDie m.pa = dieOf c then s.touchLine (m.pa / 64) false p.meter
  else s

/-- A prefetch goes on: it joins or starts its walk among the walks of its die, or has its result (R149).  PF is
translated as a load is: it marks and caches the leaf (log entry 107), and does nothing on a page that is not resident
(log entry 52).  PF.FR starts the page-in of a level-0 leaf with FR = 1 and PB = 0, and does nothing else (R158). -/
def State.stepPrefetch (s : State) (c : Nat) (p : Prefetch) : State :=
  let a := s.redirect (rootAsid p.root) p.va false
  match s.look c p.who p.root (isFirmware c) .load a with
  | .walk => s.joinWalk c p.who p.root a
  | .stale => (s.leaveWalks c p.who).joinWalk c p.who p.root a
  | .busy _ => s.endPrefetch c p
  | .away leaf => let s := s.endPrefetch c p; if p.ahead then s.startPageIn p.meter leaf (some c) else s
  | .fault f => (s.logWalk c p f).endPrefetch c p
  | .ok m l =>
    let s := s.endPrefetch c p
    if p.ahead then s
    else
      (match l with
        | some l => s.markLeaf c p.root .load a l
        | none => s).bringLine c p m

/-- PF or PF.FR at an address enters the background, and looks at once (R158). -/
def State.enterPrefetch (s : State) (c bundle va : Nat) (ahead : Bool) : State :=
  let k := s.core c
  let p : Prefetch :=
    { who := 4 + k.seq, root := k.ptroot, va, ahead, meter := s.meterOf c, bundle }
  (s.setCore c { k with seq := k.seq + 1, prefetches := k.prefetches ++ [p] }).stepPrefetch c p

/-- A prefetch of a core in the background goes on. -/
def State.prefetchTurn (s : State) (c who : Nat) : State :=
  match (s.core c).prefetches.find? (fun p => p.who == who) with
  | none => s
  | some p => s.stepPrefetch c p

end Sys2Proof.Machine
end

