-- ==== Sys2Proof/Machine/Order.lean ====
section
/-!
DEFINITION. The memory model (R161 to R178): commit buffers of DC pages, how pending loads and stores are
performed part by part, what a byte reads as for a stream, and the promotion log.
-/

namespace Sys2Proof.Machine

/-! ### Commit buffers of DC pages (R177) -/

/-- FDET of an error reported at a later boundary (Table 6.7, R142). -/
def asyncDetail (store : Bool) (o : Origin) : Nat :=
  2 ^ 13 + o.lane % 32 * 2 ^ 8 + (if o.upper then 2 ^ 6 else 0) + (if store then 8 else 0) + 7

/-- An error is known to a stream, which traps at a later boundary (R142). -/
def State.noteUncorr (s : State) (c : Nat) (st : Stream) (store : Bool) (o : Origin) (bundle : Nat) : State :=
  s.modStream c st (fun t => { t with uncorr := t.uncorr ++ [(o.va, bundle, asyncDetail store o)] })

/-- An error met by a store at its home enters the Duwen fault log (R142). -/
def State.logUncorr (s : State) (c pa : Nat) : State :=
  { s with faultLog := { cause := .memUncorr, core := c, addr := pa, info := 0 } :: s.faultLog }

/-- The lower lane of two origins, then the lower address (R152). -/
def Origin.lowest (a b : Origin) : Origin :=
  if a.lane < b.lane || (a.lane == b.lane && a.va ≤ b.va) then a else b

/-- Add a store's byte that met an error to the errors of its instruction. -/
def addError (e : DcOrigin) : List DcOrigin → List DcOrigin
  | [] => [e]
  | f :: rest =>
    if f.st = e.st ∧ f.seq = e.seq then { f with origin := f.origin.lowest e.origin } :: rest
    else f :: addError e rest

/-- The lower of an error known of an access and another one (R152). -/
def worse (e : Option Origin) (o : Origin) : Option Origin := some ((e.map (fun p => p.lowest o)).getD o)

/-- An error of a store at its home is told to its stream once: with the rest of the store while that is pending, not
again where it is known already (R142, R151). -/
def State.tellError (s : State) (c : Nat) (e : DcOrigin) : State :=
  let k := s.core c
  if e.engine || e.told then s
  else if k.stores.any (fun x => x.st == e.st && x.seq == e.seq) then
    s.setCore c { k with stores := k.stores.map (fun x =>
      if x.st = e.st ∧ x.seq = e.seq then { x with err := worse x.err e.origin } else x) }
  else s.noteUncorr c e.st true e.origin e.bundle

/-- The errors that the bytes of a commit buffer meet at their homes: each is logged, and each instruction that
stored one traps (R142, R177). -/
def State.commitErrors (s : State) (c : Nat) (dc : Tbl Byte) (src : Tbl DcOrigin) : State :=
  let bad := dc.filter (fun e => s.badLines.contains (e.1 / 64))
  let s := (withoutRuns (bad.map (fun e => e.1 / 64))).foldl (fun s l => s.logUncorr c (l * 64)) s
  let es := (bad.filterMap (fun e => (src.find? (fun x => x.1 == e.1)).map (fun x => x.2))).foldl
    (fun l e => addError e l) []
  es.foldl (fun s e => s.tellError c e) s

/-- Apply commit buffers of tasks at the homes in turn, each in ascending address order, as one write.  The
die's copies of the lines are dropped, their dirty bytes written back before it (R177, R178). -/
def State.commitAll (s : State) (d : Nat) (bufs : List (Option Meter × Tbl Byte)) : State :=
  let dc := bufs.foldl (fun (t : Tbl Byte) b => Tbl.setAll t b.2) []
  let s := s.dropLines d (fun l => !l.un && dc.any (fun e => e.1 / 64 == l.line))
  let s := bufs.foldl (fun s b =>
    (withoutRuns (b.2.map (fun (e : Nat × Byte) => e.1 / 64))).foldl (fun s l => s.touchLine l true b.1) s) s
  s.storeHome dc

/-! ### Pieces of an access (R141, R157, R178) -/

/-- The pieces that a part of an access may be performed as now, by lane and piece: those of the lower page of a
lane come first, and nothing else orders them. -/
def piecesOf (l : List Origin) : List (Nat × Nat) :=
  ((l.filter (fun o => !o.upper || l.all (fun p => p.lane != o.lane || p.upper))).map
    (fun o => (o.lane, o.piece))).eraseDups

/-- Parts of an access in a piece, or outside it. -/
def inPiece {α : Type} (q : Nat × Nat) (inside : Bool) (parts : List α) (l : List Origin) : List (α × Origin) :=
  (parts.zip l).filter (fun e => ((e.2.lane, e.2.piece) == q) == inside)

def PLoad.piece (l : PLoad) (q : Nat × Nat) (inside : Bool) : PLoad :=
  let e := inPiece q inside l.parts l.origin
  { l with parts := e.map (fun x => x.1), origin := e.map (fun x => x.2) }

def PStore.piece (x : PStore) (q : Nat × Nat) (inside : Bool) : PStore :=
  let e := inPiece q inside x.parts x.origin
  { x with parts := e.map (fun x => x.1), origin := e.map (fun x => x.2) }

/-- One of some choices, freely where there are several. -/
def State.choose {α : Type} (s : State) (l : List α) : Option α × State :=
  match l with
  | [] => (none, s)
  | [a] => (some a, s)
  | l => (l[Config.freePick s.fresh % l.length]?, { s with fresh := s.fresh + 1 })

/-! ### Performing stores -/

def PLoad.hasSo (l : PLoad) : Bool := l.parts.any (fun p => p.2.2 == .so)
def PStore.hasSo (x : PStore) : Bool := x.parts.any (fun p => p.2.2 == .so)

/-- The physical addresses of an access. -/
def PLoad.pas (l : PLoad) : List Nat := l.parts.map (fun p => p.2.1)
def PStore.pas (x : PStore) : List Nat := x.parts.map (fun p => p.1)

def overlaps (a b : List Nat) : Bool := a.any (fun x => b.contains x)

/-- Hold stores of a stream, by EPI.OUT, are still to land (R267). -/
def Core.imagesPending (k : Core) (st : Stream) (seq : Nat) : Bool :=
  k.flight.any (fun l => l.st == st && l.seq < seq && l.isEpiOut)

/-- A pending store may be performed now: the loads before it that R165 names are performed, earlier
stores of its bytes are (R164), an SO access keeps program order (R175), and a release comes after
every access it orders, every atomic of its stream among them (R167, R275). -/
def Core.storeReady (k : Core) (x : PStore) : Bool :=
  !((x.rel.isSome || x.hasSo) && k.imagesPending x.st x.seq) &&
  k.loads.all (fun l => !(l.st == x.st && l.seq < x.seq) ||
    (if (x.unOnly || l.unOnly) && !(x.rel.isSome && l.amo.isSome) then !overlaps l.pas x.pas else false)) &&
  k.stores.all (fun y => !(y.st == x.st && y.seq < x.seq) ||
    (!overlaps y.pas x.pas && !(y.hasSo && x.hasSo) &&
      ((x.rel.isNone && !x.hasSo) || y.unOnly || x.unOnly)))

/-- Perform the bytes of a store in address order. -/
def State.writeParts (s : State) (c : Nat) : List (Nat × Byte × OrderKind) →
    State × List (Nat × Byte)
  | [] => (s, [])
  | (pa, b, kind) :: rest =>
    let (s, home) := s.writeByte c pa b kind
    let (s, more) := State.writeParts s c rest
    (s, home ++ more)

/-- The release that a store acts as: REL's scope, SYS for an SO store (R175). -/
def PStore.release (x : PStore) : Option Scope := if x.hasSo then some .sys else x.rel

/-- The write-backs of a release at DEV or SYS: before its own store, and after it so that the store leaves the
die (R167, R171, R173). -/
def State.releaseStore (s : State) (c : Nat) (sc : Option Scope) : State :=
  match sc with
  | some sc => s.releaseRdc c sc
  | none => s

/-- A UN store enters the record of UN stores; the value that it replaces is kept where no store of the location is
known yet: it is the location's initial value (R176). -/
def State.logUn (s : State) (c : Nat) (st : Stream) (bytes : List (Nat × Byte)) : State :=
  let new := bytes.filter (fun e => !s.unLog.any (fun u => u.bytes.any (fun x => x.1 == e.1)))
  let old := new.map (fun e => (e.1, s.homeByte e.1))
  let u : UnStore :=
    { core := c, task := (s.core c).task.map (fun t => t.id), st, bytes, old, place := [], fixed := false }
  { s with unLog := s.unLog ++ [u] }

/-- The UN bytes of a store's parts. -/
def unParts (parts : List (Nat × Byte × OrderKind)) : List (Nat × Byte) :=
  (parts.filter (fun p => p.2.2 == .un)).map (fun p => (p.1, p.2.1))

/-- Perform bytes of a stream's store, as an access of a core (R163, R176). -/
def State.writeBytes (s : State) (c : Nat) (st : Stream) (parts : List (Nat × Byte × OrderKind)) : State :=
  let un := unParts parts
  let s := if un.isEmpty then s else s.logUn c st un
  let (s, home) := s.writeParts c parts
  let s := s.storeFor (s.meterOf c) home
  if un.isEmpty then s
  else s.reachHome (dieOf c) ((home.filter (fun e => un.any (fun x => x.1 == e.1))).map (fun e => e.1))

/-- The error of a store's performed part: the line is logged, and the lowest lane is kept (R142, R152). -/
def PStore.meets (x one : PStore) (bad : List Nat) : PStore :=
  match (one.pas.zip one.origin).find? (fun e => bad.contains (e.1 / 64)) with
  | none => x
  | some (_, o) => { x with err := worse x.err o }

/-- The bytes that a stream's own store has replaced since leave the commit buffer: a stream's stores to one location
keep their order, whatever the kinds of their pages (R164, R178). -/
def Core.replaceDcBytes (k : Core) (st : Stream) (seq : Nat) (pas : List Nat) : Core :=
  let old (a : Nat) : Bool :=
    pas.contains a && k.dcFrom.any (fun e => e.1 == a && !e.2.engine && e.2.st == st && e.2.seq < seq)
  if k.dc.any (fun e => old e.1) then
    { k with dc := k.dc.filter (fun e => !old e.1), dcFrom := k.dcFrom.filter (fun e => !old e.1) }
  else k

/-- The bytes of a store in the commit buffer, whose error is told already (R151). -/
def Core.toldDc (k : Core) (st : Stream) (seq : Nat) : Core :=
  { k with dcFrom := k.dcFrom.map (fun e =>
      (e.1, if e.2.st = st ∧ e.2.seq = seq then { e.2 with told := true } else e.2)) }

/-- Perform one piece of a pending store (R141, R163, R208): an error is reported when the whole store is
performed. -/
def State.storePiece (s : State) (c : Nat) (x : PStore) (q : Nat × Nat) : State :=
  let one := x.piece q true
  let rest := (x.piece q false).meets one s.badLines
  let k := s.core c
  let left :=
    if rest.parts.isEmpty then k.stores.filter (fun y => y.seq != x.seq)
    else k.stores.map (fun y => if y.seq = x.seq then rest else y)
  let ordered := (one.parts.filter (fun p => p.2.2 != .un)).map (fun p => p.1)
  let k' : Core := { k with stores := left }
  let s := s.setCore c (k'.replaceDcBytes x.st x.seq ordered)
  let s := (s.releaseStore c one.release).writeBytes c x.st one.parts
  let s := s.releaseStore c one.release
  let s := match one.pas.find? (fun a => s.badLines.contains (a / 64)) with
    | some a => s.logUncorr c a
    | none => s
  match rest.err with
  | some o =>
    if rest.parts.isEmpty then (s.noteUncorr c x.st true o x.bundle).modCore c (fun k => k.toldDc x.st x.seq) else s
  | none => s

/-- The pieces of a pending store that may be performed now. -/
def Core.storePieces (k : Core) (x : PStore) : List (Nat × Nat) :=
  (piecesOf x.origin).filter (fun q => k.storeReady (x.piece q true))

/-- Perform a pending store whole, its pieces in address order. -/
def State.performStore (s : State) (c : Nat) (x : PStore) : State :=
  x.origin.foldl (fun s _ =>
    match (s.core c).stores.find? (fun y => y.seq == x.seq) with
    | none => s
    | some y =>
      match piecesOf y.origin with
      | [] => s
      | q :: _ => s.storePiece c y q) s

/-! ### Performing loads -/

/-- An atomic's store comes after the loads and stores that it follows (R164, R165); as a release, after every
access of its stream, atomics on UN pages among them (R167, R275, R277). -/
def Core.amoReady (k : Core) (l : PLoad) (w : AmoWork) : Bool :=
  let rel := w.rel.isSome || l.hasSo
  k.loads.all (fun m => !(m.st == l.st && m.seq < l.seq) ||
    ((l.unOnly || m.unOnly) && !(w.rel.isSome && m.amo.isSome))) &&
  k.stores.all (fun y => !(y.st == l.st && y.seq < l.seq) ||
    (!overlaps y.pas l.pas && (!rel || y.unOnly || l.unOnly))) &&
  !(rel && k.imagesPending l.st l.seq)

/-- A pending load may be performed now: earlier loads of its bytes are performed (R164), no acquire
before it is pending (R168), and SO accesses keep program order (R175). -/
def Core.loadReady (k : Core) (l : PLoad) : Bool :=
  (match l.amo with
   | some w => k.amoReady l w
   | none => true) &&
  k.loads.all (fun m => !(m.st == l.st && m.seq < l.seq) ||
    (!overlaps m.pas l.pas && (l.unOnly || (m.acq.isNone && !m.hasSo)) && !(m.hasSo && l.hasSo))) &&
  k.stores.all (fun y => !(y.st == l.st && y.seq < l.seq) || !(y.hasSo && l.hasSo))

/-- A CAS that would store nothing now: for ordering it is a load and no store, so that it may be performed as one; it
reads at the home, after what its own stream has stored there (R164, R276). -/
def State.casFails (s : State) (c : Nat) (l : PLoad) : Bool :=
  match l.amo with
  | some w =>
    w.fn == 9 && (w.new (s.homeNumber ((l.pas[0]?).getD 0) w.size)).isNone &&
      (s.core c).stores.all (fun y => !(y.st == l.st && y.seq < l.seq) || !overlaps y.pas l.pas)
  | none => false

/-- A pending load or atomic of a core may be performed now. -/
def State.loadReady (s : State) (c : Nat) (l : PLoad) : Bool :=
  (s.core c).loadReady l || (s.casFails c l && (s.core c).loadReady { l with amo := none })

/-- The byte that the stream itself stored last before a load, still pending, with the store's program order
(R164). -/
def Core.forwarded (k : Core) (st : Stream) (seq pa : Nat) : Option (Nat × Byte) :=
  k.stores.foldl (fun (r : Option (Nat × Byte)) y =>
    if y.st == st && y.seq < seq then
      match y.parts.find? (fun p => p.1 == pa) with
      | some p =>
        match r with
        | some (n, _) => if n < y.seq then some (y.seq, p.2.1) else r
        | none => some (y.seq, p.2.1)
      | none => r
    else r) none

/-- The byte that a stream's load finds in its own core before the memory system: the later of its own last pending
store and of what it stored into the commit buffer, else what the task has there (R164, R177, R178).  UN loads see no
commit buffer. -/
def Core.ownByte (k : Core) (st : Stream) (seq pa : Nat) (kind : OrderKind) : Option Byte :=
  let sent := k.forwarded st seq pa
  let held := if kind = .un then none else (k.dc.find? (fun e => e.1 == pa)).map (fun e => e.2)
  let heldAt := (k.dcFrom.find? (fun e => e.1 == pa && !e.2.engine && e.2.st == st)).map (fun e => e.2.seq)
  match sent, held with
  | some (n, b), some h => some (if (heldAt.map (fun m => decide (n < m))).getD (kind == .dc) then h else b)
  | some (_, b), none => some b
  | none, h => h

/-- The bytes that one UN store, or one value of the locations, gives at some addresses. -/
def bytesAt (pas : List Nat) (l : List (Nat × Byte)) : List (Nat × Byte) := l.filter (fun e => pas.contains e.1)

/-- A UN store is one of a stream of the context on a core. -/
def State.ownUn (s : State) (c : Nat) (st : Stream) (u : UnStore) : Bool :=
  u.st == st && u.task == (s.core c).task.map (fun t => t.id) && (u.task.isSome || u.core == c)

/-- What a stream has seen of UN locations. -/
def State.unSeen (s : State) (c : Nat) (st : Stream) : UnSeen := (s.stream c st).un

/-- A stream's own store to a UN location has no place yet: it is the latest of the location, but for later ones of its
die. -/
def State.unOpen (s : State) (c : Nat) (st : Stream) (pa : Nat) : Bool :=
  s.unLog.any (fun u => s.ownUn c st u && !(u.unplaced [pa]).isEmpty)

/-- The place before which a stream may read no UN store of a location any more: that of a store with a fixed place
which it has read or which its last fence has made known to it, or of its own last store there (R176). -/
def State.unFloor (s : State) (c : Nat) (st : Stream) (pa : Nat) : Nat :=
  let seen := s.unSeen c st
  ((s.unLog.filter (s.ownUn c st)).filterMap (fun u => u.placeAt pa)).foldl max
    (max (Tbl.get 0 seen.fenced pa) (Tbl.get 0 seen.fixed pa))

/-- A byte of a UN store may be read at an address. -/
def State.unOffers (s : State) (c : Nat) (st : Stream) (u : UnStore) (pa : Nat) : Bool :=
  !s.unOpen c st pa &&
    (match u.placeAt pa with
     | some n => s.unFloor c st pa ≤ n
     | none => s.unFloor c st pa == 0)

/-- What a UN access that is performed at once may return beside what the memory system holds, with the store that it
is the value of: the bytes of a UN store, as far as what the stream has read and stored, its last fence and the fences
of others leave it, or the initial values of the locations (R176). -/
def State.unViews (s : State) (c : Nat) (st : Stream) (pas : List Nat) :
    List (Option UnStore × List (Nat × Byte)) :=
  let stores := s.unLog.map (fun u => (some u, (bytesAt pas u.bytes).filter (fun e => s.unOffers c st u e.1)))
  let first := (s.unLog.flatMap (fun u => bytesAt pas u.old)).filter (fun e =>
    !s.unOpen c st e.1 && s.unFloor c st e.1 == 0)
  (stores ++ [(none, first)]).filter (fun v => !v.2.isEmpty)

/-- A stream has read the byte of a UN store at an address, by its place.  One whose place is fixed is final at once;
another, once the stream has a fence behind it after one of a storer, is so from its next fence on (R176). -/
def State.seeUn (s : State) (c : Nat) (st : Stream) (u : UnStore) (pa : Nat) : State :=
  match u.placeAt pa with
  | none => s
  | some n =>
    let seen := s.unSeen c st
    let raise (t : Tbl Nat) : Tbl Nat := Tbl.set t pa (max n (Tbl.get 0 t pa))
    if u.fixed then s.modStream c st (fun t => { t with un := { seen with fixed := raise seen.fixed } })
    else if Tbl.get 0 seen.fenced pa = 0 then s
    else s.modStream c st (fun t => { t with un := { seen with later := raise seen.later } })

/-- The RDC of a core's die gives up a UN line that was filled before a place: the line must not show older values of
the location any more. -/
def State.renewUn (s : State) (c pa n : Nat) : State :=
  match (s.die (dieOf c)).line pa true with
  | some l => if l.place < n then s.dropLines (dieOf c) (fun l => l.un && l.line == pa / 64) else s
  | none => s

/-- One of the views of a UN access, freely, as the bytes that differ from the memory system's: one store's value for
all its bytes (R141, R176). -/
def State.unView (s : State) (c : Nat) (st : Stream) (pas : List Nat) : State × List (Nat × Byte) :=
  if pas.isEmpty then (s, [])
  else
    match s.unViews c st pas with
    | [] => (s, [])
    | l =>
      let (u, view) := (((none, []) :: l)[Config.freePick s.fresh % (l.length + 1)]?).getD (none, [])
      let s := { s with fresh := s.fresh + 1 }
      match u with
      | none => (s, view)
      | some u =>
        (view.foldl (fun s e =>
          let s := s.seeUn c st u e.1
          s.renewUn c e.1 (max (s.unFloor c st e.1) (Tbl.get 0 (s.unSeen c st).later e.1))) s, view)

/-- The RDC of a core's die holds the byte of a UN location as stored and not yet written back. -/
def State.unDirty (s : State) (c pa : Nat) : Bool :=
  match (s.die (dieOf c)).line pa true with
  | some l => l.dirty.contains (pa % 64)
  | none => false

/-- The UN store whose value the memory system shows a core: the last that had reached the home when the line in the
RDC of its die was filled, or that has now; none where the line holds a store without a place. -/
def State.unShown (s : State) (c pa : Nat) : Option UnStore :=
  let upTo := match (s.die (dieOf c)).line pa true with
    | some l => l.place
    | none => s.unPlaces
  if s.unDirty c pa then none
  else
    s.unLog.foldl (fun (r : Option UnStore) u =>
      match u.placeAt pa with
      | none => r
      | some n =>
        if n ≤ upTo ∧ (r.bind (fun v => v.placeAt pa)).getD 0 < n then some u else r) none

/-- Read one UN byte from the memory system for a stream.  Where a fence has made places known to the stream, a byte
that another stream of the die has stored and that has no place yet is written back first. -/
def State.readUn (s : State) (m : Option Meter) (c : Nat) (st : Stream) (pa : Nat) : State × Byte :=
  let wait := s.unDirty c pa && !s.unOpen c st pa && Tbl.get 0 (s.unSeen c st).fenced pa != 0
  let s := if wait then s.dropLines (dieOf c) (fun l => l.un && l.line == pa / 64) else s
  let (s, b) := s.readByteFor m c pa .un
  match s.unShown c pa with
  | some u => (s.seeUn c st u pa, b)
  | none => (s, b)

/-- Read one byte as an access of a stream finds it in the memory system, a UN byte through a view (R171, R176). -/
def State.readWith (s : State) (m : Option Meter) (c : Nat) (st : Stream) (pa : Nat) (kind : OrderKind)
    (view : List (Nat × Byte)) : State × Byte :=
  if kind = .un then
    match view.find? (fun e => e.1 == pa) with
    | some e => ((s.readByteFor m c pa .un).1, e.2)
    | none => s.readUn m c st pa
  else s.readByteFor m c pa kind

/-- Read one byte as an access of a stream, for a task or for nobody (R171, R176). -/
def State.readFor (s : State) (m : Option Meter) (c : Nat) (st : Stream) (pa : Nat) (kind : OrderKind) :
    State × Byte :=
  let (s, view) := s.unView c st (if kind = .un then [pa] else [])
  s.readWith m c st pa kind view

/-- Read bytes in order: what the stream's own core has of them, then the memory system through a view. -/
def State.readThrough (s : State) (c : Nat) (st : Stream) (seq : Nat) (view : List (Nat × Byte)) :
    List (Nat × Nat × OrderKind) → State × List (Nat × Byte)
  | [] => (s, [])
  | (ix, pa, kind) :: rest =>
    let (s, b) :=
      match (s.core c).ownByte st seq pa kind with
      | some b => (s, b)
      | none => s.readWith (s.meterOf c) c st pa kind view
    let (s, more) := State.readThrough s c st seq view rest
    (s, (ix, b) :: more)

/-- Read the bytes of a load that are performed together. -/
def State.readParts (s : State) (c : Nat) (st : Stream) (seq : Nat) (parts : List (Nat × Nat × OrderKind)) :
    State × List (Nat × Byte) :=
  let (s, view) := s.unView c st ((parts.filter (fun p => p.2.2 == .un)).map (fun p => p.2.1))
  s.readThrough c st seq view parts

/-- The number that bytes at result positions form; other bytes are zero. -/
def assemble (bytes : List (Nat × Byte)) : Nat :=
  bytes.foldl (fun n e => n + e.2.toNat * 256 ^ e.1) 0

/-- Sign- or zero-extend a loaded value (R155). -/
def extendLoad (signed : Bool) (bytes v : Nat) : Word :=
  if signed then wordOfInt (sextInt v (8 * bytes)) else BitVec.ofNat 64 v

/-- Deliver a load's data (R155, R156, R212). -/
def Core.deliver (k : Core) (tick : Nat) (l : PLoad) (v : Nat) : Core :=
  match l.dest with
  | .reg o signed bytes => k.modStream l.st (fun t => t.setReg o (extendLoad signed bytes v))
  | .entry q slot rid =>
    k.setQueueReg q ((k.queueReg q).land slot rid tick (BitVec.ofNat 1024 v))

/-- Withdraw the reserved entry of a failed queue load: the entries behind it move up, and the last slot that one of
them leaves keeps no reservation (R142). -/
def QueueReg.withdraw (r : QueueReg) (slot : Nat) : QueueReg :=
  let ix := (slot + 4 - r.head) % 4
  let move (r : QueueReg) (i : Nat) : QueueReg :=
    let a := (r.head + i) % 4
    let b := (r.head + i + 1) % 4
    { r with slots := Tbl.set r.slots a (Tbl.get 0 r.slots b),
             rdy := Tbl.set r.rdy a (Tbl.get true r.rdy b),
             rsv := Tbl.set r.rsv a (Tbl.get 0 r.rsv b),
             landed := Tbl.set r.landed a (Tbl.get 0 r.landed b) }
  let r' := (List.range 3).foldl (fun r i => if ix ≤ i ∧ i + 1 < r.cnt then move r i else r) r
  { r' with cnt := r.cnt - 1, rsv := Tbl.set r'.rsv ((r.head + r.cnt - 1) % 4) 0 }

/-- Loads and results behind a withdrawn slot follow their reservations. -/
def Core.retarget (k : Core) (q : Nat) : Core :=
  let r := k.queueReg q
  let find (rid slot : Nat) : Nat :=
    ((List.range 4).find? (fun n => Tbl.get 0 r.rsv n == rid)).getD slot
  { k with
    loads := k.loads.map (fun l => match l.dest with
      | .entry q' slot rid => if q' = q then { l with dest := .entry q' (find rid slot) rid } else l
      | _ => l),
    flight := k.flight.map (fun l => { l with effects := l.effects.map (fun e => match e with
      | .entry q' slot rid v => if q' = q then .entry q' (find rid slot) rid v else e
      | _ => e) }) }

/-- A load that meets an uncorrectable error writes nothing; its queue entry is withdrawn and the
stream traps at a later boundary (R142). -/
def State.loadError (s : State) (c : Nat) (l : PLoad) (o : Origin) : State :=
  let k := s.core c
  let s := s.setCore c { k with loads := k.loads.filter (fun m => m.seq != l.seq) }
  let s := s.noteUncorr c l.st false o l.bundle
  match l.dest with
  | .entry q slot _ =>
    s.modCore c (fun k => (k.setQueueReg q ((k.queueReg q).withdraw slot)).retarget q)
  | _ => s

/-- The acquire that a load acts as: ACQ's scope, SYS for an SO load (R175). -/
def PLoad.acquire (l : PLoad) : Option Scope := if l.hasSo then some .sys else l.acq

/-- What a load acquires at, done to its die's RDC. -/
def State.acquireFor (s : State) (c : Nat) (l : PLoad) : State :=
  match l.acquire with
  | some sc => s.acquireRdc c sc
  | none => s

/-- An atomic on a UN page reads and stores as a UN access of its stream: what it reads and what it stores enter the
record (R176, R276). -/
def State.logAmo (s : State) (c : Nat) (l : PLoad) (w : AmoWork) : State :=
  let pa := (l.pas[0]?).getD 0
  let s := s.leaveRdcs pa
  let s := l.pas.foldl (fun s a => ((s.unShown c a).map (fun u => s.seeUn c l.st u a)).getD s) s
  match w.new (s.mem.read pa w.size) with
  | some v =>
    let bytes := l.pas.zip (bytesOfNum v w.size)
    (s.logUn c l.st bytes).reachHome (dieOf c) l.pas
  | none => s

/-- Perform a pending atomic (R276, R277): release, operation at the home, acquire, old value into DST.  A CAS that
stores nothing is no release. -/
def State.performAmo (s : State) (c : Nat) (l : PLoad) (w : AmoWork) : State :=
  let s := match (if s.casFails c l then none else if l.hasSo then some Scope.sys else w.rel) with
    | some sc => s.releaseRdc c sc
    | none => s
  let s := if l.unOnly then s.logAmo c l w else s
  let (s, old) := s.atomic (s.meterOf c) ((l.pas[0]?).getD 0) w
  let s := s.acquireFor c l
  s.modCore c (fun k => k.deliver (s.tickOf c) l old)

/-- A load whose every part is read delivers its data, or reports its error (R142, R163, R212). -/
def State.finishLoad (s : State) (c : Nat) (l : PLoad) : State :=
  match l.err with
  | some o => s.loadError c l o
  | none =>
    let k := s.core c
    let s := s.setCore c { k with loads := k.loads.filter (fun m => m.seq != l.seq) }
    s.modCore c (fun k => k.deliver (s.tickOf c) l (assemble l.got))

/-- A load with some of its parts read: it goes on, or it is whole. -/
def State.putLoad (s : State) (c : Nat) (l : PLoad) : State :=
  if l.parts.isEmpty then s.finishLoad c l
  else s.modCore c (fun k => { k with loads := k.loads.map (fun m => if m.seq = l.seq then l else m) })

/-- Perform one piece of a pending load: fix its value, or note its error, and end the load with its last piece: the
error of the lowest lane is then reported (R141, R142, R152, R163). -/
def State.loadPiece (s : State) (c : Nat) (l : PLoad) (q : Nat × Nat) : State :=
  let one := l.piece q true
  match (one.pas.zip one.origin).find? (fun e => s.badLines.contains (e.1 / 64)) with
  | some (_, o) => s.putLoad c { l.piece q false with err := worse l.err o }
  | none =>
    match l.amo with
    | some w =>
      let k := s.core c
      (s.setCore c { k with loads := k.loads.filter (fun m => m.seq != l.seq) }).performAmo c l w
    | none =>
      let (s, bytes) := (s.acquireFor c one).readParts c l.st l.seq one.parts
      (s.acquireFor c one).putLoad c { l.piece q false with got := l.got ++ bytes }

/-- The pieces of a pending load that may be performed now. -/
def State.loadPieces (s : State) (c : Nat) (l : PLoad) : List (Nat × Nat) :=
  (piecesOf l.origin).filter (fun q => s.loadReady c (l.piece q true))

/-- Perform a pending load whole, its pieces in address order. -/
def State.performLoad (s : State) (c : Nat) (l : PLoad) : State :=
  if l.parts.isEmpty then s.finishLoad c l
  else
    l.origin.foldl (fun s _ =>
      match (s.core c).loads.find? (fun m => m.seq == l.seq) with
      | none => s
      | some m =>
        match piecesOf m.origin with
        | [] => s
        | q :: _ => s.loadPiece c m q) s

/-! ### Issue of accesses -/

/-- Put a load in flight. -/
def State.issueLoad (s : State) (c : Nat) (l : PLoad) : State :=
  let k := s.core c
  s.setCore c { k with loads := k.loads ++ [{ l with seq := k.seq }], seq := k.seq + 1 }

/-- Put a store in flight; its DC bytes enter the task's commit buffer instead (R177). -/
def State.issueStore (s : State) (c : Nat) (st : Stream) (parts : List (Nat × Byte × OrderKind))
    (rel : Option Scope) (origin : List Origin) (bundle : Nat) : State :=
  let k := s.core c
  let dcs := (parts.zip origin).filter (fun p => p.1.2.2 == .dc)
  let rest := (parts.zip origin).filter (fun p => p.1.2.2 != .dc)
  let dc := dcs.foldl (fun t p => Tbl.set t p.1.1 p.1.2.1) k.dc
  let dcFrom := dcs.foldl (fun t p => Tbl.set t p.1.1 { st, origin := p.2, bundle, seq := k.seq }) k.dcFrom
  let dcStores := if dcs.isEmpty then k.dcStores else (st, k.seq) :: k.dcStores
  let stores :=
    if rest.isEmpty then k.stores
    else k.stores ++ [{ st, seq := k.seq, parts := rest.map (fun p => p.1), rel,
                        origin := rest.map (fun p => p.2), bundle }]
  s.setCore c { k with dc, dcFrom, dcStores, stores, seq := k.seq + 1 }

/-- Take the next program order without an access. -/
def State.bump (s : State) (c : Nat) : State := s.modCore c (fun k => { k with seq := k.seq + 1 })

/-- Every access of a stream so far is performed. -/
def Core.quiet (k : Core) (st : Stream) : Bool :=
  !(k.loads.any (fun l => l.st == st)) && !(k.stores.any (fun x => x.st == st)) &&
    !k.imagesPending st k.seq

/-- Every access of a stream so far that a release other than FENCE orders is performed: UN accesses are not among
them (R167, R176). -/
def Core.settled (k : Core) (st : Stream) : Bool := !k.orderedBefore st k.seq && !k.imagesPending st k.seq

/-- Every load of a stream is performed. -/
def Core.loadsQuiet (k : Core) (st : Stream) : Bool := !(k.loads.any (fun l => l.st == st))

/-- An acquire of a stream is not performed: nothing after it may be (R168, R175). -/
def Core.acquirePending (k : Core) (st : Stream) : Bool :=
  k.loads.any (fun l => l.st == st && (l.acq.isSome || l.hasSo))

/-- A hold store would be performed before a load that precedes it (R165, R178). -/
def Core.loadsBefore (k : Core) (st : Stream) : Bool :=
  k.loads.any (fun l => l.st == st && !l.unOnly)

/-! ### The promotion log (R182, R183) -/

/-- The release of a log entry is performed: the stream's accesses up to it are, but for UN ones that it does not
order, and so is the copy that it belongs to (R176, R183). -/
def Core.released (k : Core) (e : LogEntry) : Bool :=
  !k.orderedBefore e.st (e.seq + 1) &&
    !(k.copies.any (fun c => c.st == e.st && c.seq == e.seq))

/-- The oldest `n` entries leave the log. -/
def Core.dropLog (k : Core) (n : Nat) : Core :=
  { k with log := k.log.drop n,
           requests := k.requests.map (fun r => { r with covers := r.covers.map (fun m => m - n) }),
           widening := k.widening.map (fun w => (w.1 - n, w.2)) }

/-- Widen the oldest entries up to a count: write back the die's dirty RC lines, drop the entries. -/
def State.widen (s : State) (c n : Nat) : State :=
  (s.writeBack (dieOf c) [.rc]).modCore c (fun k => k.dropLog n)

/-- A request of a promoting acquire is still to be served. -/
def State.promotionOpen (s : State) (c seq : Nat) : Bool :=
  s.cores.any (fun e => e.2.requests.any (fun r => r.source == c && r.seq == seq))

/-- A promoting acquire of a stream waits for its request. -/
def State.promotes (s : State) (c : Nat) (st : Stream) : Bool :=
  (s.core c).loads.any (fun l => l.st == st && s.promotionOpen c l.seq)

/-- The first pending access of a core that a test selects and that may be performed whole now; a promoting
acquire waits for its request (R184). -/
def State.nextAccess (s : State) (c : Nat) (sel : Stream → Nat → Bool) : Option (PLoad ⊕ PStore) :=
  let k := s.core c
  let l := k.loads.find? (fun l => sel l.st l.seq && !s.promotionOpen c l.seq && s.loadReady c l)
  let x := k.stores.find? (fun x => sel x.st x.seq && k.storeReady x)
  match l, x with
  | none, none => none
  | some l, none => some (.inl l)
  | none, some x => some (.inr x)
  | some l, some x => if l.seq < x.seq then some (.inl l) else some (.inr x)

/-- Perform the pending accesses of a core that a test selects, in program order. -/
def State.performWhere (s : State) (c : Nat) (sel : Stream → Nat → Bool) : Nat → State
  | 0 => s
  | n + 1 =>
    match s.nextAccess c sel with
    | none => s
    | some (.inl l) => State.performWhere (s.performLoad c l) c sel n
    | some (.inr x) => State.performWhere (s.performStore c x) c sel n

/-- Perform everything that a core has issued. -/
def State.performAll (s : State) (c : Nat) : State :=
  let k := s.core c
  s.performWhere c (fun _ _ => true) (k.loads.length + k.stores.length)

/-- Perform the accesses of a stream before a place in program order. -/
def State.performBefore (s : State) (c : Nat) (st : Stream) (seq : Nat) : State :=
  let k := s.core c
  s.performWhere c (fun t n => t == st && n < seq) (k.loads.length + k.stores.length)

/-! ### Commits (R177) -/

/-- The byte of an address in the commit buffer follows an access: a load of its stream before the store that put it
there, or an earlier store of the stream to the address under another kind (R164, R165, R178). -/
def DcOrigin.follows (o : DcOrigin) (k : Core) (pa : Nat) : Bool :=
  !o.engine &&
    (k.loads.any (fun l => l.st == o.st && l.seq < o.seq && !l.unOnly) ||
      k.stores.any (fun x => x.st == o.st && x.seq < o.seq && x.parts.any (fun p => p.1 == pa && p.2.2 != .un)))

/-- The accesses that come before bytes of the commit buffer: loads, and earlier stores of a byte with all that
precedes them.  A store to a DC page waits for them before it enters the buffer, so that only a switch of a dual-backed
buffer can leave some (R189). -/
def Core.beforeDc (k : Core) (st : Stream) (seq : Nat) : Bool :=
  k.dcFrom.any (fun e => e.2.st == st && !e.2.engine &&
    (k.loads.any (fun l => l.st == st && l.seq == seq && seq < e.2.seq && !l.unOnly) ||
      k.stores.any (fun x => x.st == st && seq ≤ x.seq && x.seq < e.2.seq &&
        x.parts.any (fun p => p.1 == e.1 && p.2.2 != .un))))

/-- Perform the accesses that come before bytes of the commit buffer. -/
def State.performForDc (s : State) (c : Nat) : State :=
  let k := s.core c
  s.performWhere c k.beforeDc (k.loads.length + k.stores.length)

/-- The byte of an address in the commit buffer can be committed: what it follows is performed.  Only a load behind a
promoting acquire that is still open can keep it there (R168, R184; log entry 132). -/
def Core.dcReady (k : Core) (pa : Nat) : Bool :=
  match k.dcFrom.find? (fun e => e.1 == pa) with
  | some e => !e.2.follows k pa
  | none => true

/-- The part of a commit buffer that can be committed, and the core without it. -/
def Core.readyDc (k : Core) : Tbl Byte := k.dc.filter (fun e => k.dcReady e.1)

def Core.withoutReady (k : Core) : Core :=
  let left := k.dcFrom.filter (fun e => !k.dcReady e.1)
  { k with dc := k.dc.filter (fun e => !k.dcReady e.1), dcFrom := left,
           dcStores := k.dcStores.filter (fun e => left.any (fun o => o.2.st == e.1 && o.2.seq == e.2)) }

/-- A task outside a convoy commits its buffer at each of its releases and at its end. -/
def State.commitOwn (s : State) (c : Nat) : State :=
  if (s.core c).dc.isEmpty || ((s.core c).task.bind (fun t => t.convoyId)).isSome then s
  else
    let k := s.core c
    ((s.setCore c k.withoutReady).commitAll (dieOf c) [(s.meterOf c, k.readyDc)]).commitErrors c k.readyDc k.dcFrom

/-- A release narrower than DEV has to wait before issue: a widening runs and its bound has not passed (R185),
the log is full and its oldest release is not performed (R183), or a promoting acquire of the stream waits,
so that no logged release ever waits for one (R184; log entry 85). -/
def State.logStalls (s : State) (c : Nat) (st : Stream) : Bool :=
  let k := s.core c
  (k.widening.isSome && !k.wideBound) || s.promotes c st ||
    (64 ≤ k.log.length && !(match k.log with
      | [] => true
      | e :: _ => k.released e))

/-- Enter a release narrower than DEV in the log; a 65th entry first widens the oldest (R183).  The
entry's place is that of the access that follows. -/
def State.logRelease (s : State) (c : Nat) (st : Stream) : State :=
  let s := if 64 ≤ (s.core c).log.length then s.widen c 1 else s
  s.modCore c (fun k => { k with log := k.log ++ [{ st, seq := k.seq }] })

/-- What a release narrower than DEV leaves in the log. -/
def State.logScope (s : State) (c : Nat) (st : Stream) (sc : Scope) : State :=
  if sc.narrow then s.logRelease c st else s

/-- A release without a store of its own, by a stream whose earlier accesses are performed: own DC commit,
RDC write-back, log entry (R167, R173, R177, R182). -/
def State.release (s : State) (c : Nat) (st : Stream) (sc : Scope) : State :=
  (((s.commitOwn c).releaseRdc c sc).logScope c st sc).bump c

end Sys2Proof.Machine
end

