-- ==== Sys2Proof/Machine/Context.lean ====
section
/-!
DEFINITION. The context area (R381 to R383, Tables 15.6 to 15.8): what a save writes and what a load
reads back.

Each scalar piece of the area is an item with its offset, its size, how it is read off the core and
how it is put back.  The big arrays are bulk pieces: tables of equal cells from an offset up.
-/

namespace Sys2Proof.Machine

/-- A piece of the context area. -/
structure Item where
  off : Nat
  size : Nat
  get : Core → Nat
  set : Nat → Core → Core

/-- An array of cells in the context area. -/
structure Bulk where
  off   : Nat
  size  : Nat
  count : Nat
  get   : Core → Tbl Nat
  set   : Tbl Nat → Core → Core

def boolNat (b : Bool) : Nat := if b then 1 else 0

/-- A piece of the running task's record. -/
def taskItem (off size : Nat) (g : Task → Nat) (p : Nat → Task → Task) : Item :=
  { off, size, get := fun k => (k.task.map g).getD 0,
    set := fun v k => { k with task := k.task.map (p v) } }

/-- Launch, identity and energy pieces (Table 15.6, rows 0x00 to 0x28 and 0x300). -/
def taskItems : List Item :=
  [ { off := 0x00, size := 4, get := fun _ => 0x00020000, set := fun _ k => k },
    taskItem 0x04 4 (fun t => t.needCaps.toNat) (fun v t => { t with needCaps := BitVec.ofNat 32 v }),
    { off := 0x08, size := 8, get := fun k => k.ptroot.toNat,
      set := fun v k => { k with ptroot := BitVec.ofNat 64 v } },
    taskItem 0x10 4 (fun t => t.launch) (fun v t => { t with launch := v }),
    taskItem 0x14 4 (fun t => t.index) (fun v t => { t with index := v }),
    taskItem 0x18 2 (fun t => t.member) (fun v t => { t with member := v }),
    taskItem 0x1A 2 (fun t => t.convoy) (fun v t => { t with convoy := v }),
    taskItem 0x1C 2 (fun t => t.eclass) (fun v t => { t with eclass := v }),
    taskItem 0x1E 2 (fun t => t.cls) (fun v t => { t with cls := v }),
    taskItem 0x20 8 (fun t => t.manifest) (fun v t => { t with manifest := v }),
    taskItem 0x28 8 (fun t => t.handler) (fun v t => { t with handler := v }),
    taskItem 0x300 8 (fun t => t.jctr.toNat) (fun v t => { t with jctr := BitVec.ofNat 64 v }),
    taskItem 0x308 8 (fun t => t.mbytes.toNat) (fun v t => { t with mbytes := BitVec.ofNat 64 v }),
    taskItem 0x310 8 (fun t => t.mrem.toNat) (fun v t => { t with mrem := BitVec.ofNat 32 v }),
    taskItem 0x318 8 (fun t => t.drec.toNat) (fun v t => { t with drec := BitVec.ofNat 64 v }),
    taskItem 0x320 8 (fun t => boolNat t.twsExempt) (fun v t => { t with twsExempt := v == 1 }) ]

/-- A word of the fault frame (offset 0x100 up, R375). -/
def frameItem (i : Nat) (g : Frame → Word) (p : Word → Frame → Frame) : Item :=
  { off := 0x100 + 8 * i, size := 8, get := fun k => (g k.frame).toNat,
    set := fun v k => { k with frame := p (BitVec.ofNat 64 v) k.frame } }

def frameItems : List Item :=
  [ frameItem 0 (fun f => f.fcause) (fun v f => { f with fcause := v }),
    frameItem 1 (fun f => f.faddr0) (fun v f => { f with faddr0 := v }),
    frameItem 2 (fun f => f.faddr1) (fun v f => { f with faddr1 := v }),
    frameItem 3 (fun f => f.fdet) (fun v f => { f with fdet := v }),
    frameItem 4 (fun f => f.fpc.p) (fun v f => { f with fpc := f.fpc.set .P v }),
    frameItem 5 (fun f => f.fpc.l) (fun v f => { f with fpc := f.fpc.set .L v }),
    frameItem 6 (fun f => f.fpc.x) (fun v f => { f with fpc := f.fpc.set .X v }),
    frameItem 7 (fun f => f.fpc.s) (fun v f => { f with fpc := f.fpc.set .S v }),
    frameItem 8 (fun f => f.wxtag) (fun v f => { f with wxtag := v }),
    frameItem 9 (fun f => f.wxval) (fun v f => { f with wxval := v }),
    frameItem 10 (fun f => f.wxcmp) (fun v f => { f with wxcmp := v }),
    frameItem 11 (fun f => f.flact) (fun v f => { f with flact := v }),
    frameItem 12 (fun f => f.fptg) (fun v f => { f with fptg := v }) ]

/-- FLAGS without the frame-valid bit, which the save adds (Table 15.6). -/
def coreFlags (k : Core) : Nat :=
  2 * boolNat k.inh + 4 * boolNat k.lease + 8 * boolNat (k.warnHeld || k.warnDue) + 16 * k.evl.toNat

/-- The FIFO from a stream to the one that a code names, as TOKINIT orders them (Table 12.2). -/
def fifoNibbles : List (Nat × Nat) :=
  streams.flatMap (fun a => [1, 2, 3].map (fun c =>
    (3 * a.num + (c - 1), fifoKey a (Stream.ofNum (a.num + c)))))

/-- Token counts in the nibble order of TOKINIT. -/
def packTokens (f : Tbl Nat) : Nat :=
  fifoNibbles.foldl (fun n e => n + Tbl.get 0 f e.2 * 16 ^ e.1) 0

/-- Token counts from a TOKINIT word. -/
def unpackTokens (v : Nat) : Tbl Nat :=
  fifoNibbles.foldl (fun f e =>
    if v / 16 ^ e.1 % 16 = 0 then f else Tbl.set f e.2 (v / 16 ^ e.1 % 16)) []

/-- HEAD, CNT and RDY of a queue in two bytes (offset 0x210). -/
def packQueue (r : QueueReg) : Nat :=
  r.head + r.cnt * 4 +
    ((List.range 4).map (fun i => boolNat (Tbl.get false r.rdy i) * 2 ^ (5 + i))).sum

def unpackQueue (v : Nat) (r : QueueReg) : QueueReg :=
  { r with head := v % 4, cnt := v / 4 % 8, rsv := [], landed := [], popTick := none,
           rdy := (List.range 4).map (fun i => (i, bit v (5 + i))) }

/-- Core-wide pieces (Table 15.6).  The table gives PKIND and PN per buffer in 8 bytes: pb0's lie in the first two, pb1's
in the next two (log entry 109). -/
def coreItems : List Item :=
  [ { off := 0x200, size := 8, get := fun k => k.qmap.toNat,
      set := fun v k => { k with qmap := BitVec.ofNat 64 v } },
    { off := 0x208, size := 8, get := fun k => packTokens k.fifo,
      set := fun v k => { k with fifo := unpackTokens v, pushes := [] } },
    { off := 0x230, size := 2, get := fun k => k.jcount, set := fun v k => { k with jcount := v } },
    { off := 0x232, size := 2, get := fun k => k.ltq.length, set := fun _ k => k },
    { off := 0x328, size := 8, get := fun k => k.mflag.toNat,
      set := fun v k => { k with mflag := BitVec.ofNat 5 v } },
    { off := 0x338, size := 8, get := fun k => k.sga.toNat,
      set := fun v k => { k with sga := BitVec.ofNat 64 v } },
    { off := 0x340, size := 8, get := fun k => k.sgb.toNat,
      set := fun v k => { k with sgb := BitVec.ofNat 64 v } },
    { off := 0x348, size := 2, get := fun k => k.pkind0.toNat + 4 * k.pn0,
      set := fun v k => { k with pkind0 := BitVec.ofNat 2 v, pn0 := v / 4 } },
    { off := 0x34A, size := 2, get := fun k => k.pkind1.toNat + 4 * k.pn1,
      set := fun v k => { k with pkind1 := BitVec.ofNat 2 v, pn1 := v / 4 } } ] ++
  (List.range 16).map (fun q =>
    { off := 0x210 + 2 * q, size := 2, get := fun k => packQueue (k.queueReg q),
      set := fun v k => k.setQueueReg q (unpackQueue v (k.queueReg q)) }) ++
  (List.range 8).map (fun i =>
    { off := 0x238 + 8 * i, size := 8, get := fun k => ((k.cbl[i]?).getD 0).toNat,
      set := fun v k => if v = 0 then k else { k with cbl := k.cbl ++ [BitVec.ofNat 64 v] } }) ++
  (List.range 8).map (fun n =>
    { off := 0x278 + n, size := 1, get := fun k => (k.mailbox n).head + 4 * (k.mailbox n).cnt,
      set := fun v k => k.setMailbox n { k.mailbox n with head := v % 4, cnt := v / 4 % 8 } })

/-- A piece of a stream block. -/
def streamItem (st : Stream) (off size : Nat) (g : StreamState → Nat)
    (p : Nat → StreamState → StreamState) : Item :=
  { off := 0x400 + 0x400 * st.num + off, size, get := fun k => g (k.stream st),
    set := fun v k => k.modStream st (p v) }

/-- RUN, PEND, LACT0–3 and SYNCDONE of a stream block (Table 15.7). -/
def packSeq (t : StreamState) : Nat :=
  boolNat t.run + 2 * t.pend.toNat +
  ((List.range 4).map (fun i => boolNat (Tbl.get false t.lact i) * 2 ^ (3 + i))).sum +
  128 * boolNat t.syncDone

def unpackSeq (v : Nat) (t : StreamState) : StreamState :=
  { t with run := bit v 0, pend := BitVec.ofNat 2 (v / 2), slotsLeft := v / 2 % 4, syncDone := bit v 7,
           lact := (List.range 4).map (fun i => (i, bit v (3 + i))) }

/-- LACT0–3 of a stream as four bits. -/
def packLact (t : StreamState) : Nat :=
  ((List.range 4).map (fun i => boolNat (Tbl.get false t.lact i) * 2 ^ i)).sum

/-- A stream block (Table 15.7). -/
def streamItems (st : Stream) : List Item :=
  [ streamItem st 0x180 8 (fun t => t.pc.toNat) (fun v t => { t with pc := pcOf v }),
    streamItem st 0x188 8 (fun t => t.ptarget.toNat) (fun v t => { t with ptarget := pcOf v }),
    streamItem st 0x190 8 packSeq unpackSeq,
    streamItem st 0x198 8 (fun t => t.ln.toNat) (fun v t => { t with ln := BitVec.ofNat 64 v }),
    streamItem st 0x220 8 (fun t => t.fstat.toNat) (fun v t => { t with fstat := BitVec.ofNat 5 v }) ]

/-- Every scalar piece of the area. -/
def areaItems : List Item :=
  taskItems ++ frameItems ++ coreItems ++ streams.flatMap streamItems

def tblNat {w : Nat} (t : Tbl (BitVec w)) : Tbl Nat := t.map (fun e => (e.1, e.2.toNat))
def tblBits (w : Nat) (t : Tbl Nat) : Tbl (BitVec w) := t.map (fun e => (e.1, BitVec.ofNat w e.2))

/-- Shift the keys of a table up. -/
def tblShift {α : Type} (n : Nat) (t : Tbl α) : Tbl α := t.map (fun e => (e.1 + n, e.2))

/-- The part of a table with keys in a range, shifted to start at 0. -/
def tblPart {α : Type} (lo n : Nat) (t : Tbl α) : Tbl α :=
  (t.filter (fun e => lo ≤ e.1 && e.1 < lo + n)).map (fun e => (e.1 - lo, e.2))

/-- The arrays of a stream block and of the template tables. -/
def streamBulks (st : Stream) : List Bulk :=
  let b := 0x400 + 0x400 * st.num
  [ { off := b, size := 8, count := 32, get := fun k => tblNat (k.stream st).s,
      set := fun v k => k.modStream st (fun t => { t with s := tblBits 64 v }) },
    { off := b + 0x100, size := 8, count := 16,
      get := fun k => (0, ones64.toNat) :: tblNat (k.stream st).p,
      set := fun v k => k.modStream st (fun t => { t with p := tblBits 64 (v.filter (fun e => e.1 != 0)) }) },
    { off := b + 0x1A0, size := 8, count := 4, get := fun k => tblNat (k.stream st).lc,
      set := fun v k => k.modStream st (fun t => { t with lc := tblBits 64 v }) },
    { off := b + 0x1C0, size := 8, count := 4, get := fun k => tblNat (k.stream st).lstart,
      set := fun v k => k.modStream st (fun t => { t with lstart := v.map (fun e => (e.1, pcOf e.2)) }) },
    { off := b + 0x1E0, size := 8, count := 4, get := fun k => tblNat (k.stream st).lexit,
      set := fun v k => k.modStream st (fun t => { t with lexit := tblBits 48 v }) },
    { off := b + 0x200, size := 8, count := 4, get := fun k => tblNat (k.stream st).ml,
      set := fun v k => k.modStream st (fun t => { t with ml := tblBits 64 v }) },
    { off := 0x2000 + 992 * st.num, size := 16, count := 62,
      get := fun k => (tblNat (k.stream st).templates).map (fun e => (e.1 - 1, e.2)),
      set := fun v k => k.modStream st (fun t =>
        { t with templates := tblShift 1 (tblBits 128 v) }) } ]

/-- EHEAP as 64 rows of 64 cells; an unused cell is key 0 and column 0xFFFFFFFF (R267). -/
def packHeap (h : Tbl (List (Nat × Nat))) : Tbl Nat :=
  (List.range 64).flatMap (fun m =>
    let row := Tbl.get [] h m
    (List.range 64).map (fun i =>
      let e := (row[i]?).getD (0, 0xFFFFFFFF)
      (m * 64 + i, e.2 % 2 ^ 32 + e.1 % 2 ^ 32 * 2 ^ 32)))

/-- The rows that cells give: a cell of zeros is the pair of key 0 and column 0. -/
def unpackHeap (v : Tbl Nat) : Tbl (List (Nat × Nat)) :=
  (List.range 64).map (fun m =>
    let row := tblPart (m * 64) 64 v
    (m, (((List.range 64).map (fun i => Tbl.get 0 row i)).filter (fun e => e != 0xFFFFFFFF)).map
      (fun e => (e / 2 ^ 32, e % 2 ^ 32))))

/-- Mailbox slots as one table of 32 cells. -/
def packMail (m : Tbl Mailbox) : Tbl Nat :=
  m.flatMap (fun e => e.2.slots.map (fun x => (e.1 * 4 + x.1, x.2.toNat)))

def packQueueSlots (q : Tbl QueueReg) : Tbl Nat :=
  q.flatMap (fun e => e.2.slots.map (fun x => (e.1 * 4 + x.1, x.2.toNat)))

/-- Commit buffer lines: address, byte mask, data (offset 0x128000). -/
def packDc (dc : Tbl Byte) : List (Nat × Nat × Nat) :=
  let lines := (dc.map (fun e => e.1 / 64)).eraseDups
  lines.mapIdx (fun i l =>
    let part := tblPart (l * 64) 64 dc
    (i, l * 64, part.foldl (fun n e => n + 2 ^ e.1 + e.2.toNat * 2 ^ (64 + 8 * e.1)) 0)) |>.map
    (fun x => (x.1, x.2.1, x.2.2))

def dcCells (dc : Tbl Byte) : Tbl Nat :=
  (packDc dc).map (fun x => (x.1, x.2.1 + x.2.2 * 2 ^ 64))

def unpackDc (v : Tbl Nat) : Tbl Byte :=
  v.flatMap (fun e =>
    let line := e.2 % 2 ^ 64
    let mask := e.2 / 2 ^ 64 % 2 ^ 64
    (List.range 64).filterMap (fun o =>
      if bit mask o then some (line + o, BitVec.ofNat 8 (e.2 / 2 ^ (128 + 8 * o))) else none))

/-- Lines of the commit buffer that the area itself holds; the others lie in the overflow region (R177,
Table 15.6). -/
def dcLines : Nat := 2048

/-- The arrays of the area (Table 15.6). -/
def areaBulks : List Bulk :=
  streams.flatMap streamBulks ++
  [ { off := 0x1400, size := 2, count := 256, get := fun k => k.sem,
      set := fun v k => { k with sem := v } },
    { off := 0x1600, size := 8, count := 32, get := fun k => packMail k.mb,
      set := fun v k => (List.range 8).foldl (fun k n =>
        k.setMailbox n { k.mailbox n with slots := tblBits 64 (tblPart (4 * n) 4 v) }) k },
    { off := 0x1700, size := 1, count := 64, get := fun k => tblNat k.eparam,
      set := fun v k => { k with eparam := tblBits 8 v } },
    { off := 0x1740, size := 1, count := 528, get := fun k => tblNat k.emask,
      set := fun v k => { k with emask := tblBits 8 v } },
    { off := 0x3000, size := 4, count := 256, get := fun k => tblNat k.hist,
      set := fun v k => { k with hist := tblBits 32 v } },
    { off := 0x4000, size := 128, count := 64, get := fun k => packQueueSlots k.queues,
      set := fun v k => (List.range 16).foldl (fun k q =>
        k.setQueueReg q { k.queueReg q with slots := tblBits 1024 (tblPart (4 * q) 4 v) }) k },
    { off := 0x6000, size := 2, count := 1152, get := fun k => tblNat k.ptag0,
      set := fun v k => { k with ptag0 := tblBits 16 v } },
    { off := 0x6900, size := 2, count := 1152, get := fun k => tblNat k.ptag1,
      set := fun v k => { k with ptag1 := tblBits 16 v } },
    { off := 0x10000, size := 8, count := 4096, get := fun k => packHeap k.eheap,
      set := fun v k => { k with eheap := unpackHeap v } },
    { off := 0x18000, size := 4, count := 16384, get := fun k => tblNat k.ehist,
      set := fun v k => { k with ehist := tblBits 32 v } } ] ++
  (List.range 4).map (fun n =>
    { off := 0x28000 + 0x20000 * n, size := 4, count := 32768, get := fun k => tblNat (k.accOf n),
      set := fun v k => k.setAcc n (tblBits 32 v) }) ++
  [ { off := 0xA8000, size := 4, count := 65536, get := fun k => tblNat k.pb0,
      set := fun v k => { k with pb0 := tblBits 32 v } },
    { off := 0xE8000, size := 4, count := 65536, get := fun k => tblNat k.pb1,
      set := fun v k => { k with pb1 := tblBits 32 v } },
    { off := 0x128000, size := 80, count := dcLines, get := fun k => (dcCells k.dc).take dcLines,
      set := fun v k => { k with dc := unpackDc v } } ]

/-- OPC and FN of a copy's operation (Table 2.11). -/
def CopyKind.opcFn : CopyKind → Nat × Nat
  | .linear n => (0x48, n)
  | .gather => (0x49, 0)
  | .multicast => (0x4A, 0)
  | .drain => (0x74, 0)

def CopyKind.ofOpcFn (opc fn : Nat) : CopyKind :=
  match opc with
  | 0x49 => .gather
  | 0x4A => .multicast
  | 0x74 => .drain
  | _ => .linear fn

/-- A descriptor's words (Table 15.8).  TYP of a drain, the queue of a queue destination and STARTED have no
place in the table; they are kept with the saved context (R209, R217; log entry 16). -/
def packCopy (c : Copy) : List (Nat × Nat × Nat) :=
  [ (0x00, 8, c.imm.toNat + c.token * 2 ^ 32 + c.st.num * 2 ^ 38 + c.mod.toNat * 2 ^ 40 +
      c.kind.opcFn.2 * 2 ^ 48 + c.kind.opcFn.1 * 2 ^ 56),
    (0x08, 8, c.aux.toNat + c.done * 2 ^ 32),
    (0x10, 8, c.sa.toNat), (0x18, 8, c.sb.toNat), (0x20, 8, c.sc.toNat) ] ++
  c.shape.mapIdx (fun i v => (0x30 + 4 * i, 4, v.toNat))

/-- A queued copy read back from a descriptor, with what was kept beside it (R209, R217). -/
def unpackCopy (mem : Memory) (a id seq tick : Nat) (kept : Option Copy) : Copy :=
  let w0 := mem.read a 8
  let w1 := mem.read (a + 8) 8
  { id, kind := CopyKind.ofOpcFn (bits w0 56 8) (bits w0 48 8), st := Stream.ofNum (bits w0 38 2),
    token := bits w0 32 5, mod := BitVec.ofNat 5 (w0 / 2 ^ 40),
    typ := (kept.map (fun c => c.typ)).getD .untyped,
    imm := BitVec.ofNat 32 w0, aux := BitVec.ofNat 16 w1,
    sa := BitVec.ofNat 64 (mem.read (a + 0x10) 8), sb := BitVec.ofNat 64 (mem.read (a + 0x18) 8),
    sc := BitVec.ofNat 64 (mem.read (a + 0x20) 8), queue := kept.bind (fun c => c.queue),
    shape := (List.range 8).map (fun i => BitVec.ofNat 32 (mem.read (a + 0x30 + 4 * i) 4)),
    started := (kept.map (fun c => c.started)).getD false, done := bits w1 32 32, seq, tick, image := [],
    flags := 0, failed := kept.bind (fun c => c.failed), shadow := [], got := [],
    list := (kept.map (fun c => c.list)).getD [], source := kept.bind (fun c => c.source), gone := (kept.map (fun c => c.gone)).getD [],
    replayed := true }

/-- The token registers of a stream with a copy in flight, one bit each (Table 15.7). -/
def pendingMask (k : Core) (st : Stream) : Nat :=
  ((List.range 32).map (fun n =>
    if 1 ≤ n ∧ k.copies.any (fun c => c.st == st && c.token == n) then 2 ^ n else 0)).sum

/-- The convoy barrier cells of the area (offset 0xF000). -/
def barrierCells (v : Convoy) : List (Nat × Nat × Nat) :=
  (List.range 16).flatMap (fun b =>
    [(0xF000 + 16 * b, 4, Tbl.get 0 v.gen b), (0xF004 + 16 * b, 8, Tbl.get 0 v.arrived b)])

/-- The task records of the local task queue (Table 12.5, offset 0x8000). -/
def recordCells (r : SpawnRecord) : List (Nat × Nat × Nat) :=
  [(0, 8, r.entry)] ++ r.args.mapIdx (fun i v => (8 + 8 * i, 8, v.toNat)) ++ [(0x38, 8, r.sp.toNat)]

/-- Every piece of an area with its offset and size, for a core at a tick.  MBASE is rebased on the tick in which the
save writes it, some free number of ticks after the stop (R381, R394; log entry 130). -/
def areaCells (s : State) (c : Nat) (frameValid : Bool) : List (Nat × Nat × Nat) :=
  let k := s.core c
  let mbase := lowBits ((k.mbase.toNat : Int) - ((s.tickOf c + Config.freePick s.fresh : Nat) : Int)) 64
  areaItems.map (fun i => (i.off, i.size, i.get k)) ++
  [ (0x30, 8, boolNat frameValid + coreFlags k),
    (0x48, 8, (k.berths.map (fun e => if e.2 = 0 then 0 else 2 ^ e.1)).sum),
    (0x50, 2, c), (0x58, 4, ((k.dc.map (fun e => e.1 / 64)).eraseDups).length),
    (0x64, 2, k.copies.length), (0x330, 8, mbase) ] ++
  streams.map (fun st => (0x400 + 0x400 * st.num + 0x228, 4, pendingMask k st)) ++
  areaBulks.flatMap (fun b => (b.get k).map (fun e => (b.off + b.size * e.1, b.size, e.2))) ++
  (k.copies.mapIdx (fun i x =>
    (packCopy x).map (fun e => (0x9000 + 96 * i + e.1, e.2.1, e.2.2)))).flatten ++
  (k.ltq.mapIdx (fun i r =>
    (recordCells r).map (fun e => (0x8000 + 64 * i + e.1, e.2.1, e.2.2)))).flatten ++
  (match k.task.bind (fun t => t.convoyId) with
   | some id => (s.convoys.find? (fun v => v.id == id)).elim [] barrierCells
   | none => [])

/-- Write cells of offset, size and value from a base. -/
def writeCells (mem : Memory) (base : Nat) : List (Nat × Nat × Nat) → Memory
  | [] => mem
  | (off, size, v) :: rest => writeCells (mem.write (base + off) size v) base rest

/-- The commit-buffer lines that the area has no room for, and the region that takes them, whose address the
area then gives (R177, Table 15.6; log entry 86). -/
def saveOverflow (mem : Memory) (k : Core) (area : Nat) : Memory :=
  match (dcCells k.dc).drop dcLines with
  | [] => mem
  | more =>
    writeCells (mem.write (area + 0x5C) 8 (Config.overflowRegion area)) (Config.overflowRegion area)
      (more.mapIdx (fun i e => (80 * i, 80, e.2)))

/-- The memory with a core's context written to an area; the berth region is left as it is (R382,
R383). -/
def saveArea (s : State) (c area : Nat) (frameValid : Bool) : Memory :=
  saveOverflow (writeCells (s.mem.clear area areaBerths) area (areaCells s c frameValid)) (s.core c) area

/-- The equal cells of an array of memory as a table; zero cells are not listed. -/
def readCells (mem : Memory) (base size : Nat) : Nat → Tbl Nat
  | 0 => []
  | n + 1 =>
    let w := mem.window base (size * (n + 1))
    w.foldl (fun t e =>
      let key := e.1 / size
      Tbl.set t key (Tbl.get 0 t key + e.2.toNat * 256 ^ (e.1 % size))) []

/-- The commit-buffer lines in the overflow region. -/
def loadOverflow (mem : Memory) (area : Nat) (k : Core) : Core :=
  let n := mem.read (area + 0x58) 4
  if n ≤ dcLines then k
  else { k with dc := k.dc ++ unpackDc (readCells mem (mem.read (area + 0x5C) 8) 80 (n - dcLines)) }

/-- Put back the scalar and array pieces of an area into a core (R384). -/
def loadPieces (mem : Memory) (area : Nat) (k : Core) : Core :=
  let k := areaItems.foldl (fun k i => i.set (mem.read (area + i.off) i.size) k) k
  loadOverflow mem area
    (areaBulks.foldl (fun k b => b.set (readCells mem (area + b.off) b.size b.count) k) k)

end Sys2Proof.Machine
end

