-- ==== Sys2Proof/Machine/Flags.lean ====
section
/-!
DEFINITION. Floating-point formats, rounding and flags (R113 to R125).

A value is exact: a sign, a natural mantissa and a binary exponent.  Rounding answers the code of the
destination format together with the flags it raises, so that flags are computed in one place.
-/

namespace Sys2Proof

/-- A flag set, in the bits of FSTAT and MFLAG (Tables 5.6 and 10.9). -/
abbrev Flags := BitVec 5

def flagNX : Flags := 1
def flagUF : Flags := 2
def flagOF : Flags := 4
def flagDZ : Flags := 8
def flagNV : Flags := 16

/-- A value of a floating-point format, exact where finite: (−1)^neg · m · 2^e. -/
inductive FVal where
  | nan (signalling : Bool)
  | inf (neg : Bool)
  | fin (neg : Bool) (m : Nat) (e : Int)
  deriving DecidableEq, Repr

/-- The rounding modes of Table 2.8 (R40). -/
inductive Rounding where
  | rne | rtz | rdn | rup
  deriving DecidableEq, Repr

/-- The rounding of MOD[1:0] (R40). -/
def Rounding.ofMod (m : BitVec 5) : Rounding :=
  match m.toNat % 4 with
  | 0 => .rne | 1 => .rtz | 2 => .rdn | _ => .rup

/-- SAT, MOD[2] (R40). -/
def satOfMod (m : BitVec 5) : Bool := bit m.toNat 2

/-- How a format codes infinities and NaNs (Table 5.1). -/
inductive Specials where
  | ieee      -- top exponent: infinity at mantissa 0, NaN otherwise
  | nanOnly   -- E4M3: no infinity, the all-ones magnitude is a NaN
  | none      -- no infinity and no NaN
  deriving DecidableEq, Repr

/-- A floating-point format (Table 5.1). -/
structure Format where
  /-- Exponent and mantissa widths, bias. -/
  ew   : Nat
  mw   : Nat
  bias : Nat
  spec : Specials
  /-- The largest finite magnitude code. -/
  maxCode : Nat
  /-- The canonical NaN; for a format without NaN, its largest value (R114, R122). -/
  canon : Nat
  deriving DecidableEq, Repr

/-- The format of a type; types that are no float formats read as FP32. -/
def Typ.format : Typ → Format
  | .f16 => { ew := 5, mw := 10, bias := 15, spec := .ieee, maxCode := 0x7BFF, canon := 0x7E00 }
  | .bf16 => { ew := 8, mw := 7, bias := 127, spec := .ieee, maxCode := 0x7F7F, canon := 0x7FC0 }
  | .e4m3 => { ew := 4, mw := 3, bias := 7, spec := .nanOnly, maxCode := 0x7E, canon := 0x7F }
  | .e5m2 => { ew := 5, mw := 2, bias := 15, spec := .ieee, maxCode := 0x7B, canon := 0x7E }
  | .e3m2 => { ew := 3, mw := 2, bias := 3, spec := .none, maxCode := 0x1F, canon := 0x1F }
  | .e2m3 => { ew := 2, mw := 3, bias := 1, spec := .none, maxCode := 0x1F, canon := 0x1F }
  | .e2m1 => { ew := 2, mw := 1, bias := 1, spec := .none, maxCode := 0x7, canon := 0x7 }
  | _ => { ew := 8, mw := 23, bias := 127, spec := .ieee, maxCode := 0x7F7FFFFF,
           canon := 0x7FC00000 }

/-- The width of a code. -/
def Format.width (f : Format) : Nat := 1 + f.ew + f.mw

/-- The exponent of the smallest normal value (R120, `emin`). -/
def Format.emin (f : Format) : Int := 1 - (f.bias : Int)

/-- The sign bit as a number. -/
def Format.signBit (f : Format) (neg : Bool) : Nat := if neg then 2 ^ (f.ew + f.mw) else 0

/-- Decode a code (R113, R114). -/
def Format.decode (f : Format) (code : Nat) : FVal :=
  let neg := bit code (f.ew + f.mw)
  let e := bits code f.mw f.ew
  let m := bits code 0 f.mw
  let top := 2 ^ f.ew - 1
  if f.spec = .ieee ∧ e = top then
    (if m = 0 then .inf neg else .nan (!bit m (f.mw - 1)))
  else if f.spec = .nanOnly ∧ e = top ∧ m = 2 ^ f.mw - 1 then .nan false
  else if e = 0 then .fin neg m (f.emin - f.mw)
  else .fin neg (2 ^ f.mw + m) ((e : Int) - f.bias - f.mw)

/-- A code with its flags. -/
structure Rounded where
  code  : Nat
  flags : Flags
  deriving DecidableEq, Repr

/-- m · 2^sh as an integer part, with whether something is left over and how it compares with one
half: 0 nothing, 1 below, 2 equal, 3 above. -/
def scaleDown (m : Nat) (sh : Int) : Nat × Nat :=
  if 0 ≤ sh then (m * 2 ^ sh.toNat, 0)
  else
    let d := (-sh).toNat
    let q := m / 2 ^ d
    let r := m % 2 ^ d
    let half := 2 ^ (d - 1)
    (q, if r = 0 then 0 else if r < half then 1 else if r = half then 2 else 3)

/-- Round a magnitude split by `scaleDown` to an integer (R120). -/
def roundInt (mode : Rounding) (neg : Bool) (q left : Nat) : Nat :=
  if left = 0 then q
  else match mode with
    | .rne => if left = 3 ∨ (left = 2 ∧ q % 2 = 1) then q + 1 else q
    | .rtz => q
    | .rdn => if neg then q + 1 else q
    | .rup => if neg then q else q + 1

/-- The overflow result (Table 5.5, R121). -/
def Format.overflow (f : Format) (mode : Rounding) (sat neg : Bool) : Nat :=
  let max := f.signBit neg + f.maxCode
  let past := match f.spec with
    | .ieee => f.signBit neg + (2 ^ f.ew - 1) * 2 ^ f.mw
    | .nanOnly => f.signBit neg + f.canon
    | .none => max
  if sat then max
  else match mode with
    | .rne => past
    | .rtz => max
    | .rdn => if neg then past else max
    | .rup => if neg then max else past

/-- Round an exact finite value into a format (R120, R121). -/
def Format.round (f : Format) (mode : Rounding) (sat : Bool) (neg : Bool) (m : Nat) (e : Int) :
    Rounded :=
  if m = 0 then { code := f.signBit neg, flags := 0 }
  else
    let top := (Nat.log2 m : Int) + e
    let e' := if top < f.emin then f.emin else top
    let (q, left) := scaleDown m (e - (e' - f.mw))
    let k := roundInt mode neg q left
    let mag := (e' - f.emin).toNat * 2 ^ f.mw + k
    if f.maxCode < mag then { code := f.overflow mode sat neg, flags := flagOF ||| flagNX }
    else
      { code := f.signBit neg + mag,
        flags := (if left = 0 then 0 else flagNX) |||
          (if left ≠ 0 ∧ top < f.emin then flagUF else 0) }

/-- Round any value into a format: specials of R122, finite values of R120. -/
def Format.ofVal (f : Format) (mode : Rounding) (sat : Bool) (v : FVal) : Rounded :=
  match v with
  | .nan sig =>
    { code := f.canon, flags := if f.spec = .none ∨ sig then flagNV else 0 }
  | .inf neg =>
    match f.spec with
    | .ieee => { code := f.signBit neg + (2 ^ f.ew - 1) * 2 ^ f.mw, flags := 0 }
    | .nanOnly =>
      { code := f.signBit neg + (if sat then f.maxCode else f.canon), flags := flagOF }
    | .none => { code := f.signBit neg + f.maxCode, flags := flagOF }
  | .fin neg m e => f.round mode sat neg m e

/-! ### Exact arithmetic -/

/-- The signed mantissa of a finite value at a smaller exponent. -/
def alignInt (neg : Bool) (m : Nat) (e e' : Int) : Int :=
  let v : Int := ((m * 2 ^ (e - e').toNat : Nat) : Int)
  if neg then -v else v

/-- The exact sum of two finite values; an exact zero sum has the sign of R222. -/
def addFin (mode : Rounding) (na : Bool) (ma : Nat) (ea : Int) (nb : Bool) (mb : Nat) (eb : Int) :
    FVal :=
  let e := if ea < eb then ea else eb
  let v := alignInt na ma ea e + alignInt nb mb eb e
  if v = 0 then
    .fin (if na == nb then na else mode == .rdn) 0 0
  else .fin (v < 0) v.natAbs e

/-- A NaN operand, and whether it signals (R222). -/
def FVal.isNan : FVal → Bool
  | .nan _ => true
  | _ => false

def FVal.isSnan : FVal → Bool
  | .nan s => s
  | _ => false

def FVal.neg : FVal → FVal
  | .nan s => .nan s
  | .inf n => .inf (!n)
  | .fin n m e => .fin (!n) m e

def FVal.isZero : FVal → Bool
  | .fin _ 0 _ => true
  | _ => false

def FVal.sign : FVal → Bool
  | .nan _ => false
  | .inf n => n
  | .fin n _ _ => n

/-- An exact result with the flags of invalid operations (R222). -/
structure Exact where
  val   : FVal
  flags : Flags
  deriving DecidableEq, Repr

/-- The exact sum (R222). -/
def addExact (mode : Rounding) (a b : FVal) : Exact :=
  if a.isNan || b.isNan then
    { val := .nan false, flags := if a.isSnan || b.isSnan then flagNV else 0 }
  else match a, b with
    | .inf x, .inf y => if x == y then { val := .inf x, flags := 0 }
                        else { val := .nan false, flags := flagNV }
    | .inf x, _ => { val := .inf x, flags := 0 }
    | _, .inf y => { val := .inf y, flags := 0 }
    | .fin na ma ea, .fin nb mb eb => { val := addFin mode na ma ea nb mb eb, flags := 0 }
    | _, _ => { val := .nan false, flags := 0 }

/-- The exact product (R222). -/
def mulExact (a b : FVal) : Exact :=
  if a.isNan || b.isNan then
    { val := .nan false, flags := if a.isSnan || b.isSnan then flagNV else 0 }
  else match a, b with
    | .fin na ma ea, .fin nb mb eb => { val := .fin (na != nb) (ma * mb) (ea + eb), flags := 0 }
    | x, y =>
      if x.isZero || y.isZero then { val := .nan false, flags := flagNV }
      else { val := .inf (x.sign != y.sign), flags := 0 }

/-- a · b + c with one rounding to come; an invalid product is invalid whatever the addend (R222). -/
def fmaExact (mode : Rounding) (a b c : FVal) : Exact :=
  let p := mulExact a b
  let snan := a.isSnan || b.isSnan || c.isSnan
  if p.val.isNan || c.isNan then
    { val := .nan false, flags := p.flags ||| (if snan then flagNV else 0) }
  else addExact mode p.val c

/-- Round an exact result (R222). -/
def Exact.round (x : Exact) (f : Format) (mode : Rounding) (sat : Bool) : Rounded :=
  match x.val with
  | .nan _ => { code := f.canon, flags := x.flags }
  | v => let r := f.ofVal mode sat v; { r with flags := r.flags ||| x.flags }

/-- Whether a < b for values that are not NaN, −0 and +0 equal. -/
def FVal.lt (a b : FVal) : Bool :=
  match a, b with
  | .inf x, .inf y => x && !y
  | .inf x, _ => x
  | _, .inf y => !y
  | .fin na ma ea, .fin nb mb eb =>
    let e := if ea < eb then ea else eb
    alignInt na ma ea e < alignInt nb mb eb e
  | _, _ => false

/-- Whether a = b for values that are not NaN, −0 and +0 equal. -/
def FVal.eq (a b : FVal) : Bool := !a.isNan && !b.isNan && !a.lt b && !b.lt a

/-! ### Integers (R95, R123, R124) -/

/-- The least and greatest value of an integer type (R95). -/
def Typ.lo (t : Typ) : Int := if t.signed then -((2 ^ (t.width - 1) : Nat) : Int) else 0
def Typ.hi (t : Typ) : Int :=
  if t.signed then ((2 ^ (t.width - 1) : Nat) : Int) - 1 else ((2 ^ t.width : Nat) : Int) - 1

/-- The value of the low w bits under a type (R95, `val`). -/
def Typ.value (t : Typ) (v : Nat) : Int :=
  if t.signed then sextInt v t.width else ((v % 2 ^ t.width : Nat) : Int)

/-- wrap of R95, as a 64-bit image. -/
def Typ.wrap (t : Typ) (v : Int) : Word :=
  let low := lowBits v t.width
  if t.signed then wordOfInt (sextInt low t.width) else BitVec.ofNat 64 low

/-- sat of R95, as a 64-bit image. -/
def Typ.sat (t : Typ) (v : Int) : Word := t.wrap (min (max v t.lo) t.hi)

/-- Round a finite value to an integer (R123). -/
def roundToInt (mode : Rounding) (neg : Bool) (m : Nat) (e : Int) : Int × Bool :=
  let (q, left) := scaleDown m e
  let k := roundInt mode neg q left
  (if neg then -(k : Int) else (k : Int), left != 0)

/-- Convert a float value to an integer type: clamped, NV out of range, NX when it differs (R123). -/
def floatToInt (mode : Rounding) (t : Typ) (v : FVal) : Int × Flags :=
  match v with
  | .nan _ => (0, flagNV)
  | .inf neg => (if neg then t.lo else t.hi, flagNV)
  | .fin neg m e =>
    let (r, inexact) := roundToInt mode neg m e
    if r < t.lo then (t.lo, flagNV)
    else if t.hi < r then (t.hi, flagNV)
    else (r, if inexact then flagNX else 0)

/-- Convert a code of one type to a code of another (R120 to R124, R128).  The result is the
64-bit image that scalar CVT writes; queue forms take its low bits. -/
def convert (src dst : Typ) (mod : BitVec 5) (code : Nat) : Word × Flags :=
  let mode := Rounding.ofMod mod
  let sat := satOfMod mod
  if src.isInt then
    let v := src.value code
    if dst.isInt then ((if sat then dst.sat v else dst.wrap v), 0)
    else
      let r := dst.format.round mode sat (v < 0) v.natAbs 0
      (BitVec.ofNat 64 r.code, r.flags)
  else
    let v := src.format.decode (code % 2 ^ src.format.width)
    if dst.isInt then
      let (r, fl) := floatToInt mode dst v
      (dst.wrap r, fl)
    else
      let r := dst.format.ofVal mode sat v
      (BitVec.ofNat 64 r.code, r.flags)

/-! ### Order keys (R238) -/

/-- The unsigned order key of a lane value. -/
def orderKey (t : Typ) (x : Nat) : Nat :=
  let w := t.width
  if t.isFloat then (if bit x (w - 1) then 2 ^ w - 1 - x % 2 ^ w else x % 2 ^ w + 2 ^ (w - 1))
  else if t.signed then x % 2 ^ w ^^^ 2 ^ (w - 1)
  else x % 2 ^ w

/-- The value of a 32-bit order key (R363, the inverse of R238). -/
def keyValue (k : Nat) : Nat := if bit k 31 then k % 2 ^ 31 else 2 ^ 32 - 1 - k % 2 ^ 32

/-! ### Block families and scale tags (R115 to R117) -/

/-- The fields of a scale tag (Table 5.3). -/
def tagType (t : Nat) : Nat := bits t 10 2
def tagE (t : Nat) : Nat := bits t 3 7
def tagM (t : Nat) : Nat := bits t 0 3

/-- The value of a scale tag as mantissa and exponent (R117). -/
def tagScale (t : Nat) : Nat × Int :=
  if tagE t = 0 then (0, 0) else (8 + tagM t, (tagE t : Int) - 63 - 3)

/-- The shift s of a Q4 type (R115). -/
def q4Shift (ty : Nat) : Nat :=
  match ty with
  | 1 => 1
  | 2 => 3
  | _ => 0

/-- The integer form of a Q4 code (Table 5.2). -/
def q4Int (ty code : Nat) : Int :=
  if ty = 0 then sextInt code 4
  else
    let mags := match ty with
      | 1 => [0, 1, 2, 3, 4, 6, 8, 12]
      | 2 => [0, 1, 2, 4, 8, 16, 32, 64]
      | _ => [0, 1, 2, 3, 4, 8, 16, 32]
    let m : Int := (((mags[code % 8]?).getD 0 : Nat) : Int)
    if bit code 3 then -m else m

/-- The value of an F8 element under its block's type; type 11 decodes as zero (R116). -/
def f8Val (ty code : Nat) : FVal :=
  match ty with
  | 0 => Typ.e4m3.format.decode (code % 256)
  | 1 => Typ.e5m2.format.decode (code % 256)
  | 2 => let v := sextInt code 8; .fin (v < 0) v.natAbs 0
  | _ => .fin false 0 0

end Sys2Proof
end

