-- ==== Sys2Proof/Machine/Operands.lean ====
section
/-!
DEFINITION. What an instruction sees of its operands: the issuing context, register and immediate
values (R95), predicates (R38), lanes and queue entries (R211 to R219), cluster hold references
(R243), and the ways in which an issue can end.
-/

namespace Sys2Proof.Machine

/-! ### How an issue ends -/

/-- The cause codes of Table 15.2 (R373). -/
def causeCode : Cause → Nat
  | .illop => 0x01 | .illfield => 0x02 | .dslot => 0x03 | .fetchPage => 0x04
  | .fetchAccess => 0x05 | .align => 0x06 | .loadPage => 0x07 | .storePage => 0x08
  | .access => 0x09 | .holdRange => 0x0A | .qovf => 0x0B | .qund => 0x0C | .qjoin => 0x0D
  | .crewDeadlock => 0x0E | .tokovf => 0x0F | .schedMiss => 0x10 | .waitExpire => 0x11
  | .throttleWarn => 0x12 | .smpParam => 0x13 | .chart => 0x14 | .copyFail => 0x15
  | .memUncorr => 0x16 | .launchRange => 0x17 | .priv => 0x18 | .leaseRevoked => 0x19
  | .brk => 0x1A | .restoreCaps => 0x1B

/-- The causes that Table 15.2 delivers first to the task handler. -/
def toHandler : Cause → Bool
  | .qovf | .qund | .qjoin | .schedMiss | .waitExpire | .throttleWarn | .smpParam | .brk => true
  | _ => false

/-- What a trap records beside the streams' bundle addresses (R374, R375). -/
structure TrapInfo where
  cause : Cause
  addr0 : Nat := 0
  addr1 : Nat := 0
  fdet  : Nat := 0
  /-- CODE and SVC of FCAUSE, for BREAK (R379). -/
  code  : Nat := 0
  svc   : Bool := false
  /-- The recorded bundle is the next unissued one. -/
  async : Bool := false
  wxtag : Word := 0
  wxval : Word := 0
  wxcmp : Word := 0
  /-- The recorded bundle of the faulting stream where it is not the bundle at its PC. -/
  record : Option Nat := none
  /-- Decided only after issue, so that it faults its own participant of a rendezvous (R87). -/
  late  : Bool := false
  deriving DecidableEq, Repr

/-- What comes after an issued bundle (R69). -/
inductive Flow where
  /-- The next bundle in sequence. -/
  | seq
  /-- A taken transfer; the flag says that it deactivates loops (BR, BRZ, JMP). -/
  | jump (target : Nat) (leaves : Bool)
  /-- LOOP with a zero count: the body is skipped (R76). -/
  | skip (target : Nat)
  deriving DecidableEq, Repr

/-- How the body of an instruction ends. -/
inductive Res where
  | done (s : State) (flow : Flow)
  /-- The meaning has finished the bundle itself (TRAP, ERET, HALT of P). -/
  | final (s : State)
  /-- TRAP has finished its bundle and taken BREAK, after the other bundles of its rendezvous (R379). -/
  | broke (s : State)
  | wait (s : State) (w : Wait)
  | trap (s : State) (t : TrapInfo)

/-- A plain trap with nothing but its cause. -/
def Res.plain (s : State) (c : Cause) : Res := .trap s { cause := c }

/-- FDET (Table 6.7). -/
structure Fdet where
  pager : Bool := false
  rsvd  : Bool := false
  async : Bool := false
  lane  : Nat := 0
  quay  : Bool := false
  split : Bool := false
  hold  : Bool := false
  kind  : Nat := 0
  lvl   : Nat := 7

def Fdet.word (d : Fdet) : Nat :=
  let b (x : Bool) (n : Nat) : Nat := if x then 2 ^ n else 0
  b d.pager 15 + b d.rsvd 14 + b d.async 13 + d.lane % 32 * 2 ^ 8 + b d.quay 7 + b d.split 6 +
    b d.hold 5 + d.kind % 4 * 2 ^ 3 + d.lvl % 8

/-! ### The issuing context -/

/-- Who issues what, where and when. -/
structure Ctx where
  o  : Op
  b  : Bundle
  f  : Fields
  c  : Nat
  st : Stream
  fl : Bool
  bh : Bool
  /-- Address of the bundle and of the bundle after it in memory. -/
  a  : Nat
  next : Nat
  now : Nat
  deriving DecidableEq, Repr

/-- The context of the bundle that the current stream issues. -/
def Ctx.of (o : Op) (b : Bundle) (f : Fields) (s : State) : Ctx :=
  let a := (s.stream s.cur.core s.cur.st).pc.toNat
  { o, b, f, c := s.cur.core, st := s.cur.st, fl := s.cur.fl, bh := s.cur.bh, a,
    next := (a + 4 * b.words) % 2 ^ 48, now := s.tickOf s.cur.core }

/-- The value of a register of the issuing stream, as it stands at issue (R49, R51). -/
def Ctx.reg (x : Ctx) (s : State) (o : Operand) : Word := (s.stream x.c x.st).operand o

/-- IMM sign-extended and zero-extended to 64 bits. -/
def Ctx.immS (x : Ctx) : Word := x.f.imm.signExtend 64
def Ctx.immZ (x : Ctx) : Word := x.f.imm.zeroExtend 64

/-- raw(X) of R95 under a type. -/
def Ctx.raw (x : Ctx) (s : State) (t : Typ) (o : Operand) : Word :=
  match o with
  | .imm => if t.signed || t == .untyped then x.immS else x.immZ
  | o => x.reg s o

/-- raw(X) where the entry reads an immediate as zext(IMM, 64). -/
def Ctx.rawZ (x : Ctx) (s : State) (o : Operand) : Word :=
  match o with
  | .imm => x.immZ
  | o => x.reg s o

/-- val(X) of R95 under the operation's type. -/
def Ctx.val (x : Ctx) (s : State) (o : Operand) : Int :=
  x.f.typ.value (x.raw s x.f.typ o).toNat

/-- ea = (raw(SA) + sext(IMM, 64)) mod 2^64 (R154). -/
def Ctx.ea (x : Ctx) (s : State) : Nat := (x.reg s x.f.sa + x.immS).toNat

/-- The selected predicate after inversion (R38). -/
def Ctx.mask (x : Ctx) (s : State) : Word :=
  let v := x.reg s (.p x.f.pr.num)
  if x.f.pr.inv then ~~~v else v

/-- An operation enabled as a whole is enabled (R38). -/
def Ctx.enabled (x : Ctx) (s : State) : Bool := (x.mask s).getLsbD 0

/-- The predicate bit of lane i of lanes of width w (R38, R218). -/
def laneBit (w i : Nat) : Nat := if w = 8 then i / 2 else i

/-- Lane i of width w is enabled. -/
def Ctx.laneOn (x : Ctx) (s : State) (w i : Nat) : Bool := (x.mask s).getLsbD (laneBit w i)

/-! ### Lanes (R218) -/

/-- Lane i of an entry. -/
def laneOf (e : Entry) (w i : Nat) : Nat := bits e.toNat (w * i) w

/-- The lanes of an entry. -/
def lanesOf (e : Entry) (w : Nat) : List Nat := (List.range (1024 / w)).map (fun i => laneOf e w i)

/-- A number from lanes of width w, lane 0 lowest. -/
def packLanes (w : Nat) : List Nat → Nat
  | [] => 0
  | v :: rest => v % 2 ^ w + 2 ^ w * packLanes w rest

/-- An entry from its lanes; lanes that are not listed are 0. -/
def entryOf (w : Nat) (l : List Nat) : Entry := BitVec.ofNat 1024 (packLanes w l)

/-! ### Bindings (R79) -/

/-- Producer and consumer of a queue. -/
def Core.producer (k : Core) (q : Nat) : Stream := Stream.ofNum (bits k.qmap.toNat (4 * q + 2) 2)
def Core.consumer (k : Core) (q : Nat) : Stream := Stream.ofNum (bits k.qmap.toNat (4 * q) 2)

/-- The queue that an operand names, for a pop or a peek. -/
def queueNum : Operand → Option Nat
  | .q n => some n.val
  | .peek n => some n.val
  | _ => none

/-- Queues that an operation pops or peeks, position by position, and the queue that it pushes into:
DST, or SB of a copy; QBIND names a queue and pushes nothing. -/
def sourcePositions (o : Op) (f : Fields) : List Operand :=
  match o with
  | .qbind => []
  | .cpy1 | .cpy2 | .cpy3 | .cpyg | .cpymc => []
  | _ => [f.sa, f.sb, f.sc]

def pushPosition (o : Op) (f : Fields) : Option Nat :=
  match o with
  | .qbind => none
  | .cpy1 | .cpy2 | .cpy3 | .cpyg => queueNum f.sb
  | _ => queueNum f.dst

/-- Every queue operand is bound to the issuing stream (R79); a copy's queue is consumed by another
stream (R200). -/
def Core.bindingsOk (k : Core) (o : Op) (f : Fields) (st : Stream) : Bool :=
  (sourcePositions o f).all (fun p => match queueNum p with
    | some q => k.consumer q == st
    | none => true) &&
  (match pushPosition o f with
   | some q => k.producer q == st &&
       (match o with
        | .cpy1 | .cpy2 | .cpy3 | .cpyg => k.consumer q != st
        | _ => true)
   | none => true)

/-! ### Taking queue operands (R212 to R216) -/

/-- The entry at the head of a queue. -/
def QueueReg.headEntry (r : QueueReg) : Entry := Tbl.get 0 r.slots r.head

/-- The head slot's data is there. -/
def QueueReg.headReady (r : QueueReg) : Bool := Tbl.get false r.rdy r.head

/-- A load, of memory or of the hold, fills the head slot (R216). -/
def Core.headByLoad (k : Core) (q : Nat) : Bool :=
  let r := k.queueReg q
  let head (q' slot rid : Nat) : Bool := q' == q && slot == r.head && rid == Tbl.get 0 r.rsv r.head
  k.loads.any (fun l => match l.dest with
    | .entry q' slot rid => head q' slot rid
    | _ => false) ||
  k.flight.any (fun l => l.locked && l.effects.any (fun e => match e with
    | .entry q' slot rid _ => head q' slot rid
    | _ => false))

/-- Pop the head entry. -/
def QueueReg.pop (r : QueueReg) (now : Nat) : QueueReg :=
  { r with head := (r.head + 1) % 4, cnt := r.cnt - 1, rsv := Tbl.set r.rsv r.head 0,
           popTick := some now }

/-- Reserve the next slot: its number is answered (R212). -/
def QueueReg.reserve (r : QueueReg) (rid : Nat) : QueueReg × Nat :=
  let slot := (r.head + r.cnt) % 4
  ({ r with cnt := r.cnt + 1, rdy := Tbl.set r.rdy slot false, rsv := Tbl.set r.rsv slot rid }, slot)

/-- Bytes that a linear copy moves in all. -/
def Copy.total (c : Copy) : Nat :=
  match c.kind with
  | .linear 1 => c.sc.toNat
  | .linear 2 => ((c.shape[0]?).getD 0).toNat * ((c.shape[1]?).getD 0).toNat
  | .linear _ =>
    ((c.shape[0]?).getD 0).toNat * ((c.shape[1]?).getD 0).toNat * ((c.shape[2]?).getD 0).toNat
  | .multicast => c.sc.toNat
  | _ => 0

/-- Bytes of the gather list entries that a copy has read. -/
def Copy.listed (cp : Copy) : Nat := (cp.list.map (fun e => e.2)).sum

/-- The gather list has entries that the copy has not read. -/
def Copy.listOpen (cp : Copy) : Bool := cp.kind == .gather && cp.list.length < cp.sc.toNat

/-- A copy has pushed, and so reserved, its last entry (R200). -/
def Copy.pushedAll (cp : Copy) : Bool :=
  match cp.kind with
  | .gather => !cp.listOpen && cp.listed ≤ cp.done
  | _ => cp.total ≤ cp.done

/-- An earlier copy into a queue that has not reserved its last entry (R200). -/
def Core.copyAhead (k : Core) (q : Nat) : Bool :=
  k.copies.any (fun c => c.queue == some q && !c.pushedAll)

/-- How the taking of the queue operands ends. -/
inductive Taken where
  | ok (k : Core) (entries : List (Nat × Entry))
  | wait (w : Wait)
  | trap (c : Cause)

/-- The entry taken for an operand. -/
def takenEntry (es : List (Nat × Entry)) (o : Operand) : Entry :=
  match queueNum o with
  | none => 0
  | some q =>
    match es.find? (fun e => e.1 == q) with
    | some e => e.2
    | none => 0

/-- The distinct queues that positions name. -/
def queuesOf (ps : List Operand) : List Nat := (ps.filterMap queueNum).eraseDups

/-- The distinct queues that positions pop. -/
def popsOf (ps : List Operand) : List Nat :=
  (ps.filterMap (fun p => match p with
    | .q n => some n.val
    | _ => none)).eraseDups

/-- Whether a source queue stops the issue: a same-stream queue is empty (QUND), the data is still to
come, or a cross-stream queue has nothing that may be taken now (R213, R214, R216). -/
def Core.sourceStop (k : Core) (fl : Bool) (now : Nat) (st : Stream) (q : Nat) :
    Option (Wait ⊕ Cause) :=
  let r := k.queueReg q
  if k.producer q = st then
    if r.cnt = 0 then some (.inr .qund)
    else if r.headReady then none
    else if fl && !k.headByLoad q then none
    else some (.inl .memory)
  else if r.cnt = 0 then some (.inl (.queueEmpty q))
  else if r.headReady && Tbl.get 0 r.landed r.head < now then none
  else some (.inl .latency)

/-- Whether the push stops the issue, counted after the own pop (R213, R214, R200). -/
def Core.pushStop (k : Core) (now : Nat) (st : Stream) (q : Nat) (ownPop : Bool) :
    Option (Wait ⊕ Cause) :=
  let r := k.queueReg q
  let held := r.cnt - (if ownPop then 1 else 0)
  if k.consumer q = st then (if 4 ≤ held then some (.inr .qovf) else none)
  else if k.copyAhead q then some (.inl (.copyAhead q))
  else if 4 ≤ r.cnt + (if r.popTick = some now then 1 else 0) then some (.inl (.queueFull q))
  else none

/-- Take all queue operands of one instruction together (R215): traps in the order SA, SB, SC, DST,
then waits; nothing is taken unless everything can be.  A trap comes at once, also where another queue would make the
bundle wait: no rule ranks the two (log entry 112). -/
def Ctx.takeQueues (x : Ctx) (s : State) (srcs : List Operand) (dst : Option Nat) : Taken :=
  let k := s.core x.c
  let pops := popsOf srcs
  let stops :=
    (queuesOf srcs).map (fun q => k.sourceStop x.fl x.now x.st q) ++
    (match dst with
     | some q => [k.pushStop x.now x.st q (pops.contains q)]
     | none => [])
  match stops.findSome? (fun e => match e with
      | some (.inr c) => some c
      | _ => none) with
  | some c => .trap c
  | none =>
    match stops.findSome? (fun e => match e with
        | some (.inl w) => some w
        | _ => none) with
    | some w => .wait w
    | none =>
      .ok (pops.foldl (fun k q => k.setQueueReg q ((k.queueReg q).pop x.now)) k)
        ((queuesOf srcs).map (fun q => (q, (k.queueReg q).headEntry)))

/-! ### Results -/

/-- A published-latency result of the issuing stream. -/
def Ctx.result (x : Ctx) (s : State) (lat : Nat) (es : List Effect) : State :=
  s.launchResult x.c x.st x.fl lat false 0 false es

/-- A result that is interlocked on both page kinds (R50). -/
def Ctx.locked (x : Ctx) (s : State) (lat : Nat) (es : List Effect) : State :=
  s.launchResult x.c x.st x.fl lat false 0 true es

/-- A result that lands a tick after, before the stream's next bundle (R351, R360). -/
def Ctx.lockedNext (x : Ctx) (s : State) (es : List Effect) : State :=
  (x.locked s 1 es).modStream x.c x.st (fun t =>
    { t with nextTick := max t.nextTick ((s.core x.c).landingTick x.fl (s.tickOf x.c) 1 es) })

/-- The write of a register of the issuing stream. -/
def Ctx.writes (x : Ctx) (o : Operand) (v : Word) : Effect := .reg x.st o v

/-- The flags of a flag-setting operation of the issuing stream (R125, R126). -/
def Ctx.flagEffect (x : Ctx) (fl : Flags) : Effect := .flags x.st fl

/-- Push an entry with a latency into a queue already checked for room (R212), with what lands beside
it. -/
def Ctx.pushEntry (x : Ctx) (s : State) (lat : Nat) (q : Nat) (v : Entry) (es : List Effect) : State :=
  let k := s.core x.c
  let rid := k.seq + 1
  let (r, slot) := (k.queueReg q).reserve rid
  x.result (s.setCore x.c (k.setQueueReg q r)) lat (.entry q slot rid v :: es)

/-- The entry of a hold load, whose latency is interlocked (R216). -/
def Ctx.pushLoaded (x : Ctx) (s : State) (lat : Nat) (q : Nat) (v : Entry) : State :=
  let k := s.core x.c
  let rid := k.seq + 1
  let (r, slot) := (k.queueReg q).reserve rid
  x.locked (s.setCore x.c (k.setQueueReg q r)) lat [.entry q slot rid v]

/-! ### Hold offsets and cores of the cluster -/

/-- The fault detail of a hold access. -/
def holdFdet (store : Bool) (lane : Nat) : Nat :=
  Fdet.word { hold := true, kind := if store then 1 else 0, lane }

/-- The range check of a hold access on the issuing core (R137, R138, R154). -/
def Ctx.holdFits (x : Ctx) (s : State) (off size : Nat) : Bool :=
  off + size ≤ (s.core x.c).holdLimit

/-- Core c runs a member of the convoy that the task on core a belongs to. -/
def State.sameConvoy (s : State) (a c : Nat) : Bool :=
  match (s.core a).task, (s.core c).task with
  | some t, some u =>
    (match t.convoyId, u.convoyId with
     | some i, some j => i == j
     | _, _ => false)
  | _, _ => false

/-- The issuing core, or a core of a member of the issuing convoy (R159, R243, R274). -/
def State.mayReach (s : State) (a c : Nat) : Bool := a == c || s.sameConvoy a c

/-- The core that a selector names: 0 the issuing core, 4 to 7 the cores of the cluster. -/
def selectedCore (c sel : Nat) : Option Nat :=
  if sel = 0 then some c
  else if 4 ≤ sel ∧ sel ≤ 7 then some (clusterBase c + (sel - 4))
  else none

end Sys2Proof.Machine
end

