-- ==== Sys2Proof/Machine/Sequencer.lean ====
section
/-!
DEFINITION. What follows the issue of a bundle: the spill side-op (R35, R138), the push of a token
(R42 step 5) and the stream sequencer with delay slots and hardware loops (R69 to R77).
-/

namespace Sys2Proof.Machine

/-- BR, BRZ, JMP, JAL and JALR (R69). -/
def isTransfer (o : Op) : Bool :=
  match o with
  | .br | .brz | .jmp | .jal | .jalr => true
  | _ => false

/-! ### The spill side-op -/

/-- Whose psum buffer holds the spill slots of a core in lease mode (R138). -/
def leaseHolder (c : Nat) : Nat := clusterBase c + (c % 4 + 1) % 4

/-- The hold offset of a spill slot (Table 6.1). -/
def Core.spillOffset (k : Core) (st : Stream) (slot : Nat) : Nat :=
  k.hdata + 4096 * st.num + 8 * slot

/-- The psum word of a spill slot in the highest 16 KiB of pb1 (R138). -/
def leaseWord (st : Stream) (slot : Nat) : Nat := 65536 - 4096 + 1024 * st.num + 2 * slot

/-- The value of a spill slot. -/
def State.spillRead (s : State) (c : Nat) (st : Stream) (slot : Nat) : Word :=
  let k := s.core c
  if k.lease then
    let p := (s.core (leaseHolder c)).pb1
    let w := leaseWord st slot
    BitVec.ofNat 64 ((Tbl.get 0 p w).toNat + (Tbl.get 0 p (w + 1)).toNat * 2 ^ 32)
  else BitVec.ofNat 64 (k.holdRead (k.spillOffset st slot) 8)

/-- Write a spill slot. -/
def State.spillWrite (s : State) (c : Nat) (st : Stream) (slot : Nat) (v : Word) : State :=
  let k := s.core c
  if k.lease then
    let w := leaseWord st slot
    s.modCore (leaseHolder c) (fun q =>
      { q with pb1 := Tbl.set (Tbl.set q.pb1 w (BitVec.ofNat 32 v.toNat)) (w + 1)
                 (BitVec.ofNat 32 (v.toNat / 2 ^ 32)) })
  else
    s.holdSetAll c ((bytesOfNum v.toNat 8).mapIdx (fun i b => (k.spillOffset st slot + i, b)))

/-- Run the spill side-op: a spill stores the register as it stood at issue, a fill lands 3 ticks
later, interlocked in lease mode (R35).  The fill's number follows that of its main operation, so that of two
results that land in one tick on one register the fill's stays; R49 does not rank them (log entry 91). -/
def Ctx.sideOp (x : Ctx) (s : State) : State :=
  match x.f.side with
  | .none => s
  | .spill r slot => s.spillWrite x.c x.st slot.val (x.reg s (.s r))
  | .fill r slot =>
    s.launchResult x.c x.st x.fl 3 false 0 (s.core x.c).lease
      [.reg x.st (.s r) (s.spillRead x.c x.st slot.val)]

/-! ### Tokens -/

/-- Add counts to a FIFO; they become visible by R42 step 5.  The push is a release at CORE scope, at which
a task outside a convoy commits its DC stores (R85, R177). -/
def State.pushTokens (s : State) (c : Nat) (a b : Stream) (n : Nat) : State :=
  let s := s.commitOwn c
  let k := s.core c
  let k := k.setFifo a b (k.fifoCount a b + n)
  s.setCore c { k with pushes := k.pushes ++
    [{ src := a, dst := b, n, tick := s.tickOf c, seq := k.seq }] }

/-- The bundle's PUSH (R42 step 5). -/
def State.pushBundle (s : State) (c : Nat) (st : Stream) (b : Bundle) : State :=
  match namedStream st b.push with
  | some d => s.pushTokens c st d 1
  | none => s

/-! ### The sequencer -/

/-- The loop-end check of R69, innermost loop first: the next address, the loops left active and the
new loop counts. -/
def loopEnd (t : StreamState) : List Nat → Nat → Nat × Tbl Bool × List (Nat × Word)
  | [], next => (next, t.lact, [])
  | k :: rest, next =>
    if Tbl.get false t.lact k && (Tbl.get 0 t.lexit k).toNat == next then
      let lc := Tbl.get 0 t.lc k
      if 1 < lc.toNat then ((Tbl.get 0 t.lstart k).toNat, t.lact, [(k, lc - 1)])
      else
        let (n, act, ws) := loopEnd t rest next
        (n, Tbl.set act k false, (k, 0) :: ws)
    else loopEnd t rest next

/-- The loops that a transfer to a target outside their bodies deactivates (R69). -/
def leaveLoops (t : StreamState) (target : Nat) : Tbl Bool :=
  (List.range 4).foldl (fun act k =>
    if Tbl.get false act k && !((Tbl.get 0 t.lstart k).toNat ≤ target &&
        target < (Tbl.get 0 t.lexit k).toNat) then
      Tbl.set act k false
    else act) t.lact

/-- The bubble ticks of a bundle (Table 3.3).  A hinted JMP or JALR that is not enabled costs none: the table gives
no such case (log entry 92). -/
def bubbles (o : Op) (bh hint : Bool) (flow : Flow) : Nat :=
  match o, flow with
  | .br, .jump _ _ | .brz, .jump _ _ => if bh && !hint then 3 else 0
  | .br, _ | .brz, _ => if bh && hint then 3 else 0
  | .jmp, .jump _ _ | .jalr, .jump _ _ => if bh then 3 else 0
  | .loop, .skip _ => 2
  | _, _ => 0

/-- The sequencer after an issued bundle (R69): PC, PEND, PTARGET, loop state.  New loop counts land
after 1 tick (Table 3.3).  A LOOP of count 0 goes to its exit with no loop-end check (R76; log entry
18). -/
def Ctx.sequence (x : Ctx) (s : State) (flow : Flow) : State :=
  let t := s.stream x.c x.st
  let slots := if isTransfer x.o && !x.bh then 2 else t.slotsLeft - 1
  let t := { t with slotsLeft := slots }
  let put (s : State) (t : StreamState) : State := s.setStream x.c x.st t
  if t.pend ≠ 0 then
    let s := match t.link with
      | some o => if t.pend = 1 then x.result s 1 [x.writes o (BitVec.ofNat 64 x.next)] else s
      | none => s
    put s { t with pend := t.pend - 1, link := if t.pend = 1 then none else t.link,
                   pc := if t.pend = 1 then t.ptarget else BitVec.ofNat 48 x.next }
  else
    match flow with
    | .jump target leaves =>
      let t := if leaves then { t with lact := leaveLoops t (target % 2 ^ 48) } else t
      if x.bh then put s { t with pc := BitVec.ofNat 48 target }
      else put s { t with pend := 2, ptarget := BitVec.ofNat 48 target,
                          pc := BitVec.ofNat 48 x.next }
    | .skip target => put s { t with pc := BitVec.ofNat 48 target }
    | .seq =>
      let (n', act, ws) := loopEnd t [0, 1, 2, 3] x.next
      let s := put s { t with pc := BitVec.ofNat 48 n', lact := act }
      if ws.isEmpty then s
      else x.result s 1 (ws.map (fun e => .reg x.st (.lc (Fin.ofNat 4 e.1)) e.2))

/-- Everything that follows the operation of an issued bundle: side-op (where the operation ran), PUSH,
sequencer, and the stream's own record of the issue.  A stream issues one bundle a tick at most
(log entry 4). -/
def Ctx.finish (x : Ctx) (s : State) (flow : Flow) (ran : Bool) : State :=
  let s := if ran then x.sideOp s else s
  let s := s.pushBundle x.c x.st x.b
  let s := x.sequence s flow
  s.modStream x.c x.st (fun t =>
    { t with nextTick := max t.nextTick
               (x.now + 1 + bubbles x.o x.bh (x.f.mod.getLsbD 0) flow),
             popFrom := none, syncDone := false, atSync := false, syncGo := false, prevFl := some x.fl, drain := none,
             wait := .none, waitStart := none, after := none, kept := none })

end Sys2Proof.Machine
end

