-- ==== Sys2Proof/Machine/Engines.lean ====
section
/-!
DEFINITION. What runs beside the streams: the flash pager (R150), the semaphore file with its waiters
(R280), the copy engines (R193 to R210) and the drain unit with its epilogue (R262 to R268).

A moving copy reads its source bytes at moments of their own and writes its destination in the step that ends
it, a queue destination one entry a step (R187, R201; log entry 13).
-/

namespace Sys2Proof.Machine

/-! ### The flash pager (R150) -/

/-- Every die gives up its RDC lines of a page, the dirty ones written back. -/
def State.dropPage (s : State) (page : Nat) : State :=
  [0, 1, 2, 3].foldl (fun s d => s.dropLines d (fun l => l.line / 128 == page / 8192)) s

/-- A walk has ended at a leaf. -/
def Walk.foundLeaf (w : Walk) (leaf : Nat) : Bool :=
  match w.ended with
  | some (.leaf _ addr _) => addr == leaf
  | _ => false

/-- The contents of a page have changed: the UN stores to what was there before are no values of its locations. -/
def State.forgetUn (s : State) (page : Nat) : State :=
  let here (a : Nat) : Bool := a / 8192 == page / 8192
  if s.unLog.any (fun u => u.bytes.any (fun e => here e.1)) then
    { s with unLog := s.unLog.map (fun u =>
        { u with bytes := u.bytes.filter (fun e => !here e.1), old := u.old.filter (fun e => !here e.1),
                 place := u.place.filter (fun e => !here e.1) }) }
  else s

/-- Drop every TLB entry of a leaf, in every core and die, and every result of a walk that found it. -/
def State.dropLeaf (s : State) (leaf : Nat) : State :=
  { s with
    cores := s.cores.map (fun e => (e.1, { e.2 with tlb := e.2.tlb.filter (fun t => t.leaf != leaf) })),
    dies := s.dies.map (fun e => (e.1, { e.2 with
      tlb := e.2.tlb.filter (fun t => t.leaf != leaf),
      walks := e.2.walks.filter (fun w => !w.foundLeaf leaf) })) }

/-- A page-in of a leaf ends: the page is filled and one atomic write, a DEV release, clears FR and PB; or it
fails, FR stays and every access that waits for it will fault.  The failure of one that PF.FR started is logged
(R150, R158). -/
def State.endPageIn (s : State) (leaf : Nat) (ok : Bool) : State :=
  let page := pteFrame (s.homeNumber leaf 8)
  let ahead := (s.pager.filter (fun j => j.leaf == leaf && j.pageIn)).filterMap (fun j => j.ahead)
  let s := { s with pager := s.pager.filter (fun j => !(j.leaf == leaf && j.pageIn)) }
  if ok then
    let data := (s.flash.window (Config.flashLocation leaf) 8192).map (fun x => (page + x.1, x.2))
    let s := (s.dropPage page).forgetUn page
    let s := { s with mem := (s.mem.clear page 8192).setAll data }.markEntry none leaf 0 (2 ^ 11 + 2 ^ 12)
    { s with pageWaits := s.pageWaits.filter (fun w => w.leaf != leaf || w.failed) }
  else
    let s := s.markEntry none leaf 0 (2 ^ 12)
    { s with
      pageWaits := s.pageWaits.map (fun w => if w.leaf = leaf then { w with failed := true } else w),
      faultLog := ahead.map (fun c =>
        { cause := .loadPage, core := c, addr := leaf, info := 0 }) ++ s.faultLog }

/-- An access already translated to a page is still to be performed: a load, a store, or a byte in a commit
buffer (R150, R177). -/
def State.pageBusy (s : State) (page : Nat) : Bool :=
  let here (a : Nat) : Bool := a / 8192 == page / 8192
  let held (dc : Tbl Byte) : Bool := dc.any (fun e => here e.1)
  s.cores.any (fun e => e.2.loads.any (fun l => l.pas.any here) || e.2.stores.any (fun x => x.pas.any here) ||
      held e.2.dc) ||
    s.saved.any (fun v => held v.dc) || s.convoys.any (fun v => v.endedDc.any (fun e => held e.2))

/-- A page-out of a resident leaf begins: PB is set and every TLB entry of the page goes (R150). -/
def State.startPageOut (s : State) (leaf : Nat) : State :=
  let s := (s.markEntry none leaf (2 ^ 12) 0).dropLeaf leaf
  { s with pager := s.pager ++ [{ leaf, pageIn := false, ahead := none }] }

/-- A page-out ends, when the accesses translated before it are performed: the page goes to flash, FR is set and
PB cleared (R150). -/
def State.endPageOut (s : State) (leaf : Nat) : State :=
  let page := pteFrame (s.homeNumber leaf 8)
  let s := (s.dropPage page).forgetUn page
  let dst := Config.flashLocation leaf
  let data := (s.mem.window page 8192).map (fun x => (dst + x.1, x.2))
  let s := { s with flash := (s.flash.clear dst 8192).setAll data,
                    pager := s.pager.filter (fun j => !(j.leaf == leaf && !j.pageIn)) }
  s.markEntry none leaf (2 ^ 11) (2 ^ 12)

/-- A page-out that can end does. -/
def State.tryPageOut (s : State) (leaf : Nat) : State :=
  if s.pageBusy (pteFrame (s.homeNumber leaf 8)) then s else s.endPageOut leaf

/-! ### Semaphores (R280 to R283) -/

/-- The semaphore of a waiter. -/
def Waiter.sem : Waiter → Nat
  | .semw n _ => n
  | .copy n _ => n

/-- The first waiter in the line of a semaphore. -/
def Core.semHead (k : Core) (n : Nat) : Option Waiter := k.swq.find? (fun w => w.sem == n)

/-- A waiter is a copy issued in a tick, not one that has entered again at a restore (R209, R282). -/
def Core.sameTick (k : Core) (tick : Nat) (w : Waiter) : Bool :=
  match w with
  | .copy _ id => k.copies.any (fun c => c.id == id && c.tick == tick && !c.replayed)
  | .semw _ _ => false

/-- The line of waiters with a SEMW of P that arrives: it stands before the copies issued in its own tick
(R280). -/
def Core.lineSemw (k : Core) (w : Waiter) (tick : Nat) : List Waiter :=
  let n := k.swq.length - (k.swq.reverse.takeWhile (k.sameTick tick)).length
  k.swq.take n ++ w :: k.swq.drop n

/-- The context of a bundle of P that waits beyond its issue. -/
def HeldBundle.ctx (w : HeldBundle) (o : Op) (c now : Nat) : Ctx :=
  { o, b := w.b, f := w.f, c, st := .P, fl := w.fl, bh := w.bh, a := w.a,
    next := (w.a + 4 * w.b.words) % 2 ^ 48, now }

/-- A held bundle of P completes: its result lands 2 ticks later (R275). -/
def State.completeHeld (s : State) (c : Nat) (o : Op) (w : HeldBundle) (v : Word) : State :=
  let x := w.ctx o c (s.tickOf c)
  x.finish (x.locked s 2 [x.writes w.f.dst v]) .seq true

/-- The SEMW of P takes its counts: its bundle completes in the same step (R282). -/
def State.completeSemw (s : State) (c : Nat) (old : Nat) : State :=
  match (s.core c).semw with
  | none => s
  | some w =>
    s.modCore c (fun k => { k with semw := none }) |>.completeHeld c .semw w (BitVec.ofNat 64 old)

/-- Serve the waiters of a semaphore: a head SEMW takes its counts when they cover it; a head copy takes
its count only when it starts (R280). -/
def State.serve (s : State) (c n : Nat) : Nat → State
  | 0 => s
  | fuel + 1 =>
    let k := s.core c
    match k.semHead n with
    | some (.semw _ need) =>
      let old := Tbl.get 0 k.sem n
      if need ≤ old then
        let s := s.setCore c { k with sem := Tbl.set k.sem n (old - need),
                                      swq := k.swq.erase (.semw n need) }
        State.serve (s.completeSemw c old) c n fuel
      else s
    | _ => s

/-- Add counts to a semaphore, saturating, and serve its waiters (R281). -/
def State.semAdd (s : State) (c n v : Nat) : State :=
  let k := s.core c
  let old := Tbl.get 0 k.sem n
  let new := min (old + v) 0xFFFF
  let s := s.setCore c { k with sem := Tbl.set k.sem n new,
                                evl := if old < new then k.evl ||| 2 else k.evl }
  s.serve c n (k.swq.length + 1)

/-- Enter a value at the tail of a mailbox of a core (R287). -/
def State.enterMail (s : State) (c n : Nat) (v : Word) : State :=
  s.modCore c (fun k =>
    let m := k.mailbox n
    { k.setMailbox n { m with slots := Tbl.set m.slots ((m.head + m.cnt) % 4) v, cnt := m.cnt + 1 } with
      evl := k.evl ||| 1 })

/-- MBS.NB (Table 11.2). -/
def mailNoWait (f : Fields) : Bool := bit f.mod.toNat 0

/-- An entry on its way may arrive: it finds room or its MBS does not wait for room, and the release that it
is may be performed (R167, R185, R287). -/
def State.mailReady (s : State) (c : Nat) (m : Mail) : Bool :=
  let full := 4 ≤ ((s.core c).mailbox m.box).cnt
  if full then mailNoWait m.held.f
  else (s.core m.sender).settled .P && !s.logStalls m.sender .P

/-- An entry arrives, or finds the mailbox full, and its MBS completes (R287). -/
def State.arrive (s : State) (c : Nat) (m : Mail) : State :=
  let s := (s.modCore c (fun k => { k with mail := k.mail.filter (fun e => e.sender != m.sender) })).modCore m.sender
    (fun k => { k with mbsTo := none })
  if 4 ≤ ((s.core c).mailbox m.box).cnt then s.completeHeld m.sender .mbs m.held 0
  else
    ((s.release m.sender .P .clus).enterMail c m.box m.value).completeHeld m.sender .mbs m.held 1

/-- The entries that a core has sent and that have not arrived are withdrawn (Table 11.4). -/
def State.withdrawMail (s : State) (c : Nat) : State :=
  let s := if (s.core c).mbsTo.isSome then s.modCore c (fun k => { k with mbsTo := none }) else s
  if s.cores.any (fun e => e.2.mail.any (fun m => m.sender == c)) then
    { s with cores := s.cores.map (fun e =>
        (e.1, { e.2 with mail := e.2.mail.filter (fun m => m.sender != c) })) }
  else s

/-! ### Convoy barriers (R284, R285) -/

/-- The wider of two scopes. -/
def widerScope (a b : Scope) : Scope := if a.code < b.code then b else a

/-- The convoy that the task on a core belongs to. -/
def State.convoyOn (s : State) (c : Nat) : Option Convoy :=
  ((s.core c).task.bind (fun t => t.convoyId)).bind (fun id => s.convoys.find? (fun v => v.id == id))

/-- The placement scope of a convoy. -/
def Convoy.placement (v : Convoy) : Scope := if v.size ≤ 4 then .clus else .die

/-- Replace the record of a convoy. -/
def State.setConvoy (s : State) (v : Convoy) : State :=
  { s with convoys := s.convoys.map (fun w => if w.id = v.id then v else w) }

/-- The members that have not ended, with their cores. -/
def Convoy.alive (v : Convoy) : List (Nat × Nat) :=
  ((List.range v.size).filter (fun i => !v.ended.contains i)).map (fun i => (i, Tbl.get 0 v.cores i))

/-- The mask of the members that have ended. -/
def Convoy.endedMask (v : Convoy) : Nat :=
  ((List.range v.size).map (fun i => if v.ended.contains i then 2 ^ i else 0)).sum

/-- The barrier at which P of a core waits. -/
def Core.barrier (k : Core) : Option Nat := k.bar.map (fun w => bits w.f.aux.toNat 0 4)

/-- Every member that has not ended has arrived at a barrier and waits there. -/
def State.barrierFull (s : State) (id n : Nat) : Bool :=
  match s.convoys.find? (fun v => v.id == id) with
  | none => false
  | some v =>
    !v.alive.isEmpty && v.alive.all (fun e =>
      bit (Tbl.get 0 v.arrived n) e.1 && (s.core e.2).barrier == some n &&
        (s.core e.2).task.bind (fun t => t.convoyId) == some id)

/-- What a passage commits of the buffer of a member of a convoy, and the task that it is metered to. -/
def State.memberBuffer (s : State) (v : Convoy) (i : Nat) : Option Meter × Tbl Byte :=
  let c := Tbl.get 0 v.cores i
  if v.ended.contains i then
    ((v.endedMeter.find? (fun e => e.1 == i)).map (fun e => e.2), Tbl.get [] v.endedDc i)
  else (s.meterOf c, (s.core c).readyDc)

/-- The commit of a convoy's DC buffers in member-index order, as one write (R177), with the die's DC lines
dropped. -/
def State.commitConvoy (s : State) (v : Convoy) : State :=
  let was := s
  let die := dieOf (Tbl.get 0 v.cores 0)
  let s := v.alive.foldl (fun s e => s.modCore e.2 Core.withoutReady) s
  let s := s.commitAll die ((List.range v.size).map (was.memberBuffer v))
  let s := (List.range v.size).foldl (fun s i =>
    let c := Tbl.get 0 v.cores i
    s.commitErrors c (was.memberBuffer v i).2 (if v.ended.contains i then [] else (was.core c).dcFrom)) s
  s.invalidate die [.dc]

/-- One member passes: its BAR acquires and completes with the generation. -/
def State.passMember (s : State) (v : Convoy) (g c : Nat) : State :=
  match (s.core c).bar with
  | none => s
  | some w =>
    let sc := widerScope ((Scope.ofCode (bits w.f.mod.toNat 0 3)).getD .core) v.placement
    let s := (s.acquireRdc c sc).modCore c (fun k => { k with bar := none })
    s.completeHeld c .bar w (BitVec.ofNat 64 g)

/-- The passage of a barrier, once for the convoy (R284). -/
def State.passBarrier (s : State) (id n : Nat) : State :=
  match s.convoys.find? (fun v => v.id == id) with
  | none => s
  | some v =>
    let g := Tbl.get 0 v.gen n
    let s := s.commitConvoy v
    let s := s.setConvoy { v with gen := Tbl.set v.gen n ((g + 1) % 2 ^ 32),
                                  arrived := Tbl.set v.arrived n v.endedMask, endedDc := [], endedFrom := [] }
    v.alive.foldl (fun s e => s.passMember v g e.2) s

/-! ### Copy control fields (Tables 8.3 and 10.6) -/

def Copy.isDrain (c : Copy) : Bool := c.kind == .drain
def Copy.scope (c : Copy) : Scope := (Scope.ofCode (bits c.imm.toNat 0 3)).getD .core
def Copy.shold (c : Copy) : Bool := !c.isDrain && bit c.mod.toNat 0
def Copy.dhold (c : Copy) : Bool := if c.isDrain then bit c.mod.toNat 3 else bit c.mod.toNat 1
def Copy.sh (c : Copy) : Bool := if c.isDrain then bit c.imm.toNat 6 else bit c.mod.toNat 2
def Copy.wsem (c : Copy) : Bool := if c.isDrain then bit c.imm.toNat 4 else bit c.mod.toNat 3
def Copy.ssem (c : Copy) : Bool := if c.isDrain then bit c.imm.toNat 5 else bit c.mod.toNat 4
def Copy.wnum (c : Copy) : Nat := bits c.aux.toNat 8 8
def Copy.snum (c : Copy) : Nat := bits c.aux.toNat 0 8
def Copy.epi (c : Copy) : Bool := c.isDrain && bit c.mod.toNat 4
/-- The hold that a hold source lies in. -/
def Copy.srcCore (cp : Copy) (c : Nat) : Nat := (selectedCore c (bits cp.imm.toNat 4 3)).getD c
/-- The targets of a multicast; the issuing core for every other hold destination. -/
def Copy.targets (cp : Copy) (c : Nat) : List Nat :=
  if cp.kind = .multicast then
    ((List.range 4).filter (fun i => bit cp.imm.toNat (8 + i))).map (fun i => clusterBase c + i)
  else [c]
/-- Columns and bytes per element of a drain (R262). -/
def Copy.columns (c : Copy) : Nat := (bits c.imm.toNat 8 5 + 1) * 16
def Copy.elemBytes (c : Copy) : Nat := c.typ.width / 8
def Copy.accNum (c : Copy) : Nat := c.sc.toNat % 4

/-- A failure met by an engine: cause, whether the address is a hold offset, the address (R205). -/
structure EngineFail where
  cause : Cause
  hold  : Bool
  addr  : Nat
  deriving DecidableEq, Repr

/-! ### Holds of other cores (R199, R203) -/

/-- The hold of a core as it stands for a copy: with the task that runs there, where it is one of the issuer's
convoy. -/
def State.aimAt (s : State) (c d : Nat) : Aim :=
  let k := s.core d
  let t := if d == c || s.sameConvoy c d then k.task else none
  { core := d, leases := k.leaseGen, task := t.map (fun t => t.id), losses := (t.map (fun t => t.losses)).getD 0,
    claims := (t.map (fun t => Tbl.get 0 k.overrun t.id)).getD 0 }

/-- A copy with the state of its partners as it stands now: the core of another's hold as its source, and the targets
of a multicast. -/
def State.noteAims (s : State) (c : Nat) (cp : Copy) : Copy :=
  { cp with
    source := if cp.shold && cp.srcCore c != c then some (s.aimAt c (cp.srcCore c)) else none,
    aims := if cp.kind = .multicast then (cp.targets c).map (s.aimAt c) else [] }

/-- The hold of a core is no more the one that it was for a copy: the member that ran there does so no more, or has
been saved alone or leased since (R199). -/
def State.aimGone (s : State) (a : Aim) : Bool :=
  !(s.core a.core).task.any (fun t => some t.id == a.task && t.losses == a.losses)

/-- The hold that a source lies in has been lost since: its member has ended or been saved, or the core has entered
lease mode (R199). -/
def State.lost (s : State) (cp : Copy) : Bool :=
  cp.source.any (fun a => cp.gone.contains (a.core % 4) || s.aimGone a)

/-- A copy that comes back with its context finds its partners on their cores: a source that is another member now, or
has been lost while the context was saved, stays lost (R199, R203, R209). -/
def State.reaim (s : State) (c : Nat) (cp : Copy) : Copy :=
  let new := s.noteAims c cp
  let changed := match cp.source, new.source with
    | some a, some b => a.task != b.task || a.losses != b.losses
    | _, _ => false
  { new with gone := cp.gone ++ (if changed then [cp.srcCore c % 4] else []) }

/-- The copies of a context that is back find their partners. -/
def State.reaimCopies (s : State) (c : Nat) : State :=
  s.setCore c { s.core c with copies := (s.core c).copies.map (s.reaim c) }

/-- A target has been lost since: its core has entered lease mode, or another context has claimed a berth of the
member that ran there (R203). -/
def State.aimLost (s : State) (cp : Copy) (a : Aim) : Bool :=
  let q := s.core a.core
  cp.gone.contains (a.core % 4) || q.leaseGen != a.leases ||
    (match a.task with
     | some t => Tbl.get 0 q.overrun t != a.claims
     | none => q.task.isSome && q.berths.any (fun e => e.2 != 0))

/-- The source of a copy has been lost, or is not there after a restore (R199). -/
def State.sourceLost (s : State) (c : Nat) (cp : Copy) : Bool :=
  let d := cp.srcCore c
  cp.shold && (s.lost cp || (d != c && !s.sameConvoy c d))

/-- What a copy has lost before a save stays lost after its replay (R199, R203, R209). -/
def State.noteLost (s : State) (c : Nat) : State :=
  s.modCore c (fun k => { k with copies := k.copies.map (fun cp =>
    { cp with gone :=
        (if s.lost cp then [cp.srcCore c % 4] else []) ++
          (cp.aims.filter (s.aimLost cp)).map (fun a => a.core % 4) }) })

/-- Store a byte into the hold of a saved context: into its parked berth, else into its area, whose berth is then in
use (R383). -/
def State.savedHoldWrite (s : State) (r : SavedContext) (off : Nat) (b : Byte) : State :=
  let k := s.core r.core
  let n := off / 65536
  let parked := (k.parked.find? (fun p => p.area == r.area)).map (fun p => Tbl.get 0 p.map n)
  match parked.getD 0 with
  | m + 1 => s.setCore r.core { k with hold := k.hold.set (m * 65536 + off % 65536) b }
  | 0 =>
    let base := r.area + areaBerths + n * 65536
    let map := s.mem.read (r.area + areaBerthMap) 8
    let mem := if bit map n then s.mem
      else (s.mem.clear base 65536).write (r.area + areaBerthMap) 8 (map ||| 2 ^ n)
    { s with mem := mem.set (base + off % 65536) b }

/-- The member that a multicast aims at runs on its core. -/
def State.aimRuns (s : State) (a : Aim) : Bool :=
  (s.core a.core).task.map (fun t => t.id) == a.task && (a.task.isSome || isFirmware a.core)

/-- Store a byte into the hold of the member that a multicast aims at, wherever its context is; that of one that has
ended is nobody's (R203, R383). -/
def State.aimWrite (s : State) (a : Aim) (off : Nat) (b : Byte) : State :=
  if s.aimRuns a then s.holdSetAll a.core [(off, b)]
  else
    match s.saved.find? (fun r => some r.task.id == a.task && r.core == a.core) with
    | some r => s.savedHoldWrite r off b
    | none => s

/-! ### The bytes of a copy -/

/-- Row, plane and byte offsets of a shape, in loop order (R199). -/
def shapeOffsets (len n1 n2 : Nat) (s1 s2 : Int) : List Int :=
  (List.range n2).flatMap (fun (k : Nat) =>
    (List.range n1).flatMap (fun (j : Nat) =>
      (List.range len).map (fun (i : Nat) => (k : Int) * s2 + (j : Int) * s1 + (i : Int))))

/-- LEN0, CNT1 and CNT2 of a linear copy. -/
def Copy.dims (c : Copy) : Nat × Nat × Nat :=
  match c.kind with
  | .linear 1 | .multicast => (c.sc.toNat, 1, 1)
  | .linear 2 => (((c.shape[0]?).getD 0).toNat, ((c.shape[1]?).getD 0).toNat, 1)
  | _ => (((c.shape[0]?).getD 0).toNat, ((c.shape[1]?).getD 0).toNat, ((c.shape[2]?).getD 0).toNat)

def Copy.stride (c : Copy) (i : Nat) : Int :=
  match c.kind with
  | .linear 2 | .linear 3 => ((c.shape[i]?).getD 0).toInt
  | _ => 0

/-- Addresses from a base and offsets, modulo 2^64. -/
def offsetsFrom (base : Word) (l : List Int) : List Nat :=
  l.map (fun o => lowBits ((base.toNat : Int) + o) 64)

/-- The next entry of a gather list as base and length, or the failure that it is: beyond the hold, with an
uncorrectable error, malformed, or past 2^31 bytes in all (R202, R205). -/
def Copy.nextEntry (cp : Copy) (k : Core) : (Nat × Nat) ⊕ EngineFail :=
  let off := cp.sa.toNat + 16 * cp.list.length
  let len := k.holdRead (off + 8) 4
  if k.holdLimit < off + 16 then .inr { cause := .holdRange, hold := true, addr := max off k.holdLimit }
  else
    match (addrsFrom off 16).find? (fun a => k.badHold.contains (a / 64)) with
    | some a => .inr { cause := .memUncorr, hold := true, addr := a }
    | none =>
      if k.holdRead (off + 12) 4 ≠ 0 ∨ 2 ^ 31 < cp.listed + len then
        .inr { cause := .copyFail, hold := true, addr := off }
      else .inl (k.holdRead off 8, len)

/-- Read entries of a gather list, until they give more than a number of bytes or the list ends. -/
def Copy.readList (cp : Copy) (k : Core) (enough : Nat) : Nat → Copy × Option EngineFail
  | 0 => (cp, none)
  | n + 1 =>
    if !cp.listOpen || enough < cp.listed then (cp, none)
    else
      match cp.nextEntry k with
      | .inr f => (cp, some f)
      | .inl e => Copy.readList { cp with list := cp.list ++ [e] } k enough n

/-- The source addresses of a copy in loop order, as far as its gather list is read. -/
def Copy.sources (cp : Copy) : List Nat :=
  match cp.kind with
  | .gather => cp.list.flatMap (fun p => addrsFrom p.1 p.2)
  | .drain => (List.range (64 * cp.columns * cp.elemBytes))
  | _ =>
    let (len, n1, n2) := cp.dims
    offsetsFrom cp.sa (shapeOffsets len n1 n2 (cp.stride 4) (cp.stride 6))

/-- The source addresses with their places. -/
def Copy.places (cp : Copy) : List (Nat × Nat) := cp.sources.mapIdx (fun i a => (i, a))

/-- The byte of a place that the copy has read. -/
def Copy.gotAt (cp : Copy) (i : Nat) : Option Byte := (cp.got.find? (fun e => e.1 == i)).map (fun e => e.2)

/-- The destination addresses of a copy of `n` bytes in loop order. -/
def Copy.dests (cp : Copy) (n : Nat) : List Nat :=
  match cp.kind with
  | .gather | .multicast => addrsFrom cp.sb.toNat n
  | .drain =>
    let row := cp.columns * cp.elemBytes
    offsetsFrom cp.sa ((List.range 64).flatMap (fun (m : Nat) =>
      (List.range row).map (fun (i : Nat) => (m : Int) * sextInt cp.sb.toNat 64 + (i : Int))))
  | .linear _ =>
    let (len, n1, n2) := cp.dims
    offsetsFrom cp.sb (shapeOffsets len n1 n2 (cp.stride 5) (cp.stride 7))

/-- Who waits for a page on behalf of a copy. -/
def Copy.who (c : Copy) : Nat := 4 + c.id

/-- What an engine finds at one source byte. -/
inductive SourceByte where
  | got (b : Byte)
  | failed (f : EngineFail)
  | waiting

/-- A copy in flight has read from a line of memory (R409). -/
def State.noteCopyLine (s : State) (c id line : Nat) : State :=
  s.modCore c (fun k => { k with copies := k.copies.map (fun q =>
    if q.id = id then { q with lines := line :: q.lines } else q) })

/-- A copy in flight has read from a line before. -/
def Core.copyHasLine (k : Core) (id line : Nat) : Bool := k.copies.any (fun q => q.id == id && q.lines.contains line)

/-- Read one source byte (R142, R147, R199): from the hold it names, or from memory, an SO page as a SYS acquire
(R175).  One copy brings a line from its device once, whenever it reads the line's bytes (R409; log entry 131). -/
def State.engineRead (s : State) (c : Nat) (cp : Copy) (a : Nat) : State × SourceByte :=
  if cp.shold then
    let q := s.core (cp.srcCore c)
    if s.sourceLost c cp || q.holdLimit ≤ a then
      (s, .failed { cause := .holdRange, hold := true, addr := a })
    else if q.badHold.contains (a / 64) then
      (s, .failed { cause := .memUncorr, hold := true, addr := a })
    else (s, .got (q.holdByte a))
  else
    match s.translate c cp.who .load a with
    | .wait s => (s, .waiting)
    | .fault f => (s, .failed { cause := f.cause, hold := false, addr := a })
    | .ok s m =>
      if s.badLines.contains (m.pa / 64) then
        (s, .failed { cause := .memUncorr, hold := false, addr := a })
      else
        let s := if m.kind = .so then s.acquireRdc c .sys else s
        let again := (s.core c).copyHasLine cp.id (m.pa / 64)
        let (s, b) := s.readFor (if again then none else s.meterOf c) c cp.st m.pa m.kind
        let s := if again then s else s.noteCopyLine c cp.id (m.pa / 64)
        (if m.kind = .so then s.acquireRdc c .sys else s, .got b)

/-- The byte of a place: read before, of a drain's image, or read now. -/
def State.sourceByte (s : State) (c : Nat) (cp : Copy) (e : Nat × Nat) : State × SourceByte :=
  match cp.gotAt e.1 with
  | some b => (s, .got b)
  | none => if cp.isDrain then (s, .got (cp.image.get e.1)) else s.engineRead c cp e.2

/-- The bytes of a list of places. -/
def State.engineReads (s : State) (c : Nat) (cp : Copy) : List (Nat × Nat) → State × List SourceByte
  | [] => (s, [])
  | e :: rest =>
    let (s, b) := s.sourceByte c cp e
    let (s, bs) := State.engineReads s c cp rest
    (s, b :: bs)

/-- The places of a copy that it has not read, in loop order: what a queue has taken is read. -/
def Copy.unread (cp : Copy) : List (Nat × Nat) :=
  cp.places.filter (fun e => cp.done ≤ e.1 && (cp.gotAt e.1).isNone)

/-- The failure of a copy whose source is lost before it has read every byte (R199). -/
def State.lostFail (s : State) (c : Nat) (cp : Copy) : Option EngineFail :=
  if s.sourceLost c cp then
    cp.unread.head?.map (fun e => { cause := .holdRange, hold := true, addr := e.2 })
  else none

/-- Where one destination byte goes. -/
inductive DestByte where
  | hold (core off : Nat)
  | aim (a : Aim) (off : Nat)
  | mem (pa : Nat) (kind : OrderKind) (va : Nat)
  | failed (f : EngineFail)
  | waiting

/-- Resolve one destination byte in memory: with .SH into the shadow backing of its slot (R189). -/
def State.engineDestMem (s : State) (c : Nat) (cp : Copy) (a : Nat) : State × DestByte :=
  let root := (s.core c).ptroot
  if cp.sh && (s.dbbAt (rootAsid root) a).isNone then
    (s, .failed { cause := .copyFail, hold := false, addr := a })
  else
    match s.translateAs c cp.who root (isFirmware c) .store cp.sh a with
    | .wait s => (s, .waiting)
    | .fault f => (s, .failed { cause := f.cause, hold := false, addr := a })
    | .ok s m => (s, .mem m.pa m.kind a)

/-- Resolve one destination byte in the hold of a target core. -/
def State.engineDestHold (s : State) (c : Nat) (a target : Nat) : DestByte :=
  if (target == c || s.sameConvoy c target) && a < (s.core target).holdLimit then .hold target a
  else .failed { cause := .holdRange, hold := true, addr := a }

/-- Resolve one destination byte in the hold of a member that a multicast aims at. -/
def State.engineDestAim (s : State) (c off : Nat) (a : Aim) : DestByte :=
  if s.aimRuns a then s.engineDestHold c off a.core else .aim a off

/-- Resolve the destination bytes, one list for each byte; lost targets take none. -/
def State.engineDests (s : State) (c : Nat) (cp : Copy) : List Nat → State × List (List DestByte)
  | [] => (s, [])
  | a :: rest =>
    let (s, d) :=
      if cp.kind = .multicast then
        (s, (cp.aims.filter (fun t => !s.aimLost cp t)).map (fun t => s.engineDestAim c a t))
      else if cp.dhold then (s, [s.engineDestHold c a c])
      else
        let (s, d) := s.engineDestMem c cp a
        (s, [d])
    let (s, ds) := State.engineDests s c cp rest
    (s, d :: ds)

/-- What an engine's byte in a commit buffer comes from (R177, R189). -/
def Copy.dcOrigin (cp : Copy) (va : Nat) : DcOrigin :=
  { st := cp.st, origin := { va, lane := 0, upper := false, piece := va }, bundle := 0, seq := cp.seq, engine := true,
    shadow := cp.sh }

/-- An engine's store to an SO page is a SYS release of its stream, at which a task outside a convoy commits (R175,
R177). -/
def State.engineRelease (s : State) (c : Nat) (kind : OrderKind) : State :=
  if kind = .so then (s.commitOwn c).releaseRdc c .sys else s

/-- Write one byte at its place: DC bytes enter the task's commit buffer (R177). -/
def State.engineWrite (s : State) (c : Nat) (cp : Copy) (d : DestByte) (b : Byte) : State :=
  match d with
  | .hold t off => s.holdSetAll t [(off, b)]
  | .aim a off => s.aimWrite a off b
  | .mem pa .dc va =>
    s.modCore c (fun k => { k with dc := Tbl.set k.dc pa b, dcFrom := Tbl.set k.dcFrom pa (cp.dcOrigin va) })
  | .mem pa kind _ =>
    ((s.engineRelease c kind).writeBytes c cp.st [(pa, b, kind)]).engineRelease c kind
  | _ => s

/-- Write one byte at its place, or where the copy fails write it or not, as a free bit says (R205). -/
def State.tryWrite (s : State) (c : Nat) (cp : Copy) (failing : Bool) (d : DestByte) (b : Byte) : State :=
  if failing then
    let t := { s with fresh := s.fresh + 1 }
    if Config.freeBit s.fresh then t.engineWrite c cp d b else t
  else s.engineWrite c cp d b

/-- Write the bytes of a copy in loop order, each at its destinations; with a failure about, each destination byte that
could be written is written or not (R205). -/
def State.engineWrites (s : State) (c : Nat) (cp : Copy) (failing : Bool) :
    List (SourceByte × List DestByte) → State
  | [] => s
  | (.got b, ds) :: rest =>
    State.engineWrites (ds.foldl (fun s d => s.tryWrite c cp failing d b) s) c cp failing rest
  | _ :: rest => State.engineWrites s c cp failing rest

/-- The lines of a copy's destination that have an uncorrectable error are logged when it writes them (R142). -/
def State.logWrites (s : State) (c : Nat) (ds : List DestByte) : State :=
  let lines := ds.filterMap (fun d => match d with
    | .mem pa kind _ => if kind == .dc then none else some (pa / 64)
    | _ => none)
  ((withoutRuns lines).filter (fun l => s.badLines.contains l)).foldl (fun s l => s.logUncorr c (l * 64)) s

/-- Failures found among the bytes. -/
def sourceFails (l : List SourceByte) : List EngineFail :=
  l.filterMap (fun b => match b with
    | .failed f => some f
    | _ => none)

def destFails (l : List DestByte) : List EngineFail :=
  l.filterMap (fun b => match b with
    | .failed f => some f
    | _ => none)

def sourceWaits (l : List SourceByte) : Bool :=
  l.any (fun b => match b with
    | .waiting => true
    | _ => false)

def destWaits (l : List DestByte) : Bool :=
  l.any (fun b => match b with
    | .waiting => true
    | _ => false)

/-- The failure with the lowest address (R205). -/
def lowestFail : List EngineFail → Option EngineFail
  | [] => none
  | f :: rest =>
    match lowestFail rest with
    | none => some f
    | some g => if g.addr < f.addr then some g else some f

/-! ### Ends (R194, R204 to R206) -/

/-- A status word (Table 8.1). -/
def statusWord (state cause : Nat) (sovf haddr started : Bool) (addr : Nat) : Word :=
  let b (x : Bool) (n : Nat) : Nat := if x then 2 ^ n else 0
  BitVec.ofNat 64 (state * 2 ^ 62 + cause * 2 ^ 54 + b sovf 53 + b haddr 52 + b started 51 +
    addr % 2 ^ 48)

/-- Write a token register, whose first read acquires (R187, R194). -/
def State.writeToken (s : State) (c : Nat) (st : Stream) (n : Nat) (v : Word) (sc : Scope) : State :=
  if n = 0 then s
  else
    s.modStream c st (fun t => { t with s := Tbl.set t.s n v, tokenAcq := Tbl.set t.tokenAcq n sc })

/-- The status word of an ended copy: CPYS reads it later, and a WAIT acquires at the scope of every copy of its
stream that has ended (R207, R208). -/
def State.writeStatus (s : State) (c : Nat) (st : Stream) (n : Nat) (v : Word) (sc : Scope) : State :=
  (s.writeToken c st n v sc).modStream c st (fun t =>
    { t with tokenLast := if n = 0 then t.tokenLast else Tbl.set t.tokenLast n v,
             tokenScope := if n = 0 then t.tokenScope else Tbl.set t.tokenScope n sc,
             tokenAcq := Tbl.set t.tokenAcq 0 (widerScope (Tbl.get .core t.tokenAcq 0) sc) })

/-- Enter a failure of a core's engines in the fault log and as the first failure of its launch
(R205). -/
def State.logFailure (s : State) (c : Nat) (cause : Cause) (addr : Nat) : State :=
  let number := ((s.core c).task.map (fun t => t.launch)).getD 0
  { s with
    faultLog := { cause, core := c, addr, info := 0 } :: s.faultLog,
    launches := s.launches.map (fun l =>
      if l.number = number ∧ l.cause = 0 then { l with cause := causeCode cause } else l) }

/-- Slots of shadow writes that have begun or ended (R189). -/
def State.countShadow (s : State) (slots : List Nat) (up : Bool) : State :=
  slots.foldl (fun s n =>
    let d := s.slot n
    s.setSlot n { d with infl := if up then d.infl + 1 else d.infl - 1 }) s

/-- A copy leaves flight: status word, release at its scope, signal (R187, R194, R204). -/
def State.leaveFlight (s : State) (c : Nat) (cp : Copy) (state cause : Nat) (haddr : Bool)
    (addr : Nat) : State :=
  let signals := cp.ssem && state != 3
  let sovf := signals && Tbl.get 0 (s.core c).sem cp.snum == 0xFFFF
  let s := (s.commitOwn c).releaseRdc c cp.scope
  let s := s.modCore c (fun k => { k with copies := k.copies.filter (fun q => q.id != cp.id) })
  let s := s.countShadow cp.shadow false
  let s := s.dropPageWaits c cp.who
  let s := s.writeStatus c cp.st cp.token
    (statusWord state cause sovf haddr (state != 3) addr) cp.scope
  if signals then s.semAdd c cp.snum 1 else s

/-- A copy fails (R205). -/
def State.failCopy (s : State) (c : Nat) (cp : Copy) (f : EngineFail) : State :=
  (s.logFailure c f.cause f.addr).leaveFlight c cp 2 (causeCode f.cause) f.hold f.addr

/-- A queued copy is cancelled: its status is a release, it leaves its semaphore's line and the next waiter is
considered (R187, R206, Table 11.3). -/
def State.cancelCopy (s : State) (c : Nat) (cp : Copy) : State :=
  let s := s.performBefore c cp.st cp.seq
  let s := s.modCore c (fun k => { k with swq := k.swq.erase (.copy cp.wnum cp.id) })
  let s := s.leaveFlight c cp 3 0 false 0
  if cp.wsem then s.serve c cp.wnum ((s.core c).swq.length + 1) else s

/-- The accesses that a copy's reads and writes follow are performed; UN accesses are not among them (R176, R187). -/
def Core.copyOrdered (k : Core) (cp : Copy) : Bool := !k.orderedBefore cp.st cp.seq && !k.imagesPending cp.st cp.seq

/-- The earlier stores of the stream are performed at the copy's scope before it reads or writes anything: what is
dirty of them in the die's RDC goes home (R171, R173, R187). -/
def State.orderCopy (s : State) (c : Nat) (cp : Copy) : State := s.releaseRdc c cp.scope

/-! ### Drains: reading, epilogue and conversion (R262 to R266) -/

/-- What the elements of a drain have built up. -/
structure DrainAcc where
  heap  : Tbl (List (Nat × Nat))
  hist  : Tbl (BitVec 32)
  flags : Flags

/-- Insert a pair into a heap row: greater keys first, then lower columns (R266). -/
def heapInsert (e : Nat × Nat) : List (Nat × Nat) → List (Nat × Nat)
  | [] => [e]
  | f :: rest =>
    if e.1 > f.1 ∨ (e.1 = f.1 ∧ e.2 < f.2) then e :: f :: rest else f :: heapInsert e rest

/-- The stages of the epilogue on one element (R265). -/
def epilogue (eparam emask : Memory) (acc : DrainAcc) (m c x : Nat) : DrainAcc × Nat :=
  let ctrl := eparam.read 0x04 4
  let g := (eparam.read 0x08 4 + c) % 2 ^ 32
  let f := Typ.f32.format
  let r := (mulExact (f.decode x) (f.decode (eparam.read 0x00 4))).round f .rne false
  let (x, fl) := if bit ctrl 0 then (r.code, r.flags) else (x, 0)
  let lowest := emask.read 0x000 8
  let nodes := emask.read 0x008 4
  let vis := g < lowest || (g - lowest < nodes && m < nodes &&
    bit (emask.read (0x010 + 8 * m) 8) (g - lowest))
  let x := if bit ctrl 1 && !vis then 0xFF800000 else x
  let k := orderKey .f32 x
  let hist := if bit ctrl 2 then bumpBin acc.hist (m * 256 + k / 2 ^ 24) else acc.hist
  let heap := if bit ctrl 3 then
      Tbl.set acc.heap m ((heapInsert (k, g) (Tbl.get [] acc.heap m)).take (bits ctrl 8 6 + 1))
    else acc.heap
  ({ heap, hist, flags := acc.flags ||| fl }, x)

/-- The elements of a drain, converted, in row order. -/
def drainElems (k : Core) (cp : Copy) (acc : DrainAcc) : List (Nat × Nat) → DrainAcc × List Byte
  | [] => (acc, [])
  | (m, c) :: rest =>
    let x := (Tbl.get 0 (k.accOf cp.accNum) (accIx m c)).toNat
    let (acc, x) := if cp.epi then epilogue k.eparam k.emask acc m c x else (acc, x)
    let (v, fl) := convert .f32 cp.typ (cp.mod &&& 7) x
    let (acc, bs) := drainElems k cp { acc with flags := acc.flags ||| fl } rest
    (acc, bytesOfNum v.toNat cp.elemBytes ++ bs)

/-- The positions of a drain. -/
def drainCells (n : Nat) : List (Nat × Nat) :=
  (List.range 64).flatMap (fun m => (List.range n).map (fun c => (m, c)))

/-- A store that holds a byte list from address 0 up. -/
def memoryOf (bs : List Byte) : Memory := (bs.mapIdx (fun i b => (i, b))).filter (fun c => c.2 != Memory.blank)

/-- A drain starts: it reads its accumulator whole and runs the epilogue (R262). -/
def State.beginDrain (s : State) (c : Nat) (cp : Copy) : State :=
  let k := s.core c
  let (acc, bs) := drainElems k cp { heap := k.eheap, hist := k.ehist, flags := 0 }
    (drainCells cp.columns)
  let cp' : Copy := { cp with started := true, image := memoryOf bs, flags := acc.flags }
  s.setCore c { k with eheap := acc.heap, ehist := acc.hist,
                       copies := k.copies.map (fun q => if q.id = cp.id then cp' else q) }

/-- What keeps a drain from starting: an operation of X on its accumulator in flight, or for EPI an
operation on the epilogue's parameters (R262, R268). -/
def Core.drainBlocked (k : Core) (cp : Copy) : Bool :=
  k.flight.any (fun l => l.effects.any (fun e => match e with
    | .acc n _ => n == cp.accNum
    | .accZero n => n == cp.accNum
    | .eparam _ _ => cp.epi
    | .emask _ => cp.epi
    | .epiOut _ _ => cp.epi
    | _ => false))

/-! ### Start, delivery and end of copies -/

/-- A queued copy may start as far as its wait semaphore is concerned: it heads the line and a count is
there (R204). -/
def Core.semReady (k : Core) (cp : Copy) : Bool :=
  !cp.wsem || (k.semHead cp.wnum == some (.copy cp.wnum cp.id) && 0 < Tbl.get 0 k.sem cp.wnum)

/-- The dual-backed slots that the destination of a .SH copy lies in. -/
def State.shadowSlots (s : State) (c : Nat) (cp : Copy) : List Nat :=
  if cp.sh then
    let n := (cp.readList (s.core c) (2 ^ 31) cp.sc.toNat).1.sources.length
    ((cp.dests n).filterMap (fun a =>
      (s.dbbAt (rootAsid (s.core c).ptroot) a).map (fun e => e.1))).eraseDups
  else []

/-- A slot whose PUBLISH holds new shadow writes (R191). -/
def State.slotHeld (s : State) (n : Nat) : Bool :=
  match (s.slot n).held with
  | some c => (s.stream c .P).wait == .other
  | none => false

/-- A queued copy may start now (R193, R204): 4 ticks after its issue, in issue order but for those that
wait for a semaphore, with its semaphore ready, and not into a slot that a PUBLISH holds. -/
def State.copyMayStart (s : State) (c : Nat) (cp : Copy) : Bool :=
  let k := s.core c
  !cp.started && !s.thermal && cp.tick + 4 ≤ s.tickOf c && k.semReady cp &&
  !(k.copies.any (fun q => q.id < cp.id && !q.started && k.semReady q)) &&
  !(cp.isDrain && k.drainBlocked cp) &&
  !((s.shadowSlots c cp).any (fun n => s.slotHeld n))

/-- A copy starts: it takes its semaphore's count in the same step (R204). -/
def State.startCopy (s : State) (c : Nat) (cp : Copy) : State :=
  let slots := s.shadowSlots c cp
  let k := s.core c
  let cp' : Copy := { cp with started := true, shadow := slots }
  let k := { k with copies := k.copies.map (fun q => if q.id = cp.id then cp' else q) }
  let s :=
    if cp.wsem then
      s.setCore c { k with sem := Tbl.set k.sem cp.wnum (Tbl.get 0 k.sem cp.wnum - 1),
                           swq := k.swq.erase (.copy cp.wnum cp.id) }
    else s.setCore c k
  let s := s.countShadow slots true
  let s := if cp.wsem then s.acquireRdc c cp.scope else s
  let s := if cp.isDrain then s.beginDrain c cp' else s
  if cp.wsem then s.serve c cp.wnum ((s.core c).swq.length + 1) else s

/-- Replace the record of a copy, but for the lines that it has read. -/
def State.setCopy (s : State) (c : Nat) (cp : Copy) : State :=
  s.modCore c (fun k => { k with copies := k.copies.map (fun q =>
    if q.id = cp.id then { cp with lines := q.lines } else q) })

/-- A copy with a queue destination may deliver an entry now: no earlier copy into the queue is still to
push, and the queue has room (R200, R214). -/
def State.mayDeliver (s : State) (c : Nat) (cp : Copy) (q : Nat) : Bool :=
  let k := s.core c
  let r := k.queueReg q
  cp.started && k.copyOrdered cp && cp.failed.isNone && !cp.pushedAll &&
  !(k.copies.any (fun o => o.id < cp.id && o.queue == some q && !o.pushedAll)) &&
  r.cnt + (if r.popTick = some (s.tickOf c) then 1 else 0) < 4

/-- A copy meets a failure: it starts no more accesses (R205). -/
def Copy.fail (cp : Copy) (f : EngineFail) : Copy := { cp with failed := some (f.cause, f.hold, f.addr) }

/-- Push an entry of a copy: it is reserved and lands in one step (R200, R212). -/
def State.pushCopied (s : State) (c q : Nat) (bs : List SourceByte) : State :=
  let v := numOfBytes (bs.map (fun b => match b with
    | .got b => b
    | _ => 0))
  let k := s.core c
  let rid := k.seq + 1
  let (r, slot) := (k.queueReg q).reserve rid
  s.setCore c { k.setQueueReg q (r.land slot rid (s.tickOf c) (BitVec.ofNat 1024 v)) with seq := k.seq + 1 }

/-- Deliver the next entry of a copy into its queue.  A failed read ends the pushing (R205).  The spec checks the total
of a gather at issue only: a list changed since, whose total is no multiple of 128, ends in an entry that zeros fill up,
and ADDR counts it whole (log entry 108). -/
def State.deliverEntry (s : State) (c : Nat) (cp : Copy) (q : Nat) : State :=
  let (cp, bad) := cp.readList (s.core c) (cp.done + 127) cp.sc.toNat
  let part := (cp.places.drop cp.done).take 128
  match (if part.length < 128 then bad else none) with
  | some f => s.setCopy c (cp.fail f)
  | none =>
    if part.isEmpty then s.setCopy c cp
    else
      let (s, bs) := (s.orderCopy c cp).engineReads c cp part
      if sourceWaits bs then s
      else
        match lowestFail (s.lostFail c cp |>.elim (sourceFails bs) (fun f => [f])) with
        | some f => s.setCopy c (cp.fail f)
        | none =>
          let s := s.pushCopied c q bs
          let cp := { cp with done := cp.done + 128 }
          s.setCopy c (cp.readList (s.core c) cp.done cp.sc.toNat).1

/-- End a copy into a queue, when every entry is delivered or a read has failed. -/
def State.endQueueCopy (s : State) (c : Nat) (cp : Copy) : State :=
  match cp.failed with
  | some (cause, hold, addr) => s.failCopy c cp { cause, hold, addr }
  | none =>
    let (cp, bad) := cp.readList (s.core c) cp.done cp.sc.toNat
    match bad with
    | some f => s.failCopy c cp f
    | none => if cp.pushedAll then s.leaveFlight c cp 1 0 false cp.done else s.setCopy c cp

/-- The bytes of a multicast that lost targets have received: those before a place, not the one there, and of the
others each or not, as a free bit says (R203, R205). -/
def State.lostWrites (s : State) (aims : List Aim) (first off : Nat) : List (Nat × SourceByte) → State
  | [] => s
  | (i, .got b) :: rest =>
    let go := i < first || (i != first && Config.freeBit s.fresh)
    let s := { s with fresh := s.fresh + 1 }
    State.lostWrites (if go then aims.foldl (fun s a => s.aimWrite a (off + i) b) s else s) aims first off rest
  | _ :: rest => State.lostWrites s aims first off rest

/-- The end of a multicast for the targets that it has lost: some first part of its bytes has reached them, and the
failure names the first byte not written (R203; log entry 88). -/
def State.endLost (s : State) (cp : Copy) (bs : List SourceByte) : State × List EngineFail :=
  let aims := cp.aims.filter (s.aimLost cp)
  if aims.isEmpty || bs.isEmpty then (s, [])
  else
    let first := Config.freePick s.fresh % bs.length
    ({ s with fresh := s.fresh + 1 }.lostWrites aims first cp.sb.toNat (bs.mapIdx (fun i b => (i, b))),
      [{ cause := .holdRange, hold := true, addr := cp.sb.toNat + first }])

/-- The failures of a copy at its end.  A lost source names its first byte not read, and no other failure beside it.
Where another failure was met early, no access has begun since: whether those that fail now had begun before is open
(R199, R205). -/
def State.endFails (s : State) (c : Nat) (cp : Copy) (late : List EngineFail) : State × List EngineFail :=
  match cp.failed, s.lostFail c cp with
  | some (cause, hold, addr), none =>
    ({ s with fresh := s.fresh + 1 }, { cause, hold, addr } :: (if Config.freeBit s.fresh then late else []))
  | some (cause, hold, addr), some _ => (s, [{ cause, hold, addr }])
  | none, some f => (s, [f])
  | none, none => (s, late)

/-- A failure of a copy is known before its end (R199, R205). -/
def State.knownFailed (s : State) (c : Nat) (cp : Copy) : Bool := cp.failed.isSome || (s.lostFail c cp).isSome

/-- End a copy with a hold or memory destination: all its bytes move, or it fails, and each of the bytes that it has
read or could still read is written or not (R205; log entry 13). -/
def State.endPlainCopy (s : State) (c : Nat) (cp : Copy) : State :=
  let (cp, bad) := cp.readList (s.core c) (2 ^ 31) cp.sc.toNat
  let (s, bs) := (s.orderCopy c cp).engineReads c cp cp.places
  let (s, ds) := s.engineDests c cp (cp.dests bs.length)
  if (sourceWaits bs || ds.any destWaits) && !s.knownFailed c cp then s.setCopy c cp
  else
    let (s, fails) := s.endFails c cp (sourceFails bs ++ ds.flatMap destFails ++ bad.toList)
    let (s, lost) := s.endLost cp bs
    let s := (s.engineWrites c cp (!fails.isEmpty) (bs.zip ds)).logWrites c ds.flatten
    let s := if cp.isDrain then s.modCore c (fun k => { k with mflag := k.mflag ||| cp.flags }) else s
    match lowestFail (fails ++ lost) with
    | some f => s.failCopy c cp f
    | none => s.leaveFlight c cp 1 0 false bs.length

/-- A moving copy comes to its end, when the accesses before it are performed. -/
def State.endCopy (s : State) (c : Nat) (cp : Copy) : State :=
  if cp.started && (s.core c).copyOrdered cp then
    match cp.queue with
    | some _ => s.endQueueCopy c cp
    | none => s.endPlainCopy c cp
  else s

/-- A moving copy reads bytes before its end (R201, R202). -/
def Core.copyReads (k : Core) (cp : Copy) : Bool :=
  cp.started && !cp.isDrain && k.copyOrdered cp && cp.failed.isNone

/-- A moving copy reads the next entry of its gather list (R202). -/
def State.copyEntry (s : State) (c : Nat) (cp : Copy) : State :=
  if (s.core c).copyReads cp && cp.listOpen then
    match cp.nextEntry (s.core c) with
    | .inl e => s.setCopy c { cp with list := cp.list ++ [e] }
    | .inr f => s.setCopy c (cp.fail f)
  else s

/-- The physical address of a virtual one for the context on a core, without a change of anything. -/
def State.physNow (s : State) (c va : Nat) : Option Nat :=
  let root := (s.core c).ptroot
  match s.tlbHit c (rootAsid root) .load va with
  | some t => some (leafPa t.pte t.lvl va)
  | none =>
    match walkFrom s va 3 (rootTable root) with
    | .leaf pte _ lvl => some (leafPa pte lvl va)
    | .fault _ _ _ => none

/-- Where the byte of a source address lies: in the hold of a core, or in memory. -/
def State.sourcePlace (s : State) (c : Nat) (cp : Copy) (a : Nat) : Option ((Nat × Nat) ⊕ Nat) :=
  if cp.shold then some (.inl (cp.srcCore c, a))
  else (s.physNow c (s.redirect (rootAsid (s.core c).ptroot) a false)).map .inr

/-- Where the byte of a destination address goes. -/
def State.destPlaces (s : State) (c : Nat) (cp : Copy) (a : Nat) : List ((Nat × Nat) ⊕ Nat) :=
  if cp.queue.isSome then []
  else if cp.dhold then (cp.targets c).map (fun t => .inl (t, a))
  else ((s.physNow c (s.redirect (rootAsid (s.core c).ptroot) a cp.sh)).map .inr).toList

/-- What a copy will itself have written at the place of a source byte, so far as it has read it: the byte of the last
place in loop order that goes there (R201). -/
def State.ownByte (s : State) (c : Nat) (cp : Copy) (e : Nat × Nat) : Option Byte :=
  match s.sourcePlace c cp e.2 with
  | none => none
  | some p =>
    let ds := (cp.dests cp.sources.length).mapIdx (fun i a => (i, a))
    (ds.filter (fun (d : Nat × Nat) => (s.destPlaces c cp d.2).contains p)).foldl (fun r d =>
      match cp.gotAt d.1 with
      | some b => some b
      | none => r) none

/-- A moving copy reads the byte of a place, or takes what it will have written there. -/
def State.copyByte (s : State) (c id : Nat) (own : Bool) (e : Nat × Nat) : State :=
  match (s.core c).copies.find? (fun q => q.id == id) with
  | none => s
  | some cp =>
    if !(s.core c).copyReads cp || (cp.gotAt e.1).isSome || e.1 < cp.done then s
    else
      match (if own then s.ownByte c cp e else none) with
      | some b => s.setCopy c { cp with got := Tbl.set cp.got e.1 b }
      | none =>
        match s.lostFail c cp with
        | some f => s.setCopy c (cp.fail f)
        | none =>
          match (s.orderCopy c cp).engineRead c cp e.2 with
          | (s, .got b) => s.setCopy c { cp with got := Tbl.set cp.got e.1 b }
          | (s, .failed f) => s.setCopy c (cp.fail f)
          | (s, .waiting) => s

/-- A moving copy reads a run of places. -/
def State.copyRun (s : State) (c id first n : Nat) (own : Bool) : State :=
  match (s.core c).copies.find? (fun q => q.id == id) with
  | none => s
  | some cp => ((cp.places.drop first).take n).foldl (fun s e => s.copyByte c id own e) s

end Sys2Proof.Machine
end

