-- ==== Sys2Proof/Machine/ChartUnit.lean ====
section
/-!
DEFINITION. The chart units (R348 to R359): slots and handles, what appending, closing and proposing do, the
line of a slot, and the transfers of images.
-/

namespace Sys2Proof.Machine

/-! ### Slots and handles (R348 to R350) -/

def Die.chart (d : Die) (n : Nat) : ChartSlot := Tbl.get ChartSlot.reset d.charts n
def Die.setChart (d : Die) (n : Nat) (t : ChartSlot) : Die := { d with charts := Tbl.set d.charts n t }

/-- The chart slots of a die. -/
def chartSlots : Nat := 512

/-- The capacity of a slot (R348). -/
def ChartSlot.capacity (t : ChartSlot) : Nat := 2 ^ t.log2c

/-- The positions that the open slots of a die hold. -/
def Die.openPositions (d : Die) : Nat :=
  ((List.range chartSlots).map (fun n => if (d.chart n).opn then (d.chart n).capacity else 0)).sum

/-- A handle (Table 14.2). -/
def chartHandle (gen die n : Nat) : Word := BitVec.ofNat 64 (gen * 2 ^ 16 + die * 2 ^ 9 + n)

def handleSlot (h : Word) : Nat := bits h.toNat 0 9
def handleDie (h : Word) : Nat := bits h.toNat 9 2
def handleGen (h : Word) : Nat := bits h.toNat 16 16

/-- The slot that a handle names. -/
def State.chartOf (s : State) (h : Word) : ChartSlot := (s.die (handleDie h)).chart (handleSlot h)

/-- The detail code of the first handle check that fails (R349, Table 14.3). -/
def Ctx.handleDetail (x : Ctx) (s : State) (h : Word) : Option Nat :=
  let t := s.chartOf h
  if bits h.toNat 32 32 != 0 || bits h.toNat 11 5 != 0 || !t.opn || t.gen != handleGen h then some 0x01
  else if handleDie h != dieOf x.c then some 0x02
  else if t.asid != rootAsid (s.core x.c).ptroot then some 0x03
  else none

/-- The lowest position of the visible window of which the slot holds the token (R348, R359). -/
def ChartSlot.first (t : ChartSlot) : Nat := max t.low (t.n - 2 ^ t.log2c)

/-- The token at a position. -/
def ChartSlot.token (t : ChartSlot) (j : Nat) : Nat := (Tbl.get 0 t.win (j % 2 ^ t.log2c)).toNat

/-- The tokens of the visible window, oldest first (R348): a position that no load has filled takes no part
(R359). -/
def ChartSlot.window (t : ChartSlot) : List Nat :=
  (List.range (t.n - t.first)).map (fun i => t.token (t.first + i))

/-- A slot of a core's die. -/
def State.setChart (s : State) (c n : Nat) (t : ChartSlot) : State :=
  s.setDie (dieOf c) ((s.die (dieOf c)).setChart n t)

/-- A slot after some tokens are appended: the window slides (R348, R353). -/
def ChartSlot.append (t : ChartSlot) (toks : List (BitVec 32)) : ChartSlot :=
  { t with n := (t.n + toks.length) % 2 ^ 64,
           win := Tbl.setAll t.win (toks.mapIdx (fun j v => ((t.n + j) % t.capacity, v))) }

/-- A slot is closed: it keeps its generation, and its handle leaves every binding list. -/
def State.closeChart (s : State) (h : Word) : State :=
  let d := s.die (handleDie h)
  let s := s.setDie (handleDie h) (d.setChart (handleSlot h) { d.chart (handleSlot h) with opn := false })
  { s with cores := s.cores.map (fun e => (e.1, { e.2 with cbl := e.2.cbl.filter (fun g => g != h) })) }

/-! ### Holds as operations read and write them -/

/-- The first of some hold offsets of a core that meets an uncorrectable error (R142). -/
def Core.badByte (k : Core) (offs : List Nat) : Option Nat :=
  offs.find? (fun a => k.badHold.contains (a / 64))

/-- A hold read meets an uncorrectable error: it writes nothing, and the stream traps at its next boundary
(R142). -/
def Ctx.holdError (x : Ctx) (s : State) (off lane : Nat) (quay : Bool) : State :=
  s.modStream x.c x.st (fun t => { t with
    uncorr := t.uncorr ++ [(off, x.a, Fdet.word { async := true, hold := true, lane, quay })] })

/-- Store listed offset and byte pairs of the issuing stream in its hold. -/
def Ctx.holdPut (x : Ctx) (s : State) (l : List (Nat × Byte)) : State :=
  l.foldl (fun s e => s.holdStore x.c x.st e.1 [e.2]) s

/-! ### CHT.PROP and CHT.PROPT (R355, R356) -/

/-- The last `l` tokens of a window occur ending at position `e` of it. -/
def occursAt (w : List Nat) (l e : Nat) : Bool := (w.drop (e + 1 - l)).take l == w.drop (w.length - l)

/-- The earlier end positions of the last `l` tokens, most recent first. -/
def earlierEnds (w : List Nat) (l : Nat) : List Nat :=
  (((List.range (w.length - 1)).reverse).filter (fun e => l ≤ e + 1 && occursAt w l e))

/-- The longest length from `top` down that occurs earlier, of `n` lengths to try; 0 for none. -/
def longestMatch (w : List Nat) : Nat → Nat → Nat
  | 0, _ => 0
  | n + 1, top => if (earlierEnds w top).isEmpty then longestMatch w n (top - 1) else top

/-- MMIN, LMAX and D (Table 14.4). -/
def Ctx.mmin (x : Ctx) : Nat := bits x.f.imm.toNat 0 7
def Ctx.lmax (x : Ctx) : Nat := bits x.f.imm.toNat 8 7
def Ctx.depth (x : Ctx) : Nat := bits x.f.imm.toNat 16 5

/-- The match length that a proposal uses. -/
def Ctx.matchLength (x : Ctx) (w : List Nat) : Nat :=
  let top := min x.lmax (w.length - 1)
  longestMatch w (top + 1 - x.mmin) top

/-- The tokens after an occurrence. -/
def Ctx.draftAt (x : Ctx) (w : List Nat) (e : Nat) : List Nat := (w.drop (e + 1)).take x.depth

/-- Sixteen tokens, unused ones all ones. -/
def tokenBlock (l : List Nat) : List Byte :=
  (List.range 16).flatMap (fun i => bytesOfNum ((l[i]?).getD 0xFFFFFFFF) 4)

/-- The head of a draft block (Table 14.5). -/
def draftHead (count l n : Nat) : List Byte := bytesOfNum count 4 ++ bytesOfNum l 4 ++ bytesOfNum n 8

/-- The draft block of CHT.PROP, with the match length. -/
def Ctx.draftBlock (x : Ctx) (t : ChartSlot) : List Byte × Nat :=
  let w := t.window
  let l := x.matchLength w
  let d := if l = 0 then [] else
    match earlierEnds w l with
    | [] => []
    | e :: _ => x.draftAt w e
  (draftHead d.length l t.n ++ tokenBlock d, l)

/-- The branches of CHT.PROPT: occurrences whose next token differs from those already kept. -/
def keepBranches (w : List Nat) : List Nat → Nat → List Nat → List Nat
  | [], _, _ => []
  | _, 0, _ => []
  | e :: rest, n + 1, seen =>
    let v := (w[e + 1]?).getD 0
    if seen.contains v then keepBranches w rest (n + 1) seen
    else e :: keepBranches w rest n (v :: seen)

/-- The block of CHT.PROPT, with the match length. -/
def Ctx.branchBlock (x : Ctx) (t : ChartSlot) : List Byte × Nat :=
  let w := t.window
  let l := x.matchLength w
  let es := if l = 0 then [] else keepBranches w (earlierEnds w l) (bits x.f.imm.toNat 22 2 + 1) []
  let br := es.map (x.draftAt w)
  (draftHead br.length l t.n ++
    (List.range 4).flatMap (fun i => bytesOfNum ((br[i]?).getD []).length 4) ++
    (List.range 4).flatMap (fun i => tokenBlock ((br[i]?).getD [])), l)

/-! ### Chart transfers (R357, R358) -/

/-- A free token that none of some tokens equals, so that no match reaches it where an image is loaded (R359). -/
def freeToken (toks : List Nat) (fresh : Nat) : Nat :=
  let v := (Config.freeWord fresh).toNat
  (((List.range (toks.length + 1)).map (fun k => (v + k) % 2 ^ 32)).find? (fun x => !toks.contains x)).getD 0

/-- The chart image of a slot (Table 14.6).  Positions of the window that no load has filled have free tokens, which
none of the others equals (R359; log entry 87). -/
def ChartSlot.image (t : ChartSlot) (fresh : Nat) : List Byte :=
  let w := min t.n (2 ^ t.log2c)
  bytesOfNum 0x00010000 4 ++ bytesOfNum t.log2c 4 ++ bytesOfNum t.n 8 ++ bytesOfNum w 4 ++ bytesOfNum 0 44 ++
    (List.range (t.first - (t.n - w))).flatMap (fun i => bytesOfNum (freeToken t.window (fresh + i)) 4) ++
    t.window.flatMap (fun v => bytesOfNum v 4)

/-- A chart transfer as an engine record, so that it uses the engines' reads and writes. -/
def ChartMove.asCopy (m : ChartMove) (die : Nat) : Copy :=
  { id := 2 ^ 32 + die * 512 + m.slot, kind := .linear 1, st := .P, token := m.token, mod := 0,
    typ := .untyped, imm := 3, aux := 0, sa := BitVec.ofNat 64 m.image, sb := BitVec.ofNat 64 m.image,
    sc := 0, queue := none, shape := [], started := true, done := 0, seq := m.seq, tick := 0,
    image := [], flags := 0, failed := none, shadow := [], got := m.got, list := [], source := none }

/-- The value of source bytes. -/
def sourceNum (l : List SourceByte) : Nat :=
  numOfBytes (l.map (fun b => match b with
    | .got b => b
    | _ => 0))

/-- The window that an image's tokens give a slot of its own capacity (R358). -/
def loadWindow (log2c n : Nat) (toks : List Nat) : Tbl (BitVec 32) :=
  let w := toks.length
  let keep := min w (2 ^ log2c)
  ((List.range keep).map (fun i => w - keep + i)).foldl (fun t i =>
    Tbl.set t ((n - w + i) % 2 ^ log2c) (BitVec.ofNat 32 ((toks[i]?).getD 0))) []

/-- The slot when the operation at the head of its line has been performed: the next one that has arrived comes
to the head (R354). -/
def ChartSlot.endMove (t : ChartSlot) : ChartSlot :=
  let rest := t.moves.drop 1
  { t with busy := rest.head?.any (fun m => !m.sync), moves := rest }

/-- The status word of a chart transfer, for a token that is a register. -/
def State.chartToken (s : State) (m : ChartMove) (v : Word) : State :=
  if m.token = 0 then s else s.writeToken m.core .P m.token v .dev

/-- The end of a chart transfer: BUSY clears and the status word is written as a DEV release (R177, R358). -/
def State.closeTransfer (s : State) (die : Nat) (m : ChartMove) (slot : ChartSlot)
    (fail : Option EngineFail) (addr : Nat) : State :=
  let d := s.die die
  let s := s.setDie die { d with charts := Tbl.set d.charts m.slot slot.endMove }
  let s := s.modCore m.core (fun k => { k with charts := k.charts.filter (fun q => q.seq != m.seq) })
  let s := s.dropPageWaits m.core (m.asCopy die).who
  let s := (s.commitOwn m.core).releaseRdc m.core .dev
  match fail with
  | none => s.chartToken m (statusWord 1 0 false false true addr)
  | some f =>
    (s.logFailure m.core f.cause f.addr).chartToken m
      (statusWord 2 (causeCode f.cause) false f.hold true f.addr)

/-- A run of places of a transfer's image, with their addresses. -/
def ChartMove.places (m : ChartMove) (first n : Nat) : List (Nat × Nat) :=
  (List.range n).map (fun i => (first + i, (m.image + first + i) % 2 ^ 64))

/-- A save or a load is performed whole, or waits for a page. -/
def State.endTransfer (s : State) (die : Nat) (m : ChartMove) : State :=
  let slot := Tbl.get ChartSlot.reset (s.die die).charts m.slot
  let cp := m.asCopy die
  if !(s.core m.core).copyOrdered cp then s
  else
    let s := s.releaseRdc m.core .dev
    if m.save then
      let bs := slot.image s.fresh
      let s := { s with fresh := s.fresh + 2 ^ slot.log2c }
      let (s, ds) := s.engineDests m.core cp (addrsFrom m.image bs.length)
      if ds.any destWaits then s
      else
        let fails := ds.flatMap destFails
        let s := (s.engineWrites m.core cp (!fails.isEmpty) ((bs.map SourceByte.got).zip ds)).logWrites m.core ds.flatten
        s.closeTransfer die m slot (lowestFail fails) bs.length
    else
      let (s, hd) := s.engineReads m.core cp (m.places 0 64)
      let num (o n : Nat) : Nat := sourceNum ((hd.drop o).take n)
      let empty := { slot with n := 0, low := 0, win := [] }
      if sourceWaits hd then s
      else
        match lowestFail (sourceFails hd) with
        | some f => s.closeTransfer die m empty (some f) 0
        | none =>
          let lg := num 0x04 4
          let n := num 0x08 8
          let w := num 0x10 4
          if num 0x00 4 ≠ 0x00010000 ∨ lg < 10 ∨ 20 < lg ∨ w ≠ min n (2 ^ lg) then
            s.closeTransfer die m empty (some { cause := .chart, hold := false, addr := m.image }) 0
          else
            let (s, ts) := s.engineReads m.core cp (m.places 64 (4 * w))
            if sourceWaits ts then s
            else
              match lowestFail (sourceFails ts) with
              | some f => s.closeTransfer die m empty (some f) 0
              | none =>
                let toks := (List.range w).map (fun i => sourceNum ((ts.drop (4 * i)).take 4))
                let full := { slot with
                  n, low := n - min w (2 ^ slot.log2c), win := loadWindow slot.log2c n toks }
                s.closeTransfer die m full none (64 + 4 * w)

/-- The load at the head of a slot's line reads a run of its image (R358). -/
def State.chartRun (s : State) (die n first len : Nat) : State :=
  let slot := (s.die die).chart n
  match slot.moves with
  | [] => s
  | m :: rest =>
    if m.sync || m.save || !(s.core m.core).copyOrdered (m.asCopy die) then s
    else
      let (s, bs) := s.engineReads m.core (m.asCopy die) (m.places first len)
      let got := (bs.mapIdx (fun i b => (first + i, b))).foldl (fun (t : Tbl Byte) e => match e.2 with
        | .got b => Tbl.set t e.1 b
        | _ => t) m.got
      s.setDie die ((s.die die).setChart n { slot with moves := { m with got } :: rest })

/-! ### Synchronous operations and the line of a slot (R351, R354) -/

/-- The result of a synchronous operation. -/
def Ctx.chartAnswer (x : Ctx) (s : State) (v : Word) : State := x.lockedNext s [x.writes x.f.dst v]

/-- CHT.APPEND is performed (R353). -/
def Ctx.chartAppend (x : Ctx) (s : State) : State :=
  let h := x.reg s x.f.sa
  let o := (x.reg s x.f.sb).toNat
  let n := (x.reg s x.f.sc).toNat
  let k := s.core x.c
  match k.badByte (addrsFrom o (4 * n)) with
  | some a => x.holdError s a 0 false
  | none =>
    let t := (s.chartOf h).append ((List.range n).map (fun j => BitVec.ofNat 32 (k.holdRead (o + 4 * j) 4)))
    x.chartAnswer (s.setChart x.c (handleSlot h) t) (BitVec.ofNat 64 t.n)

/-- CHT.CLOSE is performed (R353). -/
def Ctx.chartClose (x : Ctx) (s : State) : State :=
  let h := x.reg s x.f.sa
  x.chartAnswer (s.closeChart h) (BitVec.ofNat 64 (s.chartOf h).n)

/-- A proposal is performed: the block at the hold offset and the match length (R355, R356). -/
def Ctx.chartPropose (block : Ctx → ChartSlot → List Byte × Nat) (x : Ctx) (s : State) : State :=
  let o := (x.reg s x.f.sb).toNat
  let (bytes, l) := block x (s.chartOf (x.reg s x.f.sa))
  x.chartAnswer (x.holdPut s (bytes.mapIdx (fun i b => (o + i, b)))) (BitVec.ofNat 64 l)

/-- What a synchronous operation does when the chart unit performs it. -/
def Ctx.chartEffect (x : Ctx) (s : State) : State :=
  match x.o with
  | .chtAppend => x.chartAppend s
  | .chtClose => x.chartClose s
  | .chtProp => Ctx.chartPropose Ctx.draftBlock x s
  | .chtPropt => Ctx.chartPropose Ctx.branchBlock x s
  | _ => s

/-- The operation of a core's P that waits in the line of a slot. -/
def ChartMove.ofCore (m : ChartMove) (c : Nat) : Bool := m.sync && m.core == c

/-- A slot whose line keeps some of its operations: BUSY while a transfer stands at its head. -/
def ChartSlot.keepMoves (t : ChartSlot) (sel : ChartMove → Bool) : ChartSlot :=
  let moves := t.moves.filter sel
  { t with moves, busy := moves.head?.any (fun m => !m.sync) }

/-- A core's P waits in no line any more. -/
def State.leaveCharts (s : State) (c : Nat) : State :=
  let die := s.die (dieOf c)
  if die.charts.any (fun e => e.2.moves.any (fun m => m.ofCore c)) then
    (s.setDie (dieOf c) { die with charts := die.charts.map (fun e =>
      (e.1, e.2.keepMoves (fun m => !m.ofCore c))) }).modCore c
        (fun k => { k with held := none })
  else s

/-- The issuing P takes the last place in a slot's line, where it waits with its bundle (R354). -/
def Ctx.joinChart (x : Ctx) (s : State) (n : Nat) (t : ChartSlot) : State :=
  let m : ChartMove :=
    { sync := true, save := false, core := x.c, token := 0, image := 0, slot := n, asid := t.asid, seq := 0 }
  (s.setChart x.c n { t with moves := t.moves ++ [m] }).modCore x.c (fun k =>
    { k with held := some (x.o, { b := x.b, f := x.f, a := x.a, fl := x.fl, bh := x.bh }) })

/-- The synchronous operation at the head of a line is performed and its bundle completes, unless its handle no
longer names the slot. -/
def State.completeChart (s : State) (c : Nat) : State :=
  match (s.core c).held with
  | none => s.leaveCharts c
  | some (o, w) =>
    let x := w.ctx o c (s.tickOf c)
    let s := s.leaveCharts c
    if (x.handleDetail s (x.reg s x.f.sa)).isSome then s
    else x.finish (x.chartEffect s) .seq true

/-! ### Runs to the end (R381) -/

/-- The page-ins in progress come to their end, well or not, and the page-outs that can (R150). -/
def State.endPages (s : State) : State :=
  s.pager.foldl (fun s j =>
    if j.pageIn then
      { s with fresh := s.fresh + 1 }.endPageIn j.leaf (Config.freeBit s.fresh)
    else s.tryPageOut j.leaf) s

/-- The head of a slot's line is performed, past the walks and the page-ins that it waits for. -/
def State.forceHead (s : State) (d n : Nat) : State :=
  match ((s.die d).chart n).moves with
  | [] => s
  | m :: _ =>
    if m.sync then s.completeChart m.core
    else (((s.performBefore m.core .P m.seq).endTransfer d m).endWalks).endPages

/-- The line of a slot runs until no operation that a test selects is left in it. -/
def State.forceLine (s : State) (d n : Nat) (sel : ChartMove → Bool) : Nat → State
  | 0 => s
  | fuel + 1 =>
    if ((s.die d).chart n).moves.any sel then State.forceLine (s.forceHead d n) d n sel fuel else s

/-- Enough turns for the line of a slot: each finds, reads or fills a page, or ends an operation. -/
def lineFuel (t : ChartSlot) : Nat := 2 ^ 24 * (t.moves.length + 1)

/-- The chart operations of a die that a test selects run to their end, after those that arrived at their slots
before them (R368). -/
def State.forceCharts (s : State) (d : Nat) (sel : ChartMove → Bool) : State :=
  (s.die d).charts.foldl (fun s e =>
    if e.2.moves.any sel then s.forceLine d e.1 sel (lineFuel e.2) else s) s

/-! ### Operations that have issued and stand in no line yet (R368) -/

/-- A new opening of a slot for an address space. -/
def ChartSlot.opened (t : ChartSlot) (asid e : Nat) : ChartSlot :=
  { ChartSlot.reset with opn := true, gen := if t.gen = 0xFFFF then 1 else t.gen + 1, asid, log2c := e }

/-- The slot that an OPEN takes: the first closed one, where its capacity fits (R353). -/
def Die.slotFor (d : Die) (e : Nat) : Option Nat :=
  if 2 ^ 26 < d.openPositions + 2 ^ e then none else (List.range chartSlots).find? (fun n => !(d.chart n).opn)

/-- CHT.OPEN is performed (R353). -/
def Ctx.chartOpen (x : Ctx) (s : State) : State :=
  let d := s.die (dieOf x.c)
  let e := (x.rawZ s x.f.sa).toNat
  match d.slotFor e with
  | none => x.chartAnswer s 0
  | some n =>
    let t := (d.chart n).opened (rootAsid (s.core x.c).ptroot) e
    let h := chartHandle t.gen (dieOf x.c) n
    let s := s.setChart x.c n t
    let s := if bit x.f.mod.toNat 0 then s.modCore x.c (fun k => { k with cbl := k.cbl ++ [h] }) else s
    x.chartAnswer s h

/-- The synchronous chart operations. -/
def isChartSync : Op → Bool
  | .chtOpen | .chtAppend | .chtClose | .chtProp | .chtPropt => true
  | _ => false

/-- P's synchronous chart operation that has issued and waits, with its operands (R354). -/
def State.chartIssued (s : State) (c : Nat) : Option Ctx :=
  match (s.core c).st.p.kept with
  | none => none
  | some e => if isChartSync e.o then some (e.held.ctx e.o c (s.tickOf c)) else none

/-- The slot whose line P's issued operation waits for. -/
def State.chartAwaits (s : State) (c : Nat) : Option Nat :=
  match s.chartIssued c with
  | none => none
  | some x =>
    if x.o = .chtOpen then (s.die (dieOf c)).slotFor (x.rawZ s x.f.sa).toNat
    else some (handleSlot (x.reg s x.f.sa))

/-- P's issued chart operation that stands in no line completes, after the accesses before it and the line of its slot,
unless its handle no longer names the slot (R368). -/
def State.completeIssued (s : State) (c : Nat) : State :=
  if (s.core c).held.isSome then s
  else
    match s.chartIssued c with
    | none => s
    | some x =>
      let s := s.performBefore c .P (s.core c).seq
      let s := match s.chartAwaits c with
        | some n => s.forceLine (dieOf c) n (fun _ => true) (lineFuel ((s.die (dieOf c)).chart n))
        | none => s
      if (s.chartAwaits c).any (fun n => !((s.die (dieOf c)).chart n).moves.isEmpty) then s
      else if x.o = .chtOpen then x.finish (x.chartOpen s) .seq true
      else if (x.handleDetail s (x.reg s x.f.sa)).isSome then s
      else x.finish (x.chartEffect s) .seq true

/-- The chart operations that a core's wait for are held up by nobody's promoting acquire. -/
def State.chartsFree (s : State) (c : Nat) : Bool :=
  (s.die (dieOf c)).charts.all (fun e => !(e.2.moves.any (fun m => m.core == c) || s.chartAwaits c == some e.1) ||
    e.2.moves.all (fun m => m.sync || !s.promotes m.core .P))

/-- P's issued chart operation can complete now. -/
def State.chartReady (s : State) (c : Nat) : Bool :=
  (s.chartIssued c).isNone || (!s.promotes c .P && s.chartsFree c)

end Sys2Proof.Machine
end

