-- ==== Sys2Proof/Machine/Ops.lean ====
section
/-!
DEFINITION. The operations that instructions share: taking an exception (R375 to R377) and returning
from one (R380), the save of a context (R381 to R383), and the issue of a bundle around the meaning of
its operation (R42, R57, R58).
-/

namespace Sys2Proof.Machine

/-! ### Stopping a core (R43, R381 steps 1 to 3) -/

/-- A count taken at step 2 of R42 by a bundle that has not issued returns to its FIFO (R43).  A FIFO that has been
filled to 15 meanwhile then holds 16, and a context saved so writes 0 in its nibble and adds one to the next; the
spec says nothing of either (log entry 89). -/
def State.returnPop (s : State) (c : Nat) (st : Stream) : State :=
  let k := s.core c
  let t := k.stream st
  match t.popFrom with
  | some a => s.setCore c ((k.setFifo a st (k.fifoCount a st + 1)).setStream st { t with popFrom := none })
  | none => s

/-- A stream whose waiting bundle becomes its next unissued one.  A start that waits for P's accesses goes on
waiting for them (R78, R170). -/
def StreamState.stopped (t : StreamState) : StreamState :=
  { t with popFrom := none, atSync := false, syncGo := false, wait := .none, waitStart := none, drain := none,
           kept := none }

/-- A waiter of P. -/
def Waiter.isSemw : Waiter → Bool
  | .semw _ _ => true
  | .copy _ _ => false

/-- Every stream stops at its bundle boundary: a chart operation that has issued is performed (R368), counts
return, a waiting SEMW leaves its line (R282) and waits begin anew after resumption. -/
def State.stopStreams (s : State) (c : Nat) : State :=
  let s := s.completeIssued c
  let s := (s.forceCharts (dieOf c) (fun m => m.ofCore c)).leaveCharts c
  let s := ((((s.returnPop c .P).returnPop c .L).returnPop c .X).returnPop c .S).withdrawMail c
  s.modCore c (fun k =>
    { k with
      st := { p := k.st.p.stopped, l := k.st.l.stopped, x := k.st.x.stopped, s := k.st.s.stopped },
      semw := none, bar := none, swq := k.swq.filter (fun w => !w.isSemw), waitLine := none, parentWait := none,
      held := none, tlbWait := none, launching := none })

/-- A moving copy runs to its end, past the walks and the page-ins that it waits for (R209). -/
def State.forceCopy (s : State) (c id : Nat) : Nat → State
  | 0 => s
  | n + 1 =>
    match (s.core c).copies.find? (fun q => q.id == id) with
    | none => s
    | some cp => State.forceCopy ((s.endCopy c cp).endWalks.endPages) c id n

/-- A copy into a queue delivers the entry that it is at, when the queue has room, and stops there (R217). -/
def State.forceEntry (s : State) (c id q done : Nat) : Nat → State
  | 0 => s
  | n + 1 =>
    match (s.core c).copies.find? (fun q => q.id == id) with
    | none => s
    | some cp =>
      if cp.done = done && s.mayDeliver c cp q then
        State.forceEntry ((s.deliverEntry c cp q).endWalks.endPages) c id q done n
      else s.endCopy c cp

/-- Enough turns for a copy of at most 2^31 bytes: each finds, reads or fills a page, or ends it. -/
def copyFuel : Nat := 2 ^ 36

/-- A copy in flight at the strike: a moving one comes to its end or to an entry boundary. -/
def State.settleCopy (s : State) (c : Nat) (cp : Copy) : State :=
  if !cp.started then s
  else
    match cp.queue with
    | none => s.forceCopy c cp.id copyFuel
    | some q => s.forceEntry c cp.id q cp.done copyFuel

/-- A core may be struck now: none of its promoting acquires is open, its chart operations can be performed, and
no page-out that an access of it waits for is held up (R150, R186, R381). -/
def State.strikeReady (s : State) (c : Nat) : Bool :=
  streams.all (fun st => !s.promotes c st) && s.chartsFree c &&
    !s.pager.any (fun j => !j.pageIn && s.pageWaits.any (fun w => w.core == c && w.leaf == j.leaf) &&
      s.pageBusy (pteFrame (s.homeNumber j.leaf 8)))

/-- Steps 2 and 3 of R381: what was issued completes, and what moves reaches its end. -/
def State.settle (s : State) (c : Nat) : State :=
  let s := (s.performAll c).landAll c
  let s := ((s.core c).copies.foldl (fun s q => s.settleCopy c q) s).noteLost c
  s.forceCharts (dieOf c) (fun m => m.core == c)

/-! ### Saving a context (R381 steps 4 to 7) -/

/-- A core freed by a save: it keeps what belongs to the core and not to the context, the words of pb1 that a leasing
core spills to among it (R138). -/
def Core.vacate (k : Core) (parked : List Parked) : Core :=
  { Core.reset with
    ctxOps := k.ctxOps, caps := k.caps, hold := k.hold, badHold := k.badHold, parked := parked, tlb := k.tlb,
    seq := k.seq, arrayFree := k.arrayFree, scacFree := k.scacFree, accFree := k.accFree,
    epiFree := k.epiFree, vecFree := k.vecFree, ballast := k.ballast, tvec := k.tvec,
    fwRun := k.fwRun, holdTick := k.holdTick, childSerial := k.childSerial, lease := k.lease,
    leaseGone := k.leaseGone, pb1 := k.pb1.filter (fun e => leaseWord .P 0 ≤ e.1),
    leaseGen := k.leaseGen, claimant := k.claimant, overrun := k.overrun, prefetches := k.prefetches }

/-- The core of the same cluster that spills into the psum buffer of a core (R138). -/
def State.borrower (s : State) (c : Nat) : Option Nat :=
  ((List.range 4).map (fun i => clusterBase c + i)).find? (fun d => leaseHolder d == c && (s.core d).lease)

/-- The lease on the psum buffer of a core is revoked, as Duwen does before it dispatches a context there.  Whether
the context uses pb1 cannot be told beforehand, so that every dispatch revokes (R138; log entry 115).  The revocation
ends the borrower's lease mode at once, and one LEASE_REVOKED trap serves its four streams (log entry 121). -/
def State.revokeLease (s : State) (c : Nat) : State :=
  match s.borrower c with
  | some d => s.modCore d (fun k => { k with lease := false, leaseGone := true })
  | none => s

/-- The berths of the running context, as a parked context. -/
def Core.parkedBerths (k : Core) (area : Nat) : List Parked :=
  let live := k.berths.filter (fun e => e.2 != 0)
  if live.isEmpty then [] else [{ area, map := live }]

/-- Nothing of the context on a core waits for a page or for a walk any more; prefetches go on (R158). -/
def State.forgetWaits (s : State) (c : Nat) : State :=
  let d := s.die (dieOf c)
  let stays (x : Nat × Nat) : Bool := x.1 != c || (s.core c).prefetches.any (fun p => p.who == x.2)
  let s := { s with pageWaits := s.pageWaits.filter (fun w => w.core != c) }
  s.setDie (dieOf c)
    { d with walks := (d.walks.map (fun w =>
        { w with waiters := w.waiters.filter stays })).filter (fun w =>
          w.ended.isNone || !w.waiters.isEmpty) }

/-- A convoy of which no member runs any more keeps no core for its ended ones (R21). -/
def State.freeKept (s : State) (id : Option Nat) : State :=
  match id with
  | none => s
  | some id =>
    if s.cores.any (fun e => e.2.task.bind (fun t => t.convoyId) == some id) then s
    else { s with convoys := s.convoys.map (fun v => if v.id = id then { v with kept := [] } else v) }

/-- Write a settled context to an area and free its core.  A queued copy keeps no entry of the promotion log: the log is
widened whole although the release of the copy is still to come, and a replay enters no new one (R182, R183; log
entry 110).  The UN stores of the die whose places are open go home first, for the streams' own views of them end with
the context (R176; log entry 7).  `frame` is the frame that the task's handler reads after a restore. -/
def State.saveContext (s : State) (c area : Nat) (frameValid forCause : Bool) (frame : Frame) : State :=
  match (s.core c).task with
  | none => s
  | some t =>
    let s := (s.widen c (s.core c).log.length).forgetWaits c
    let open' := s.unLog.any (fun u =>
      streams.any (fun st => s.ownUn c st u) && !(u.unplaced (u.bytes.map (fun e => e.1))).isEmpty)
    let s := if open' then s.writeBack (dieOf c) [.un] else s
    let s := { s with mem := saveArea s c area frameValid, fresh := s.fresh + 1 }
    let s := s.releaseRdc c .dev
    let k := s.core c
    let one {α : Type} (g : StreamState → α) : Four α :=
      { p := g k.st.p, l := g k.st.l, x := g k.st.x, s := g k.st.s }
    let rec' : SavedContext :=
      { area, ptroot := k.ptroot, core := c, task := t, forCause,
        cause := if frameValid then k.frame.fcause.toNat % 2 ^ 8 else 0, convoyId := t.convoyId, dc := k.dc,
        dcFrom := k.dcFrom, dcStores := k.dcStores, copies := k.copies, uncorr := one (fun t => t.uncorr),
        un := one (fun t => t.un), tokens := one (fun t => t.tokenAcq), last := one (fun t => t.tokenLast),
        scopes := one (fun t => t.tokenScope), links := one (fun t => t.link), slots := one (fun t => t.slotsLeft),
        frame }
    let s := { s with saved := s.saved ++ [rec'] }.setCore c (k.vacate (k.parked ++ k.parkedBerths area))
    s.freeKept t.convoyId

/-- Steps 1 to 3 of R381 for one core. -/
def State.strike (s : State) (c : Nat) : State := ((s.stopStreams c).landAll c).settle c

/-- The cores that run members of the convoy of a core's task, itself where it runs no member. -/
def State.unitCores (s : State) (c : Nat) : List Nat :=
  match (s.core c).task.bind (fun t => t.convoyId) with
  | none => [c]
  | some id =>
    (List.range 192).filter (fun d => (s.core d).task.bind (fun t => t.convoyId) == some id)

/-- Pre-empt the contexts of some cores into areas: every one is struck and settled before any is saved
(R381). -/
def State.preemptInto (s : State) (cs : List (Nat × Nat)) : State :=
  let s := cs.foldl (fun s e => s.strike e.1) s
  let s := cs.foldl (fun s e => s.saveContext e.1 e.2 false false (s.core e.1).frame) s
  s

/-- Mark the convoy of a task as saved whole into some areas (R286). -/
def State.markSaved (s : State) (areas : List Nat) (id : Option Nat) : State :=
  match id with
  | none => s
  | some id =>
    { s with
      convoys := s.convoys.map (fun v => if v.id = id then { v with saved := true } else v),
      saved := s.saved.map (fun r =>
        if r.convoyId = some id then { r with whole := areas.contains r.area } else r) }

/-- The cores of a convoy's ended members that it keeps: the members run together to the last one's end (R21). -/
def Convoy.keptCores (v : Convoy) : List Nat := v.kept.filterMap (fun m => (v.cores.find? (fun e => e.1 == m)).map (fun e => e.2))

/-- A convoy keeps a core on which its member has ended (R21). -/
def State.coreHeld (s : State) (c : Nat) : Bool := s.convoys.any (fun v => v.keptCores.contains c)

/-- The cores that the unit on a core has: those that run its members and those that its convoy keeps (R21). -/
def State.unitSpan (s : State) (c : Nat) : List Nat :=
  s.unitCores c ++ ((s.core c).task.bind (fun t => t.convoyId)).elim [] (fun id =>
    (s.convoys.filter (fun v => v.id == id)).flatMap Convoy.keptCores)

/-- The dispatcher pre-empts the unit on a core, a convoy whole (R316), each context into the area that
its CTXPTR names. -/
def State.preemptUnit (s : State) (c : Nat) : State :=
  let id := (s.core c).task.bind (fun t => t.convoyId)
  let cs := (s.unitCores c).map (fun d => (d, (s.core d).ctxptr.toNat))
  (s.preemptInto cs).markSaved (cs.map (fun e => e.2)) id

/-! ### Firmware of a die (R388) -/

/-- Duwen starts on core 0 of a die.  What that core has issued is performed, and its promotion log is widened
whole, so that no entry or request is lost (R182, R183). -/
def State.bootFirmware (s : State) (d : Nat) : State :=
  let c := 48 * d
  let s := (s.performAll c).revokeLease c
  let s := if (s.core c).log.isEmpty then s else s.widen c (s.core c).log.length
  let k := s.core c
  s.setCore c
    ({ Core.reset with
        caps := k.caps, fwRun := true, prefetches := k.prefetches,
        ptroot := Config.firmwareRoot d &&& ptrootMask, seq := k.seq }
      |>.modStream .P (fun t =>
        { t with run := true, pc := BitVec.ofNat 48 ((Config.firmwareEntry d).toNat / 4 * 4) }))

/-! ### Taking an exception (R374 to R377) -/

/-- FCAUSE (Table 15.4). -/
def TrapInfo.word (t : TrapInfo) (st : Stream) : Word :=
  BitVec.ofNat 64 (t.code % 2 ^ 16 * 2 ^ 16 + (if t.svc then 2 ^ 11 else 0) +
    (if t.async then 2 ^ 10 else 0) + st.num * 2 ^ 8 + causeCode t.cause)

/-- The fault frame of a cause (R375): the recorded bundle of each stream is the one at its PC, but for a
faulting stream whose trap names another. -/
def Core.frameOf (k : Core) (st : Stream) (t : TrapInfo) : Frame :=
  let pc (u : Stream) : Word :=
    match t.record with
    | some a => if u = st then BitVec.ofNat 64 a else (k.stream u).pc.zeroExtend 64
    | none => (k.stream u).pc.zeroExtend 64
  { fcause := t.word st, faddr0 := BitVec.ofNat 64 t.addr0, faddr1 := BitVec.ofNat 64 t.addr1,
    fdet := BitVec.ofNat 64 t.fdet,
    fpc := { p := pc .P, l := pc .L, x := pc .X, s := pc .S },
    wxtag := t.wxtag, wxval := t.wxval, wxcmp := t.wxcmp,
    flact := k.frame.flact, fptg := k.frame.fptg, fslots := k.frame.fslots, flink := k.frame.flink,
    fsync := k.frame.fsync }

/-- Enter a handler in P: R376's entry, which TVEC's on a Duwen core follows (R377).  A link still to be written
waits with the frame (R74), and so does SYNCDONE of P's recorded bundle (R87). -/
def Core.enterHandler (k : Core) (fr : Frame) (entry : Nat) : Core :=
  let t := k.st.p
  let fr := { fr with flact := BitVec.ofNat 64 (packLact t + t.pend.toNat * 16),
                      fptg := t.ptarget.zeroExtend 64, fslots := t.slotsLeft, flink := t.link, fsync := t.syncDone }
  { k with frame := fr, inh := true }.setStream .P
    { t with lact := [], pend := 0, slotsLeft := 0, link := none, syncDone := false, pc := pcOf entry }

/-- The handler that takes a cause: TVEC on a Duwen core, or the task's own; none where it goes to Duwen
(R376, R377). -/
def Core.handlerFor (k : Core) (firmware : Bool) (t : TrapInfo) : Option Nat :=
  if firmware then some k.tvec.toNat
  else
    match k.task with
    | some u =>
      if toHandler t.cause && !t.svc && !k.inh && u.handler != 0 then some u.handler else none
    | none => none

/-- A cause that goes to Duwen: the context is saved with its frame, the cause is logged and the core is
free (R377). -/
def State.deliverToDuwen (s : State) (c : Nat) (st : Stream) (t : TrapInfo) : State :=
  let k := s.core c
  let s := s.setCore c { k with frame := k.frameOf st t }
  let s := (s.settle c).modCore c (fun k => { k with task := k.task.map Task.lose })
  let s := s.saveContext c k.ctxptr.toNat true true k.frame
  { s with faultLog :=
      { cause := t.cause, core := c, addr := t.addr0, info := (k.stream st).pc.toNat } :: s.faultLog }

/-- A cause would save the context or reset the firmware while that must still wait, or stop P while a chart operation
that it has issued cannot complete (R186, R368, R377, R381). -/
def State.mustDefer (s : State) (c : Nat) (t : TrapInfo) : Bool :=
  let k := s.core c
  !s.chartReady c ||
    ((isFirmware c && k.inh) || (k.handlerFor (isFirmware c) t).isNone) && !s.strikeReady c

/-- Take an exception on a core for one of its streams (R375 to R377). -/
def State.raise (s : State) (c : Nat) (st : Stream) (t : TrapInfo) : State :=
  let s := (s.stopStreams c).landAll c
  let s := s.dropPageWaits c st.num
  let k := s.core c
  if isFirmware c && k.inh then s.bootFirmware (dieOf c)
  else
    match k.handlerFor (isFirmware c) t with
    | some entry => s.setCore c (k.enterHandler (k.frameOf st t) entry)
    | none => s.deliverToDuwen c st t

/-- Take an exception for a stream's bundle, or wait until it can be taken. -/
def State.raiseOrWait (s : State) (c : Nat) (st : Stream) (t : TrapInfo) (n : Note) : State :=
  if s.mustDefer c t then { s.modStream c st (fun u => { u with wait := .memory }) with note := .waited }
  else { s.raise c st t with note := n }

/-- Return from an exception (R380).  The streams' next bundles issue at least 2 ticks later. -/
def State.eret (s : State) (c : Nat) : State :=
  let now := s.tickOf c
  s.modCore c (fun k =>
    let fr := k.frame
    let back (u : Stream) (t : StreamState) : StreamState :=
      { t with pc := pcOf (fr.fpc.get u).toNat, nextTick := max t.nextTick (now + 2) }
    let p := back .P k.st.p
    let p := { p with
      lact := (List.range 4).map (fun i => (i, bit fr.flact.toNat i)),
      pend := BitVec.ofNat 2 (bits fr.flact.toNat 4 2),
      ptarget := pcOf fr.fptg.toNat, link := fr.flink, syncDone := fr.fsync,
      slotsLeft := max fr.fslots (bits fr.flact.toNat 4 2) }
    { k with st := { p := p, l := back .L k.st.l, x := back .X k.st.x, s := back .S k.st.s },
             inh := false })

/-! ### What a boundary delivers first -/

/-- The oldest uncorrectable error that is known is delivered at the stream's next boundary (R142). -/
def State.deliverUncorr (s : State) (c : Nat) (st : Stream) (a b d : Nat) : State :=
  let t : TrapInfo := { cause := .memUncorr, addr0 := a, addr1 := b, fdet := d, async := true }
  (if s.mustDefer c t then s
   else s.modStream c st (fun t => { t with uncorr := t.uncorr.drop 1 })).raiseOrWait c st t .trapped

/-- A pending THROTTLE_WARN is delivered, P being the faulting stream (R331). -/
def State.deliverWarn (s : State) (c : Nat) : State :=
  let t : TrapInfo := { cause := .throttleWarn, async := true }
  if s.mustDefer c t then s
  else (s.modCore c (fun k => { k with warnDue := false, warnHeld := false })).raise c .P t

/-- A THROTTLE_WARN that cannot be delivered is held, which EVL records (R376, R386). -/
def State.holdWarn (s : State) (c : Nat) : State :=
  s.modCore c (fun k =>
    { k with warnDue := false, warnHeld := true, evl := if k.warnHeld then k.evl else k.evl ||| 8 })

/-! ### The checks before issue (R57, R58) -/

/-- The access column of Table 15.1 (R371). -/
def specialAllowed (s : State) (c : Nat) (write : Bool) (n : Nat) : Bool :=
  let fw := isFirmware c
  let noTask := s.cores.all (fun e => e.2.task.isNone)
  if write then
    if n ≤ 5 || n == 9 then false
    else if n == 6 || n == 7 then fw && noTask
    else if 14 ≤ n && n ≤ 17 then fw || (s.core c).inh
    else fw
  else if 22 ≤ n && n ≤ 24 then fw
  else true

/-- The instruction needs a privilege or an access that the issuing stream has not (R370, R371). -/
def Ctx.privTrap (x : Ctx) (s : State) : Bool :=
  (x.o.row.firmware && !isFirmware x.c) ||
  (match x.o, x.f.sa, x.f.dst with
   | .sreg, .special n, _ => !specialAllowed s x.c false n.val
   | .swreg, _, .special n => !specialAllowed s x.c true n.val
   | .eret, _, _ => !isFirmware x.c && !(s.core x.c).inh
   | _, _, _ => false)

/-- The bundle is the last of an active loop's body (R69, R70). -/
def Ctx.atLoopEnd (x : Ctx) (s : State) : Bool :=
  let t := s.stream x.c x.st
  (List.range 4).any (fun k => Tbl.get false t.lact k && (Tbl.get 0 t.lexit k).toNat == x.next)

/-- The delay-slot and loop-end restrictions (R70).  A slot that is also a loop's end traps whatever stands there, a NOP
too, which R92 calls legal in either place by itself (log entry 120). -/
def Ctx.slotTrap (x : Ctx) (s : State) : Bool :=
  let slot := 0 < (s.stream x.c x.st).slotsLeft
  (slot && !x.o.row.slotOk) || (x.atLoopEnd s && (!x.o.row.slotOk || slot))

/-- The decode traps, in the order of R58. -/
def Ctx.decodeTrap (x : Ctx) (s : State) : Option Cause :=
  if !x.o.row.streams.contains x.st then some .illop
  else if !x.o.legal x.f then some .illfield
  else if !(s.core x.c).bindingsOk x.o x.f x.st then some .illfield
  else if x.slotTrap s then some .dslot
  else if x.privTrap s then some .priv
  else none

/-! ### POP, interlocks and SYNC (R42, R50, R51) -/

/-- Step 2 of R42: take the count that the bundle's POP names. -/
def Ctx.takePop (x : Ctx) (s : State) : Option State :=
  let k := s.core x.c
  let t := k.stream x.st
  match namedStream x.st x.b.pop with
  | none => some s
  | some a =>
    if t.popFrom.isSome then some s
    else if 1 ≤ k.fifoVisible x.now a x.st then
      some (s.setCore x.c ((k.setFifo a x.st (k.fifoCount a x.st - 1)).setStream x.st
        { t with popFrom := some a }))
    else none

/-- Register operands that an interlock can hold back. -/
def isRegister : Operand → Bool
  | .s _ | .p _ | .lc _ | .ln | .sp | .ml _ => true
  | _ => false

/-- The operation also reads its destination register. -/
def readsDst (o : Op) (f : Fields) : Bool :=
  match o with
  | .ldi => bits f.mod.toNat 0 2 == 2
  | .cmp | .vcmp => bits f.mod.toNat 3 2 != 0
  | _ => false

/-- The registers that an operation reads and those that it writes, its side-op included. -/
def Ctx.readRegs (x : Ctx) : List Operand :=
  ([x.f.sa, x.f.sb, if x.o = .mbr then .s 0 else x.f.sc].filter isRegister) ++
  (if readsDst x.o x.f && isRegister x.f.dst then [x.f.dst] else []) ++
  (match x.f.side with
   | .spill r _ => [.s r]
   | _ => [])

def Ctx.writtenRegs (x : Ctx) : List Operand :=
  ([x.f.dst, if x.o = .mbr then x.f.sc else .s 0].filter isRegister) ++
  (match x.f.side with
   | .fill r _ => [.s r]
   | _ => [])

/-- The counts of the loops that the bundle may end are readable. -/
def Ctx.loopsReady (x : Ctx) (s : State) : Bool :=
  let k := s.core x.c
  let t := k.stream x.st
  (List.range 4).all (fun n =>
    !(Tbl.get false t.lact n && (Tbl.get 0 t.lexit n).toNat == x.next) ||
      k.readable x.fl x.st (.lc (Fin.ofNat 4 n)))

/-- The predicate may be read. -/
def Ctx.predReady (x : Ctx) (s : State) : Bool := (s.core x.c).readable x.fl x.st (.p x.f.pr.num)

/-- The operation reads or writes a hold. -/
def touchesHold (o : Op) (f : Fields) : Bool :=
  match o with
  | .ld | .st | .ldq | .stq | .ldgq | .stsq => bit f.mod.toNat 0
  | .lds | .tmpl | .mmaQ4 | .mmaF8 | .mmaBf | .mmaH | .accld | .epi | .epiOut | .maskld => true
  | .smpFilt | .smpPick | .smpVer | .smpStop => true
  | _ => false

/-- On an FL = 0 page a hold access waits for the images of an earlier EPI.OUT of the stream (R51). -/
def Ctx.imagesReady (x : Ctx) (s : State) : Bool :=
  x.fl || !touchesHold x.o x.f || !(s.core x.c).imagesPending x.st (s.core x.c).seq

/-- The special registers that an operation reads: the address space and the lease mode always, the
register of an SREG, and those that ERET restores from (Table 15.1, R380). -/
def specialsRead (o : Op) (f : Fields) : List Nat :=
  8 :: 24 :: (match o with
  | .sreg => (match f.sa with | .special n => if n.val = 5 then [7] else if n.val = 21 then [14, 21] else [n.val] | _ => [])
  | .eret => [14, 15, 16, 17, 21, 25]
  | _ => [])

/-- On an FL = 0 page an operation waits for its stream's writes of special registers that it reads (R51). -/
def Ctx.specialsReady (x : Ctx) (s : State) : Bool :=
  x.fl || !((s.core x.c).flight.any (fun l => l.st == x.st && l.effects.any (fun e => match e with
    | .special n _ => (specialsRead x.o x.f).contains n
    | _ => false)))

/-- The destination is written by memory or by an engine, at no published latency (R51). -/
def delivered (o : Op) (f : Fields) : Bool :=
  match o with
  | .ld => !bit f.mod.toNat 0
  | .acq _ | .acqp | .amoAdd | .amoAnd | .amoOr | .amoXor | .amoMin | .amoMax | .amoMinn | .amoMaxn | .amoXchg
  | .amoCas | .cpy1 | .cpy2 | .cpy3 | .cpyg | .cpymc | .drain | .chtSave | .chtLoad
  | .ctxs | .ctxl => true
  | _ => false

/-- Every operand interlock of an enabled operation is resolved. -/
def Ctx.operandsReady (x : Ctx) (s : State) : Bool :=
  let k := s.core x.c
  x.imagesReady s && x.specialsReady s &&
  x.readRegs.all (fun o => k.readable x.fl x.st o) && x.writtenRegs.all (fun o => k.writable x.fl (delivered x.o x.f) x.st o)

/-- The bundle has its rendezvous still before it: another stream runs, or one that it waited for has become idle
in this tick (R42 step 3, R86). -/
def Ctx.mustSync (x : Ctx) (s : State) : Bool :=
  let k := s.core x.c
  let t := k.stream x.st
  x.b.sync && !t.syncDone && !t.syncGo &&
    (streams.any (fun u => u != x.st && (k.stream u).run) || (t.atSync && k.idleTick == some x.now))

/-- The push would overflow its FIFO (R42 step 4). -/
def Ctx.pushFull (x : Ctx) (s : State) : Bool :=
  match namedStream x.st x.b.push with
  | some d => 15 ≤ (s.core x.c).fifoCount x.st d
  | none => false

/-- The operation is enabled lane by lane (R38). -/
def laneEnabled (o : Op) (f : Fields) : Bool :=
  match o with
  | .vcut => false
  | .ldq | .stq | .ldgq | .stsq | .cvtQ | .pack4 | .unpk4 | .pack8 | .unpk8 => true
  | .qtag => f.dst.isQueue
  | o => 0x50 ≤ o.row.opc && o.row.opc ≤ 0x6D

/-- The operation runs (R38). -/
def Ctx.runs (x : Ctx) (s : State) : Bool := laneEnabled x.o x.f || x.enabled s

/-- The side-op meets a revoked lease (R35, R138). -/
def Ctx.leaseTrap (x : Ctx) (s : State) : Bool :=
  (s.core x.c).leaseGone && x.f.side != .none

/-- The first read of a token register acquires at its copy's scope, and an overwrite forgets the
copy (R187, R194). -/
def Ctx.tokenReads (x : Ctx) (s : State) : State :=
  let t := s.stream x.c x.st
  let num (o : Operand) : List Nat := match canonReg o with
    | .s n => if n.val = 0 then [] else [n.val]
    | _ => []
  let touched := x.readRegs.flatMap num ++ x.writtenRegs.flatMap num
  let s := (x.readRegs.flatMap num).foldl (fun s n =>
    match t.tokenAcq.find? (fun e => e.1 == n) with
    | some e => s.acquireRdc x.c e.2
    | none => s) s
  if t.tokenAcq.isEmpty then s
  else
    s.modStream x.c x.st (fun t =>
      { t with tokenAcq := t.tokenAcq.filter (fun e => !touched.contains e.1) })

/-! ### Issue -/

/-- What came of an attempt to issue. -/
def State.noted (s : State) (n : Note) : State := { s with note := n }

/-- A wait of an operation that has issued: it does not hold its rendezvous back (R86). -/
def Wait.afterIssue : Wait → Bool
  | .tokens _ _ | .join | .access | .other => true
  | _ => false

/-- A stream's bundle has issued and is still to complete, with what it read: what it kept at its first wait. -/
def Ctx.keep (x : Ctx) (t : StreamState) : StreamState :=
  { t with
    kept := some (t.kept.getD
      { o := x.o, held := { b := x.b, f := x.f, a := x.a, fl := x.fl, bh := x.bh },
        s := t.s, p := t.p, lc := t.lc, ml := t.ml, ln := t.ln }),
    waitStart := some (t.waitStart.getD x.now) }

/-- The stream waits: before the issue of its bundle or, with the operands of its issue, beyond it. -/
def Ctx.waits (x : Ctx) (s : State) (w : Wait) : State :=
  (s.modStream x.c x.st (fun t =>
    { (if w.afterIssue then x.keep t else t) with wait := w, atSync := t.atSync || w == .sync })).noted .waited

/-- The bundle traps (R58): one decided after issue leaves its rendezvous formed (R87). -/
def Ctx.traps (x : Ctx) (s : State) (t : TrapInfo) : State :=
  let s := if t.late && x.b.sync then s.modStream x.c x.st (fun u => { u with syncDone := true }) else s
  s.raiseOrWait x.c x.st t (if t.late then .late else .trapped)

/-- The state after the body of an operation. -/
def Ctx.conclude (x : Ctx) (r : Res) : State :=
  match r with
  | .done s flow => (x.finish s flow true).noted .issued
  | .final s => s.noted .issued
  | .broke s => s.noted .late
  | .wait s w => x.waits s w
  | .trap s t => x.traps s t

/-- The tick of a stamped MMA (R253). -/
def Ctx.stamp (x : Ctx) (s : State) : Option Nat :=
  match x.o with
  | .mmaQ4 | .mmaF8 | .mmaBf | .mmaH =>
    if bit x.f.mod.toNat 1 then some ((s.core x.c).mbase + x.f.aux.zeroExtend 64).toNat else none
  | _ => none

def Effect.onMbase : Effect → Bool
  | .mbase _ => true
  | _ => false

/-- The tick of a stamp can be read: on an FL = 0 page not while a write of MBASE is still to land (R51, R253). -/
def Ctx.stampKnown (x : Ctx) (s : State) : Bool :=
  x.fl || !(s.core x.c).flight.any (fun l => l.effects.any Effect.onMbase)

/-- A stamped MMA has come to its tick, or past it. -/
def Ctx.stampDue (x : Ctx) (s : State) : Bool := x.stampKnown s && (x.stamp s).any (fun t => t ≤ x.now)

/-- A stamped MMA is past its tick. -/
def Ctx.stampPast (x : Ctx) (s : State) : Bool := x.stampKnown s && (x.stamp s).any (fun t => t < x.now)

/-- A stamped MMA waits for its tick. -/
def Ctx.stampEarly (x : Ctx) (s : State) : Bool := (x.stamp s).isSome && !x.stampDue s

/-- The stream waits before issue, but for a stamped MMA that is thereby late (R253). -/
def Ctx.waitsOrMisses (x : Ctx) (s : State) (late : Bool) (w : Wait) : State :=
  if late then x.traps s { cause := .schedMiss } else x.waits s w

/-- An enabled operation past its decode checks and its POP: interlocks, rendezvous, TOKOVF, the side-op's
own trap, then its body (R42, R58).  A revoked lease stays until its trap is taken.  LEASE_REVOKED comes before QUND
and QOVF too, which the body finds (log entry 90).  A stamped MMA waits for its tick, in its body, before it can meet
either trap (R253).  R42 places neither the register interlocks, which the model puts before SYNC
and TOKOVF, nor the waits of the body, for queue operands and for a unit such as the divider, which it puts after
both and after LEASE_REVOKED (R97; log entry 90). -/
def Ctx.issueEnabled (x : Ctx) (s : State) (body : Ctx → State → Res) : State :=
  if !x.operandsReady s || !x.loopsReady s then x.waitsOrMisses s (x.stampDue s) .memory
  else if x.mustSync s then x.waitsOrMisses s (x.stampPast s) .sync
  else if x.pushFull s && !x.stampEarly s then x.traps s { cause := .tokovf }
  else if x.leaseTrap s && !x.stampEarly s then
    let t : TrapInfo := { cause := .leaseRevoked }
    x.traps (if s.mustDefer x.c t then s else s.modCore x.c (fun k => { k with leaseGone := false })) t
  else x.conclude (body x (x.tokenReads s))

/-- An operation that is not enabled: only its bundle's POP, SYNC and PUSH happen (R38).  It waits for no unit, so that
a VCUT that is not enabled may issue in the tick after an FP32 transcendental (R221; log entry 123). -/
def Ctx.issueDisabled (x : Ctx) (s : State) : State :=
  if !x.loopsReady s then x.waits s .memory
  else if x.mustSync s then x.waits s .sync
  else if x.pushFull s then x.traps s { cause := .tokovf }
  else (x.finish s .seq false).noted .issued

/-- The attempt of the current stream to issue an operation with its body (R42, R58). -/
def Ctx.issue (x : Ctx) (s : State) (body : Ctx → State → Res) : State :=
  match x.decodeTrap s with
  | some c => x.traps s { cause := c }
  | none =>
    match x.takePop s with
    | none =>
      x.waitsOrMisses s (x.predReady s && x.enabled s && x.stampDue s) (.pop ((namedStream x.st x.b.pop).getD x.st))
    | some s =>
      if !x.predReady s then x.waits s .memory
      else if x.runs s then x.issueEnabled s body
      else x.issueDisabled s

/-- The meaning of an encoded instruction with a body. -/
def issue (o : Op) (b : Bundle) (f : Fields) (body : Ctx → State → Res) (s : State) :
    Host.Outcome State Fault Refusal :=
  .next ((Ctx.of o b f s).issue s body)

/-- The queue operands of an operation taken together (R215), then what it makes of them: an entry for
its destination queue, if it has one, and what lands beside it after the same latency. -/
def queueBody (lat : Nat) (g : Ctx → State → (Operand → Entry) → Entry × List Effect) (x : Ctx)
    (s : State) : Res :=
  match x.takeQueues s (sourcePositions x.o x.f) (pushPosition x.o x.f) with
  | .trap c => .plain s c
  | .wait w => .wait s w
  | .ok k es =>
    let (e, fx) := g x s (takenEntry es)
    match pushPosition x.o x.f with
    | some q => .done (x.pushEntry (s.setCore x.c k) lat q e fx) .seq
    | none => .done (x.result (s.setCore x.c k) lat fx) .seq

/-- Fields that are all zero. -/
def Fields.zero : Fields :=
  { dst := .s 0, sa := .s 0, sb := .s 0, sc := .s 0, pr := { inv := false, num := 0 }, mod := 0,
    typ := .untyped, imm := 0, aux := 0, side := .none }

end Sys2Proof.Machine
end

