-- ==== Sys2Proof/Machine/Fetch.lean ====
section
/-!
DEFINITION. Fetching a bundle (R45 to R48), with the mode drain of R53 and the stall on a template that
is still to land (R91).
-/

namespace Sys2Proof.Machine

/-- How the fetch of a word ends. -/
inductive WordFetch where
  | ok (s : State) (w : W32) (pte : Nat)
  | wait (s : State)
  | fault (f : TransFault)

/-- How the fetch of a bundle ends. -/
inductive Fetched where
  | ok (s : State) (ws : List W32) (fl bh : Bool)
  | wait (s : State)
  | trap (t : TrapInfo)

/-- Lines of a stream's instruction cache: 32 KiB (R25). -/
def codeLines : Nat := 512

/-- The bytes of the line of an address, as a core's fetch reads them. -/
def State.lineBytes (s : State) (c pa : Nat) (kind : OrderKind) : State × List Byte :=
  let base := pa / 64 * 64
  if s.rdcMayHold (dieOf c) pa kind then
    let (s, l) := s.rdcFetch c pa kind
    (s, (List.range 64).map (fun o => (l.byte o).getD (s.mem.get (base + o))))
  else
    let s := if kind == .so then s.bypassRdc (dieOf c) pa else s
    let s := s.touchLine (pa / 64) false (s.meterOf c)
    (s, (List.range 64).map (fun o => s.homeByte (base + o)))

/-- The words of a line of 64 bytes. -/
def lineWords (bs : List Byte) : List W32 :=
  (List.range 16).map (fun i =>
    let b (j : Nat) : Byte := (bs[4 * i + j]?).getD 0
    wordOfBytes (b 0) (b 1) (b 2) (b 3))

/-- A line of code enters a stream's instruction cache; a full one gives up another line. -/
def StreamState.keepLine (t : StreamState) (line victim : Nat) (ws : List W32) : StreamState :=
  let rest := Tbl.erase t.icache line
  { t with icache := Tbl.set (if rest.length < codeLines then rest else rest.eraseIdx (victim % codeLines)) line ws }

/-- Fill the line of a virtual address whose page is translated (R48). -/
def State.fillCode (s : State) (c : Nat) (st : Stream) (va : Nat) (m : Mapped) : State × List W32 :=
  let (s, bs) := s.lineBytes c m.pa m.kind
  let n := Config.freePick s.fresh
  ({ s with fresh := s.fresh + 1 }.modStream c st (fun t => t.keepLine (va / 64) n (lineWords bs)), lineWords bs)

/-- Fetch the word at an address: from the stream's instruction cache, or from memory with its line into it
(R48).  An error that the code cannot correct faults precisely (R143). -/
def State.fetchWord (s : State) (c : Nat) (st : Stream) (va : Nat) : WordFetch :=
  match s.translate c st.num .fetch va with
  | .fault f => .fault f
  | .wait s => .wait s
  | .ok s m =>
    let word (ws : List W32) : W32 := (ws[va % 64 / 4]?).getD 0
    match (s.stream c st).icache.find? (fun e => e.1 == va / 64) with
    | some e => .ok s (word e.2) m.pte
    | none =>
      if s.badLines.contains (m.pa / 64) then
        .fault { cause := .memUncorr, lvl := 7, rsvd := false, pager := false }
      else
        let (s, ws) := s.fillCode c st va m
        .ok s (word ws) m.pte

/-- A running stream fetches a line ahead of its PC, on a page that a TLB maps.  Which lines it fetches so, and
when, is open (R47, R48; log entry 93). -/
def State.fetchAhead (s : State) (c : Nat) (st : Stream) (line : Nat) : State :=
  let va := line * 64
  if (s.stream c st).run then
    match s.look c st.num (s.core c).ptroot (isFirmware c) .fetch va with
    | .ok m none => if s.badLines.contains (m.pa / 64) then s else (s.fillCode c st va m).1
    | _ => s
  else s

/-- The trap of a fetch fault: the bundle's first byte, and the faulting address where another word of
the bundle failed (R47, R375). -/
def fetchTrap (pc va : Nat) (f : TransFault) : TrapInfo :=
  { cause := f.cause, addr0 := pc, addr1 := if va = pc then 0 else va,
    fdet := Fdet.word { pager := f.pager, rsvd := f.rsvd, split := pc / 8192 != va / 8192, kind := 2,
                        lvl := f.lvl } }

/-- Fetch the words of a bundle that follow those already fetched. -/
def State.fetchRest (s : State) (c : Nat) (st : Stream) (pc : Nat) (fl bh : Bool) :
    Nat → List W32 → Fetched
  | 0, ws => .ok s ws fl bh
  | n + 1, ws =>
    if moreWords ws = 0 then .ok s ws fl bh
    else
      let va := pc + 4 * ws.length
      match s.fetchWord c st va with
      | .fault f => .trap (fetchTrap pc va f)
      | .wait s => .wait s
      | .ok s w _ => State.fetchRest s c st pc fl bh n (ws ++ [w])

/-- Fetch the bundle at the PC of a stream whole; FL and BH are those of the page of its first byte
(R45, R46). -/
def State.fetchBundle (s : State) (c : Nat) (st : Stream) : Fetched :=
  let pc := (s.stream c st).pc.toNat
  match s.fetchWord c st pc with
  | .fault f => .trap (fetchTrap pc pc f)
  | .wait s => .wait s
  | .ok s w pte => s.fetchRest c st pc (pteFl pte) (pteBh pte) 4 [w]

/-- The template entry that a bundle names is still to land (R91). -/
def Core.templatePending (k : Core) (st : Stream) (ws : List W32) : Bool :=
  match ws with
  | [] => false
  | w :: _ =>
    k.flight.any (fun l => l.effects.any (fun e => match e with
      | .template u n _ => u == st && n == patchTix w
      | _ => false))

/-- Where a mode drain stands: the program order that it waits for, and whether results before it are
still to land (R53).  The first bundle after a restore has no bundle before it: the area has no place for that one's FL
(Table 15.7; log entry 119). -/
def Core.drainFor (k : Core) (st : Stream) (fl : Bool) : Option (Nat × Bool) :=
  let t := k.stream st
  match t.prevFl with
  | none => none
  | some p =>
    if p = fl then none
    else
      let bound := t.drain.getD k.seq
      some (bound, k.flight.any (fun l => !l.locked && l.seq < bound))

/-- The template table of a stream as the decoder reads it. -/
def StreamState.template (t : StreamState) (n : Nat) : WideBits := Tbl.get 0 t.templates n

end Sys2Proof.Machine
end

