-- ==== Sys2Proof/Machine/Control.lean ====
section
/-!
DEFINITION. Control and stream instructions (R65 to R92) and the crew deadlock (R88, R89).
-/

namespace Sys2Proof.Machine

/-- An operation with no effect of its own (R92). -/
def nopBody (_x : Ctx) (s : State) : Res := .done s .seq

def execNopTix0 (b : Bundle) (s : State) : Host.Outcome State Fault Refusal :=
  issue .nop b Fields.zero nopBody s

def execNop (b : Bundle) (f : Fields) (s : State) : Host.Outcome State Fault Refusal :=
  issue .nop b f nopBody s

/-! ### Transfers (R72 to R74) -/

/-- A taken transfer to a target of 64 bits, which must be a multiple of 4 (R45, R72).  A target of 2^48 or more is
cut to the 48 bits of PC, so that its fetch meets no FETCH_PAGE (log entry 11). -/
def transferTo (s : State) (t : Nat) (leaves : Bool) : Res :=
  if t % 4 ≠ 0 then .trap s { cause := .align, addr0 := t }
  else .done s (.jump (t % 2 ^ 48) leaves)

/-- a + sext(IMM, 64). -/
def Ctx.relTarget (x : Ctx) : Nat := (BitVec.ofNat 64 x.a + x.immS).toNat

/-- value of SA + sext(IMM, 64), modulo 2^64. -/
def Ctx.regTarget (x : Ctx) (s : State) : Nat := (x.reg s x.f.sa + x.immS).toNat

def brBody (x : Ctx) (s : State) : Res := transferTo s x.relTarget true

def execBr (b : Bundle) (f : Fields) (s : State) : Host.Outcome State Fault Refusal :=
  issue .br b f brBody s

/-- BRZ is taken when SA is zero, with NZ when it is not (R73). -/
def brzBody (x : Ctx) (s : State) : Res :=
  if (x.reg s x.f.sa == 0) != bit x.f.mod.toNat 1 then transferTo s x.relTarget true
  else .done s .seq

def execBrz (b : Bundle) (f : Fields) (s : State) : Host.Outcome State Fault Refusal :=
  issue .brz b f brzBody s

def jmpBody (x : Ctx) (s : State) : Res := transferTo s (x.regTarget s) true

def execJmp (b : Bundle) (f : Fields) (s : State) : Host.Outcome State Fault Refusal :=
  issue .jmp b f jmpBody s

/-- The address after the bundle at an address, as far as its words can be fetched. -/
def State.bundleEnd (s : State) (c : Nat) (st : Stream) (a : Nat) : Fetched × Nat :=
  match s.fetchWord c st a with
  | .fault f => (.trap (fetchTrap a a f), a)
  | .wait s => (.wait s, a)
  | .ok s w _ =>
    match s.fetchRest c st a false false 4 [w] with
    | .ok s ws fl bh => (.ok s ws fl bh, a + 4 * ws.length)
    | r => (r, a)

/-- The link of a native transfer: the address after its second delay slot, whose bundles are read ahead.
Where one cannot be fetched, the link is written when the second slot issues (R74). -/
inductive LinkEnd where
  | known (s : State) (a : Nat)
  | wait (s : State)
  | later

def Ctx.nativeLink (x : Ctx) (s : State) : LinkEnd :=
  match s.bundleEnd x.c x.st x.next with
  | (.wait s, _) => .wait s
  | (.trap _, _) => .later
  | (.ok s _ _ _, a) =>
    match s.bundleEnd x.c x.st a with
    | (.wait s, _) => .wait s
    | (.trap _, _) => .later
    | (.ok s _ _ _, a') => .known s a'

/-- JAL and JALR: the target is checked before the link is written (R72, R74). -/
def Ctx.callTo (x : Ctx) (s : State) (t : Nat) : Res :=
  if t % 4 ≠ 0 then .trap s { cause := .align, addr0 := t }
  else
    let flow := Flow.jump (t % 2 ^ 48) false
    if x.bh then .done (x.result s 1 [x.writes x.f.dst (BitVec.ofNat 64 x.next)]) flow
    else
      match x.nativeLink s with
      | .known s a => .done (x.result s 1 [x.writes x.f.dst (BitVec.ofNat 64 a)]) flow
      | .wait s => .wait s .access
      | .later => .done (s.modStream x.c x.st (fun t => { t with link := some x.f.dst })) flow

def jalBody (x : Ctx) (s : State) : Res := x.callTo s x.relTarget

def execJal (b : Bundle) (f : Fields) (s : State) : Host.Outcome State Fault Refusal :=
  issue .jal b f jalBody s

def jalrBody (x : Ctx) (s : State) : Res := x.callTo s (x.regTarget s)

def execJalr (b : Bundle) (f : Fields) (s : State) : Host.Outcome State Fault Refusal :=
  issue .jalr b f jalrBody s

/-! ### LOOP (R76) -/

/-- The number of a loop count register. -/
def loopNumber : Operand → Nat
  | .lc n => n.val
  | _ => 0

def loopBody (x : Ctx) (s : State) : Res :=
  let imc := bit x.f.mod.toNat 0
  let imm := x.f.imm.toNat
  let n := loopNumber x.f.dst
  let cnt : Word := if imc then x.f.aux.zeroExtend 64 else x.reg s x.f.sa
  if imc && x.f.sa != .s 0 then .plain s .illfield
  else if !imc && x.f.aux != 0 then .plain s .illfield
  else if imm % 4 ≠ 0 ∨ imm ≤ 4 * x.b.words ∨ 0x100000 < imm then .plain s .illfield
  else
    let exit := (x.a + imm) % 2 ^ 48
    let s := x.result s 1 [x.writes x.f.dst cnt]
    let s := s.modStream x.c x.st (fun t =>
      { t with lstart := Tbl.set t.lstart n (BitVec.ofNat 48 x.next),
               lexit := Tbl.set t.lexit n (BitVec.ofNat 48 exit),
               lact := Tbl.set t.lact n (cnt != 0) })
    .done s (if cnt = 0 then .skip exit else .seq)

def execLoop (b : Bundle) (f : Fields) (s : State) : Host.Outcome State Fault Refusal :=
  issue .loop b f loopBody s

/-! ### Holds as instructions read them -/

/-- A trap of a hold access: alignment, then range, with the lowest faulting offset (R152, R154). -/
def Ctx.holdCheck (x : Ctx) (s : State) (off size align : Nat) (store : Bool) : Option TrapInfo :=
  if off % align ≠ 0 then some { cause := .align, addr0 := off, fdet := holdFdet store 0 }
  else if !x.holdFits s off size then
    some { cause := .holdRange, addr0 := max off (s.core x.c).holdLimit, fdet := holdFdet store 0 }
  else none

/-- The checks of a hold access that reads. -/
def Ctx.holdTrap (x : Ctx) (s : State) (off size align : Nat) : Option TrapInfo :=
  x.holdCheck s off size align false

/-! ### FORK and QBIND (R78 to R80) -/

/-- A rebinding of a queue from its present nibble to another breaks R80. -/
def Core.rebindBreaks (k : Core) (q new : Nat) : Bool :=
  let old := bits k.qmap.toNat (4 * q) 4
  let ends := [old % 4, old / 4, new % 4, new / 4 % 4].map Stream.ofNum
  new != old &&
    (0 < (k.queueReg q).cnt || k.copies.any (fun c => c.queue == some q) ||
      k.loads.any (fun l => match l.dest with
        | .entry q' _ _ => q' == q
        | _ => false) ||
      ends.any (fun u => u != .P && (k.stream u).run))

/-- The streams that a fork block starts, with their entries. -/
def forkEntries (fb : Nat) : List (Stream × Nat) :=
  [(.L, bits fb 0 64), (.X, bits fb 64 64), (.S, bits fb 128 64)].filter (fun e => e.2 != 0)

/-- Start one stream: P's s1 to s8, its PC, running, its first bundle at least 3 ticks later and after
P's accesses (R78).  An entry of 2^48 or more is cut to 48 bits (log entry 11). -/
def Ctx.startStream (x : Ctx) (s : State) (st : Stream) (entry : Nat) : State :=
  let p := s.stream x.c .P
  let n := (s.core x.c).seq
  s.modStream x.c st (fun t =>
    { ((List.range 8).foldl (fun (t : StreamState) i =>
        t.setReg (.s (Fin.ofNat 32 (i + 1))) (p.operand (.s (Fin.ofNat 32 (i + 1))))) t) with
      pc := pcOf entry, pend := 0, slotsLeft := 0, link := none, run := true,
      nextTick := max t.nextTick (x.now + 3), wait := .none, kept := none, after := some n })

/-- The registers s1 to s8 of a stream may be read or, with `fl` clear, have nothing pending. -/
def Core.argsFree (k : Core) (fl : Bool) (st : Stream) : Bool :=
  (List.range 8).all (fun i => k.readable fl st (.s (Fin.ofNat 32 (i + 1))))

/-- FORK.  What its block holds decides its traps, so that it waits before its issue for an acquire that is still to
be performed (R87).  It waits too, on an FL = 1 page as well, until what is pending on s1 to s8 of the streams that it
starts has landed; no rule names such a wait (log entry 114). -/
def forkBody (x : Ctx) (s : State) : Res :=
  let off := x.ea s
  match x.holdTrap s off 32 8 with
  | some t => .trap s t
  | none =>
    let k := s.core x.c
    if k.acquirePending x.st then .wait s .memory
    else match k.badByte (addrsFrom off 32) with
    | some a => .done (x.holdError s a 0 false) .seq
    | none =>
      let fb := k.holdRead off 32
      let es := forkEntries fb
      let qmap := bits fb 192 64
      match es.findSome? (fun e =>
          if e.2 % 4 ≠ 0 then some (TrapInfo.mk .align e.2 0 0 0 false false 0 0 0 none false)
          else if (k.stream e.1).run then some { cause := .qjoin } else none) with
      | some t => .trap s t
      | none =>
        if (List.range 16).any (fun q => k.rebindBreaks q (bits qmap (4 * q) 4)) then .plain s .qjoin
        else if !es.all (fun e => k.argsFree false e.1) || !(k.argsFree x.fl .P || es.isEmpty) then .wait s .memory
        else
          let s := if es.isEmpty then s else s.commitOwn x.c
          let s := s.modCore x.c (fun k => { k with qmap := BitVec.ofNat 64 qmap })
          .done (es.foldl (fun s e => x.startStream s e.1 e.2) s) .seq

def execFork (b : Bundle) (f : Fields) (s : State) : Host.Outcome State Fault Refusal :=
  issue .fork b f forkBody s

/-- The number of a queue operand. -/
def queueOf (o : Operand) : Nat := (queueNum o).getD 0

def qbindBody (x : Ctx) (s : State) : Res :=
  let k := s.core x.c
  let q := queueOf x.f.dst
  let new := bits x.f.aux.toNat 0 4
  let old := bits k.qmap.toNat (4 * q) 4
  if k.rebindBreaks q new then .plain s .qjoin
  else
    .done (s.setCore x.c
      { k with qmap := BitVec.ofNat 64 (k.qmap.toNat - old * 2 ^ (4 * q) + new * 2 ^ (4 * q)) }) .seq

def execQbind (b : Bundle) (f : Fields) (s : State) : Host.Outcome State Fault Refusal :=
  issue .qbind b f qbindBody s

/-! ### JOIN, JOIN.D and HALT (R81 to R83) -/

/-- L, X and S still run. -/
def Core.crewRuns (k : Core) : Bool := k.st.l.run || k.st.x.run || k.st.s.run

/-- A load, store or tile operation of L, X or S has not completed. -/
def Core.crewBusy (k : Core) : Bool :=
  k.loads.any (fun l => l.st != .P) || k.stores.any (fun x => x.st != .P) ||
    k.flight.any (fun l => l.st != .P)

/-- A queue that keeps JOIN from passing: it holds entries, a moving copy still writes it, or a pushing
copy has not started (R82). -/
def Core.queueUsed (k : Core) (q : Nat) : Bool :=
  0 < (k.queueReg q).cnt || k.copies.any (fun c => c.queue == some q)

/-- Drop every entry of a queue. -/
def QueueReg.discard (r : QueueReg) (now : Nat) : QueueReg :=
  { r with head := (r.head + r.cnt) % 4, cnt := 0, rsv := [],
           popTick := if r.cnt = 0 then r.popTick else some now }

/-- Drop every entry of every queue of a core. -/
def State.discardQueues (s : State) (c : Nat) : State :=
  let now := s.tickOf c
  (List.range 16).foldl (fun s q =>
    if (s.core c |>.queueReg q).cnt = 0 then s
    else s.modCore c (fun k => k.setQueueReg q ((k.queueReg q).discard now))) s

/-- What JOIN clears: token counts, and the loop and transfer state of L, X and S. -/
def Core.clearCrew (k : Core) : Core :=
  let clear (t : StreamState) : StreamState :=
    { t with lact := [], pend := 0, slotsLeft := 0, link := none }
  { k with fifo := [], pushes := [],
           st := { k.st with l := clear k.st.l, x := clear k.st.x, s := clear k.st.s } }

/-- JOIN and the first part of HALT in P: wait, check the queues, clear the crew. -/
def Ctx.joinThen (x : Ctx) (s : State) (fin : State → Res) : Res :=
  let k := s.core x.c
  if k.crewRuns then .wait s .join
  else if k.crewBusy then .wait s .memory
  else if (List.range 16).any k.queueUsed then .plain s .qjoin
  else fin (s.setCore x.c k.clearCrew)

def joinBody (x : Ctx) (s : State) : Res := x.joinThen s (fun s => .done s .seq)

def execJoin (b : Bundle) (f : Fields) (s : State) : Host.Outcome State Fault Refusal :=
  issue .join b f joinBody s

/-- JOIN.D: what queues hold is dropped, copies into queues that have not started are cancelled, and the
moving ones complete first (R82).  The copies are cancelled when nothing moves any more, so that one which starts
during that wait runs to its end; no rule gives the moment (log entry 94). -/
def joinDBody (x : Ctx) (s : State) : Res :=
  let k := s.core x.c
  if k.crewRuns then .wait s .join
  else if k.crewBusy then .wait s .memory
  else
    let s := s.discardQueues x.c
    if (s.core x.c).copies.any (fun c => c.queue.isSome && c.started) then .wait s .memory
    else
      let s := ((s.core x.c).copies.filter (fun c => c.queue.isSome)).foldl
        (fun s c => s.cancelCopy x.c c) s
      .done (s.setCore x.c (s.core x.c).clearCrew) .seq

def execJoinD (b : Bundle) (f : Fields) (s : State) : Host.Outcome State Fault Refusal :=
  issue .joinD b f joinDBody s

/-- TIME since which P has waited for a child, as HALT and JOINW note it (R303). -/
def State.noteParent (s : State) (c : Nat) : State :=
  s.modCore c (fun k => { k with parentWait := some (k.parentWait.getD (s.timeOf c)) })

/-- HALT in P, past the checks of JOIN: every copy ends, every child has ended, and the task is about to
end (R83, R299, R303).  It is blocked while every copy is queued on a wait semaphore (R210); a copy that heads its
line with a count there is about to start and queued no more (log entry 19). -/
def Ctx.haltTask (x : Ctx) (s : State) : Res :=
  let k := s.core x.c
  if !k.copies.isEmpty then
    .wait s (if k.copies.all (fun c => !c.started && !k.semReady c) then .join else .memory)
  else if !k.charts.isEmpty || !k.quiet .P || !k.flight.isEmpty then .wait s .memory
  else if k.jcount ≠ 0 then .wait (s.noteParent x.c) .other
  else
    .final ((x.finish s .seq true).modCore x.c (fun k =>
      { k.modStream .P (fun t => { t with run := false }) with halted := true, parentWait := none }))

/-- HALT: L, X or S becomes idle after the bundle, a release towards P at which a task outside a convoy commits
its DC stores (R81, R170, R177); P ends the task (R83). -/
def haltBody (x : Ctx) (s : State) : Res :=
  if x.st = .P then x.joinThen s (fun s => x.haltTask s)
  else
    .final ((x.finish (s.commitOwn x.c) .seq true).modCore x.c (fun k =>
      { k.modStream x.st (fun t => { t with run := false }) with idleTick := some x.now }))

def execHalt (b : Bundle) (f : Fields) (s : State) : Host.Outcome State Fault Refusal :=
  issue .halt b f haltBody s

/-! ### TOKP and TOKW (R84, R85) -/

/-- The stream that AUX[1:0] names. -/
def Ctx.tokenStream (x : Ctx) : Stream :=
  (namedStream x.st (TokenCode.ofBits x.f.aux.toNat)).getD x.st

def tokpBody (x : Ctx) (s : State) : Res :=
  let n := x.f.imm.toNat
  let d := x.tokenStream
  let extra := if namedStream x.st x.b.push = some d then 1 else 0
  if n < 1 ∨ 15 < n then .plain s .illfield
  else if 15 < (s.core x.c).fifoCount x.st d + n + extra then .plain s .tokovf
  else .done (s.pushTokens x.c x.st d n) .seq

def execTokp (b : Bundle) (f : Fields) (s : State) : Host.Outcome State Fault Refusal :=
  issue .tokp b f tokpBody s

def tokwBody (x : Ctx) (s : State) : Res :=
  let n := x.f.imm.toNat
  let src := x.tokenStream
  let keep := bit x.f.mod.toNat 0
  let noWait := bit x.f.mod.toNat 1
  let k := s.core x.c
  let cnt := k.fifoVisible x.now src x.st
  let give (s : State) : Res :=
    .done (x.result s 1 [x.writes x.f.dst (BitVec.ofNat 64 cnt)]) .seq
  if noWait then (if n ≠ 0 ∨ keep then .plain s .illfield else give s)
  else if n < 1 ∨ 15 < n then .plain s .illfield
  else if cnt < n then .wait s (.tokens src n)
  else if keep then give s
  else give (s.setCore x.c (k.setFifo src x.st (k.fifoCount src x.st - n)))

def execTokw (b : Bundle) (f : Fields) (s : State) : Host.Outcome State Fault Refusal :=
  issue .tokw b f tokwBody s

/-! ### TMPL (R91) -/

def tmplBody (x : Ctx) (s : State) : Res :=
  let n := x.f.aux.toNat
  let off := x.ea s
  if n = 0 ∨ 62 < n then .plain s .illfield
  else
    match x.holdTrap s off 16 16 with
    | some t => .trap s t
    | none =>
      if (s.core x.c).acquirePending x.st then .wait s .access
      else match (s.core x.c).badByte (addrsFrom off 16) with
      | some a => .done (x.holdError s a 0 false) .seq
      | none =>
        .done (x.result s 4 [.template x.st n (BitVec.ofNat 128 ((s.core x.c).holdRead off 16))]) .seq

def execTmpl (b : Bundle) (f : Fields) (s : State) : Host.Outcome State Fault Refusal :=
  issue .tmpl b f tmplBody s

/-! ### Crew deadlock (R88, R89) -/

/-- A queue has a push in flight that will fill it: a copy or a load. -/
def Core.pushInFlight (k : Core) (q : Nat) : Bool :=
  k.copies.any (fun c => c.queue == some q) ||
    k.loads.any (fun l => match l.dest with
      | .entry q' _ _ => q' == q
      | _ => false)

/-- The running streams of a core. -/
def Core.running (k : Core) : List Stream := streams.filter (fun st => (k.stream st).run)

/-- What R88 counts as blocked, of a stream with its wait.  A FIFO that holds the counts, though they are still to
become visible, blocks nobody, nor does a rendezvous for which every running stream waits at step 3; one of them that
waits for a queue there keeps the others blocked (R42). -/
def Core.blocked (k : Core) (st : Stream) (w : Wait) : Bool :=
  match w with
  | .pop src => k.fifoCount src st = 0
  | .tokens src n => k.fifoCount src st < n
  | .sync => !k.running.all (fun u => (k.stream u).atSync && (k.stream u).wait == .sync)
  | .join | .queueFull _ => true
  | .queueEmpty q => !k.pushInFlight q
  | .copyAhead q => 4 ≤ (k.queueReg q).cnt
  | _ => false

/-- Every running stream of a core is blocked (R89). -/
def Core.deadlocked (k : Core) : Bool :=
  !k.running.isEmpty && k.running.all (fun st => k.blocked st (k.stream st).wait)

/-- CREW_DEADLOCK: every running stream of the core is blocked (R89). -/
def execCrewDeadlock (c : Nat) (s : State) : Host.Outcome State Fault Refusal :=
  if c < coreCount then
    let t : TrapInfo := { cause := .crewDeadlock, async := true }
    .next (if (s.core c).deadlocked && !s.mustDefer c t then s.raise c .P t else s)
  else .fault .noSuchAgent

end Sys2Proof.Machine
end

