-- ==== Sys2Proof/Machine/MemoryAccess.lean ====
section
/-!
DEFINITION. Loads, stores, gathers, scatters, prefetches and cluster-hold loads (R136 to R160).
-/

namespace Sys2Proof.Machine

/-! ### Checks (R151, R152, R154) -/

/-- The trap of a translation fault of an access at `ea` whose byte `va` fails. -/
def memTrap (ea va lane : Nat) (k : AccessKind) (f : TransFault) : TrapInfo :=
  { cause := f.cause, addr0 := va, late := true,
    fdet := Fdet.word { pager := f.pager, rsvd := f.rsvd, lane, split := ea / 8192 != va / 8192,
                        kind := k.code, lvl := f.lvl } }

/-- The trap of a misaligned memory address. -/
def alignTrap (a lane : Nat) (k : AccessKind) : TrapInfo :=
  { cause := .align, addr0 := a, fdet := Fdet.word { lane, kind := k.code } }

/-- The trap of a misaligned hold offset, and of one out of range. -/
def holdAlign (a lane : Nat) (store : Bool) : TrapInfo :=
  { cause := .align, addr0 := a, fdet := holdFdet store lane }
def holdRange (a lane : Nat) (store : Bool) : TrapInfo :=
  { cause := .holdRange, addr0 := a, fdet := holdFdet store lane }

/-- Translate the bytes of an access of the issuing stream. -/
def Ctx.mapBytes (x : Ctx) (s : State) (k : AccessKind) (addrs : List Nat) : TransAll :=
  s.translateAll x.c x.st.num k addrs

/-- A DC store enters the commit buffer, from which a release may perform it, once the loads before it and its stream's
earlier stores of its bytes under another kind are performed (R164, R165, R177, R178). -/
def Core.dcHeld (k : Core) (st : Stream) (ms : List Mapped) : Bool :=
  ms.any (fun m => m.kind == .dc) &&
    (!k.loadsQuiet st ||
      k.stores.any (fun x => x.st == st && x.parts.any (fun p =>
        p.2.2 != .un && ms.any (fun m => m.kind == .dc && m.pa == p.1))))

/-- Put a store of the issuing stream in flight.  An SO store is a release, at which a task outside a
convoy commits its DC stores (R175, R177). -/
def Ctx.putStore (x : Ctx) (s : State) (rel : Option Scope) (bytes : List Byte) (ms : List Mapped)
    (origin : List Origin) : State :=
  let s := if ms.any (fun m => m.kind == .so) then s.commitOwn x.c else s
  s.issueStore x.c x.st ((ms.zip bytes).map (fun e => (e.1.pa, e.2, e.1.kind))) rel origin x.a

/-- Where the bytes of an access at `ea` of `n` bytes, or of a lane of one, come from.  An aligned access of up to
8 bytes is performed whole and a longer one by its aligned 8-byte parts; a misaligned LD or ST is performed byte
by byte (R141). -/
def originOf (ea n lane : Nat) (addrs : List Nat) : List Origin :=
  addrs.map (fun a =>
    { va := a, lane, upper := a / 8192 != ea / 8192,
      piece := if n ≤ 8 ∧ ea % n ≠ 0 then a else a / 8 })

/-! ### LD and ST (R155) -/

/-- Bytes of the operation's type. -/
def Ctx.size (x : Ctx) : Nat := x.f.typ.width / 8

/-- H selects the hold (R136). -/
def Ctx.inHold (x : Ctx) : Bool := bit x.f.mod.toNat 0

def ldHold (x : Ctx) (s : State) : Res :=
  let n := x.size
  let ea := x.ea s
  let k := s.core x.c
  if ea % n ≠ 0 then .trap s (holdAlign ea 0 false)
  else if !x.holdFits s ea n then .trap s (holdRange ea 0 false)
  else if k.acquirePending x.st then .wait s .access
  else
    match k.badByte (addrsFrom ea n) with
    | some a => .done (x.holdError s a 0 false) .seq
    | none =>
      .done (x.result s 5 [x.writes x.f.dst (extendLoad x.f.typ.signed n (k.holdRead ea n))]) .seq

def ldBody (x : Ctx) (s : State) : Res :=
  if x.inHold then ldHold x s
  else
    let n := x.size
    let ea := x.ea s
    let addrs := addrsFrom ea n
    match x.mapBytes s .load addrs with
    | .fault f va => .trap s (memTrap ea va 0 .load f)
    | .wait s => .wait s .access
    | .ok s ms =>
      .done (s.issueLoad x.c
        { st := x.st, seq := 0, parts := ms.mapIdx (fun i m => (i, m.pa, m.kind)),
          dest := .reg x.f.dst x.f.typ.signed n, acq := none, origin := originOf ea n 0 addrs,
          bundle := x.a }) .seq

def execLd (b : Bundle) (f : Fields) (s : State) : Host.Outcome State Fault Refusal :=
  issue .ld b f ldBody s

def stHold (x : Ctx) (s : State) : Res :=
  let n := x.size
  let ea := x.ea s
  let k := s.core x.c
  if ea % n ≠ 0 then .trap s (holdAlign ea 0 true)
  else if !x.holdFits s ea n then .trap s (holdRange ea 0 true)
  else if k.acquirePending x.st || k.loadsBefore x.st then .wait s .access
  else .done (s.holdWrite x.c x.st ea n (x.reg s x.f.sb).toNat) .seq

def stBody (x : Ctx) (s : State) : Res :=
  if x.inHold then stHold x s
  else
    let n := x.size
    let ea := x.ea s
    let addrs := addrsFrom ea n
    let d := bytesOfNum (x.reg s x.f.sb).toNat n
    match x.mapBytes s .store addrs with
    | .fault f va => .trap s (memTrap ea va 0 .store f)
    | .wait s => .wait s .access
    | .ok s ms =>
      if (s.core x.c).dcHeld x.st ms then .wait s .access
      else .done (x.putStore s none d ms (originOf ea n 0 addrs)) .seq

def execSt (b : Bundle) (f : Fields) (s : State) : Host.Outcome State Fault Refusal :=
  issue .st b f stBody s

/-! ### Queue operands of this class -/

/-- Take the pops of the source operands, once nothing else can stop the issue. -/
def Ctx.popSources (x : Ctx) (s : State) : State :=
  (popsOf (sourcePositions x.o x.f)).foldl (fun s q =>
    s.modCore x.c (fun k => k.setQueueReg q ((k.queueReg q).pop x.now))) s

/-- The trap of a queue operand of an access (Table 6.6, R152). -/
def Ctx.queueTrap (x : Ctx) (c : Cause) : TrapInfo :=
  let store := match x.o with
    | .stq | .stsq => true
    | _ => false
  { cause := c, fdet := Fdet.word { hold := x.inHold, kind := if store then 1 else 0 } }

/-- The queue operands that an instruction of this class takes, or what stops it.  A wait for a queue of another stream
comes before the checks of ALIGN and HOLD_RANGE; no rule ranks the two (log entry 113). -/
def Ctx.queueGate (x : Ctx) (s : State) (go : (Operand → Entry) → Res) : Res :=
  match x.takeQueues s (sourcePositions x.o x.f) (pushPosition x.o x.f) with
  | .trap c => .trap s (x.queueTrap c)
  | .wait w => .wait s w
  | .ok _ es => go (takenEntry es)

/-- Reserve the tail entry of DST for a load and put the load in flight (R156, R212). -/
def Ctx.loadEntry (x : Ctx) (s : State) (parts : List (Nat × Nat × OrderKind))
    (origin : List Origin) : State :=
  let q := queueOf x.f.dst
  let k := s.core x.c
  let rid := k.seq + 1
  let (r, slot) := (k.queueReg q).reserve rid
  (s.setCore x.c (k.setQueueReg q r)).issueLoad x.c
    { st := x.st, seq := 0, parts, dest := .entry q slot rid, acq := none, origin, bundle := x.a }

/-! ### LDQ and STQ (R156) -/

/-- The enabled lanes of an entry. -/
def Ctx.lanesOn (x : Ctx) (s : State) : List Nat :=
  (List.range x.f.typ.laneCount).filter (fun j => x.laneOn s x.f.typ.width j)

/-- Entry positions of the bytes of the enabled lanes. -/
def Ctx.bytesOn (x : Ctx) (s : State) : List Nat :=
  (x.lanesOn s).flatMap (fun j => (List.range x.size).map (fun i => j * x.size + i))

/-- The first enabled lane's offset that lies out of range. -/
def Ctx.laneOut (x : Ctx) (s : State) (ea : Nat) : Option Nat :=
  ((x.lanesOn s).map (fun j => ea + j * x.size)).find? (fun a => !x.holdFits s a x.size)

/-- An entry whose listed bytes are read from the hold. -/
def Core.holdEntry (k : Core) (ixs : List (Nat × Nat)) : Entry :=
  BitVec.ofNat 1024 (assemble (ixs.map (fun e => (e.1, k.holdByte e.2))))

def ldqHold (x : Ctx) (s : State) : Res :=
  let ea := x.ea s
  let k := s.core x.c
  let ixs := (x.bytesOn s).map (fun i => (i, ea + i))
  if ea % 128 ≠ 0 then .trap s (holdAlign ea 0 false)
  else
    match x.laneOut s ea with
    | some a => .trap s (holdRange a 0 false)
    | none =>
      if k.acquirePending x.st then .wait s .access
      else
        match k.badByte (ixs.map (fun (e : Nat × Nat) => e.2)) with
        | some a => .done (x.holdError s a 0 false) .seq
        | none => .done (x.pushLoaded s 6 (queueOf x.f.dst) (k.holdEntry ixs)) .seq

def ldqMem (x : Ctx) (s : State) : Res :=
  let ea := x.ea s
  let ixs := x.bytesOn s
  let addrs := ixs.map (fun i => (ea + i) % 2 ^ 64)
  if ea % 16 ≠ 0 then .trap s (alignTrap ea 0 .load)
  else
    match x.mapBytes s .load addrs with
    | .fault f va => .trap s (memTrap ea va 0 .load f)
    | .wait s => .wait s .access
    | .ok s ms =>
      .done (x.loadEntry s ((ixs.zip ms).map (fun e => (e.1, e.2.pa, e.2.kind))) (originOf ea 128 0 addrs)) .seq

def ldqBody (x : Ctx) (s : State) : Res :=
  x.queueGate s (fun _ => if x.inHold then ldqHold x s else ldqMem x s)

def execLdq (b : Bundle) (f : Fields) (s : State) : Host.Outcome State Fault Refusal :=
  issue .ldq b f ldqBody s

/-- Byte i of an entry. -/
def entryByte (e : Entry) (i : Nat) : Byte := BitVec.ofNat 8 (e.toNat / 256 ^ i)

def stqHold (x : Ctx) (s : State) (e : Entry) : Res :=
  let ea := x.ea s
  let k := s.core x.c
  if ea % 128 ≠ 0 then .trap s (holdAlign ea 0 true)
  else
    match x.laneOut s ea with
    | some a => .trap s (holdRange a 0 true)
    | none =>
      if k.acquirePending x.st || k.loadsBefore x.st then .wait s .access
      else
        .done (x.holdPut (x.popSources s) ((x.bytesOn s).map (fun i => (ea + i, entryByte e i)))) .seq

def stqMem (x : Ctx) (s : State) (e : Entry) : Res :=
  let ea := x.ea s
  let ixs := x.bytesOn s
  let addrs := ixs.map (fun i => (ea + i) % 2 ^ 64)
  if ea % 16 ≠ 0 then .trap s (alignTrap ea 0 .store)
  else
    match x.mapBytes s .store addrs with
    | .fault f va => .trap s (memTrap ea va 0 .store f)
    | .wait s => .wait s .access
    | .ok s ms =>
      if (s.core x.c).dcHeld x.st ms then .wait s .access
      else .done (x.putStore (x.popSources s) none (ixs.map (entryByte e)) ms (originOf ea 128 0 addrs)) .seq

def stqBody (x : Ctx) (s : State) : Res :=
  x.queueGate s (fun taken =>
    if x.inHold then stqHold x s (taken x.f.sb) else stqMem x s (taken x.f.sb))

def execStq (b : Bundle) (f : Fields) (s : State) : Host.Outcome State Fault Refusal :=
  issue .stq b f stqBody s

/-! ### LDGQ and STSQ (R157) -/

/-- The enabled lanes of a gather or scatter with their addresses. -/
def Ctx.laneAddrs (x : Ctx) (s : State) (idx : Entry) : List (Nat × Nat) :=
  ((List.range 32).filter (fun i => (x.mask s).getLsbD i)).map (fun i =>
    (i, (x.ea s + lowBits (sextInt (laneOf idx 32 i) 32 * x.size) 64) % 2 ^ 64))

/-- A lane with its address and the translated bytes of its element. -/
structure Lane where
  i  : Nat
  a  : Nat
  ms : List Mapped

/-- How the checks of the lanes end: every lane with its translated bytes, the trap of the lowest lane that
meets one, or a wait: before issue where a lane is known to trap, unless a lower one does (R58, R87). -/
inductive LaneEnd where
  | ok (s : State) (l : List Lane)
  | trap (t : TrapInfo)
  | wait (s : State) (w : Wait)

/-- The trap that a lane meets before its translation (R154, R157). -/
def Ctx.laneTrap (x : Ctx) (s : State) (store : Bool) (e : Nat × Nat) : Option TrapInfo :=
  let n := x.size
  if e.2 % n ≠ 0 then
    some (if x.inHold then holdAlign e.2 e.1 store else alignTrap e.2 e.1 (if store then .store else .load))
  else if x.inHold && !x.holdFits s e.2 n then some (holdRange e.2 e.1 store)
  else none

/-- The lanes before the first that meets a trap, and that trap. -/
def Ctx.lanesUpTo (x : Ctx) (s : State) (store : Bool) : List (Nat × Nat) → List (Nat × Nat) × Option TrapInfo
  | [] => ([], none)
  | e :: rest =>
    match x.laneTrap s store e with
    | some t => ([], some t)
    | none =>
      let (l, t) := Ctx.lanesUpTo x s store rest
      (e :: l, t)

/-- Lanes with their parts of a list of translated bytes. -/
def splitLanes (n : Nat) : List (Nat × Nat) → List Mapped → List Lane
  | [], _ => []
  | (i, a) :: rest, ms => { i, a, ms := ms.take n } :: splitLanes n rest (ms.drop n)

/-- Check the lanes, all before any page is marked (R151, R154, R157, R160); lanes in the hold have no
translation. -/
def Ctx.checkLanes (x : Ctx) (s : State) (k : AccessKind) (ls : List (Nat × Nat)) : LaneEnd :=
  let n := x.size
  let (l, bad) := x.lanesUpTo s (k == .store) ls
  let w : Wait := if bad.isSome then .memory else .access
  match (if x.inHold then .ok s [] else x.mapBytes s k (l.flatMap (fun e => addrsFrom e.2 n))) with
  | .fault f va =>
    match l.find? (fun e => (addrsFrom e.2 n).contains va) with
    | some (i, a) => .trap (memTrap a va i k f)
    | none => .wait s w
  | .wait s => .wait s w
  | .ok s' ms =>
    match bad with
    | some t => .trap t
    | none => .ok s' (splitLanes n l ms)

def ldgqBody (x : Ctx) (s : State) : Res :=
  x.queueGate s (fun taken =>
    match x.checkLanes s .load (x.laneAddrs s (taken x.f.sb)) with
    | .trap t => .trap s t
    | .wait s w => .wait s w
    | .ok s l =>
      let n := x.size
      let k := s.core x.c
      if x.inHold then
        let ixs := l.flatMap (fun e => (List.range n).map (fun j => (e.i * n + j, e.a + j)))
        if k.acquirePending x.st then .wait s .access
        else
          match l.find? (fun e => (k.badByte (addrsFrom e.a n)).isSome) with
          | some e => .done (x.holdError (x.popSources s) e.a e.i false) .seq
          | none => .done (x.pushLoaded (x.popSources s) 8 (queueOf x.f.dst) (k.holdEntry ixs)) .seq
      else
        .done (x.loadEntry (x.popSources s)
          (l.flatMap (fun e => e.ms.mapIdx (fun j m => (e.i * n + j, m.pa, m.kind))))
          (l.flatMap (fun e => originOf e.a n e.i (addrsFrom e.a n)))) .seq)

def execLdgq (b : Bundle) (f : Fields) (s : State) : Host.Outcome State Fault Refusal :=
  issue .ldgq b f ldgqBody s

/-- The lanes of a scatter that are performed: of two on one element, the higher (R157). -/
def topLanes : List Lane → List Lane
  | [] => []
  | e :: rest => if rest.any (fun f => f.a == e.a) then topLanes rest else e :: topLanes rest

def stsqBody (x : Ctx) (s : State) : Res :=
  x.queueGate s (fun taken =>
    match x.checkLanes s .store (x.laneAddrs s (taken x.f.sb)) with
    | .trap t => .trap s t
    | .wait s w => .wait s w
    | .ok s l =>
      let n := x.size
      let k := s.core x.c
      let d := taken x.f.sc
      let bytes (i : Nat) : List Byte := bytesOfNum (laneOf d (8 * n) i) n
      let top := topLanes l
      if x.inHold then
        if k.acquirePending x.st || k.loadsBefore x.st then .wait s .access
        else
          .done (top.foldl (fun s e => s.holdStore x.c x.st e.a (bytes e.i)) (x.popSources s)) .seq
      else if k.dcHeld x.st (l.flatMap (fun e => e.ms)) then .wait s .access
      else
        .done (x.putStore (x.popSources s) none (top.flatMap (fun e => bytes e.i)) (top.flatMap (fun e => e.ms))
          (top.flatMap (fun e => originOf e.a n e.i (addrsFrom e.a n)))) .seq)

def execStsq (b : Bundle) (f : Fields) (s : State) : Host.Outcome State Fault Refusal :=
  issue .stsq b f stsqBody s

/-! ### Prefetch (R158) -/

/-- PF, whose work runs in the background. -/
def pfBody (x : Ctx) (s : State) : Res := .done (s.enterPrefetch x.c x.a (x.ea s) false) .seq

def execPf (b : Bundle) (f : Fields) (s : State) : Host.Outcome State Fault Refusal :=
  issue .pf b f pfBody s

/-- PF.FR. -/
def pfFrBody (x : Ctx) (s : State) : Res := .done (s.enterPrefetch x.c x.a (x.ea s) true) .seq

def execPfFr (b : Bundle) (f : Fields) (s : State) : Host.Outcome State Fault Refusal :=
  issue .pfFr b f pfFrBody s

/-! ### LDS (R159) -/

/-- A trap of LDS, whose detail names the quay. -/
def quayTrap (c : Cause) (ea : Nat) : TrapInfo :=
  { cause := c, addr0 := ea, fdet := Fdet.word { hold := true, quay := true } }

def ldsBody (x : Ctx) (s : State) : Res :=
  let n := x.size
  let ea := x.ea s
  let num := (x.reg s x.f.sb).toNat
  if ea % n ≠ 0 then .trap s (quayTrap .align ea)
  else if 3 < num then .trap s (quayTrap .holdRange ea)
  else
    let t := clusterBase x.c + num
    let k := s.core t
    if k.holdLimit < ea + n then .trap s (quayTrap .holdRange ea)
    else if !s.mayReach x.c t then .trap s (quayTrap .access ea)
    else if (s.core x.c).acquirePending x.st then .wait s .access
    else
      match k.badByte (addrsFrom ea n) with
      | some a => .done (x.holdError s a 0 true) .seq
      | none =>
        .done (x.result s 12 [x.writes x.f.dst (extendLoad x.f.typ.signed n (k.holdRead ea n))]) .seq

def execLds (b : Bundle) (f : Fields) (s : State) : Host.Outcome State Fault Refusal :=
  issue .lds b f ldsBody s

end Sys2Proof.Machine
end

