-- ==== Sys2Proof/Machine/Ordering.lean ====
section
/-!
DEFINITION. Fences, acquires, releases, the promoting acquire and dual-backed buffers (R180 to R191), and
the events by which accesses are performed (R142, R150, R163, R184, R185, R208, R212).
-/

namespace Sys2Proof.Machine

/-! ### FENCE (R180) -/

/-- The greater of the values that two tables list. -/
def tblMax (t u : Tbl Nat) : Tbl Nat := u.foldl (fun t e => Tbl.set t e.1 (max e.2 (Tbl.get 0 t e.1))) t

/-- The places of UN stores that are fixed, by address: the last of each location. -/
def State.fixedPlaces (s : State) : Tbl Nat := (s.unLog.filter (fun u => u.fixed)).foldl (fun t u => tblMax t u.place) []

/-- A fence of a stream makes final which UN stores it has read; a DEV or SYS fence also fixes the places of its own
and makes those that are fixed known to it (R176). -/
def State.fenceUn (s : State) (c : Nat) (st : Stream) (wide : Bool) : State :=
  let s := if wide && s.unLog.any (s.ownUn c st) then
      { s with unLog := s.unLog.map (fun u => if s.ownUn c st u then { u with fixed := true } else u) }
    else s
  let seen := s.unSeen c st
  let known := tblMax (tblMax seen.fenced seen.later) (if wide then s.fixedPlaces else [])
  if known.isEmpty then s
  else
    let s := seen.later.foldl (fun s e => s.renewUn c e.1 e.2) s
    s.modStream c st (fun t => { t with un := { seen with fenced := known, later := [] } })

/-- The RDC work of a DEV or SYS fence: RC and UN lines are written back and dropped (R173, R176). -/
def State.fenceRdc (s : State) (c : Nat) : State :=
  let d := dieOf c
  (s.writeBack d [.rc, .un]).invalidate d [.rc, .un, .dc]

/-- A release narrower than DEV that has to wait for its place in the log. -/
def Ctx.logWaits (x : Ctx) (s : State) (sc : Scope) : Bool := sc.narrow && s.logStalls x.c x.st

def fenceBody (sc : Scope) (x : Ctx) (s : State) : Res :=
  if !(s.core x.c).quiet x.st || x.logWaits s sc then .wait s .access
  else
    let s := s.release x.c x.st sc
    .done ((if sc.narrow then s else s.fenceRdc x.c).fenceUn x.c x.st !sc.narrow) .seq

def execFence (sc : Scope) (b : Bundle) (f : Fields) (s : State) : Host.Outcome State Fault Refusal :=
  issue (.fence sc) b f (fenceBody sc) s

/-! ### ACQ, REL and ACQP (R181, R184) -/

/-- The trap of an ordering access, an atomic or WAITB to a DC page (R177, R322). -/
def dcTrap (ea : Nat) (k : AccessKind) : TrapInfo :=
  { cause := .access, addr0 := ea, late := true, fdet := Fdet.word { kind := k.code } }

/-- How the checks of an aligned access outside DC pages end (R181). -/
inductive PlainEnd where
  | ok (s : State) (ms : List Mapped)
  | trap (t : TrapInfo)
  | wait (s : State)

/-- Alignment, translation and the DC check of an aligned access of `n` bytes. -/
def Ctx.plainAccess (x : Ctx) (s : State) (k : AccessKind) (ea n : Nat) : PlainEnd :=
  if ea % n ≠ 0 then .trap (alignTrap ea 0 k)
  else
    match x.mapBytes s k (addrsFrom ea n) with
    | .fault f va => .trap (memTrap ea va 0 k f)
    | .wait s => .wait s
    | .ok s ms => if ms.any (fun m => m.kind == .dc) then .trap (dcTrap ea k) else .ok s ms

/-- On a UN page ACQ and REL order nothing (R176). -/
def orderScope (sc : Scope) (ms : List Mapped) : Option Scope :=
  if ms.all (fun m => m.kind == .un) then none else some sc

/-- Put an acquiring load of the operation in flight. -/
def Ctx.acquireLoad (x : Ctx) (s : State) (sc : Scope) (ea : Nat) (ms : List Mapped) : State :=
  s.issueLoad x.c
    { st := x.st, seq := 0, parts := ms.mapIdx (fun i m => (i, m.pa, m.kind)),
      dest := .reg x.f.dst x.f.typ.signed x.size, acq := orderScope sc ms,
      origin := originOf ea x.size 0 (addrsFrom ea x.size), bundle := x.a }

def acqBody (sc : Scope) (x : Ctx) (s : State) : Res :=
  let ea := x.ea s
  match x.plainAccess s .load ea x.size with
  | .trap t => .trap s t
  | .wait s => .wait s .access
  | .ok s ms => .done (x.acquireLoad s sc ea ms) .seq

def execAcq (sc : Scope) (b : Bundle) (f : Fields) (s : State) : Host.Outcome State Fault Refusal :=
  issue (.acq sc) b f (acqBody sc) s

def relBody (sc : Scope) (x : Ctx) (s : State) : Res :=
  let ea := x.ea s
  let d := bytesOfNum (x.reg s x.f.sb).toNat x.size
  match x.plainAccess s .store ea x.size with
  | .trap t => .trap s t
  | .wait s => .wait s .access
  | .ok s ms =>
    if x.logWaits s sc then .wait s .access
    else
      let s := (s.commitOwn x.c).logScope x.c x.st sc
      .done (x.putStore s (orderScope sc ms) d ms (originOf ea x.size 0 (addrsFrom ea x.size))) .seq

def execRel (sc : Scope) (b : Bundle) (f : Fields) (s : State) : Host.Outcome State Fault Refusal :=
  issue (.rel sc) b f (relBody sc) s

/-- ACQP sends its request and puts its load in flight: the load may be performed once the request is
served (R184). -/
def acqpBody (x : Ctx) (s : State) : Res :=
  let t := (x.reg s x.f.sb).toNat
  let ea := x.ea s
  if 191 < t then .trap s { cause := .access, addr0 := ea, fdet := Fdet.word {} }
  else
    match x.plainAccess s .load ea x.size with
    | .trap t => .trap s t
    | .wait s => .wait s .access
    | .ok s ms =>
      if !(s.core x.c).loadsQuiet x.st then .wait s .access
      else
        let seq := (s.core x.c).seq
        let s := x.acquireLoad s .dev ea ms
        .done (s.modCore t (fun k =>
          { k with requests := k.requests ++ [{ source := x.c, seq, covers := none }] })) .seq

def execAcqp (b : Bundle) (f : Fields) (s : State) : Host.Outcome State Fault Refusal :=
  issue .acqp b f acqpBody s

/-! ### Dual-backed buffers (R188 to R191) -/

/-- The slot that IMM names. -/
def Ctx.slotNum (x : Ctx) : Nat := bits x.f.imm.toNat 0 6

/-- A slot is granted to the launch of the issuing task (R188). -/
def Ctx.slotGranted (x : Ctx) (s : State) : Bool :=
  match (s.core x.c).task with
  | some t => (s.slot x.slotNum).launch == some t.launch
  | none => false

/-- ASID of the running context. -/
def Ctx.asid (x : Ctx) (s : State) : Nat := rootAsid (s.core x.c).ptroot

/-- Two ranges of one length meet. -/
def rangesMeet (a la b lb : Nat) : Bool := a < b + lb && b < a + la

/-- A range meets one of a bound slot of an address space. -/
def State.meetsSlots (s : State) (asid a l : Nat) : Bool :=
  (List.range 64).any (fun n =>
    let d := s.slot n
    d.bound && d.asid == asid && (rangesMeet a l d.fbase d.len || rangesMeet a l d.abase d.len))

/-- The trap of a slot operation (R190): ALIGN is decided at issue, ACCESS on a slot is not (R87).  The entry gives the
first address and the detail of ACCESS only; an ALIGN of DBB names the misaligned base, the front one where both are,
with KIND 01 and LVL 7 (log entry 54). -/
def slotTrap (c : Cause) (a : Nat) : TrapInfo :=
  { cause := c, addr0 := a, late := c != .align, fdet := Fdet.word { kind := 1 } }

def dbbBody (x : Ctx) (s : State) : Res :=
  let n := x.slotNum
  let f := (x.rawZ s x.f.sa).toNat
  let a := (x.rawZ s x.f.sb).toNat
  let l := (x.rawZ s x.f.sc).toNat
  let asid := x.asid s
  if f % 8192 ≠ 0 then .trap s (slotTrap .align f)
  else if a % 8192 ≠ 0 then .trap s (slotTrap .align a)
  else if !x.slotGranted s || (s.slot n).bound || l == 0 || l % 8192 != 0 || 2 ^ 30 < l ||
      2 ^ 48 < f + l || 2 ^ 48 < a + l || rangesMeet f l a l || s.meetsSlots asid f l ||
      s.meetsSlots asid a l then
    .trap s (slotTrap .access f)
  else if !(s.core x.c).settled x.st then .wait s .access
  else
    let s := s.release x.c x.st .dev
    .done (s.setSlot n { s.slot n with bound := true, asid, fbase := f, abase := a, len := l,
                                       sel := false, pcount := 0, infl := 0 }) .seq

def execDbb (b : Bundle) (f : Fields) (s : State) : Host.Outcome State Fault Refusal :=
  issue .dbb b f dbbBody s

/-- The slot is not the task's to use. -/
def Ctx.slotDenied (x : Ctx) (s : State) : Bool :=
  let d := s.slot x.slotNum
  !x.slotGranted s || !d.bound || d.asid != x.asid s

/-- The physical pages, as base and size, that a range of an address space maps to. -/
def State.rangePages (s : State) (root : Word) (base len : Nat) : List (Nat × Nat) :=
  (List.range (len / 8192)).filterMap (fun i =>
    match walkFrom s (base + i * 8192) 3 (rootTable root) with
    | .leaf pte _ lvl => some (leafPa pte lvl (base + i * 8192), 8192)
    | .fault _ _ _ => none)

/-- A line lies in one of some pages. -/
def lineIn (pages : List (Nat × Nat)) (line : Nat) : Bool :=
  pages.any (fun p => p.1 ≤ line * 64 && line * 64 < p.1 + p.2)

/-- Write back the dirty lines of some pages on every die, then drop them (R191). -/
def State.flushPages (s : State) (pages : List (Nat × Nat)) : State :=
  [0, 1, 2, 3].foldl (fun s d => s.dropLines d (fun l => lineIn pages l.line)) s

/-- The place of a byte of a pending access of an address space in a slot's range after a switch, of an engine's .SH
write in the other backing: the page of the new backing is found and marked; a byte whose page cannot be reached keeps
its place (R189, R191; log entry 95). -/
def State.replaceAs (s : State) (c : Nat) (root : Word) (k : AccessKind) (d : DbbSlot) (shadow : Bool) (va pa : Nat)
    (kind : OrderKind) : State × Nat × OrderKind :=
  if rootAsid root != d.asid || va < d.fbase || d.fbase + d.len ≤ va then (s, pa, kind)
  else
    let a := s.redirect d.asid va shadow
    match walkFrom s a 3 (rootTable root) with
    | .leaf pte addr lvl =>
      let new := leafPa pte lvl a
      if (checkLeaf (isFirmware c) k pte lvl new).isSome || ptePb pte || pteFr pte then (s, pa, kind)
      else (s.markLeaf c root k a { pte, addr, lvl }, new, orderOf pte new)
    | .fault _ _ _ => (s, pa, kind)

/-- The place of a byte of an access of the context that runs on a core. -/
def State.replace (s : State) (c : Nat) (k : AccessKind) (d : DbbSlot) (va pa : Nat) (kind : OrderKind) :
    State × Nat × OrderKind :=
  s.replaceAs c (s.core c).ptroot k d false va pa kind

/-- The parts of a pending load after a switch. -/
def State.replaceLoad (s : State) (c : Nat) (d : DbbSlot) (k : AccessKind) :
    List ((Nat × Nat × OrderKind) × Origin) → State × List (Nat × Nat × OrderKind)
  | [] => (s, [])
  | ((i, pa, kind), o) :: rest =>
    let (s, pa, kind) := s.replace c k d o.va pa kind
    let (s, l) := State.replaceLoad s c d k rest
    (s, (i, pa, kind) :: l)

/-- The parts of a pending store after a switch. -/
def State.replaceStore (s : State) (c : Nat) (d : DbbSlot) :
    List ((Nat × Byte × OrderKind) × Origin) → State × List ((Nat × Byte × OrderKind) × Origin)
  | [] => (s, [])
  | ((pa, b, kind), o) :: rest =>
    let (s, pa, kind) := s.replace c .store d o.va pa kind
    let (s, l) := State.replaceStore s c d rest
    (s, ((pa, b, kind), o) :: l)

/-- A byte of a commit buffer: where it goes, who stored it, where that is known, and the kind of its page. -/
structure Buffered where
  pa   : Nat
  b    : Byte
  src  : Option DcOrigin
  kind : OrderKind

/-- The places that the bytes of a commit buffer have after a switch. -/
def State.newPlaces (s : State) (c : Nat) (root : Word) (d : DbbSlot) (src : Tbl DcOrigin) :
    List (Nat × Byte) → State × List Buffered
  | [] => (s, [])
  | (pa, b) :: rest =>
    match src.find? (fun e => e.1 == pa) with
    | none =>
      let (s, l) := State.newPlaces s c root d src rest
      (s, { pa, b, src := none, kind := .dc } :: l)
    | some (_, o) =>
      let (s, new, kind) := s.replaceAs c root .store d o.shadow o.origin.va pa .dc
      let (s, l) := State.newPlaces s c root d src rest
      (s, { pa := new, b, src := some o, kind } :: l)

/-- Program order of a byte of a commit buffer among those that come to one place. -/
def Buffered.order (e : Buffered) : Nat := (e.src.map (fun o => o.seq + 1)).getD 0

/-- A commit buffer of an address space after a switch, with those who stored its bytes: all bytes move together, and
of two that come to one place the later store's stays (R189, R191). -/
def bufferOf (l : List Buffered) : Tbl Byte × Tbl DcOrigin :=
  let l := sortBy (fun (a b : Buffered) => a.order ≤ b.order) l
  (l.foldl (fun t e => Tbl.set t e.pa e.b) [],
    l.foldl (fun t e => match e.src with
      | some o => Tbl.set t e.pa o
      | none => t) [])

/-- The buffer of a saved context or of an ended member after a switch: a byte whose page is no DC page now is kept
there until the commit all the same (log entry 95). -/
def State.replaceDc (s : State) (c : Nat) (root : Word) (d : DbbSlot) (dc : Tbl Byte) (src : Tbl DcOrigin) :
    State × Tbl Byte × Tbl DcOrigin :=
  let (s, l) := s.newPlaces c root d src dc
  (s, bufferOf l)

/-- A byte that leaves the commit buffer of a core, as its page is no DC page now, is a pending byte of its store, or
is written at once where an engine had put it there (R178, R187, R189). -/
def State.unbuffer (s : State) (c : Nat) (e : Buffered) : State :=
  match e.src with
  | none => s
  | some o =>
    let part : Nat × Byte × OrderKind := (e.pa, e.b, e.kind)
    let k := s.core c
    if o.engine then s.writeBytes c o.st [part]
    else if k.stores.any (fun x => x.seq == o.seq) then
      s.setCore c { k with stores := k.stores.map (fun x =>
        if x.seq = o.seq then { x with parts := x.parts ++ [part], origin := x.origin ++ [o.origin] } else x) }
    else
      s.setCore c { k with stores := k.stores ++
        [{ st := o.st, seq := o.seq, parts := [part], rel := none, origin := [o.origin], bundle := o.bundle }] }

/-- A byte of a pending store whose page is now a DC page enters the commit buffer, but for one that a later store has
put there (R177, R178, R189). -/
def Core.bufferByte (k : Core) (x : PStore) (e : (Nat × Byte × OrderKind) × Origin) : Core :=
  if k.dcFrom.any (fun f => f.1 == e.1.1 && x.seq < f.2.seq) then k
  else
    { k with dc := Tbl.set k.dc e.1.1 e.1.2.1,
             dcFrom := Tbl.set k.dcFrom e.1.1 { st := x.st, origin := e.2, bundle := x.bundle, seq := x.seq },
             dcStores := if k.dcStores.contains (x.st, x.seq) then k.dcStores else (x.st, x.seq) :: k.dcStores }

/-- The bytes of pending stores whose pages are now DC pages leave them for the commit buffer. -/
def State.bufferStores (s : State) (c : Nat) : List PStore → State
  | [] => s
  | x :: rest =>
    let es := x.parts.zip x.origin
    let go := es.filter (fun e => e.1.2.2 == .dc)
    let stay := es.filter (fun e => e.1.2.2 != .dc)
    let s := s.modCore c (fun k => go.foldl (fun k e => k.bufferByte x e) k)
    let s := if go.isEmpty then s
      else if stay.isEmpty then
        let s := s.modCore c (fun k => { k with stores := k.stores.filter (fun y => y.seq != x.seq) })
        match x.err with
        | some o => s.noteUncorr c x.st true o x.bundle
        | none => s
      else
        s.modCore c (fun k => { k with stores := k.stores.map (fun y =>
          if y.seq = x.seq then { y with parts := stay.map (fun e => e.1), origin := stay.map (fun e => e.2) } else y) })
    State.bufferStores s c rest

/-- What a core has pending in a slot's range follows a switch (R189, R191).  What comes before a byte that is now in
the commit buffer is performed (R164, R165; log entry 132). -/
def State.followSwitch (s : State) (d : DbbSlot) (c : Nat) : State :=
  let k := s.core c
  let (s, loads) := k.loads.foldl (fun (r : State × List PLoad) l =>
    let (s, ps) := r.1.replaceLoad c d (if l.amo.isSome then .amo else .load) (l.parts.zip l.origin)
    (s, r.2 ++ [{ l with parts := ps }])) (s, [])
  let (s, stores) := k.stores.foldl (fun (r : State × List PStore) x =>
    let (s, ps) := r.1.replaceStore c d (x.parts.zip x.origin)
    (s, r.2 ++ [{ x with parts := ps.map (fun e => e.1) }])) (s, [])
  let s := s.modCore c (fun k => { k with loads, stores, waitLine := none })
  let (s, bytes) := s.newPlaces c k.ptroot d k.dcFrom k.dc
  let (dc, dcFrom) := bufferOf (bytes.filter (fun e => e.kind == .dc))
  let s := (s.modCore c (fun k => { k with dc, dcFrom })).bufferStores c stores
  let s := ((bytes.filter (fun e => e.kind != .dc)).foldl (fun s e => s.unbuffer c e) s).performForDc c
  s.modCore c (fun k => if k.dc.isEmpty then { k with dcStores := [] } else k)

/-- The commit buffer of a saved context follows a switch. -/
def State.followSaved (s : State) (d : DbbSlot) (r : SavedContext) : State :=
  if r.dc.isEmpty then s
  else
    let (s, dc, dcFrom) := s.replaceDc r.core r.ptroot d r.dc r.dcFrom
    { s with saved := s.saved.map (fun q => if q.area = r.area then { q with dc, dcFrom } else q) }

/-- The buffers that ended members have left to their convoy follow a switch. -/
def State.followEnded (s : State) (d : DbbSlot) (v : Convoy) : State :=
  match s.launches.find? (fun l => l.number == v.launch) with
  | none => s
  | some l =>
    v.ended.foldl (fun s i =>
      let (s, dc, src) := s.replaceDc (Tbl.get 0 v.cores i) l.root d (Tbl.get [] v.endedDc i)
        (Tbl.get [] v.endedFrom i)
      { s with convoys := s.convoys.map (fun w => if w.id = v.id then
          { w with endedDc := Tbl.set w.endedDc i dc, endedFrom := Tbl.set w.endedFrom i src } else w) }) s

/-- Every access that is still to be performed in a slot's range follows it: of the running contexts, of the saved ones
and of ended members (R177, R189, R285). -/
def State.followSlot (s : State) (d : DbbSlot) : State :=
  let s := (s.cores.map (fun (e : Nat × Core) => e.1)).foldl (fun s c => s.followSwitch d c) s
  s.convoys.foldl (fun s v => s.followEnded d v) (s.saved.foldl (fun s r => s.followSaved d r) s)

/-- The switch of a slot: SEL changes for every access that is still to be performed (R189, R191). -/
def State.switchSlot (s : State) (n : Nat) : State :=
  let d := s.slot n
  (s.setSlot n { d with sel := !d.sel, pcount := (d.pcount + 1) % 2 ^ 64, held := none }).followSlot d

/-- DBB.U: the range is no slot's any more, so that what is still to be performed there goes to its own addresses
(R189). -/
def dbbUBody (x : Ctx) (s : State) : Res :=
  let n := x.slotNum
  let d := s.slot n
  if x.slotDenied s then .trap s (slotTrap .access 0)
  else if d.infl ≠ 0 then .wait s .access
  else
    let s := s.setSlot n { d with bound := false }
    .done (if d.sel then s.followSlot d else s) .seq

def execDbbU (b : Bundle) (f : Fields) (s : State) : Host.Outcome State Fault Refusal :=
  issue .dbbU b f dbbUBody s

def publishBody (x : Ctx) (s : State) : Res :=
  let n := x.slotNum
  let d := s.slot n
  if x.slotDenied s then .trap s (slotTrap .access 0)
  else
    let s := s.setSlot n { d with held := some x.c }
    if d.infl ≠ 0 then .wait s .other
    else if !(s.core x.c).settled x.st then .wait s .other
    else
      let root := (s.core x.c).ptroot
      let s := s.release x.c x.st .dev
      let s := s.flushPages (s.rangePages root d.fbase d.len ++ s.rangePages root d.abase d.len)
      .done (x.locked (s.switchSlot n) 1 [x.writes x.f.dst (BitVec.ofNat 64 ((d.pcount + 1) % 2 ^ 64))]) .seq

def execPublish (b : Bundle) (f : Fields) (s : State) : Host.Outcome State Fault Refusal :=
  issue .publish b f publishBody s

/-! ### Events of the memory system -/

/-- LOAD_DATA_LANDING: a piece of a pending load that may be performed is, and the data arrives with the last
(R141, R163, R212). -/
def execLoadDataLanding (core : Nat) (st : Stream) (seq : Nat) (s : State) :
    Host.Outcome State Fault Refusal :=
  if core < coreCount then
    let k := s.core core
    match k.loads.find? (fun l => l.st == st && l.seq == seq) with
    | none => .next s
    | some l =>
      if s.promotionOpen core seq then .next s
      else if l.parts.isEmpty then .next (if s.loadReady core l then s.finishLoad core l else s)
      else
        match s.choose (s.loadPieces core l) with
        | (none, s) => .next s
        | (some q, s) => .next (s.loadPiece core l q)
  else .fault .noSuchAgent

/-- STORE_PERFORMED: a piece of a pending store that may be performed is (R141, R163, R208). -/
def execStorePerformed (core : Nat) (st : Stream) (seq : Nat) (s : State) :
    Host.Outcome State Fault Refusal :=
  if core < coreCount then
    let k := s.core core
    match k.stores.find? (fun y => y.st == st && y.seq == seq) with
    | none => .next s
    | some y =>
      match s.choose (k.storePieces y) with
      | (none, s) => .next s
      | (some q, s) => .next (s.storePiece core y q)
  else .fault .noSuchAgent

/-- MEM_UNCORR: a known error is delivered at the stream's boundary (R142). -/
def execMemUncorr (core : Nat) (st : Stream) (s : State) : Host.Outcome State Fault Refusal :=
  if core < coreCount then
    match (s.stream core st).uncorr with
    | [] => .next s
    | (a, b, d) :: _ =>
      if s.gated || ((s.core core).inh && st != .P) then .next s else .next (s.deliverUncorr core st a b d)
  else .fault .noSuchAgent

/-- Start a widening of the oldest `n` entries (R183). -/
def State.startWidening (s : State) (c n : Nat) : State :=
  s.modCore c (fun k => { k with widening := some (n, s.timeOf c), wideBound := false })

/-- A widening ends: its entries go, the requests it covers are served, and the requests that arrived
meanwhile start the next (R183, R185). -/
def State.endWidening (s : State) (c n : Nat) : State :=
  let s := s.widen c n
  let s := s.modCore c (fun k =>
    { k with widening := none, wideBound := false,
             requests := (k.requests.filter (fun r => r.covers != some 0 || r.late)).map
               (fun r => { r with late := false }) })
  let rest := (s.core c).requests.filterMap (fun r => r.covers)
  if rest.isEmpty then s else s.startWidening c (rest.foldl max 0)

/-- Mark the oldest request on its way as arrived, covering the entries now in the log (R184); one that arrives
during a widening is served by the next (R185). -/
def arriveFirst (n : Nat) (late : Bool) : List PromoRequest → List PromoRequest
  | [] => []
  | r :: rest =>
    if r.covers = none then { r with covers := some n, late } :: rest else r :: arriveFirst n late rest

/-- PROMOTION_REQUEST: a running widening whose releases are all performed ends; else a request arrives,
and a widening for it starts when none runs (R183, R184). -/
def execPromotionRequest (core : Nat) (s : State) : Host.Outcome State Fault Refusal :=
  if core < coreCount then
    let k := s.core core
    let arrived (s : State) : State :=
      s.setCore core { k with requests := arriveFirst k.log.length k.widening.isSome k.requests }
    let waiting := k.requests.any (fun r => r.covers == none)
    match k.widening with
    | some (n, _) =>
      if (k.log.take n).all k.released then .next (s.endWidening core n)
      else if waiting then .next (arrived s) else .next s
    | none => if waiting then .next ((arrived s).startWidening core k.log.length) else .next s
  else .fault .noSuchAgent

/-- WIDENING_WAIT_BOUND: 2 µs after a widening's start its waits end (R185). -/
def execWideningWaitBound (core : Nat) (s : State) : Host.Outcome State Fault Refusal :=
  if core < coreCount then
    match (s.core core).widening with
    | some (_, t) =>
      if t + 2000 ≤ s.timeOf core then .next (s.modCore core (fun k => { k with wideBound := true }))
      else .next s
    | none => .next s
  else .fault .noSuchAgent

/-- PAGE_IN: a page-in in progress ends (R150). -/
def execPageIn (leaf : Nat) (ok : Bool) (s : State) : Host.Outcome State Fault Refusal :=
  .next (if s.pager.any (fun j => j.leaf == leaf && j.pageIn) then s.endPageIn leaf ok else s)

/-- PAGE_OUT: the page-out of a resident level-0 leaf's page begins; one that has begun ends, once the accesses
translated to the page are performed (R150). -/
def execPageOut (leaf : Nat) (s : State) : Host.Outcome State Fault Refusal :=
  let e := s.homeNumber leaf 8
  let fits := leaf % 8 == 0 && isLpddr leaf && pteV e && !ptePointer e && !pteReserved e 0 &&
    !pteFr e && !ptePb e && isLpddr (pteFrame e)
  .next (if s.pager.any (fun j => j.leaf == leaf && !j.pageIn) then s.tryPageOut leaf
         else if fits then s.startPageOut leaf else s)

/-! ### Landings (R49, R248) -/

/-- RESULT_LANDING: what is due lands on its destination (R49). -/
def execResultLanding (core : Nat) (s : State) : Host.Outcome State Fault Refusal :=
  if core < coreCount then .next (s.landDue core (fun l => !l.matrix)) else .fault .noSuchAgent

/-- MATRIX_LANDING: a matrix result that is due lands with its flags (R248). -/
def execMatrixLanding (core : Nat) (s : State) : Host.Outcome State Fault Refusal :=
  if core < coreCount then .next (s.landDue core (fun l => l.matrix)) else .fault .noSuchAgent

end Sys2Proof.Machine
end

