-- ==== Sys2Proof/Machine/Copies.lean ====
section
/-!
DEFINITION. Asynchronous copies, their control and WAIT (R193 to R210), and the events by which copies and
drains start, deliver and end.
-/

namespace Sys2Proof.Machine

/-! ### The checks at issue (R199, R202, R203) -/

/-- A copy of the issuing bundle, not yet entered. -/
def Ctx.copyOf (x : Ctx) (s : State) (kind : CopyKind) (shape : List (BitVec 32)) : Copy :=
  let k := s.core x.c
  let cp : Copy :=
    { id := k.seq, kind, st := x.st,
      token := match canonReg x.f.dst with
        | .s n => n.val
        | _ => 0
      mod := x.f.mod, typ := x.f.typ, imm := x.f.imm, aux := x.f.aux, sa := x.reg s x.f.sa,
      sb := x.reg s x.f.sb, sc := x.reg s x.f.sc,
      queue := match x.f.sb with
        | .q n => some n.val
        | _ => none
      shape, started := false, done := 0, seq := k.seq, tick := x.now, image := [], flags := 0,
      failed := none, shadow := [], got := [], list := [], source := none }
  s.noteAims x.c cp

/-- The shape block of Table 8.4 as eight words. -/
def Core.shapeAt (k : Core) (o : Nat) : List (BitVec 32) :=
  (List.range 8).map (fun i => BitVec.ofNat 32 (k.holdRead (o + 4 * i) 4))

/-- The fields of a shape block that must be zero are not (R198). -/
def shapeBad (two : Bool) (shape : List (BitVec 32)) : Bool :=
  let nz (i : Nat) : Bool := (shape[i]?).getD 0 != 0
  nz 3 || (two && (nz 2 || nz 6 || nz 7))

/-- The rows of one side of a copy as start and length. -/
def Copy.rows (cp : Copy) (base : Word) (s1 s2 : Int) : List (Nat × Nat) :=
  let (len, n1, n2) := cp.dims
  if len = 0 then []
  else
    (List.range n2).flatMap (fun (k : Nat) => (List.range n1).map (fun (j : Nat) =>
      (lowBits ((base.toNat : Int) + (k : Int) * s2 + (j : Int) * s1) 64, len)))

/-- The lowest byte of some ranges that lies at or past a limit. -/
def beyond (limit : Nat) : List (Nat × Nat) → Option Nat
  | [] => none
  | (a, n) :: rest =>
    let r := beyond limit rest
    if a + n ≤ limit then r
    else
      match r with
      | none => some (max a limit)
      | some b => some (min b (max a limit))

/-- A precise trap of a copy that names an address of a side. -/
def sideTrap (c : Cause) (a : Nat) (hold store : Bool) : TrapInfo :=
  { cause := c, addr0 := a,
    fdet := Fdet.word { hold, kind := if store then 1 else 0 } }

/-- A source address that breaks the alignment of an entry (R156, R199). -/
def Copy.misaligned (cp : Copy) (a : Nat) : Bool := a % (if cp.shold then 128 else 16) != 0

/-- The hold source of a copy is a core that may not be read (R199). -/
def Ctx.sourceDenied (x : Ctx) (s : State) (cp : Copy) : Bool :=
  cp.shold && !s.mayReach x.c (cp.srcCore x.c)

/-- The checks of CPY past its shape block, in the order of R199, and of CPYMC, where a target that may not be reached
comes first (R203).  Every length above 2^31 also exceeds HDATA: COPY_FAIL, which R203 gives it, stands before
HOLD_RANGE for it to arise at all (log entry 133). -/
def Ctx.copyTrap (x : Ctx) (s : State) (cp : Copy) : Option TrapInfo :=
  let src := cp.rows cp.sa (cp.stride 4) (cp.stride 6)
  let dst := cp.rows cp.sb (cp.stride 5) (cp.stride 7)
  let total := cp.total
  if !(cp.targets x.c).all (fun t => s.mayReach x.c t) then some (sideTrap .access cp.sb.toNat true true)
  else if 2 ^ 31 < total then some { cause := .copyFail }
  else if cp.queue.isSome && (total % 128 != 0 || cp.misaligned cp.sa.toNat) then
    some (sideTrap .align cp.sa.toNat cp.shold false)
  else
    match (if cp.shold then beyond (s.core (cp.srcCore x.c)).holdLimit src else none) with
    | some a => some (sideTrap .holdRange a true false)
    | none =>
      match (if cp.dhold then
          (cp.targets x.c).findSome? (fun t => beyond (s.core t).holdLimit dst) else none) with
      | some a => some (sideTrap .holdRange a true true)
      | none =>
        if x.sourceDenied s cp then some (sideTrap .access cp.sa.toNat true false) else none

/-- The engines can take no copy or drain now: 256 are in flight (R193), or a release narrower than DEV
has to wait (R182, R185). -/
def Ctx.enginesFull (x : Ctx) (s : State) (cp : Copy) : Bool :=
  256 ≤ (s.core x.c).copies.length || x.logWaits s cp.scope

/-- A copy or drain enters the engines, the promotion log and the line of its wait semaphore (R182, R193,
R204). -/
def Ctx.enterCopy (x : Ctx) (s : State) (cp : Copy) : State :=
  let s := s.logScope x.c x.st cp.scope
  (s.modCore x.c (fun k =>
    { k with copies := k.copies ++ [cp],
             swq := if cp.wsem then k.swq ++ [.copy cp.wnum cp.id] else k.swq })).bump x.c

/-- A checked copy is issued when the engines can take it: the traps of its checks come first, without that wait (R87,
R193; log entry 122). -/
def Ctx.startOrWait (x : Ctx) (s : State) (cp : Copy) : Res :=
  if x.enginesFull s cp then .wait s .memory else .done (x.enterCopy s cp) .seq

/-! ### CPY (R198 to R201) -/

def cpy1Body (x : Ctx) (s : State) : Res :=
  let cp := x.copyOf s (.linear 1) []
  match x.copyTrap s cp with
  | some t => .trap s t
  | none => x.startOrWait s cp

def execCpy1 (b : Bundle) (f : Fields) (s : State) : Host.Outcome State Fault Refusal :=
  issue .cpy1 b f cpy1Body s

/-- CPY.2D and CPY.3D read their shape block at issue (R198). -/
def cpyShaped (dims : Nat) (x : Ctx) (s : State) : Res :=
  let o := (x.reg s x.f.sc).toNat
  let k := s.core x.c
  if o % 32 ≠ 0 then .trap s (holdAlign o 0 false)
  else if k.holdLimit < o + 32 then .trap s (holdRange (max o k.holdLimit) 0 false)
  else if k.acquirePending x.st then .wait s .memory
  else
    match k.badByte (addrsFrom o 32) with
    | some a => .done (x.holdError s a 0 false) .seq
    | none =>
      let shape := k.shapeAt o
      if shapeBad (dims == 2) shape then .plain s .copyFail
      else
        let cp := x.copyOf s (.linear dims) shape
        match x.copyTrap s cp with
        | some t => .trap s t
        | none => x.startOrWait s cp

def execCpy2 (b : Bundle) (f : Fields) (s : State) : Host.Outcome State Fault Refusal :=
  issue .cpy2 b f (cpyShaped 2) s

def execCpy3 (b : Bundle) (f : Fields) (s : State) : Host.Outcome State Fault Refusal :=
  issue .cpy3 b f (cpyShaped 3) s

/-! ### CPYG and CPYMC (R202, R203) -/

/-- Bases and lengths of a gather list as they stand at issue. -/
def Core.gatherList (k : Core) (off n : Nat) : List (Nat × Nat) :=
  (List.range n).map (fun i => (k.holdRead (off + 16 * i) 8, k.holdRead (off + 16 * i + 8) 4))

def cpygBody (x : Ctx) (s : State) : Res :=
  let cp := x.copyOf s .gather []
  let o := cp.sa.toNat
  let n := cp.sc.toNat
  let k := s.core x.c
  if o % 16 ≠ 0 then .trap s (holdAlign o 0 false)
  else if k.holdLimit < o + 16 * n then .trap s (holdRange (max o k.holdLimit) 0 false)
  else if 4096 < n then .plain s .copyFail
  else
    let l := k.gatherList o n
    let total := (l.map (fun (e : Nat × Nat) => e.2)).sum
    if cp.queue.isSome && (total % 128 != 0 || l.any (fun e => cp.misaligned e.1)) then
      .trap s (sideTrap .align o true false)
    else if x.sourceDenied s cp then .trap s (sideTrap .access o true false)
    else x.startOrWait s cp

def execCpyg (b : Bundle) (f : Fields) (s : State) : Host.Outcome State Fault Refusal :=
  issue .cpyg b f cpygBody s

def cpymcBody (x : Ctx) (s : State) : Res :=
  let cp := x.copyOf s .multicast []
  match x.copyTrap s cp with
  | some t => .trap s t
  | none => x.startOrWait s cp

def execCpymc (b : Bundle) (f : Fields) (s : State) : Host.Outcome State Fault Refusal :=
  issue .cpymc b f cpymcBody s

/-! ### CPYC, CPYS and WAIT (R206 to R208) -/

/-- The stream and the register that CPYC and CPYS name. -/
def Ctx.copyNames (x : Ctx) : Stream × Nat :=
  (Stream.ofNum (bits x.f.imm.toNat 0 2), bits x.f.imm.toNat 2 5)

/-- The copy of a stream in flight with a token. -/
def Core.copyWith (k : Core) (st : Stream) (n : Nat) : Option Copy :=
  k.copies.find? (fun c => c.st == st && c.token == n)

def cpycBody (x : Ctx) (s : State) : Res :=
  let (st, n) := x.copyNames
  let k := s.core x.c
  let give (s : State) (v : Nat) : Res :=
    .done (x.result s 2 [x.writes x.f.dst (BitVec.ofNat 64 v)]) .seq
  if bit x.f.mod.toNat 0 then
    let queued := k.copies.filter (fun c => c.st == st && !c.started)
    give (queued.foldl (fun s c => s.cancelCopy x.c c) s) queued.length
  else
    match k.copyWith st n with
    | none => give s 0
    | some c => if c.started then give s 2 else give (s.cancelCopy x.c c) 1

def execCpyc (b : Bundle) (f : Fields) (s : State) : Host.Outcome State Fault Refusal :=
  issue .cpyc b f cpycBody s

def cpysBody (x : Ctx) (s : State) : Res :=
  let (st, n) := x.copyNames
  let give (s : State) (v : Word) : Res := .done (x.result s 2 [x.writes x.f.dst v]) .seq
  match (s.core x.c).copyWith st n with
  | some c => give s (statusWord 0 0 false false c.started 0)
  | none =>
    let t := s.stream x.c st
    let v := Tbl.get 0 t.tokenLast n
    give (if v = 0 then s else s.acquireRdc x.c (Tbl.get .core t.tokenScope n)) v

def execCpys (b : Bundle) (f : Fields) (s : State) : Host.Outcome State Fault Refusal :=
  issue .cpys b f cpysBody s

/-- The stores of a stream that are not performed, by program order: an instruction counts once, however many
pieces it has left, and one that waits in the commit buffer counts (R154, R177). -/
def Core.openStores (k : Core) (st : Stream) : List Nat :=
  ((k.stores.filter (fun y => y.st == st)).map (fun y => y.seq) ++
    (k.dcStores.filter (fun e => e.1 == st)).map (fun e => e.2)).eraseDups

/-- The four counters of a stream: loads, stores, copies and tile operations (R208). -/
def Core.outstanding (k : Core) (st : Stream) : List Nat :=
  [(k.loads.filter (fun l => l.st == st && l.amo.isNone)).length, (k.openStores st).length,
   (k.copies.filter (fun c => c.st == st)).length,
   (k.flight.filter (fun l => l.st == st && l.matrix)).length]

/-- The immediates of WAIT. -/
def Ctx.waitLimits (x : Ctx) : List Nat := (List.range 4).map (fun i => bits x.f.imm.toNat (8 * i) 8)

def waitBody (x : Ctx) (s : State) : Res :=
  let limits := x.waitLimits
  if !(((s.core x.c).outstanding x.st).zip limits).all (fun e => min e.1 255 ≤ e.2) then
    .wait s .memory
  else if (limits[2]?).getD 255 < 255 then
    .done (s.acquireRdc x.c (Tbl.get .core (s.stream x.c x.st).tokenAcq 0)) .seq
  else .done s .seq

def execWait (b : Bundle) (f : Fields) (s : State) : Host.Outcome State Fault Refusal :=
  issue .wait b f waitBody s

/-! ### Events of the engines (R193, R200, R204, R262) -/

/-- The copy or drain of a core with a number. -/
def Core.copyById (k : Core) (id : Nat) : Option Copy := k.copies.find? (fun c => c.id == id)

/-- Run an engine event on a copy that exists. -/
def onCopy (core id : Nat) (s : State) (go : Copy → State) : Host.Outcome State Fault Refusal :=
  if core < coreCount then
    match (s.core core).copyById id with
    | some c => .next (go c)
    | none => .next s
  else .fault .noSuchAgent

/-- COPY_START: a queued copy starts, taking its semaphore's count (R204). -/
def execCopyStart (core id : Nat) (s : State) : Host.Outcome State Fault Refusal :=
  onCopy core id s (fun c =>
    if !c.isDrain && s.copyMayStart core c then s.startCopy core c else s)

/-- DRAIN_START: a drain starts and reads its accumulator (R262). -/
def execDrainStart (core id : Nat) (s : State) : Host.Outcome State Fault Refusal :=
  onCopy core id s (fun c =>
    if c.isDrain && s.copyMayStart core c then s.startCopy core c else s)

/-- COPY_ENTRY_DELIVERY: a copy delivers its next entry into its queue (R200). -/
def execCopyEntryDelivery (core id : Nat) (s : State) : Host.Outcome State Fault Refusal :=
  onCopy core id s (fun c =>
    match c.queue with
    | some q => if s.mayDeliver core c q then s.deliverEntry core c q else s
    | none => s)

/-- COPY_END: a moving copy or drain ends (R194). -/
def execCopyEnd (core id : Nat) (s : State) : Host.Outcome State Fault Refusal :=
  onCopy core id s (fun c => s.endCopy core c)

end Sys2Proof.Machine
end

