-- ==== Sys2Proof/Machine/Matrix.lean ====
section
/-!
DEFINITION. Matrix instructions (R242 to R270).
-/

namespace Sys2Proof.Machine

/-! ### Units and operands (R247, R248) -/

/-- A result in flight, not made by a unit, has an effect of a kind. -/
def Core.inFlight (k : Core) (unit : Nat) (p : Effect → Bool) : Bool :=
  k.flight.any (fun l => (l.unit != unit || unit == 0) && l.effects.any p)

/-- An effect on an accumulator, on a psum buffer, on a scale address generator, on EPARAM or EHEAP, or on
MBASE. -/
def Effect.onAcc (n : Nat) : Effect → Bool
  | .acc m _ => m == n
  | .accZero m => m == n
  | _ => false
def Effect.onPb (n : Nat) : Effect → Bool
  | .pb m _ _ _ _ => m == n
  | .pbZero m => m == n
  | _ => false
def Effect.onSag : Effect → Bool
  | .sag _ _ => true
  | _ => false
def Effect.onEpi : Effect → Bool
  | .eparam _ _ => true
  | .epiOut _ _ => true
  | _ => false

/-- On an FL = 0 page an operation waits for results on what it reads, but for those of its own unit that
it chains to (R51, R248). -/
def Ctx.pending (x : Ctx) (s : State) (unit : Nat) (p : Effect → Bool) : Bool :=
  !x.fl && (s.core x.c).inFlight unit p

/-- The accumulator that an operation of a unit adds onto: its elements at issue with the results in flight
of the unit (R248). -/
def Core.chained (k : Core) (unit n : Nat) : Tbl (BitVec 32) :=
  (k.flight.filter (fun l => l.unit == unit)).foldl (fun t l =>
    l.effects.foldl (fun t e => match e with
      | .acc m vals => if m = n then t.setAll vals else t
      | _ => t) t) (k.accOf n)

/-- A result of the matrix class. -/
def Ctx.matrix (x : Ctx) (s : State) (lat unit : Nat) (es : List Effect) : State :=
  s.launchResult x.c x.st x.fl lat true unit false es

/-- The numbers of an accumulator and of a psum buffer. -/
def accNumber : Operand → Nat
  | .acc n => n.val
  | _ => 0
def pbNumber : Operand → Nat
  | .pb n => n.val
  | _ => 0

/-- The parts of a psum buffer. -/
def Core.pbOf (k : Core) (n : Nat) : Tbl (BitVec 32) := if n = 0 then k.pb0 else k.pb1
def Core.pkindOf (k : Core) (n : Nat) : BitVec 2 := if n = 0 then k.pkind0 else k.pkind1
def Core.pnOf (k : Core) (n : Nat) : Nat := if n = 0 then k.pn0 else k.pn1
def Core.ptagOf (k : Core) (n : Nat) : Tbl (BitVec 16) := if n = 0 then k.ptag0 else k.ptag1

/-! ### Cluster hold references (R243, R244) -/

/-- A range of bytes of the hold of a core that a selector names; none where the reference is malformed. -/
structure HoldRange where
  core : Option Nat
  off  : Nat
  size : Nat
  deriving DecidableEq, Repr

/-- The core and the offset of a cluster hold reference (Table 10.2). -/
def holdRef (c : Nat) (w : Word) : Option Nat × Nat :=
  let v := w.toNat
  (if bits v 27 37 = 0 ∧ bits v 22 2 = 0 then selectedCore c (bits v 24 3) else none, bits v 0 22)

/-- A trap of a matrix operand in a hold, decided at issue (R87, R243). -/
def matrixTrap (c : Cause) (a : Nat) (quay : Bool) : TrapInfo :=
  { cause := c, addr0 := a, fdet := Fdet.word { hold := true, quay } }

/-- The range checks, then the access checks, of the ranges of an operation (R243, R251, R269). -/
def Ctx.rangesTrap (x : Ctx) (s : State) (rs : List HoldRange) : Option TrapInfo :=
  match rs.findSome? (fun r => match r.core with
    | none => some (matrixTrap .holdRange r.off false)
    | some d =>
      if r.off + r.size ≤ (s.core d).holdLimit then none
      else some (matrixTrap .holdRange (max r.off (s.core d).holdLimit) (d != x.c))) with
  | some t => some t
  | none =>
    rs.findSome? (fun r => match r.core with
      | some d => if s.mayReach x.c d then none else some (matrixTrap .access r.off true)
      | none => none)

/-- The first range that meets an uncorrectable error, with the offset (R142). -/
def State.rangesBad (s : State) (rs : List HoldRange) : Option (Nat × Nat) :=
  rs.findSome? (fun r => match r.core with
    | some d => ((s.core d).badByte (addrsFrom r.off r.size)).map (fun a => (d, a))
    | none => none)

/-! ### The families of MMA (R250, R251) -/

/-- The four number families. -/
inductive Family where
  | q4 | f8 | bf | h
  deriving DecidableEq, Repr

/-- Bytes of a row of A or a column of B, and of a block of 32. -/
def Family.row : Family → Nat
  | .q4 => 32 | .f8 => 64 | _ => 128
def Family.block : Family → Nat
  | .q4 => 16 | _ => 32

/-- The family has scale tags and leaves psums. -/
def Family.tagged : Family → Bool
  | .q4 | .f8 => true
  | _ => false

/-- Alignment of the references. -/
def Family.align : Family → Nat
  | .f8 => 32 | _ => 16

/-- Array ticks for N columns, and the landing after them (Table 10.5). -/
def Family.busy (g : Family) (n : Nat) : Nat :=
  match g with
  | .q4 => n / 16 | .f8 => n / 8 | _ => n / 4
def Family.landing (g : Family) (remote : Bool) : Nat :=
  12 + (if remote then 64 * g.row / 1024 else 0)

/-- Where an MMA reads: the cores, offsets and strides of A and B, and the columns. -/
structure MmaPlan where
  n  : Nat
  ca : Option Nat
  oa : Nat
  sa : Nat
  cb : Option Nat
  ob : Nat
  sb : Nat
  deriving DecidableEq, Repr

/-- The plan that the operands give. -/
def Ctx.mmaPlan (x : Ctx) (s : State) : MmaPlan :=
  let a := holdRef x.c (x.reg s x.f.sa)
  let b := holdRef x.c (x.reg s x.f.sb)
  { n := (x.reg s x.f.sc).toNat, ca := a.1, oa := a.2, sa := bits x.f.imm.toNat 0 16 * 16,
    cb := b.1, ob := b.2, sb := bits x.f.imm.toNat 16 16 * 16 }

/-- N is a multiple of 16 from 16 to 512 (R251). -/
def columnsOk (n : Nat) : Bool := n != 0 && n % 16 == 0 && n ≤ 512

/-- Fields of a scale address generator (Table 10.3). -/
def sagCore (c : Nat) (g : Word) : Option Nat := selectedCore c (bits g.toNat 48 3)
def sagEbase (g : Word) : Nat := bits g.toNat 24 22
def sagBase (g : Word) : Nat := bits g.toNat 0 22

/-- The hold range of the tag of the block at an offset; an offset below EBASE has none (R119, R244). -/
def tagRange (fam : Family) (c : Nat) (g : Word) (off : Nat) : HoldRange :=
  let b := fam.block
  let blk := off / b * b
  let e := sagEbase g / b * b
  if blk < e then { core := none, off, size := 2 }
  else { core := sagCore c g, off := sagBase g + (blk - e) / (b / 2), size := 2 }

/-- Ranges of the rows of A, the columns of B, and the tags of both. -/
def MmaPlan.aRows (p : MmaPlan) (fam : Family) : List HoldRange :=
  (List.range 64).map (fun m => { core := p.ca, off := p.oa + m * p.sa, size := fam.row })
def MmaPlan.bCols (p : MmaPlan) (fam : Family) : List HoldRange :=
  (List.range p.n).map (fun n => { core := p.cb, off := p.ob + n * p.sb, size := fam.row })
def MmaPlan.aTags (p : MmaPlan) (fam : Family) (c : Nat) (g : Word) : List HoldRange :=
  (List.range 128).map (fun i => tagRange fam c g (p.oa + i / 2 * p.sa + i % 2 * fam.block))
def MmaPlan.bTags (p : MmaPlan) (fam : Family) (c : Nat) (g : Word) : List HoldRange :=
  (List.range (2 * p.n)).map (fun i => tagRange fam c g (p.ob + i / 2 * p.sb + i % 2 * fam.block))

/-- Every range that an MMA reads. -/
def Ctx.mmaRanges (x : Ctx) (s : State) (fam : Family) (p : MmaPlan) : List HoldRange :=
  let k := s.core x.c
  p.aRows fam ++ p.bCols fam ++
    (if fam.tagged then p.aTags fam x.c k.sga ++ p.bTags fam x.c k.sgb else [])

/-- The number in a range. -/
def State.rangeNum (s : State) (r : HoldRange) : Nat :=
  match r.core with
  | some d => (s.core d).holdRead r.off r.size
  | none => 0

/-! ### Products and sums (R251, R252) -/

/-- The signed sum of finite values over the smallest of their exponents. -/
def sumFinite (vs : List FVal) : FVal :=
  let parts := vs.filterMap (fun v => match v with
    | .fin neg m e => some (neg, m, e)
    | _ => none)
  let low := parts.foldl (fun l p => min l p.2.2) 0
  let total := parts.foldl (fun (t : Int) p => t + alignInt p.1 p.2.1 p.2.2 low) 0
  .fin (total < 0) total.natAbs low

/-- The exact sum of many values: a NaN, or infinities of both signs, make it invalid; a zero sum is +0
(R252). -/
def sumExact (vs : List FVal) : Exact :=
  let up := vs.any (fun v => v == .inf false)
  let down := vs.any (fun v => v == .inf true)
  if vs.any (fun v => v.isNan) || (up && down) then { val := .nan false, flags := flagNV }
  else if up then { val := .inf false, flags := 0 }
  else if down then { val := .inf true, flags := 0 }
  else { val := sumFinite vs, flags := 0 }

/-- The products of two value lists. -/
def products (as bs : List FVal) : List FVal := (as.zip bs).map (fun e => (mulExact e.1 e.2).val)

/-- Element k of a row or column held as a number. -/
def q4Elem (row k : Nat) : Nat := bits row (4 * k) 4
def f8Elem (row k : Nat) : Nat := bits row (8 * k) 8
def halfElem (row k : Nat) : Nat := bits row (16 * k) 16

/-- The exact integer psum of a block of Q4 (R115, R119). -/
def q4Psum (a b ta tb j : Nat) : Int :=
  ((List.range 32).map (fun i =>
    q4Int (tagType ta) (q4Elem a (32 * j + i)) * q4Int (tagType tb) (q4Elem b (32 * j + i)))).sum

/-- The FP32 psum of a block of F8 (R116, R252). -/
def f8Psum (a b ta tb j : Nat) : Nat × Flags :=
  let vals (row t : Nat) : List FVal :=
    (List.range 32).map (fun i => f8Val (tagType t) (f8Elem row (32 * j + i)))
  let r := (sumExact (products (vals a ta) (vals b tb))).round Typ.f32.format .rne false
  (r.code, r.flags ||| (if tagType ta = 3 ∨ tagType tb = 3 then flagNV else 0))

/-- The psum word of one block with its flags; a zero tag adds nothing (R118, R251).  A block of F8 of type 11 whose
partner's tag has E = 0 is decoded by R251's pseudocode no more than any other such pair, so that it sets no NV, which
R252 gives to a block of that type (log entry 116). -/
def psum (fam : Family) (a b ta tb j : Nat) : Nat × Flags :=
  if tagE ta = 0 ∨ tagE tb = 0 then (0, 0)
  else
    match fam with
    | .q4 => (lowBits (q4Psum a b ta tb j) 32, 0)
    | _ => f8Psum a b ta tb j

/-- An accumulator element with 64 products added and one rounding (R251, R252). -/
def dot (t : Typ) (acc a b : Nat) : Nat × Flags :=
  let vals (row : Nat) : List FVal := (List.range 64).map (fun k => t.format.decode (halfElem row k))
  let r := (sumExact (Typ.f32.format.decode acc :: products (vals a) (vals b))).round
    Typ.f32.format .rne false
  (r.code, r.flags)

/-- The rows 0 to 63 with the columns below N, in index order. -/
def cells (n : Nat) : List (Nat × Nat) :=
  (List.range 64).flatMap (fun m => (List.range n).map (fun c => (m, c)))

/-- Element number i of a list of numbers. -/
def nth (l : List Nat) (i : Nat) : Nat := (l[i]?).getD 0

/-- The psum words of an MMA, in index order, with their flags. -/
def psums (fam : Family) (n : Nat) (as bs tas tbs : List Nat) : List (Nat × BitVec 32) × Flags :=
  let l := (cells n).flatMap (fun p => [0, 1].map (fun j =>
    (pbIx p.1 p.2 j,
      psum fam (nth as p.1) (nth bs p.2) (nth tas (2 * p.1 + j)) (nth tbs (2 * p.2 + j)) j)))
  (l.map (fun e => (e.1, BitVec.ofNat 32 e.2.1)), l.foldl (fun fl e => fl ||| e.2.2) 0)

/-- The elements of an accumulator made cell by cell, with their flags. -/
def accElems (n : Nat) (g : Nat → Nat → Nat × Flags) : List (Nat × BitVec 32) × Flags :=
  let l := (cells n).map (fun p => (accIx p.1 p.2, g p.1 p.2))
  (l.map (fun e => (e.1, BitVec.ofNat 32 e.2.1)), l.foldl (fun fl e => fl ||| e.2.2) 0)

/-- PKIND of a family. -/
def Family.pkind : Family → BitVec 2
  | .q4 => 1
  | _ => 2

/-- What an MMA of Q4 or F8 lands of rows, columns and tags: psums, PKIND, PN, PTAG and flags. -/
def psumEffects (fam : Family) (dst n : Nat) (as bs tas tbs : List Nat) : List Effect :=
  let (vals, fl) := psums fam n as bs tas tbs
  let tags := tas.mapIdx (fun i t => (i, BitVec.ofNat 16 t)) ++
    tbs.mapIdx (fun i t => (128 + i, BitVec.ofNat 16 t))
  [.pb dst vals fam.pkind n tags, .mflags fl]

/-- What an MMA of BF16 or FP16 lands of rows and columns on an accumulator: its elements and flags. -/
def dotEffects (fam : Family) (dst n : Nat) (base : Tbl (BitVec 32)) (as bs : List Nat) : List Effect :=
  let t := if fam = .bf then Typ.bf16 else Typ.f16
  let (vals, fl) := accElems n (fun m c =>
    dot t (Tbl.get 0 base (accIx m c)).toNat (nth as m) (nth bs c))
  [.acc dst vals, .mflags fl]

/-- What ACCLD lands of rows: FP32 codes as they are, BF16 widened. -/
def loadEffects (t : Typ) (dst n : Nat) (data : List Nat) : List Effect :=
  let (vals, fl) := accElems n (fun m c =>
    if t = .f32 then (bits (nth data m) (32 * c) 32, 0)
    else
      let (v, fl) := convert .bf16 .f32 0 (bits (nth data m) (16 * c) 16)
      (v.toNat, fl))
  [.acc dst vals, .mflags fl]

/-- What an MMA of Q4 or F8 lands as its operands stand. -/
def Ctx.psumEffects (x : Ctx) (s : State) (fam : Family) (p : MmaPlan) : List Effect :=
  let k := s.core x.c
  Sys2Proof.Machine.psumEffects fam (pbNumber x.f.dst) p.n ((p.aRows fam).map s.rangeNum)
    ((p.bCols fam).map s.rangeNum) ((p.aTags fam x.c k.sga).map s.rangeNum)
    ((p.bTags fam x.c k.sgb).map s.rangeNum)

/-- What an MMA of BF16 or FP16 lands as its operands stand. -/
def Ctx.dotEffects (x : Ctx) (s : State) (fam : Family) (p : MmaPlan) : List Effect :=
  let n := accNumber x.f.dst
  Sys2Proof.Machine.dotEffects fam n p.n ((s.core x.c).chained 1 n) ((p.aRows fam).map s.rangeNum)
    ((p.bCols fam).map s.rangeNum)

/-! ### Reads until landing, and chains (R248, R249) -/

/-- What an operation lands of the numbers that it has read. -/
def MatrixRead.effects (r : MatrixRead) : List Effect :=
  let part (from_ n : Nat) : List Nat := (r.nums.drop from_).take n
  let psum (fam : Family) : List Effect :=
    Sys2Proof.Machine.psumEffects fam r.dst r.n (part 0 64) (part 64 r.n) (part (64 + r.n) 128)
      (part (192 + r.n) (2 * r.n))
  let dot (fam : Family) : List Effect :=
    Sys2Proof.Machine.dotEffects fam r.dst r.n r.base (part 0 64) (part 64 r.n)
  match r.op with
  | .mmaQ4 => psum .q4
  | .mmaF8 => psum .f8
  | .mmaBf => dot .bf
  | .mmaH => dot .h
  | _ => loadEffects r.typ r.dst r.n r.nums

/-- The elements that effects write to an accumulator. -/
def accWrites (n : Nat) (es : List Effect) : Tbl (BitVec 32) :=
  es.flatMap (fun e => match e with
    | .acc m vals => if m = n then vals else []
    | _ => [])

/-- Replace a result in flight. -/
def Core.setLanding (k : Core) (l : Landing) : Core :=
  { k with flight := k.flight.map (fun m => if m.seq = l.seq then l else m) }

/-- The result in flight with a place in program order. -/
def Core.landingAt (k : Core) (seq : Nat) : Option Landing := k.flight.find? (fun l => l.seq == seq)

/-- A result of a unit that lands before an earlier one of the unit's chain is carried by that one too (R248). -/
def Core.carry (k : Core) (l : Landing) : Core :=
  { k with flight := k.flight.map (fun m =>
      if m.unit = l.unit && m.seq < l.seq && l.tick < m.tick then
        { m with effects := m.effects.map (fun e => match e with
          | .acc n vals =>
            let new := accWrites n l.effects
            .acc n (vals.map (fun v => (v.1, Tbl.get v.2 new v.1)))
          | e => e) }
      else m) }

/-- A new result of a unit takes its place in the chain of the results of the unit in flight on its
accumulator. -/
def Core.joinChain (k : Core) (seq : Nat) : Core :=
  match k.landingAt seq with
  | none => k
  | some l =>
    let k := k.carry l
    { k with flight := k.flight.map (fun m =>
        if m.unit = l.unit && m.seq < seq then
          { m with reads := m.reads.map (fun r =>
              if (accWrites r.dst l.effects).isEmpty || r.op = .mmaQ4 || r.op = .mmaF8 then r
              else { r with users := r.users ++ [seq] }) }
        else m) }

/-- The result of a unit, with what it goes on reading until it lands (R248, R249). -/
def Ctx.unitResult (x : Ctx) (s : State) (lat unit : Nat) (es : List Effect) (r : Option MatrixRead) : State :=
  let seq := (s.core x.c).seq
  (x.matrix s lat unit es).modCore x.c (fun k =>
    let k := { k with flight := k.flight.map (fun m => if m.seq = seq then { m with reads := r } else m) }
    if unit = 0 then k else k.joinChain seq)

/-- What an operation of the issuing stream reads in some ranges of holds. -/
def Ctx.readsOf (x : Ctx) (s : State) (dst n : Nat) (base : Tbl (BitVec 32)) (rs : List HoldRange) : MatrixRead :=
  { op := x.o, typ := x.f.typ, dst, n, base, users := [],
    ranges := rs.map (fun r => (r.core.getD x.c, r.off, r.size)), nums := rs.map s.rangeNum }

/-- A result in flight is made anew from what it has read, and those that add onto it follow, in program order
(R248). -/
def Core.remake (k : Core) (l : Landing) (r : MatrixRead) : Core :=
  let l := { l with reads := some r, effects := r.effects }
  let step (p : Core × List (Tbl (BitVec 32))) (j : Nat) : Core × List (Tbl (BitVec 32)) :=
    match p.1.landingAt j with
    | none => p
    | some m =>
      match m.reads with
      | none => p
      | some q =>
        let q := { q with base := p.2.foldl Tbl.setAll q.base }
        (p.1.setLanding { m with reads := some q, effects := q.effects }, p.2 ++ [accWrites q.dst q.effects])
  let k := (r.users.foldl step (k.setLanding l, [accWrites r.dst l.effects])).1
  if l.unit = 0 then k
  else (l.seq :: r.users).foldl (fun k j => (k.landingAt j).elim k (fun m => k.carry m)) k

/-- A number with its byte j replaced. -/
def withByte (v j : Nat) (b : Byte) : Nat := v - v / 256 ^ j % 256 * 256 ^ j + b.toNat * 256 ^ j

/-- A tile operation in flight reads some bytes of a range as they stand now, unless an operation that adds onto
it has landed (R249). -/
def State.tileRead (s : State) (c seq i first n : Nat) : State :=
  match (s.core c).landingAt seq with
  | none => s
  | some l =>
    match l.reads.bind (fun r => (r.ranges[i]?).map (fun a => (r, a))) with
    | none => s
    | some (r, d, off, size) =>
      let q := s.core d
      if !s.mayReach c d || !r.users.all (fun j => ((s.core c).landingAt j).isSome) then s
      else
        let here := ((List.range n).map (fun j => first + j)).filter (fun j =>
          j < size && off + j < q.holdLimit && !q.badHold.contains ((off + j) / 64))
        let v := here.foldl (fun v j => withByte v j (q.holdByte (off + j))) ((r.nums[i]?).getD 0)
        s.modCore c (fun k => k.remake l { r with nums := r.nums.set i v })

/-! ### MMA (R251 to R253) -/

/-- The value and hold checks of an MMA (R251, R269). -/
def Ctx.mmaTrap (x : Ctx) (s : State) (fam : Family) (p : MmaPlan) : Option TrapInfo :=
  if !columnsOk p.n then some { cause := .illfield }
  else if p.oa % fam.align ≠ 0 then some (matrixTrap .align p.oa false)
  else if p.ob % fam.align ≠ 0 then some (matrixTrap .align p.ob false)
  else x.rangesTrap s (x.mmaRanges s fam p)

/-- The array, or something that the MMA reads, is not ready. -/
def Ctx.mmaHeld (x : Ctx) (s : State) (fam : Family) : Bool :=
  let k := s.core x.c
  x.now < k.arrayFree || k.acquirePending x.st ||
    (if fam.tagged then x.pending s 0 Effect.onSag
     else x.pending s 1 (Effect.onAcc (accNumber x.f.dst)))

/-- An MMA that has come to its tick and whose unit is ready. -/
def Ctx.mmaRun (x : Ctx) (s : State) (fam : Family) : Res :=
  let p := x.mmaPlan s
  match x.mmaTrap s fam p with
  | some t => .trap s t
  | none =>
    match s.rangesBad (x.mmaRanges s fam p) with
    | some (d, a) => .done (x.holdError s a 0 (d != x.c)) .seq
    | none =>
      let es := if fam.tagged then x.psumEffects s fam p else x.dotEffects s fam p
      let busy := fam.busy p.n
      let n := if fam.tagged then pbNumber x.f.dst else accNumber x.f.dst
      let r := x.readsOf s n p.n (if fam.tagged then [] else (s.core x.c).chained 1 n) (x.mmaRanges s fam p)
      let s := x.unitResult s (busy + fam.landing (p.ca != some x.c)) 1 es (some r)
      .done (s.modCore x.c (fun k => { k with arrayFree := x.now + busy })) .seq

/-- A stamped MMA waits for its tick and traps when it is not ready then, or late (R253). -/
def mmaBody (fam : Family) (x : Ctx) (s : State) : Res :=
  if x.stampPast s then .plain s .schedMiss
  else if x.stampEarly s then .wait s .latency
  else if x.mmaHeld s fam then
    (if x.stampDue s then .plain s .schedMiss
     else .wait s .latency)
  else x.mmaRun s fam

def execMmaQ4 (b : Bundle) (f : Fields) (s : State) : Host.Outcome State Fault Refusal :=
  issue .mmaQ4 b f (mmaBody .q4) s

def execMmaF8 (b : Bundle) (f : Fields) (s : State) : Host.Outcome State Fault Refusal :=
  issue .mmaF8 b f (mmaBody .f8) s

def execMmaBf (b : Bundle) (f : Fields) (s : State) : Host.Outcome State Fault Refusal :=
  issue .mmaBf b f (mmaBody .bf) s

def execMmaH (b : Bundle) (f : Fields) (s : State) : Host.Outcome State Fault Refusal :=
  issue .mmaH b f (mmaBody .h) s

/-! ### SCAC (R257) -/

/-- The exact scaled value of a psum word. -/
def scaledPsum (kind : BitVec 2) (p ta tb : Nat) : FVal :=
  let (ma, ea) := tagScale ta
  let (mb, eb) := tagScale tb
  let scale : FVal := .fin false (ma * mb) (ea + eb)
  if kind = 1 then
    let v := sextInt p 32
    (mulExact (.fin (v < 0) v.natAbs (-((q4Shift (tagType ta) + q4Shift (tagType tb) : Nat) : Int)))
      scale).val
  else (mulExact (Typ.f32.format.decode p) scale).val

/-- One block folded into an accumulator element. -/
def foldPsum (kind : BitVec 2) (sat : Bool) (p ta tb : Nat) (acc : Nat × Flags) : Nat × Flags :=
  if tagE ta = 0 ∨ tagE tb = 0 then acc
  else
    let f := Typ.f32.format
    let r := (addExact .rne (f.decode acc.1) (scaledPsum kind p ta tb)).round f .rne sat
    (r.code, acc.2 ||| r.flags)

/-- What SCAC lands. -/
def Ctx.scacEffects (x : Ctx) (s : State) : List Effect :=
  let k := s.core x.c
  let b := pbNumber x.f.sa
  let n := accNumber x.f.dst
  let base := k.chained 2 n
  let kind := k.pkindOf b
  let tag (i : Nat) : Nat := (Tbl.get 0 (k.ptagOf b) i).toNat
  let word (m c j : Nat) : Nat := (Tbl.get 0 (k.pbOf b) (pbIx m c j)).toNat
  let sat := satOfMod x.f.mod
  let (vals, fl) := accElems (if kind = 0 then 0 else k.pnOf b) (fun m c =>
    foldPsum kind sat (word m c 1) (tag (2 * m + 1)) (tag (128 + 2 * c + 1))
      (foldPsum kind sat (word m c 0) (tag (2 * m)) (tag (128 + 2 * c))
        ((Tbl.get 0 base (accIx m c)).toNat, 0)))
  [.acc n vals, .mflags fl]

def scacBody (x : Ctx) (s : State) : Res :=
  let k := s.core x.c
  let b := pbNumber x.f.sa
  if x.now < k.scacFree || x.pending s 0 (Effect.onPb b) ||
      x.pending s 2 (Effect.onAcc (accNumber x.f.dst)) then
    .wait s .latency
  else
    let busy := k.pnOf b / 16
    let s := x.unitResult s (busy + 6) 2 (x.scacEffects s) none
    .done (s.modCore x.c (fun k => { k with scacFree := x.now + busy })) .seq

def execScac (b : Bundle) (f : Fields) (s : State) : Host.Outcome State Fault Refusal :=
  issue .scac b f scacBody s

/-! ### ACCZ and ACCLD (R258, R259) -/

def acczBody (x : Ctx) (s : State) : Res :=
  match x.f.dst with
  | .pb n => .done (x.matrix s 2 0 [.pbZero n.val]) .seq
  | o => .done (x.matrix s 2 0 [.accZero (accNumber o)]) .seq

def execAccz (b : Bundle) (f : Fields) (s : State) : Host.Outcome State Fault Refusal :=
  issue .accz b f acczBody s

def accldBody (x : Ctx) (s : State) : Res :=
  let n := (x.reg s x.f.sb).toNat
  let (c, o) := holdRef x.c (x.reg s x.f.sa)
  let es := if x.f.typ = .f32 then 4 else 2
  let rows : List HoldRange := (List.range 64).map (fun m =>
    { core := c, off := o + m * (bits x.f.imm.toNat 0 16 * 16), size := n * es })
  if x.now < (s.core x.c).accFree then .wait s .latency
  else if !columnsOk n then .plain s .illfield
  else if o % 16 ≠ 0 then .trap s (matrixTrap .align o false)
  else
    match x.rangesTrap s rows with
    | some t => .trap s t
    | none =>
      if (s.core x.c).acquirePending x.st then .wait s .access
      else match s.rangesBad rows with
      | some (d, a) => .done (x.holdError s a 0 (d != x.c)) .seq
      | none =>
        let d := accNumber x.f.dst
        let s := x.unitResult s (n / 4 + (if c = some x.c then 8 else 20)) 0
          (loadEffects x.f.typ d n (rows.map s.rangeNum)) (some (x.readsOf s d n [] rows))
        .done (s.modCore x.c (fun k => { k with accFree := x.now + n / 4 })) .seq

def execAccld (b : Bundle) (f : Fields) (s : State) : Host.Outcome State Fault Refusal :=
  issue .accld b f accldBody s

/-! ### DRAIN (R261, R262) -/

/-- The checks of a drain at issue. -/
def Ctx.drainTrap (x : Ctx) (s : State) (cp : Copy) : Option TrapInfo :=
  let es := cp.elemBytes
  let base := cp.sa.toNat
  if base % es ≠ 0 ∨ cp.sb.toNat % es ≠ 0 then some (sideTrap .align base cp.dhold true)
  else if cp.dhold then
    (beyond (s.core x.c).holdLimit ((List.range 64).map (fun (m : Nat) =>
      (lowBits ((base : Int) + (m : Int) * cp.sb.toInt) 64, cp.columns * es)))).map (fun a =>
        sideTrap .holdRange a true true)
  else none

def drainBody (x : Ctx) (s : State) : Res :=
  let cp := { x.copyOf s .drain [] with sc := BitVec.ofNat 64 (accNumber x.f.sc) }
  match x.drainTrap s cp with
  | some t => .trap s t
  | none => x.startOrWait s cp

def execDrain (b : Bundle) (f : Fields) (s : State) : Host.Outcome State Fault Refusal :=
  issue .drain b f drainBody s

/-! ### EPI, EPI.OUT and MASKLD (R263 to R268) -/

/-- A drain with EPI has started and not ended (R268). -/
def Core.epiDrains (k : Core) : Bool := k.copies.any (fun c => c.epi && c.started)

/-- The fields of a parameter block are as Table 10.7 asks. -/
def eparamOk (m : Memory) : Bool :=
  m.read 0x04 4 &&& 0x3F0F == m.read 0x04 4 && m.read 0x0C 4 == 0 && m.read 0x20 32 == 0 &&
    m.read 0x10 8 % 8 == 0 && m.read 0x18 8 % 4 == 0

/-- The fields of a mask block are as Table 10.8 asks. -/
def emaskOk (m : Memory) : Bool := m.read 0x008 4 ≤ 64 && m.read 0x00C 4 == 0

/-- A block of bytes of the issuing core's hold: its alignment, range and errors, then what it holds.  What it holds
decides a trap, so that an acquire still to be performed comes before the issue (R87). -/
def Ctx.holdBlock (x : Ctx) (s : State) (size : Nat) (go : Memory → Res) : Res :=
  let off := x.ea s
  let k := s.core x.c
  if k.epiDrains || x.now < k.epiFree then .wait s .latency
  else if off % 8 ≠ 0 then .trap s (matrixTrap .align off false)
  else if !x.holdFits s off size then
    .trap s (matrixTrap .holdRange (max off k.holdLimit) false)
  else if k.acquirePending x.st then .wait s .memory
  else
    match k.badByte (addrsFrom off size) with
    | some a => .done (x.holdError s a 0 false) .seq
    | none => go (memoryOf (k.holdBytes off size))

def epiBody (x : Ctx) (s : State) : Res :=
  x.holdBlock s 64 (fun m =>
    let limit := (s.core x.c).holdLimit
    let heap := m.read 0x10 8
    let hist := m.read 0x18 8
    if !eparamOk m then .plain s .illfield
    else if limit < heap + 32768 then .trap s (matrixTrap .holdRange (max heap limit) false)
    else if limit < hist + 65536 then .trap s (matrixTrap .holdRange (max hist limit) false)
    else
      let s := x.matrix s 4 0 [.eparam m (bit x.f.mod.toNat 0)]
      .done (s.modCore x.c (fun k => { k with epiFree := x.now + 1 })) .seq)

def execEpi (b : Bundle) (f : Fields) (s : State) : Host.Outcome State Fault Refusal :=
  issue .epi b f epiBody s

/-- EPI.OUT; its images lie within the hold as EPI found them, and beyond its end in spill lease mode (R138). -/
def epiOutBody (x : Ctx) (s : State) : Res :=
  let k := s.core x.c
  if k.epiDrains || x.now < k.epiFree || x.pending s 0 Effect.onEpi then .wait s .latency
  else
    match beyond k.holdLimit [(k.eparam.read 0x10 8, 32768), (k.eparam.read 0x18 8, 65536)] with
    | some a => .trap s (matrixTrap .holdRange a false)
    | none =>
      if k.acquirePending x.st || k.loadsBefore x.st then .wait s .access
      else
        let s := x.matrix s 100 0 [.epiOut k.epiImages (bit x.f.mod.toNat 0)]
        .done (s.modCore x.c (fun k => { k with epiFree := x.now + 96 })) .seq

def execEpiOut (b : Bundle) (f : Fields) (s : State) : Host.Outcome State Fault Refusal :=
  issue .epiOut b f epiOutBody s

def maskldBody (x : Ctx) (s : State) : Res :=
  x.holdBlock s 528 (fun m =>
    if !emaskOk m then .plain s .illfield else .done (x.matrix s 8 0 [.emask m]) .seq)

def execMaskld (b : Bundle) (f : Fields) (s : State) : Host.Outcome State Fault Refusal :=
  issue .maskld b f maskldBody s

/-! ### SAG, MSTAT and MSTMP (R245, R254, R260) -/

def sagBody (x : Ctx) (s : State) : Res :=
  let b := (x.reg s x.f.sa).toNat
  let e := (x.reg s x.f.sb).toNat
  if b % 2 ≠ 0 then .trap s (matrixTrap .align b false)
  else if 2 ^ 22 ≤ b then .trap s (matrixTrap .holdRange b false)
  else if 2 ^ 22 ≤ e then .trap s (matrixTrap .holdRange e false)
  else
    .done (x.matrix s 1 0 [.sag (x.f.dst == .sgb)
      (BitVec.ofNat 64 (bits x.f.imm.toNat 0 3 * 2 ^ 48 + e * 2 ^ 24 + b))]) .seq

def execSag (b : Bundle) (f : Fields) (s : State) : Host.Outcome State Fault Refusal :=
  issue .sag b f sagBody s

def sagRdBody (x : Ctx) (s : State) : Res :=
  let k := s.core x.c
  if x.pending s 0 Effect.onSag then .wait s .latency
  else .done (x.matrix s 1 0 [x.writes x.f.dst (if x.f.sa = .sgb then k.sgb else k.sga)]) .seq

def execSagRd (b : Bundle) (f : Fields) (s : State) : Host.Outcome State Fault Refusal :=
  issue .sagRd b f sagRdBody s

/-- MSTAT waits until every matrix operation of X before it has landed (R260). -/
def mstatBody (x : Ctx) (s : State) : Res :=
  let k := s.core x.c
  if k.flight.any (fun l => l.st == x.st && l.matrix) then .wait s .latency
  else
    let old := k.mflag
    let m : Flags := BitVec.ofNat 5 x.f.imm.toNat
    let new := match bits x.f.mod.toNat 0 2 with
      | 1 => old &&& ~~~m
      | 2 => old ||| m
      | _ => old
    .done (x.matrix (s.setCore x.c { k with mflag := new }) 1 0
      [x.writes x.f.dst (old.zeroExtend 64)]) .seq

def execMstat (b : Bundle) (f : Fields) (s : State) : Host.Outcome State Fault Refusal :=
  issue .mstat b f mstatBody s

/-- MSTMP and MSTMP.ABS leave MBASE and write it to DST. -/
def mstmpGive (x : Ctx) (s : State) (v : Word) : Res :=
  .done (x.matrix s 1 0 [.mbase v, x.writes x.f.dst v]) .seq

def mstmpBody (x : Ctx) (s : State) : Res :=
  mstmpGive x s (BitVec.ofNat 64 x.now + x.raw s .untyped x.f.sa)

def execMstmp (b : Bundle) (f : Fields) (s : State) : Host.Outcome State Fault Refusal :=
  issue .mstmp b f mstmpBody s

def mstmpAbsBody (x : Ctx) (s : State) : Res := mstmpGive x s (x.rawZ s x.f.sa)

def execMstmpAbs (b : Bundle) (f : Fields) (s : State) : Host.Outcome State Fault Refusal :=
  issue .mstmpAbs b f mstmpAbsBody s

end Sys2Proof.Machine
end

