-- ==== Sys2Proof/Machine/Sync.lean ====
section
/-!
DEFINITION. Atomics, semaphores, convoy barriers and mailboxes (R271 to R291), and the arrival of an
entry.
-/

namespace Sys2Proof.Machine

/-! ### AMO (R276 to R279) -/

/-- The order field of AMO (R274). -/
def Ctx.amoAcquires (x : Ctx) : Bool := bit x.f.mod.toNat 3
def Ctx.amoReleases (x : Ctx) : Bool := bit x.f.mod.toNat 4

/-- The scope of MOD[2:0]. -/
def Ctx.modScope (x : Ctx) : Scope := (Scope.ofCode (bits x.f.mod.toNat 0 3)).getD .core

/-- Put an atomic in flight, with its operands. -/
def Ctx.sendAmo (x : Ctx) (s : State) (fn ea : Nat) (ms : List Mapped) (vb vc : Word) : State :=
  let n := x.size
  let sc := orderScope x.modScope ms
  s.issueLoad x.c
    { st := x.st, seq := 0, parts := ms.mapIdx (fun i m => (i, m.pa, m.kind)),
      dest := .reg x.f.dst x.f.typ.signed n, acq := if x.amoAcquires then sc else none,
      origin := originOf ea n 0 (addrsFrom ea n), bundle := x.a,
      amo := some
        { fn, size := n, signed := x.f.typ.signed, ser := bit x.f.aux.toNat 0,
          b := vb.toNat % 2 ^ (8 * n), c := vc.toNat % 2 ^ (8 * n),
          rel := if x.amoReleases then sc else none } }

/-- AMO: the checks of R276, its place in the promotion log as a release, and its way to the SYE.  A release on a UN
page, where the order field orders nothing (R176), still commits the task's buffer and enters the log, as does a REL
(R177, R182; log entry 125). -/
def amoBody (fn : Nat) (x : Ctx) (s₀ : State) : Res :=
  let ea := x.ea s₀
  let vb := x.reg s₀ x.f.sb
  let vc := x.reg s₀ x.f.sc
  match x.plainAccess s₀ .amo ea x.size with
  | .trap t => .trap s₀ t
  | .wait s => .wait s .access
  | .ok s ms =>
    if ms.any (fun m => !isLpddr m.pa) then .trap s₀ (dcTrap ea .amo)
    else
      let so := ms.any (fun m => m.kind == .so)
      if x.amoReleases && x.logWaits s x.modScope then .wait s .access
      else
        let s := if x.amoReleases || so then s.commitOwn x.c else s
        let s := if x.amoReleases then s.logScope x.c x.st x.modScope else s
        .done (x.sendAmo s fn ea ms vb vc) .seq

def execAmoAdd (b : Bundle) (f : Fields) (s : State) : Host.Outcome State Fault Refusal :=
  issue .amoAdd b f (amoBody 0) s

def execAmoAnd (b : Bundle) (f : Fields) (s : State) : Host.Outcome State Fault Refusal :=
  issue .amoAnd b f (amoBody 1) s

def execAmoOr (b : Bundle) (f : Fields) (s : State) : Host.Outcome State Fault Refusal :=
  issue .amoOr b f (amoBody 2) s

def execAmoXor (b : Bundle) (f : Fields) (s : State) : Host.Outcome State Fault Refusal :=
  issue .amoXor b f (amoBody 3) s

def execAmoMin (b : Bundle) (f : Fields) (s : State) : Host.Outcome State Fault Refusal :=
  issue .amoMin b f (amoBody 4) s

def execAmoMax (b : Bundle) (f : Fields) (s : State) : Host.Outcome State Fault Refusal :=
  issue .amoMax b f (amoBody 5) s

def execAmoMinn (b : Bundle) (f : Fields) (s : State) : Host.Outcome State Fault Refusal :=
  issue .amoMinn b f (amoBody 6) s

def execAmoMaxn (b : Bundle) (f : Fields) (s : State) : Host.Outcome State Fault Refusal :=
  issue .amoMaxn b f (amoBody 7) s

def execAmoXchg (b : Bundle) (f : Fields) (s : State) : Host.Outcome State Fault Refusal :=
  issue .amoXchg b f (amoBody 8) s

def execAmoCas (b : Bundle) (f : Fields) (s : State) : Host.Outcome State Fault Refusal :=
  issue .amoCas b f (amoBody 9) s

/-! ### Core selectors (R274) -/

/-- The core that a selector names, when it may be reached. -/
def Ctx.selected (x : Ctx) (s : State) : Option Nat :=
  match selectedCore x.c (x.reg s x.f.sb).toNat with
  | some t => if s.mayReach x.c t then some t else none
  | none => none

/-- The trap of a selector that names no core that may be reached. -/
def Ctx.selectorTrap (x : Ctx) (s : State) : TrapInfo :=
  { cause := .access, addr0 := (x.reg s x.f.sb).toNat, fdet := Fdet.word { kind := 1 } }

/-! ### Semaphores (R280 to R283) -/

/-- The semaphore that AUX names. -/
def Ctx.semNum (x : Ctx) : Nat := bits x.f.aux.toNat 0 8

/-- A count as the result of an instruction: 2 ticks after issue, to which R275 binds operations on the issuing core
only; a SEMI to another core of the cluster is given the same (log entry 97). -/
def Ctx.give (x : Ctx) (s : State) (v : Nat) : Res :=
  .done (x.locked s 2 [x.writes x.f.dst (BitVec.ofNat 64 v)]) .seq

def semiBody (x : Ctx) (s : State) : Res :=
  match x.selected s with
  | none => .trap s (x.selectorTrap s)
  | some t =>
    let n := (x.rawZ s x.f.sa).toNat
    let old := Tbl.get 0 (s.core t).sem x.semNum
    if !(s.core x.c).settled x.st || x.logWaits s x.modScope then .wait s .access
    else x.give ((s.release x.c x.st x.modScope).semAdd t x.semNum n) old

def execSemi (b : Bundle) (f : Fields) (s : State) : Host.Outcome State Fault Refusal :=
  issue .semi b f semiBody s

/-- Nobody waits in the line of a semaphore but copies issued in this tick, before which P arrives (R280). -/
def Core.lineEmpty (k : Core) (n now : Nat) : Bool :=
  (k.swq.filter (fun w => w.sem == n)).all (fun w => k.sameTick now w)

/-- The bundle that P holds. -/
def Ctx.heldBundle (x : Ctx) : HeldBundle := { b := x.b, f := x.f, a := x.a, fl := x.fl, bh := x.bh }

def semwBody (x : Ctx) (s : State) : Res :=
  let n := (x.rawZ s x.f.sa).toNat
  let k := s.core x.c
  let i := x.semNum
  let old := Tbl.get 0 k.sem i
  let take (s : State) : Res := x.give (s.modCore x.c (fun k => { k with sem := Tbl.set k.sem i (old - n) })) old
  if 0xFFFF < n then .plain s .illfield
  else if k.semw.isSome then .wait s .other
  else if n ≤ old && (k.lineEmpty i x.now || (n = 0 && !bit x.f.mod.toNat 3)) then
    take (s.acquireRdc x.c x.modScope)
  else if bit x.f.mod.toNat 3 then x.give s old
  else
    .wait (s.setCore x.c { k with swq := k.lineSemw (.semw i n) x.now, semw := some x.heldBundle }) .other

def execSemw (b : Bundle) (f : Fields) (s : State) : Host.Outcome State Fault Refusal :=
  issue .semw b f semwBody s

def semsBody (x : Ctx) (s : State) : Res :=
  let k := s.core x.c
  let i := x.semNum
  let old := Tbl.get 0 k.sem i
  let new := min (x.rawZ s x.f.sa).toNat 0xFFFF
  let s := s.setCore x.c { k with sem := Tbl.set k.sem i new, evl := if old < new then k.evl ||| 2 else k.evl }
  x.give (s.serve x.c i (k.swq.length + 1)) old

def execSems (b : Bundle) (f : Fields) (s : State) : Host.Outcome State Fault Refusal :=
  issue .sems b f semsBody s

def semsRBody (x : Ctx) (s : State) : Res := x.give s (Tbl.get 0 (s.core x.c).sem x.semNum)

def execSemsR (b : Bundle) (f : Fields) (s : State) : Host.Outcome State Fault Refusal :=
  issue .semsR b f semsRBody s

/-! ### BAR (R284 to R286); the passage itself stands with the convoys in Engines.lean -/

def barBody (x : Ctx) (s : State) : Res :=
  let n := bits x.f.aux.toNat 0 4
  match s.convoyOn x.c with
  | none => x.give (s.commitOwn x.c) 0
  | some v =>
    let m := ((s.core x.c).task.map (fun t => t.member)).getD 0
    let sc := widerScope x.modScope v.placement
    if (s.core x.c).bar.isSome then .wait s .other
    else
      let arrived := bit (Tbl.get 0 v.arrived n) m
      if !arrived && (!(s.core x.c).settled x.st || x.logWaits s sc) then .wait s .access
      else
        let s := if arrived then s else
          (s.release x.c x.st sc).setConvoy
            { v with arrived := Tbl.set v.arrived n (Tbl.get 0 v.arrived n + 2 ^ m) }
        let s := s.modCore x.c (fun k => { k with bar := some x.heldBundle })
        if s.barrierFull v.id n then .final (s.passBarrier v.id n) else .wait s .other

def execBar (b : Bundle) (f : Fields) (s : State) : Host.Outcome State Fault Refusal :=
  issue .bar b f barBody s

/-! ### Mailboxes (R287 to R289) -/

/-- The mailbox that AUX names. -/
def Ctx.boxNum (x : Ctx) : Nat := bits x.f.aux.toNat 0 3

/-- MBS into a mailbox of the issuing core. -/
def Ctx.mailOwn (x : Ctx) (s : State) : Res :=
  if 4 ≤ ((s.core x.c).mailbox x.boxNum).cnt then
    (if mailNoWait x.f then x.give s 0 else .wait s .other)
  else if !(s.core x.c).settled x.st || x.logWaits s .clus then .wait s .access
  else x.give ((s.release x.c x.st .clus).enterMail x.c x.boxNum (x.reg s x.f.sa)) 1

/-- The entry of an MBS goes on its way to a core. -/
def Ctx.sendMail (x : Ctx) (s : State) (t : Nat) : State :=
  let m := ((s.core t).task.map (fun u => u.member)).getD 0
  (s.modCore t (fun k => { k with mail := k.mail ++
    [{ box := x.boxNum, value := x.reg s x.f.sa, sender := x.c, held := x.heldBundle }] })).modCore x.c
      (fun k => { k with mbsTo := some m })

/-- MBS waits for the arrival of its entry: only the entry's end or that of the receiver's task ends the wait (Table
11.4).  While the receiver's context is saved the entry has no core to go to, and it goes to the one that the receiver
is restored on (log entry 136). -/
def Ctx.awaitMail (x : Ctx) (s : State) (v : Convoy) (m : Nat) : Res :=
  let t := Tbl.get x.c v.cores m
  if v.ended.contains m then .trap (s.withdrawMail x.c) (x.selectorTrap s)
  else if s.cores.any (fun e => e.2.mail.any (fun q => q.sender == x.c)) || t == x.c || !s.mayReach x.c t then
    .wait s .other
  else .wait (x.sendMail s t) .other

/-- MBS sends its entry on its way, and P waits for its arrival; a receiver whose task has ended makes it trap
(R289). -/
def mbsBody (x : Ctx) (s : State) : Res :=
  match (s.core x.c).mbsTo, s.convoyOn x.c with
  | some m, some v => x.awaitMail s v m
  | _, _ =>
    match x.selected s with
    | none => .trap s (x.selectorTrap s)
    | some t => if t = x.c then x.mailOwn s else .wait (x.sendMail s t) .other

def execMbs (b : Bundle) (f : Fields) (s : State) : Host.Outcome State Fault Refusal :=
  issue .mbs b f mbsBody s

/-- MBR takes, or with PK peeks at, the oldest entry; with NB it reports success in a predicate. -/
def mbrBody (x : Ctx) (s : State) : Res :=
  let k := s.core x.c
  let m := k.mailbox x.boxNum
  let nb := bit x.f.mod.toNat 0
  if m.cnt = 0 then
    (if nb then .done (x.locked s 2 [x.writes x.f.sc 0]) .seq else .wait s .other)
  else
    let v := Tbl.get 0 m.slots m.head
    let m' := if bit x.f.mod.toNat 1 then m else { m with head := (m.head + 1) % 4, cnt := m.cnt - 1 }
    .done (x.locked (s.setCore x.c (k.setMailbox x.boxNum m')) 2
      (x.writes x.f.dst v :: (if nb then [x.writes x.f.sc ones64] else []))) .seq

def execMbr (b : Bundle) (f : Fields) (s : State) : Host.Outcome State Fault Refusal :=
  issue .mbr b f mbrBody s

/-- MAILBOX_ARRIVAL: one of the entries on their way that may arrive does (R287); which one is open.  None arrives
while the clocks are gated (R340). -/
def execMailboxArrival (core : Nat) (s : State) : Host.Outcome State Fault Refusal :=
  if s.gated then .next s
  else if core < coreCount then
    let ms := (s.core core).mail.filter (s.mailReady core)
    match ms[Config.freePick s.fresh % ms.length]? with
    | some m => .next ({ s with fresh := s.fresh + 1 }.arrive core m)
    | none => .next s
  else .fault .noSuchAgent

end Sys2Proof.Machine
end

