-- ==== Sys2Proof/Machine/Charts.lean ====
section
/-!
DEFINITION. Chart instructions (R348 to R359) as P issues them: their checks, and their places in the line of a slot.

A synchronous operation that finds nothing before it in its slot's line is performed in the step that issues it.
Else P's bundle waits in the line until its turn comes.  Its result lands a tick after that, before the stream's
next bundle (R351; log entry 45).
-/

namespace Sys2Proof.Machine

/-- A trap whose first address is a detail code (R349, R352); CHART is decided after issue (R87). -/
def detailTrap (c : Cause) (d : Nat) : TrapInfo := { cause := c, addr0 := d, late := c == .chart }

/-- Go on with the slot of a handle that passes its checks. -/
def Ctx.withChart (x : Ctx) (s : State) (h : Word) (go : ChartSlot → Res) : Res :=
  match x.handleDetail s h with
  | some d => .trap s (detailTrap .chart d)
  | none => go (s.chartOf h)

/-- A synchronous operation on a slot: performed when nothing stands before it in the slot's line, where it waits
for its turn otherwise (R354). -/
def Ctx.chartTurn (x : Ctx) (s : State) (n : Nat) (t : ChartSlot) : Res :=
  match t.moves with
  | [] => .done (x.chartEffect s) .seq
  | m :: rest =>
    if m.ofCore x.c then .done (x.chartEffect (s.leaveCharts x.c)) .seq
    else if rest.any (fun m => m.ofCore x.c) then .wait s .other
    else .wait (x.joinChart s n t) .other

/-! ### CHT.OPEN, CHT.APPEND, CHT.CLOSE (R353) -/

def chtOpenBody (x : Ctx) (s : State) : Res :=
  let e := (x.rawZ s x.f.sa).toNat
  let bound := bit x.f.mod.toNat 0
  let d := s.die (dieOf x.c)
  if e < 10 || 20 < e then .trap s (detailTrap .chart 0x06)
  else if bound && 8 ≤ (s.core x.c).cbl.length then .trap s (detailTrap .chart 0x04)
  else if (s.core x.c).acquirePending x.st then .wait s .access
  else
    match d.slotFor e with
    | none => .done (x.chartOpen s) .seq
    | some n => if (d.chart n).moves.isEmpty then .done (x.chartOpen s) .seq else .wait s .other

def execChtOpen (b : Bundle) (f : Fields) (s : State) : Host.Outcome State Fault Refusal :=
  issue .chtOpen b f chtOpenBody s

def chtAppendBody (x : Ctx) (s : State) : Res :=
  let h := x.reg s x.f.sa
  let n := (x.reg s x.f.sc).toNat
  match x.holdCheck s (x.reg s x.f.sb).toNat (4 * n) 4 false with
  | some t => .trap s t
  | none =>
    x.withChart s h (fun t =>
      if 65536 < n then .trap s (detailTrap .chart 0x05)
      else if (s.core x.c).acquirePending x.st then .wait s .access
      else x.chartTurn s (handleSlot h) t)

def execChtAppend (b : Bundle) (f : Fields) (s : State) : Host.Outcome State Fault Refusal :=
  issue .chtAppend b f chtAppendBody s

def chtCloseBody (x : Ctx) (s : State) : Res :=
  let h := x.reg s x.f.sa
  x.withChart s h (fun t =>
    if (s.core x.c).acquirePending x.st then .wait s .access else x.chartTurn s (handleSlot h) t)

def execChtClose (b : Bundle) (f : Fields) (s : State) : Host.Outcome State Fault Refusal :=
  issue .chtClose b f chtCloseBody s

/-! ### CHT.PROP and CHT.PROPT (R355, R356) -/

/-- A proposal: the checks of R368, then its place in the slot's line. -/
def proposeBody (size : Nat) (x : Ctx) (s : State) : Res :=
  let h := x.reg s x.f.sa
  let k := s.core x.c
  match x.holdCheck s (x.reg s x.f.sb).toNat size 16 true with
  | some t => .trap s t
  | none =>
    x.withChart s h (fun t =>
      if k.acquirePending x.st || k.loadsBefore x.st then .wait s .access
      else x.chartTurn s (handleSlot h) t)

def execChtProp (b : Bundle) (f : Fields) (s : State) : Host.Outcome State Fault Refusal :=
  issue .chtProp b f (proposeBody 80) s

def execChtPropt (b : Bundle) (f : Fields) (s : State) : Host.Outcome State Fault Refusal :=
  issue .chtPropt b f (proposeBody 288) s

/-! ### CHT.SAVE and CHT.LOAD (R358) -/

/-- The number of a scalar register operand. -/
def tokenNumber (o : Operand) : Nat :=
  match o with
  | .s n => n.val
  | _ => 0

/-- Enter a transfer at its slot; P goes on. -/
def transferBody (save : Bool) (x : Ctx) (s : State) : Res :=
  let h := x.reg s x.f.sa
  let a := (x.reg s x.f.sb).toNat
  let kind : AccessKind := if save then .store else .load
  if a % 64 ≠ 0 then .trap s { cause := .align, addr0 := a, fdet := Fdet.word { kind := kind.code } }
  else
    x.withChart s h (fun t =>
      let k := s.core x.c
      let m : ChartMove :=
        { save, core := x.c, token := tokenNumber x.f.dst, image := a, slot := handleSlot h,
          asid := t.asid, seq := k.seq }
      let s := s.setCore x.c { k with charts := k.charts ++ [m], seq := k.seq + 1 }
      .done (s.setChart x.c (handleSlot h) { t with busy := t.moves.isEmpty || t.busy, moves := t.moves ++ [m] }) .seq)

def execChtSave (b : Bundle) (f : Fields) (s : State) : Host.Outcome State Fault Refusal :=
  issue .chtSave b f (transferBody true) s

def execChtLoad (b : Bundle) (f : Fields) (s : State) : Host.Outcome State Fault Refusal :=
  issue .chtLoad b f (transferBody false) s

/-- CHART_TRANSFER_END: the transfer in progress on a slot is performed and ends. -/
def execChartTransferEnd (die slot : Nat) (s : State) : Host.Outcome State Fault Refusal :=
  if die < dieCount ∧ slot < chartSlots then
    match ((s.die die).chart slot).moves with
    | m :: _ => .next (if m.sync then s else s.endTransfer die m)
    | [] => .next s
  else .fault .noSuchAgent

end Sys2Proof.Machine
end

