-- ==== Sys2Proof/Machine/Convert.lean ====
section
/-!
DEFINITION. Conversions, block packing, scale tags and the floating-point flags (R125 to R135).
-/

namespace Sys2Proof.Machine

/-! ### CVT and CVT.Q (R128, R129) -/

def cvtBody (x : Ctx) (s : State) : Res :=
  let src := x.f.srcTyp
  let (v, fl) := convert src x.f.typ x.f.mod (x.raw s src x.f.sa).toNat
  .done (x.result s 2 [x.writes x.f.dst v, x.flagEffect fl]) .seq

def execCvt (b : Bundle) (f : Fields) (s : State) : Host.Outcome State Fault Refusal :=
  issue .cvt b f cvtBody s

/-- Values made element by element: the code of each enabled element, 0 for a disabled one, and the flags
of the enabled ones (R125, R135). -/
def elements (on : Nat → Bool) (g : Nat → Nat × Flags) (n : Nat) : List Nat × Flags :=
  let l := (List.range n).map (fun i => if on i then g i else (0, 0))
  (l.map (fun e => e.1), l.foldl (fun fl e => fl ||| e.2) 0)

/-- CVT.Q reads part k of the source entry, in lanes of the source width (R129). -/
def cvtQEntry (x : Ctx) (s : State) (taken : Operand → Entry) : Entry × List Effect :=
  let src := x.f.srcTyp
  let ws := src.laneWidth
  let wd := x.f.typ.laneWidth
  let w := max ws wd
  let n := 1024 / w
  let k := bits x.f.mod.toNat 3 2
  let (l, fl) := elements (x.laneOn s w) (fun j =>
    let (v, fl) := convert src x.f.typ (x.f.mod &&& 7) (laneOf (taken x.f.sa) ws (k * n + j))
    (v.toNat, fl)) n
  (entryOf wd l, [x.flagEffect fl])

def execCvtQ (b : Bundle) (f : Fields) (s : State) : Host.Outcome State Fault Refusal :=
  issue .cvtQ b f (queueBody 4 cvtQEntry) s

/-! ### Block codes (R115, R116, R130, R131) -/

/-- Whether m · 2^e is below, equal to or above a natural number: −1, 0 or 1. -/
def compareNat (m : Nat) (e : Int) (k : Nat) : Int :=
  let a := if 0 ≤ e then m * 2 ^ e.toNat else m
  let b := if 0 ≤ e then k else k * 2 ^ (-e).toNat
  if a < b then -1 else if a = b then 0 else 1

/-- The magnitudes of a signed Q4 type in integer form, with the one that its spacing would give next: a value
overflows when it rounds to that one.  R130 rounds over the finite set and names no next value, so that for P4 and
H4, where 16 and 64 in the type's own values follow, this is the model's choice (log entry 96). -/
def q4Steps (ty : Nat) : List Nat :=
  match ty with
  | 1 => [0, 1, 2, 3, 4, 6, 8, 12, 16]
  | 2 => [0, 1, 2, 4, 8, 16, 32, 64, 128]
  | _ => [0, 1, 2, 3, 4, 8, 16, 32, 64]

/-- The number of steps at or below m · 2^e, less one. -/
def stepBelow (steps : List Nat) (m : Nat) (e : Int) : Nat :=
  (steps.filter (fun k => 0 ≤ compareNat m e k)).length - 1

/-- Round a magnitude to a step: the index, and whether it is exact. -/
def roundStep (mode : Rounding) (neg : Bool) (steps : List Nat) (m : Nat) (e : Int) : Nat × Bool :=
  let i := stepBelow steps m e
  let lo := (steps[i]?).getD 0
  let hi := (steps[i + 1]?).getD 0
  if steps.length ≤ i + 1 then (i, true)
  else if compareNat m e lo = 0 then (i, true)
  else
    let half := compareNat m (e + 1) (lo + hi)
    (roundInt mode neg i (if half < 0 then 1 else if half = 0 then 2 else 3), false)

/-- A value as an integer code of `w` bits, clamped (R122, R130): I4 and the I8 block type.  `low` asks
for the underflow of a Q4 type. -/
def encodeInt (w : Nat) (low : Bool) (mode : Rounding) (v : FVal) : Nat × Flags :=
  let hi : Int := ((2 ^ (w - 1) : Nat) : Int) - 1
  let lo : Int := -hi - 1
  match v with
  | .nan _ => (lowBits hi w, flagNV)
  | .inf neg => (lowBits (if neg then lo else hi) w, flagOF)
  | .fin neg m e =>
    let (r, inexact) := roundToInt mode neg m e
    if r < lo then (lowBits lo w, flagOF ||| flagNX)
    else if hi < r then (lowBits hi w, flagOF ||| flagNX)
    else
      (lowBits r w, (if inexact then flagNX else 0) |||
        (if low ∧ inexact ∧ compareNat m e 1 < 0 then flagUF else 0))

/-- A value as a code of a signed Q4 type (R122, R130). -/
def encodeQ4 (ty : Nat) (mode : Rounding) (v : FVal) : Nat × Flags :=
  match v with
  | .nan _ => (7, flagNV)
  | .inf neg => (if neg then 15 else 7, flagOF)
  | .fin neg m e =>
    let e := e + q4Shift ty
    let (i, exact) := roundStep mode neg (q4Steps ty) m e
    if m = 0 then (0, 0)
    else if 8 ≤ i then (if neg then 15 else 7, flagOF ||| flagNX)
    else
      (if i = 0 then 0 else if neg then 8 + i else i,
        if exact then 0 else flagNX ||| (if compareNat m e 1 < 0 then flagUF else 0))

/-- The code of one element of a Q4 block (R130). -/
def packQ4 (ty : Nat) (mod : BitVec 5) (v : FVal) : Nat × Flags :=
  if ty = 0 then encodeInt 4 true (Rounding.ofMod mod) v else encodeQ4 ty (Rounding.ofMod mod) v

/-- The code of one element of an F8 block (R130); type 11 is zero with NV. -/
def packF8 (ty : Nat) (mod : BitVec 5) (v : FVal) : Nat × Flags :=
  let put (f : Format) : Nat × Flags :=
    let r := f.ofVal (Rounding.ofMod mod) (satOfMod mod) v
    (r.code, r.flags)
  match ty with
  | 0 => put Typ.e4m3.format
  | 1 => put Typ.e5m2.format
  | 2 => encodeInt 8 false (Rounding.ofMod mod) v
  | _ => (0, flagNV)

/-- Blocks of an entry of a float type: one of FP32, two of FP16 or BF16 (R130). -/
def blockCount (t : Typ) : Nat := if t = .f32 then 1 else 2

/-- The type of block c of a tag word (R130). -/
def Ctx.blockType (x : Ctx) (s : State) (c : Nat) : Nat := bits (x.rawZ s x.f.sb).toNat (16 * c + 10) 2

/-- An entry of block codes of `w` bits from the low elements of the source entry (R130). -/
def packEntry (w : Nat) (g : Nat → BitVec 5 → FVal → Nat × Flags) (x : Ctx) (s : State)
    (taken : Operand → Entry) : Entry × List Effect :=
  let t := x.f.typ
  let (l, fl) := elements (fun j => (x.mask s).getLsbD j) (fun j =>
    g (x.blockType s (j / 32)) x.f.mod (t.format.decode (laneOf (taken x.f.sa) t.width j)))
    (32 * blockCount t)
  (entryOf w l, [x.flagEffect fl])

/-- The value of a Q4 code (R115): zero codes have no sign (R131). -/
def q4Val (ty code : Nat) : FVal :=
  let v := q4Int ty code
  .fin (v < 0) v.natAbs (-(q4Shift ty : Int))

/-- The value of one element of an F8 block with its flag (R116, R131). -/
def unpackF8 (ty code : Nat) : FVal × Flags := (f8Val ty code, if 3 ≤ ty then flagNV else 0)

/-- An entry of float values from a chunk of block codes of `w` bits (R131). -/
def unpackEntry (w : Nat) (g : Nat → Nat → FVal × Flags) (x : Ctx) (s : State)
    (taken : Operand → Entry) : Entry × List Effect :=
  let t := x.f.typ
  let n := 32 * blockCount t
  let chunk := bits x.f.mod.toNat 0 3
  let (l, fl) := elements (fun j => (x.mask s).getLsbD j) (fun j =>
    let (v, fl) := g (x.blockType s (j / 32)) (laneOf (taken x.f.sa) w (chunk * n + j))
    let r := t.format.ofVal .rne false v
    (r.code, r.flags ||| fl)) n
  (entryOf t.width l, [x.flagEffect fl])

def execPack4 (b : Bundle) (f : Fields) (s : State) : Host.Outcome State Fault Refusal :=
  issue .pack4 b f (queueBody 4 (packEntry 4 packQ4)) s

def execPack8 (b : Bundle) (f : Fields) (s : State) : Host.Outcome State Fault Refusal :=
  issue .pack8 b f (queueBody 4 (packEntry 8 packF8)) s

def execUnpk4 (b : Bundle) (f : Fields) (s : State) : Host.Outcome State Fault Refusal :=
  issue .unpk4 b f (queueBody 4 (unpackEntry 4 (fun ty c => (q4Val ty c, 0)))) s

def execUnpk8 (b : Bundle) (f : Fields) (s : State) : Host.Outcome State Fault Refusal :=
  issue .unpk8 b f (queueBody 4 (unpackEntry 8 unpackF8)) s

/-! ### QTAG (R132) -/

/-- The ten bits of a scale tag for a value: the tag format continued upwards without bound, then
clamped. -/
def scaleCode (mode : Rounding) (v : FVal) : Nat × Flags :=
  match v with
  | .nan _ => (0, flagNV)
  | .inf neg => if neg then (0, flagNV) else (0x3FF, flagOF)
  | .fin neg m e =>
    if m = 0 then (0, 0)
    else if neg then (0, flagNV)
    else
      let top := (Nat.log2 m : Int) + e
      if top < -62 then
        -- between 0 and 2^−62; 2^−63 lies midway and goes up
        let up := match mode with
          | .rne => decide (-63 ≤ top)
          | .rup => true
          | _ => false
        if up then (8, flagNX) else (0, flagUF ||| flagNX)
      else
        let (q, left) := scaleDown m (e - (top - 3))
        let code := (top + 62).toNat * 8 + roundInt mode false q left
        if 0x3FF < code then (0x3FF, flagOF ||| flagNX)
        else (code, if left = 0 then 0 else flagNX)

/-- The tag of an FP32 code. -/
def Ctx.tagOf (x : Ctx) (code : Nat) : Nat × Flags :=
  let (c, fl) := scaleCode (Rounding.ofMod x.f.mod) (Typ.f32.format.decode (code % 2 ^ 32))
  (bits x.f.imm.toNat 0 2 * 2 ^ 10 + c, fl)

def qtagEntry (x : Ctx) (s : State) (taken : Operand → Entry) : Entry × List Effect :=
  let (l, fl) := elements (fun j => (x.mask s).getLsbD j) (fun j => x.tagOf (laneOf (taken x.f.sa) 32 j)) 32
  (entryOf 16 l, [x.flagEffect fl])

def qtagBody (x : Ctx) (s : State) : Res :=
  if x.f.dst.isQueue then queueBody 4 qtagEntry x s
  else
    let (v, fl) := x.tagOf (x.reg s x.f.sa).toNat
    .done (x.result s 2 [x.writes x.f.dst (BitVec.ofNat 64 v), x.flagEffect fl]) .seq

def execQtag (b : Bundle) (f : Fields) (s : State) : Host.Outcome State Fault Refusal :=
  issue .qtag b f qtagBody s

/-! ### FFLAG and FCLS (R126, R133, R134) -/

/-- A flag-setting operation of a stream has not landed. -/
def Core.flagsPending (k : Core) (st : Stream) : Bool :=
  k.flight.any (fun l => l.effects.any (fun e => match e with
    | .flags u _ => u == st
    | _ => false))

def fflagBody (x : Ctx) (s : State) : Res :=
  if (s.core x.c).flagsPending x.st then .wait s .latency
  else
    let old := (s.stream x.c x.st).fstat
    let m : Flags := BitVec.ofNat 5 x.f.imm.toNat
    let new := match bits x.f.mod.toNat 0 2 with
      | 1 => old &&& ~~~m
      | 2 => old ||| m
      | _ => old
    .done (x.result (s.modStream x.c x.st (fun t => { t with fstat := new })) 1
      [x.writes x.f.dst (old.zeroExtend 64)]) .seq

def execFflag (b : Bundle) (f : Fields) (s : State) : Host.Outcome State Fault Refusal :=
  issue .fflag b f fflagBody s

/-- The class number of a code (Table 5.8). -/
def floatClass (f : Format) (code : Nat) : Nat :=
  match f.decode code with
  | .nan sig => if sig then 8 else 9
  | .inf neg => if neg then 0 else 7
  | .fin neg m _ =>
    if m = 0 then (if neg then 3 else 4)
    else if bits code f.mw f.ew = 0 then (if neg then 2 else 5)
    else (if neg then 1 else 6)

def fclsValue (x : Ctx) (s : State) : Word :=
  let t := x.f.typ
  let c := floatClass t.format ((x.reg s x.f.sa).toNat % 2 ^ t.width)
  if x.f.dst.isPred then (if bit x.f.imm.toNat c then ones64 else 0) else BitVec.ofNat 64 (2 ^ c)

def fclsBody (x : Ctx) (s : State) : Res :=
  .done (x.result s 1 [x.writes x.f.dst (fclsValue x s)]) .seq

def execFcls (b : Bundle) (f : Fields) (s : State) : Host.Outcome State Fault Refusal :=
  issue .fcls b f fclsBody s

end Sys2Proof.Machine
end

