-- ==== Sys2Proof/Machine/Governor.lean ====
section
/-!
DEFINITION. The balance of the two stacked layers of an island with its ballast (R336, R337).
-/

namespace Sys2Proof.Machine

/-! ### Layers and ballast (R336, R337) -/

/-- The layer of a core in its island. -/
def layerOf (c : Nat) : Nat := c % 8 / 4

/-- The weight of a core where the tasks and ballast of some cores count for nothing. -/
def State.coreWeight (s : State) (gone : List Nat) (c : Nat) : Nat :=
  let v := s.island (islandOf c)
  let k := s.core c
  let own := match k.task with
    | some t => Tbl.get 0 v.weight t.eclass
    | none => if k.ballast then v.bweight else 0
  (if gone.contains c then 0 else own) + (if isFirmware c then v.fweight else 0)

/-- The weight of a layer with a class's tasks placed on some cores. -/
def State.layerWeight (s : State) (i l : Nat) (gone cs : List Nat) (e : Nat) : Nat :=
  let cores := (islandCores i).filter (fun c => layerOf c == l)
  (cores.map (fun c => s.coreWeight (gone ++ cs) c)).sum +
    (cores.filter (fun c => cs.contains c)).length * Tbl.get 0 (s.island i).weight e

/-- Two weights within 10 %. -/
def inBalance (a b : Nat) : Bool := 10 * (max a b - min a b) ≤ max a b

/-- A core may take ballast: free, kept by no convoy, not taken by the placement and without ballast already. -/
def State.mayBallast (s : State) (gone cs : List Nat) (c : Nat) : Bool :=
  let k := s.core c
  ((k.task.isNone && !s.coreHeld c) || gone.contains c) && !isFirmware c && !k.ballast && !cs.contains c

/-- The ballast cores that bring two weights into balance: the fewest, of the lowest numbers, on the
lighter layer; none where none do. -/
def State.ballastFor (s : State) (i w0 w1 : Nat) (gone cs : List Nat) : Option (List Nat) :=
  if inBalance w0 w1 then some []
  else
    let l := if w0 < w1 then 0 else 1
    let f := (islandCores i).filter (fun c => layerOf c == l && s.mayBallast gone cs c)
    let b := (s.island i).bweight
    ((List.range f.length).map (fun n => n + 1)).findSome? (fun n =>
      if inBalance (w0 + (if l = 0 then n * b else 0)) (w1 + (if l = 1 then n * b else 0)) then
        some (f.take n)
      else none)

/-- layer_ok of R336: the ballast that a placement needs; none where the head is held.  A restored convoy also takes
the cores that it keeps for its ended members, on which nothing runs (R21). -/
def State.layerPlan (s : State) (i : Nat) (gone cs kept : List Nat) (e : Nat) : Option (List Nat) :=
  s.ballastFor i (s.layerWeight i 0 (gone ++ kept) cs e) (s.layerWeight i 1 (gone ++ kept) cs e) gone (cs ++ kept)

/-- Start ballast on a core, charged at once, after the boundaries that have come (R326, R337). -/
def State.startBallast (s : State) (c : Nat) : State :=
  if (s.core c).ballast then s
  else
  let s := (s.catchTides (dieOf c)).modCore c (fun k => { k with ballast := true })
  s.changeBal (islandOf c) (-((s.island (islandOf c)).bcost : Int))

/-- Stop ballast on a core, after the boundaries that have come. -/
def State.stopBallast (s : State) (c : Nat) : State :=
  (s.catchTides (dieOf c)).modCore c (fun k => { k with ballast := false })

/-- The ballast to stop at a task's end: the largest number, highest cores first, that leaves the layers
within 10 % (R336). -/
def State.ballastToStop (s : State) (i : Nat) : List Nat :=
  let on (l : Nat) : List Nat := ((s.ballastCores i).filter (fun c => layerOf c == l)).reverse
  let b := (s.island i).bweight
  let w (l : Nat) : Nat := s.layerWeight i l [] [] 0
  let choices := (List.range 9).reverse.flatMap (fun n =>
    (List.range (n + 1)).reverse.map (fun n1 => (n - n1, n1)))
  match choices.find? (fun e => e.1 ≤ (on 0).length && e.2 ≤ (on 1).length && 0 < e.1 + e.2 &&
      inBalance (w 0 - e.1 * b) (w 1 - e.2 * b)) with
  | some e => (on 0).take e.1 ++ (on 1).take e.2
  | none => []

/-- The layers of an island that a bar holds are still out of balance (R336). -/
def State.unbalanced (s : State) (i : Nat) : Bool :=
  (s.island i).barred.isSome && !inBalance (s.layerWeight i 0 [] [] 0) (s.layerWeight i 1 [] [] 0)

/-- The governor recomputes the weights of an island when a task has ended: where no ballast restores balance, the
clock stretcher is engaged and the heavier layer barred (R335, R336). -/
def State.rebalance (s : State) (i : Nat) : State :=
  let s := (s.ballastToStop i).foldl State.stopBallast s
  let w0 := s.layerWeight i 0 [] [] 0
  let w1 := s.layerWeight i 1 [] [] 0
  match s.ballastFor i w0 w1 [] [] with
  | some cs => cs.foldl State.startBallast (s.setIsland i { s.island i with barred := none })
  | none => s.setIsland i { s.island i with barred := some (if w0 < w1 then 1 else 0), stretch := true }

/-- No unit starts on a layer that is too heavy for any ballast, until balance is restored (R336). -/
def State.layerBarred (s : State) (c : Nat) : Bool :=
  (s.island (islandOf c)).barred == some (layerOf c) && s.unbalanced (islandOf c)

end Sys2Proof.Machine
end

