-- ==== Sys2Proof/Machine/Energy.lean ====
section
/-!
DEFINITION. Energy instructions (R341 to R346) and the events of budget, throttle, clocks and time (R326,
R329, R331, R334, R335, R339, R340).
-/

namespace Sys2Proof.Machine

/-! ### Selectors and results (R341) -/

/-- The island that a selector names. -/
def Ctx.islandNamed (x : Ctx) (v : Nat) : Option Nat :=
  if v = 0 then some (islandOf x.c)
  else if 0x40 ≤ v ∧ v < 0x40 + islandCount then some (v - 0x40)
  else none

/-- Go on with the island that a selector register names, after the boundaries that have come: a task names its own,
and no other value of a selector exists (R326, R341). -/
def Ctx.withIsland (x : Ctx) (s : State) (go : State → Nat → Res) : Res :=
  let v := (x.reg s x.f.sa).toNat
  if v ≠ 0 ∧ !isFirmware x.c then .plain s .priv
  else
    match x.islandNamed v with
    | some i => go (s.catchTides (i / 6)) i
    | none => .trap s { cause := .access, addr0 := v, fdet := Fdet.word {} }

/-- The island as the issuing core's operation finds it. -/
def Ctx.seen (x : Ctx) (s : State) (i : Nat) : Island := (s.island i).seenBy x.c

/-- A result: 4 ticks for the issuing island, and no published bound for another (R17, R341).  The value read on
another island is that at issue (log entry 98). -/
def Ctx.energyResult (x : Ctx) (s : State) (i : Nat) (v : Word) : Res :=
  if i = islandOf x.c then .done (x.locked s 4 [x.writes x.f.dst v]) .seq
  else
    .done (x.locked { s with fresh := s.fresh + 1 } (10 + Config.freePick s.fresh)
      [x.writes x.f.dst v]) .seq

/-! ### EBUD (R342) -/

/-- A field of Table 13.7. -/
def Island.field (v : Island) (n : Nat) : Word :=
  match n with
  | 0 => wordOfInt v.bal
  | 1 => BitVec.ofNat 64 v.grant
  | 2 => BitVec.ofNat 64 v.res
  | 3 => BitVec.ofNat 64 v.rbal
  | 4 => BitVec.ofNat 64 (2 * v.grant)
  | 5 => BitVec.ofNat 64 v.tides
  | 6 => BitVec.ofNat 64 v.mrate
  | _ => BitVec.ofNat 64 (v.fweight * 2 ^ 24 + v.bweight * 2 ^ 16 + v.bcost)

def Ctx.budgetField (x : Ctx) : Nat := bits x.f.imm.toNat 0 3

def ebudBody (x : Ctx) (s : State) : Res :=
  x.withIsland s (fun s i => x.energyResult s i ((x.seen s i).field x.budgetField))

def execEbud (b : Bundle) (f : Fields) (s : State) : Host.Outcome State Fault Refusal :=
  issue .ebud b f ebudBody s

def ebudWBody (x : Ctx) (s : State) : Res :=
  let new := (x.reg s x.f.sb).toNat
  x.withIsland s (fun t i =>
    if ((x.seen t i).writeField x.budgetField new).isNone then .plain s .illfield
    else x.energyResult (t.sendWrite x.c i (.field x.budgetField new)) i ((x.seen t i).field x.budgetField))

def execEbudW (b : Bundle) (f : Fields) (s : State) : Host.Outcome State Fault Refusal :=
  issue .ebudW b f ebudWBody s

/-! ### EVAR and EJRD (R343, R344) -/

/-- A counter of the issuing task; no rule states one for a core that runs no task. -/
def Ctx.taskValue (x : Ctx) (s : State) (g : Task → Word) : Res :=
  match (s.core x.c).task with
  | some t => .done (x.locked s 4 [x.writes x.f.dst (g t)]) .seq
  | none =>
    .done (x.locked { s with fresh := s.fresh + 1 } 4 [x.writes x.f.dst (Config.freeWord s.fresh)]) .seq

def evarBody (x : Ctx) (s : State) : Res := x.taskValue s (fun t => t.drec)

def execEvar (b : Bundle) (f : Fields) (s : State) : Host.Outcome State Fault Refusal :=
  issue .evar b f evarBody s

/-- EJRD reads after every line that has reached or left its device is metered (R344). -/
def ejrdBody (x : Ctx) (s : State) : Res := x.taskValue s.meterLines (fun t => t.jctr)

def execEjrd (b : Bundle) (f : Fields) (s : State) : Host.Outcome State Fault Refusal :=
  issue .ejrd b f ejrdBody s

def ejrdIBody (x : Ctx) (s : State) : Res :=
  x.withIsland s (fun s i => x.energyResult s i (BitVec.ofNat 64 (s.island i).emeas))

def execEjrdI (b : Bundle) (f : Fields) (s : State) : Host.Outcome State Fault Refusal :=
  issue .ejrdI b f ejrdIBody s

def ejrdBBody (x : Ctx) (s : State) : Res := x.taskValue s.meterLines (fun t => t.mbytes)

def execEjrdB (b : Bundle) (f : Fields) (s : State) : Host.Outcome State Fault Refusal :=
  issue .ejrdB b f ejrdBBody s

/-! ### ECLS (R345) -/

/-- Cost and weight of a class. -/
def Island.classWord (v : Island) (n : Nat) : Word :=
  BitVec.ofNat 64 (Tbl.get 0 v.weight n * 2 ^ 16 + Tbl.get 0 v.cost n)

def Ctx.energyClass (x : Ctx) : Nat := bits x.f.imm.toNat 0 4

def eclsBody (x : Ctx) (s : State) : Res :=
  x.withIsland s (fun s i => x.energyResult s i ((x.seen s i).classWord x.energyClass))

def execEcls (b : Bundle) (f : Fields) (s : State) : Host.Outcome State Fault Refusal :=
  issue .ecls b f eclsBody s

def eclsWBody (x : Ctx) (s : State) : Res :=
  let new := (x.reg s x.f.sb).toNat
  x.withIsland s (fun t i =>
    if 2 ^ 24 ≤ new then .plain s .illfield
    else
      x.energyResult (t.sendWrite x.c i (.cls x.energyClass new)) i ((x.seen t i).classWord x.energyClass))

def execEclsW (b : Bundle) (f : Fields) (s : State) : Host.Outcome State Fault Refusal :=
  issue .eclsW b f eclsWBody s

/-! ### ETHR (R346) -/

/-- The status word of Table 13.8. -/
def Island.status (v : Island) : Word :=
  BitVec.ofNat 64 ((if v.tws then v.tstep % 2 ^ 32 * 2 ^ 32 + 2 ^ 13 else 0) + v.thr * 2 ^ 11 +
    (if v.boost then 2 ^ 10 else 0) + v.opmax * 2 ^ 7 + v.ceil * 2 ^ 4 + v.op)

def ethrBody (x : Ctx) (s : State) : Res :=
  x.withIsland s (fun s i => x.energyResult s i (x.seen s i).status)

def execEthr (b : Bundle) (f : Fields) (s : State) : Host.Outcome State Fault Refusal :=
  issue .ethr b f ethrBody s

def ethrWBody (x : Ctx) (s : State) : Res :=
  let new := (x.reg s x.f.sb).toNat
  x.withIsland s (fun t i =>
    if 16 ≤ new ∨ 5 < bits new 0 3 then .plain s .illfield
    else x.energyResult (t.sendWrite x.c i (.limit (bits new 0 3) (bit new 3))) i (x.seen t i).status)

def execEthrW (b : Bundle) (f : Fields) (s : State) : Host.Outcome State Fault Refusal :=
  issue .ethrW b f ethrWBody s

/-! ### Events of budget and throttle -/

/-- TIDE_BOUNDARY: a boundary that has come is applied on every island of the die (R326). -/
def execTideBoundary (die : Nat) (s : State) : Host.Outcome State Fault Refusal :=
  if die < dieCount then .next (s.nextTide die) else .fault .noSuchAgent

/-- The line is one of the task on a core, or of a task that has ended on the core's island. -/
def State.lineOf (s : State) (core : Nat) (ended : Bool) (m : Meter) : Bool :=
  if ended then
    m.island == islandOf core && s.cores.all (fun e => e.2.task.all (fun t => t.id != m.task)) &&
      s.saved.all (fun v => v.task.id != m.task)
  else (s.core core).task.any (fun t => t.id == m.task)

/-- METERED_LINE: the lines of the task on a core that have reached or left their devices are metered, or those of
the tasks that have ended on its island, which no task counter counts and whose charge no rule states (R329).
Every turn of the machine begins with all of them, but while the clocks are gated: a line that moves then is metered in the
tick that holds, after the boundaries that pass in it (R326, R340; log entry 135). -/
def execMeteredLine (core : Nat) (ended : Bool) (s : State) : Host.Outcome State Fault Refusal :=
  if core < coreCount then
    if s.gated then .next s
    else .next ((s.lines.filter (s.lineOf core ended)).foldl (fun t m => t.meterTo (some m))
      { s with lines := s.lines.filter (fun m => !s.lineOf core ended m) })
  else .fault .noSuchAgent

/-- THROTTLE_WARN: the warning that is due on a core is delivered, or held in a handler (R331, R376). -/
def execThrottleWarn (core : Nat) (s : State) : Host.Outcome State Fault Refusal :=
  if core < coreCount then
    let k := s.core core
    if k.loading.isSome || s.gated then .next s
    else if k.inh && k.warnDue then .next (s.holdWarn core)
    else if !k.inh && (k.warnDue || k.warnHeld) then .next (s.deliverWarn core)
    else .next s
  else .fault .noSuchAgent

/-- THROTTLE_STEP: the step of a warning, when TIME has reached it (R331). -/
def execThrottleStep (island : Nat) (s : State) : Host.Outcome State Fault Refusal :=
  if island < islandCount then
    .next ((s.catchTides (island / 6)).stepNow island)
  else .fault .noSuchAgent

/-! ### Events of clocks and time -/

/-- BOOST_WINDOW_END: the end of a window that has run out (R334). -/
def execBoostWindowEnd (island : Nat) (s : State) : Host.Outcome State Fault Refusal :=
  if island < islandCount then
    .next ((s.catchTides (island / 6)).closeWindow island)
  else .fault .noSuchAgent

/-- POWER_LIMIT_STRETCH: the next period of an island lengthens (R335). -/
def execPowerLimitStretch (island : Nat) (s : State) : Host.Outcome State Fault Refusal :=
  if island < islandCount then
    .next (s.setIsland island { s.island island with stretch := true })
  else .fault .noSuchAgent

/-- THERMAL_TRIP: every island clock is gated, and nothing else changes (R340). -/
def execThermalTrip (s : State) : Host.Outcome State Fault Refusal := .next { s with thermal := true }

/-- THERMAL_RESUME: clocks resume; a throttle step that fell due meanwhile is applied first (R331, R340). -/
def execThermalResume (s : State) : Host.Outcome State Fault Refusal :=
  if s.thermal then
    .next ((List.range islandCount).foldl State.stepNow { s with thermal := false })
  else .next s

/-- What a correction of a region's TIME towards a value makes of its skew and slew: TIME rises to a later value,
and slews back to an earlier one as the reference goes on; none where the value is not within 10 ns of the
reference (R339). -/
def State.corrected (s : State) (skew : Int) (value : Nat) : Option (Int × Int) :=
  let d : Int := (value : Int) - (s.refTime : Int)
  if -10 ≤ d ∧ d ≤ 10 then some (max skew d, d) else none

/-- The skew of a region after some ns of the reference: towards what it slews to, but so that its TIME rises in
each reference period of 10 ns (R339). -/
def slewed (skew slew : Int) (ns : Nat) : Int := max slew (skew - ((ns - (ns + 9) / 10 : Nat) : Int))

/-- Nanoseconds of the package time reference pass, in every region (R17, R339). -/
def State.passTime (s : State) (ns : Nat) : State :=
  { s with
    refTime := s.refTime + ns, ioSkew := slewed s.ioSkew s.ioSlew ns,
    islands := s.islands.map (fun e => (e.1, { e.2 with skew := slewed e.2.skew e.2.slew ns })),
    dies := s.dies.map (fun e => (e.1, { e.2 with skew := slewed e.2.skew e.2.slew ns })) }

/-- TIME_CORRECTION: a region corrects its TIME: 0 to 23 the islands, 24 to 27 the die networks, 28 the I/O die
(R17, R339). -/
def execTimeCorrection (region value : Nat) (s : State) : Host.Outcome State Fault Refusal :=
  if region < 24 then
    match s.corrected (s.island region).skew value with
    | some d => .next (s.setIsland region { s.island region with skew := d.1, slew := d.2 })
    | none => .next s
  else if region < 28 then
    match s.corrected (s.die (region - 24)).skew value with
    | some d => .next (s.setDie (region - 24) { s.die (region - 24) with skew := d.1, slew := d.2 })
    | none => .next s
  else if region = 28 then
    match s.corrected s.ioSkew value with
    | some d => .next { s with ioSkew := d.1, ioSlew := d.2 }
    | none => .next s
  else .fault .noSuchAgent

end Sys2Proof.Machine
end

