-- ==== Sys2Proof/Machine/Dispatcher.lean ====
section
/-!
DEFINITION. Launches, tasks and the dispatcher (R293 to R303, R312 to R320): manifests and their checks, the
start and the end of a task, the restore of a context, the choice of a unit at a dispatch slot.

Where the spec leaves the choice of cores open, a free value makes it (log entry 3).
-/

namespace Sys2Proof.Machine

/-! ### Reading memory for the dispatcher and the front end -/

/-- How a read of a range ends. -/
inductive RangeEnd where
  | ok (s : State) (bytes : List Byte)
  | fault (f : TransFault) (addr : Nat)
  /-- A line holds an uncorrectable error. -/
  | error (addr : Nat)
  | wait (s : State)

/-- Read bytes one after another. -/
def State.readBytes (s : State) (c : Nat) : List Mapped → State × List Byte
  | [] => (s, [])
  | m :: rest =>
    let (s, b) := s.readByte c m.pa m.kind
    let (s, bs) := State.readBytes s c rest
    (s, b :: bs)

/-- Read a virtual range in an address space through a core's die, at a privilege, as a DEV acquire. -/
def State.readRange (s : State) (c who : Nat) (root : Word) (fw : Bool) (va n : Nat) : RangeEnd :=
  let addrs := addrsFrom va n
  match s.translateList c who root fw .load false addrs with
  | .fault f a => .fault f a
  | .wait s => .wait s
  | .ok s ms =>
    match (ms.zip addrs).find? (fun e => s.badLines.contains (e.1.pa / 64)) with
    | some e => .error e.2
    | none =>
      let (s, bs) := (s.acquireRdc c .dev).readBytes c ms
      .ok s bs

/-! ### Manifests (R293, R294) -/

/-- The manifest that a 256-byte block holds (Table 12.2). -/
def parseManifest (addr : Nat) (g : Memory) : Manifest :=
  let n (off size : Nat) : Nat := g.read off size
  let flags := n 0x004 4
  { addr, cls := bits flags 0 2, convoy := bits flags 2 3, varok := bit flags 5, count := n 0x008 4,
    eclass := n 0x00C 2, dies := n 0x00E 2,
    entry := { p := n 0x010 8, l := n 0x018 8, x := n 0x020 8, s := n 0x028 8 },
    handler := n 0x030 8, qmap := n 0x038 8, tokinit := n 0x040 8, tmplimg := n 0x048 8,
    holdimg := n 0x050 8, holdlen := n 0x058 4, needcaps := n 0x05C 4, stacktop := n 0x060 8,
    stackstr := n 0x068 4, semimg := n 0x070 8, arg := n 0x078 8, relframe := n 0x080 8,
    period := n 0x088 4, budget := n 0x08C 4, deadline := n 0x090 8, dbbfirst := n 0x098 2,
    dbbcnt := n 0x09A 2, varman := n 0x0A0 8, completion := n 0x0A8 8 }

/-- Tasks of a unit, by the CONVOY code (Table 12.2). -/
def convoySizes : List Nat := [1, 2, 4, 8, 16, 47]
def Manifest.size (m : Manifest) : Nat := (convoySizes[m.convoy]?).getD 1

/-- VERSION is wrong, or a byte outside the table is not zero (R294). -/
def blockBad (g : Memory) : Bool :=
  g.read 0x000 4 != 0x00020000 || bits (g.read 0x004 4) 6 26 != 0 || g.read 0x06C 4 != 0 ||
    g.read 0x09C 4 != 0 || g.read 0x0B0 0x50 != 0

/-- The checks of R294 on the fields, COUNT and CLASS being those after any override. -/
def Manifest.bad (m : Manifest) : Bool :=
  m.cls == 3 || 5 < m.convoy || m.entry.p == 0 || 16777215 < m.count || m.count % m.size != 0 ||
    (m.cls == 0 && (m.budget == 0 || (m.period != 0 && m.period < m.budget))) ||
    m.stackstr % 64 != 0 || 3129344 < m.holdlen || 64 < m.dbbfirst + m.dbbcnt || 15 < m.eclass ||
    16 ≤ m.dies || m.entry.p % 4 != 0 || m.entry.l % 4 != 0 || m.entry.x % 4 != 0 ||
    m.entry.s % 4 != 0 || m.handler % 4 != 0 || m.holdlen % 64 != 0 || m.stacktop % 16 != 0 ||
    m.completion % 32 != 0

/-- The stored manifest of the variant does not go with the stored manifest that names it. -/
def Manifest.variantBad (m v : Manifest) : Bool :=
  v.cls != m.cls || v.convoy != m.convoy || v.count != m.count || v.varman != 0

/-- What a launch overrides (R297, R307). -/
structure Overrides where
  count : Option Nat
  cls   : Option Nat
  arg   : Option Nat
  completion : Option Nat
  deriving DecidableEq, Repr

/-- A manifest with the overrides of its launch. -/
def Manifest.with' (m : Manifest) (o : Overrides) : Manifest :=
  { m with count := o.count.getD m.count, cls := o.cls.getD m.cls, arg := o.arg.getD m.arg,
           completion := o.completion.getD m.completion }

/-- How the reading of a manifest ends: both manifests with the overrides, a fault, a wait, or a check of
R294 that fails. -/
inductive ManifestEnd where
  | ok (s : State) (m : Manifest) (v : Option Manifest)
  | bad (s : State)
  | fault (f : TransFault) (addr : Nat)
  | error (addr : Nat)
  | wait (s : State)

/-- Read and check a manifest and its variant's (R294).  The checks on COUNT and CLASS are on the values after
the overrides, in the variant's manifest too; that on COMPLETION is on the stored one, and so is the comparison of
the two manifests. -/
def State.readManifest (s : State) (c who : Nat) (root : Word) (fw : Bool) (addr : Nat)
    (o : Overrides) : ManifestEnd :=
  match s.readRange c who root fw addr 256 with
  | .fault f a => .fault f a
  | .error a => .error a
  | .wait s => .wait s
  | .ok s bs =>
    let g := memoryOf bs
    let m := parseManifest addr g
    let m' := m.with' o
    if blockBad g || (m.with' { o with completion := none }).bad then .bad s
    else if m.varman = 0 then .ok s m' none
    else if m.varman % 256 ≠ 0 then .bad s
    else
      match s.readRange c who root fw m.varman 256 with
      | .fault f a => .fault f a
      | .error a => .error a
      | .wait s => .wait s
      | .ok s bs =>
        let g := memoryOf bs
        let v := parseManifest m.varman g
        let v' := v.with' { o with completion := none }
        if blockBad g || m.variantBad v || v'.bad then .bad s
        else .ok s m' (if m.varok then some v' else none)

/-! ### Launches -/

/-- Units of a launch. -/
def Launch.units (l : Launch) : Nat := l.man.count / l.man.size

/-- The manifest that a task of a launch runs with. -/
def Launch.manifest (l : Launch) (var : Bool) : Manifest := if var then l.variant.getD l.man else l.man

/-- The dies that a launch may use; 0 means all four (Table 12.2). -/
def Launch.allows (l : Launch) (d : Nat) : Bool := l.man.dies == 0 || bit l.man.dies d

/-- Launch entries that a die has free, of 1024. -/
def State.freeEntries (s : State) (d : Nat) : Nat := 1024 - (s.launches.filter (fun l => l.die == d)).length

/-- The launch with a number. -/
def State.launch? (s : State) (n : Nat) : Option Launch := s.launches.find? (fun l => l.number == n)

/-- Replace the record of a launch. -/
def State.setLaunch (s : State) (l : Launch) : State :=
  { s with launches := s.launches.map (fun m => if m.number = l.number then l else m) }

/-- The dual-backed slots that a launch requests. -/
def Launch.slots (l : Launch) : List Nat := (List.range l.man.dbbcnt).map (fun i => l.man.dbbfirst + i)

/-- Duwen grants a launch's slots when no other launch holds one of them (R188, R294). -/
def State.grantSlots (s : State) (l : Launch) : State :=
  if l.granted then s
  else if l.slots.all (fun n => (s.slot n).launch.isNone) then
    (l.slots.foldl (fun s n => s.setSlot n { s.slot n with launch := some l.number }) s).setLaunch
      { l with granted := true }
  else s

/-- Enter a launch (R297, R310). -/
def State.enterLaunch (s : State) (m : Manifest) (v : Option Manifest) (root : Word) (die : Nat)
    (source : Option Nat) (srcSeq : Nat) : State × Nat :=
  let number := (s.launchSerial + 1) % 2 ^ 32
  let l : Launch :=
    { number, man := m, variant := v, asid := rootAsid root, root, die, source, srcSeq, nextUnit := 0,
      ended := 0, slips := 0, variants := 0, energy := 0, cause := 0, failed := false, firstStart := none,
      passed := [], aged := [], completion := m.completion, granted := false }
  let s := { s with launchSerial := number, launches := s.launches ++ [l] }
  (s.grantSlots l, number)

/-- A task of a launch runs or is saved. -/
def State.launchLive (s : State) (n : Nat) : Bool :=
  s.cores.any (fun e => (e.2.task.map (fun t => t.launch)) == some n) ||
    s.saved.any (fun r => r.task.launch == n)

/-- Every unit of a launch has ended. -/
def State.launchOver (s : State) (l : Launch) : Bool :=
  l.units ≤ l.nextUnit && !s.launchLive l.number

/-- STATUS of a completion record (Table 12.4). -/
def Launch.status (l : Launch) : Nat :=
  (if l.failed then 2 else 1) * 2 ^ 62 + l.cause % 2 ^ 8 * 2 ^ 54 + l.ended % 2 ^ 24

/-- The bytes of a completion record (Table 12.4). -/
def Launch.record (l : Launch) (time : Nat) : List Byte :=
  bytesOfNum l.status 8 ++ bytesOfNum time 8 ++ bytesOfNum l.energy 8 ++ bytesOfNum l.slips 4 ++
    bytesOfNum l.variants 4

/-- Who waits for a page on behalf of a launch's record. -/
def recordWaiter (n : Nat) : Nat := 2 ^ 40 + n

/-- TIME of a die's network. -/
def State.dieTime (s : State) (d : Nat) : Nat := s.timeWith (s.die d).skew

/-- How the write of a range ends. -/
inductive WriteEnd where
  | ok (s : State)
  | fault (s : State) (f : TransFault) (addr : Nat)
  | wait (s : State)

/-- Write bytes from a virtual address of an address space up, through a core's die, as one SYS release. -/
def State.writeRange (s : State) (c who : Nat) (root : Word) (va : Nat) (bytes : List Byte) :
    WriteEnd :=
  match s.translateList c who root false .store false (addrsFrom va bytes.length) with
  | .wait s => .wait s
  | .fault f a => .fault (s.dropPageWaits c who) f a
  | .ok s ms => .ok ((s.writeBack (dieOf c) [.rc]).storeFor none ((ms.map (fun m => m.pa)).zip bytes))

/-- Write a completion record; with true when it is done, and with false while its page is fetched.  A record
that cannot be written is lost, and the fault log says so. -/
def State.writeRecord (s : State) (c who : Nat) (root : Word) (va info : Nat) (bytes : List Byte) :
    Bool × State :=
  if va = 0 then (true, s)
  else
    match s.writeRange c who root va bytes with
    | .wait s => (false, s)
    | .fault s f a =>
      (true, { s with faultLog := { cause := f.cause, core := c, addr := a, info } :: s.faultLog })
    | .ok s => (true, s)

/-- A launch whose last unit has ended is closed: its record is written, its slots are free, and its packet
hears of it (R299, R310). -/
def State.closeLaunch (s : State) (n : Nat) : State :=
  match s.launch? n with
  | none => s
  | some l =>
    if s.launchOver l then
      match s.writeRecord (48 * l.die) (recordWaiter l.number) l.root l.completion l.number
          (l.record (s.dieTime l.die)) with
      | (false, s) => s
      | (true, s) =>
        let s := l.slots.foldl (fun s n =>
          if (s.slot n).launch = some l.number then s.setSlot n { s.slot n with launch := none } else s) s
        { s with launches := s.launches.filter (fun m => m.number != n),
                 completions := s.completions ++ [n] }
    else s

/-- Close every launch that is over. -/
def State.closeLaunches (s : State) : State :=
  (s.launches.map (fun l => l.number)).foldl State.closeLaunch s

/-! ### The end of a task (R285, R299, R302, R350) -/

/-- Close a chart slot of a binding list, after the operations that have arrived at it. -/
def State.dropChart (s : State) (h : Word) : State :=
  let t := s.chartOf h
  if t.opn && t.gen == handleGen h then
    (s.forceCharts (handleDie h) (fun m => m.slot == handleSlot h)).closeChart h
  else s

/-- A core, a saved context, a launch or a host queue has an address space as its own. -/
def State.usesSpace (s : State) (asid : Nat) : Bool :=
  s.cores.any (fun e => (e.2.task.isSome || e.2.fwRun) && rootAsid e.2.ptroot == asid) ||
    s.saved.any (fun r => rootAsid r.ptroot == asid) || s.launches.any (fun l => rootAsid l.root == asid) ||
    s.queues.any (fun e => e.2.enabled && rootAsid e.2.root == asid)

/-- Duwen tears an address space down, one that nothing uses any more: the chart slots that are still open in it are
closed (R350; log entry 118). -/
def State.tearDown (s : State) (asid : Nat) : State :=
  if s.gated || s.usesSpace asid then s
  else
    s.dies.foldl (fun s e => (e.2.charts.filter (fun t => t.2.opn && t.2.asid == asid)).foldl (fun s t =>
      s.dropChart (chartHandle t.2.gen e.1 t.1)) s) s

/-- The arrival masks with a member's bits set. -/
def arriveAll (arrived : Tbl Nat) (m : Nat) : Tbl Nat :=
  (List.range 16).foldl (fun t n =>
    let a := Tbl.get 0 t n
    if bit a m then t else Tbl.set t n (a + 2 ^ m)) arrived

/-- A member leaves its convoy: its bits stay set and its DC buffer, metered to it, waits for the next passage or
the convoy's end; the others may now pass (R285).  The core of one that has run to its end is kept (R21). -/
def State.leaveConvoy (s : State) (t : Task) (m : Meter) (dc : Tbl Byte) (src : Tbl DcOrigin) (keep : Bool) :
    State :=
  match t.convoyId.bind (fun id => s.convoys.find? (fun v => v.id == id)) with
  | none => s
  | some v =>
    let v := { v with ended := t.member :: v.ended, kept := if keep then t.member :: v.kept else v.kept,
                      endedDc := Tbl.set v.endedDc t.member dc,
                      endedFrom := Tbl.set v.endedFrom t.member src, endedMeter := Tbl.set v.endedMeter t.member m,
                      arrived := arriveAll v.arrived t.member }
    let s := s.setConvoy v
    if v.alive.isEmpty then
      let s := s.commitConvoy v
      { s with convoys := s.convoys.filter (fun w => w.id != v.id) }
    else
      (List.range 16).foldl (fun s n => if s.barrierFull v.id n then s.passBarrier v.id n else s) s

/-- A child's end decrements its parent's join counter, in the context area of a saved parent, and sets
EVL[2] (R302, R386). -/
def State.childEnded (s : State) (parent : Option Nat) : State :=
  match parent with
  | none => s
  | some p =>
    match s.cores.find? (fun e => (e.2.task.map (fun t => t.id)) == some p) with
    | some e => s.modCore e.1 (fun k => { k with jcount := k.jcount - 1, evl := k.evl ||| 4 })
    | none =>
      match s.saved.find? (fun r => r.task.id == p) with
      | some r =>
        let mem := s.mem.write (r.area + 0x230) 2 (s.mem.read (r.area + 0x230) 2 - 1)
        { s with mem := mem.write (r.area + 0x30) 8 (mem.read (r.area + 0x30) 8 ||| 64) }
      | none => s

/-- Enter a task's end in its launch. -/
def State.countEnd (s : State) (t : Task) (fail : Option Nat) : State :=
  { s with launches := s.launches.map (fun l =>
      if l.number = t.launch then
        { l with ended := if t.parent.isNone then l.ended + 1 else l.ended,
                 energy := (l.energy + t.jctr.toNat) % 2 ^ 64,
                 failed := l.failed || fail.isSome,
                 cause := if l.cause = 0 then fail.getD 0 else l.cause }
      else l) }

/-- The task on a core ends, well or with a cause: a DEV release of all its accesses; copies not started are
cancelled and the others reach their end.  The core is free, but for that of a convoy's member: the convoy keeps it until
its last member ends (R21; log entry 101). -/
def State.endTask (s : State) (c : Nat) (fail : Option Nat) : State :=
  match (s.core c).task with
  | none => s
  | some _ =>
    let s := s.strike c
    let s := (s.core c).copies.foldl (fun s q => s.cancelCopy c q) s
    let s := ((s.widen c (s.core c).log.length).commitOwn c).releaseRdc c .dev
    let s := ((s.core c).cbl.foldl State.dropChart s).meterLines.forgetWaits c
    let k := s.core c
    match k.task with
    | none => s
    | some t =>
      let s := s.setCore c (k.vacate k.parked)
      let m : Meter := { task := t.id, island := islandOf c }
      let s := (((s.leaveConvoy t m k.dc k.dcFrom true).freeKept t.convoyId).childEnded t.parent).countEnd t fail
      (s.rebalance (islandOf c)).closeLaunch t.launch

/-- A saved context ends: its berths are free, unsaved (R383). -/
def State.endSaved (s : State) (r : SavedContext) (fail : Option Nat) : State :=
  let s := { s with saved := s.saved.filter (fun q => q.area != r.area) }
  let s := s.modCore r.core (fun k => { k with parked := k.parked.filter (fun p => p.area != r.area) })
  let cbl := (List.range 8).map (fun j => BitVec.ofNat 64 (s.mem.read (r.area + 0x238 + 8 * j) 8))
  let s := (cbl.filter (fun h => h != 0)).foldl State.dropChart s
  let m : Meter := { task := r.task.id, island := islandOf r.core }
  let s := if r.convoyId.isNone then
      (s.commitAll (dieOf r.core) [(some m, r.dc)]).commitErrors r.core r.dc []
    else s
  (((s.leaveConvoy r.task m r.dc r.dcFrom false).childEnded r.task.parent).countEnd r.task fail).closeLaunch r.task.launch

/-! ### The start of a task (R295, R300, R318, R328) -/

/-- DREC at first dispatch (Table 13.4). -/
def drecOf (var : Bool) (eclass cost : Nat) : Word :=
  BitVec.ofNat 64 ((if var then 2 ^ 63 else 0) + eclass % 16 * 2 ^ 40 + cost % 2 ^ 16)

/-- The latest release at or before a frame (R318). -/
def Manifest.releaseAt (m : Manifest) (frame : Nat) : Nat :=
  if m.period = 0 ∨ frame < m.relframe then m.relframe
  else m.relframe + (frame - m.relframe) / m.period * m.period

/-- The releases before the one current at a frame: each is a slip of a unit that starts there (R318). -/
def Manifest.missedAt (m : Manifest) (frame : Nat) : List Nat :=
  if m.period = 0 ∨ frame < m.relframe then []
  else (List.range ((frame - m.relframe) / m.period)).map (fun n => m.relframe + n * m.period)

/-- What a task starts as. -/
structure StartInfo where
  launch : Launch
  var    : Bool
  index  : Nat
  member : Nat
  convoyId : Option Nat
  cost   : Nat
  record : Option SpawnRecord
  deriving DecidableEq, Repr

/-- The class that a start is charged under. -/
def StartInfo.man (i : StartInfo) : Manifest := i.launch.manifest i.var

/-- The task record of a start.  The releases of a launch are those of its own manifest, whichever manifest the unit
runs (R318). -/
def State.newTask (s : State) (c : Nat) (i : StartInfo) : Task :=
  let m := i.man
  let g := i.launch.man
  let frame := s.frameOf c
  { id := s.taskSerial, launch := i.launch.number, index := i.index, member := i.member,
    convoy := if i.record.isSome then 1 else m.size, convoyId := i.convoyId, eclass := m.eclass,
    cls := i.launch.man.cls, manifest := m.addr, handler := m.handler,
    needCaps := BitVec.ofNat 32 m.needcaps, parent := i.record.map (fun r => r.parent),
    jctr := BitVec.ofNat 64 (i.cost * 100), mbytes := 0, mrem := 0, drec := drecOf i.var m.eclass i.cost,
    release := g.releaseAt frame, budget := g.budget, period := g.period,
    slips := if i.launch.man.cls = 0 ∧ i.record.isNone then (g.missedAt frame).length else 0,
    slipDone := false, twsExempt := (s.island (islandOf c)).tws, dbbFirst := m.dbbfirst,
    dbbCnt := m.dbbcnt, started := s.taskSerial, losses := 0 }

/-- The four streams' entries. -/
def StartInfo.entries (i : StartInfo) : Four Nat :=
  match i.record with
  | some r => { p := r.entry, l := 0, x := 0, s := 0 }
  | none => i.man.entry

/-- s31 of a stream at start (R295, R300). -/
def StartInfo.stack (i : StartInfo) (st : Stream) : Word :=
  let m := i.man
  let top : Int := match i.record with
    | some r => r.sp.toNat
    | none => (m.stacktop : Int) - ((i.index * m.stackstr : Nat) : Int)
  wordOfInt (top - ((st.num * m.stackstr / 4 : Nat) : Int))

/-- s1 up of a stream at start (R295, R300). -/
def StartInfo.args (i : StartInfo) : List Word :=
  match i.record with
  | some r => r.args
  | none => [i.man.arg, i.index, i.member, i.launch.number].map (BitVec.ofNat 64)

/-- A stream at start.  An entry of 2^48 or more, like a HANDLER, is taken modulo 2^48 (R44, R295; log entry 11). -/
def StartInfo.stream (i : StartInfo) (st : Stream) : StreamState :=
  let e := i.entries.get st
  let sp := i.stack st
  let regs : Tbl Word := if e = 0 then [] else i.args.mapIdx (fun n v => (n + 1, v))
  { StreamState.reset with pc := pcOf e, s := Tbl.set regs 31 sp }

/-- Place a task on a free core: it runs once its images are read. -/
def State.placeTask (s : State) (c : Nat) (i : StartInfo) : State :=
  let m := i.man
  let s := s.revokeLease c
  let k := (s.core c).vacate (s.core c).parked
  let k : Core :=
    { k with
      pb1 := [],
      st := { p := i.stream .P, l := i.stream .L, x := i.stream .X, s := i.stream .S },
      qmap := if m.qmap = 0 then qmapDefault else BitVec.ofNat 64 m.qmap,
      fifo := unpackTokens m.tokinit, ptroot := i.launch.root,
      ctxptr := BitVec.ofNat 64 (Config.contextArea i.launch.number s.taskSerial), ballast := false,
      childSerial := (s.core c).childSerial, task := some (s.newTask c i),
      loading := some (streams.filter (fun st => i.entries.get st != 0)) }
  { s with taskSerial := s.taskSerial + 1 }.setCore c k

/-- Record the slips of a task for some releases (R318). -/
def State.recordSlips (s : State) (n c : Nat) (rs : List Nat) : State :=
  { s with slipLog := s.slipLog ++ rs.map (fun r => { launch := n, release := r, core := c }),
           launches := s.launches.map (fun l =>
             if l.number = n then { l with slips := (l.slips + rs.length) % 2 ^ 32 } else l) }

/-- Who waits for a page on behalf of a task's images. -/
def imageWaiter : Nat := 2 ^ 41

/-- Read an image where a manifest names one. -/
def State.readImage (s : State) (c : Nat) (root : Word) (addr n : Nat) : RangeEnd :=
  if addr = 0 ∨ n = 0 then .ok s [] else s.readRange c imageWaiter root false addr n

/-- The template tables of an image. -/
def templatesOf (g : Memory) (st : Stream) : Tbl WideBits :=
  (List.range 62).map (fun e => (e + 1, BitVec.ofNat 128 (g.read ((st.num * 62 + e) * 16) 16)))

/-- A task whose images are read runs (R295). -/
def State.beginTask (s : State) (c : Nat) (tmpl hold sem : List Byte) : State :=
  let run := (s.core c).loading.getD []
  let g := memoryOf tmpl
  let s := s.holdSetAll c (hold.mapIdx (fun i b => (i, b)))
  let start (st : Stream) (t : StreamState) : StreamState :=
    { t with run := run.contains st, templates := if tmpl.isEmpty then [] else templatesOf g st }
  s.modCore c (fun k =>
    { k with
      st := { p := start .P k.st.p, l := start .L k.st.l, x := start .X k.st.x, s := start .S k.st.s },
      sem := if sem.isEmpty then [] else
        (List.range 256).map (fun n => (n, numOfBytes ((sem.drop (2 * n)).take 2))),
      loading := none })

/-- The start of a task fails on an image read: it is about to end, before it issues a bundle (R295). -/
def State.failStart (s : State) (c : Nat) (cause : Cause) (addr : Nat) : State :=
  let s := s.dropPageWaits c imageWaiter
  let s := { s with faultLog := { cause, core := c, addr, info := 0 } :: s.faultLog }
  s.modCore c (fun k => { k with loading := none, startFault := some cause, halted := true })

/-- Read the images of a starting task, as far as their pages are there. -/
def State.loadTask (s : State) (c : Nat) : State :=
  let k := s.core c
  match k.task, k.loading with
  | some t, some _ =>
    match s.launch? t.launch with
    | none => s
    | some l =>
      let m := l.manifest (bit t.drec.toNat 63)
      match s.readImage c l.root m.tmplimg 3968 with
      | .fault f a => s.failStart c f.cause a
      | .error a => s.failStart c .memUncorr a
      | .wait s => s
      | .ok s tmpl =>
        match s.readImage c l.root m.holdimg m.holdlen with
        | .fault f a => s.failStart c f.cause a
        | .error a => s.failStart c .memUncorr a
        | .wait s => s
        | .ok s hold =>
          match s.readImage c l.root m.semimg 512 with
          | .fault f a => s.failStart c f.cause a
          | .error a => s.failStart c .memUncorr a
          | .wait s => s
          | .ok s sem => s.beginTask c tmpl hold sem
  | _, _ => s

/-- The start of a task comes to its end, past the walks and the pages that it waits for. -/
def State.finishStart (s : State) (c : Nat) : Nat → State
  | 0 => s
  | n + 1 =>
    if (s.core c).loading.isSome then State.finishStart (((s.loadTask c).endWalks).endPages) c n else s

/-! ### Pre-emption by the dispatcher (R315, R316) -/

/-- A core's start is finished, and a task that is about to end has ended: what is left may be saved. -/
def State.prepareSave (s : State) (c : Nat) : State :=
  let s := s.finishStart c (2 ^ 24)
  let k := s.core c
  if k.halted then s.endTask c (k.startFault.map causeCode) else s

/-- Pre-empt the unit on a core, a convoy whole. -/
def State.evictUnit (s : State) (c : Nat) : State :=
  let cs := s.unitCores c
  let s := cs.foldl State.prepareSave s
  match cs.filter (fun d => (s.core d).task.isSome) with
  | [] => s
  | d :: _ => s.preemptUnit d

/-! ### Restoring a context (R383, R384) -/

/-- The core that holds parked berths of an area. -/
def State.holderOf (s : State) (area : Nat) : Option Nat :=
  (s.cores.find? (fun e => e.2.parked.any (fun p => p.area == area))).map (fun e => e.1)

/-- A core writes the live berths of a parked context to its area, and owns them no more (R383). -/
def State.pullBerths (s : State) (h area : Nat) : State :=
  let k := s.core h
  let live := (k.parked.filter (fun p => p.area == area)).flatMap (fun p => p.map)
  let mem := live.foldl (fun m e => saveBerth m k area e.1 (e.2 - 1)) s.mem
  { s with mem }.setCore h { k with parked := k.parked.filter (fun p => p.area != area) }

/-- Read the berths that an area marks as saved into the running context of a core. -/
def State.readBerths (s : State) (c area : Nat) : State :=
  let map := s.mem.read (area + areaBerthMap) 8
  let s := ((List.range 48).filter (fun n => bit map n)).foldl (fun s n =>
    let s := s.claimBerth c n
    let k := s.core c
    match Tbl.get 0 k.berths n with
    | 0 => s
    | m + 1 =>
      let data := (s.mem.window (area + areaBerths + n * 65536) 65536).map (fun e => (m * 65536 + e.1, e.2))
      s.setCore c { k with hold := (k.hold.clear (m * 65536) 65536).setAll data }) s
  { s with mem := s.mem.write (area + areaBerthMap) 8 0 }

/-- Berths of a context that comes onto a core: its own live ones map back, others are read (R383). -/
def State.restoreBerths (s : State) (c area : Nat) : State :=
  match s.holderOf area with
  | some h =>
    if h = c then
      let s := s.modCore c (fun k =>
        { k with berths := (k.parked.filter (fun p => p.area == area)).flatMap (fun p => p.map),
                 parked := k.parked.filter (fun p => p.area != area) })
      s.readBerths c area
    else (s.pullBerths h area).readBerths c area
  | none => s.readBerths c area

/-- The task that an area describes where the dispatcher keeps no record of it; its fields are read from the
area. -/
def Task.blank (id : Nat) : Task :=
  { id, launch := 0, index := 0, member := 0, convoy := 1, convoyId := none, eclass := 0, cls := 1,
    manifest := 0, handler := 0, needCaps := 0, parent := none, jctr := 0, mbytes := 0, mrem := 0,
    drec := 0, release := 0, budget := 0, period := 0, slips := 0, slipDone := false, twsExempt := false,
    dbbFirst := 0, dbbCnt := 0, started := 0, losses := 0 }

/-- The local task queue of an area. -/
def loadRecords (mem : Memory) (area parent : Nat) : List SpawnRecord :=
  (List.range (mem.read (area + 0x232) 2)).map (fun i =>
    let b := area + 0x8000 + 64 * i
    { entry := mem.read b 8,
      args := (List.range 6).map (fun j => BitVec.ofNat 64 (mem.read (b + 8 + 8 * j) 8)),
      sp := BitVec.ofNat 64 (mem.read (b + 0x38) 8), parent, seq := 0 })

/-- The descriptors of an area as copies in flight, with program orders from a number up and what is kept beside
them (R209, R217).  The 4 ticks that R193 counts from an issue are counted from the restore; no rule speaks of them at a
replay (log entry 111). -/
def loadCopies (mem : Memory) (area seq tick : Nat) (kept : List Copy) : List Copy :=
  (List.range (mem.read (area + 0x64) 2)).map (fun i =>
    unpackCopy mem (area + 0x9000 + 96 * i) (seq + i) (seq + i) tick kept[i]?)

/-- The core of a context as its area gives it (R384 steps 2 to 7).  A copy that has started stands in no
semaphore's line any more: it has its count (R204). -/
def State.loadCore (s : State) (c area : Nat) (t : Task) (kept : List Copy) : Core :=
  let old := s.core c
  let base : Core :=
    { (old.vacate old.parked) with
      task := some t, berths := old.berths, ballast := false, pb1 := [] }
  let k := Sys2Proof.Machine.loadPieces s.mem area base
  let flags := s.mem.read (area + 0x30) 8
  let copies := loadCopies s.mem area k.seq (s.tickOf c) kept
  { k with
    inh := bit flags 1, lease := bit flags 2, warnHeld := bit flags 3, evl := BitVec.ofNat 4 (flags / 16),
    ctxptr := BitVec.ofNat 64 area, mbase := BitVec.ofNat 64 (s.mem.read (area + 0x330) 8 + s.tickOf c),
    ltq := loadRecords s.mem area t.id, copies,
    swq := (copies.filter (fun q => q.wsem && !q.started)).map (fun q => .copy q.wnum q.id),
    seq := k.seq + copies.length + 1 }

/-- The greatest program order that a record names. -/
def SavedContext.lastSeq (r : SavedContext) : Nat :=
  ((r.dcStores.map (fun e => e.2)) ++ (r.dcFrom.map (fun e => e.2.seq))).foldl max 0

/-- What a dispatcher's record adds to the area: state that Table 15.6 has no place for.  A frame that the area
marks as valid is Duwen's; the task's handler reads its own again. -/
def Core.withRecord (k : Core) (r : SavedContext) (frameValid : Bool) : Core :=
  let put (st : Stream) (t : StreamState) : StreamState :=
    { t with uncorr := r.uncorr.get st, un := r.un.get st, link := r.links.get st, slotsLeft := r.slots.get st,
             tokenAcq := r.tokens.get st, tokenLast := r.last.get st, tokenScope := r.scopes.get st }
  { k with
    st := { p := put .P k.st.p, l := put .L k.st.l, x := put .X k.st.x, s := put .S k.st.s },
    dc := r.dc, dcFrom := r.dcFrom, dcStores := r.dcStores, seq := max k.seq (r.lastSeq + 1),
    frame :=
      if frameValid then r.frame
      else { k.frame with fslots := r.frame.fslots, flink := r.frame.flink, fsync := r.frame.fsync } }

/-- RCNT of DREC rises, to 255 at most (R328). -/
def bumpRestores (d : Word) : Word :=
  let n := bits d.toNat 48 8
  if n = 255 then d else d + BitVec.ofNat 64 (2 ^ 48)

/-- The barriers of a convoy saved whole, as an area holds them, with the bits of the members that have ended
since (R285, R286). -/
def Convoy.barriersOf (v : Convoy) (mem : Memory) (area : Nat) : Convoy :=
  { v with
    gen := (List.range 16).map (fun b => (b, mem.read (area + 0xF000 + 16 * b) 4)),
    arrived := (List.range 16).map (fun b => (b, mem.read (area + 0xF004 + 16 * b) 8 ||| v.endedMask)) }

/-- The cores of a convoy's ended members, which it keeps again when it is restored whole (R21). -/
def State.keepCores (s : State) (id : Nat) (cs : List Nat) : State :=
  { s with convoys := s.convoys.map (fun v =>
      if v.id = id then
        { v with cores := (v.ended.zip cs).foldl (fun t e => Tbl.set t e.1 e.2) v.cores, kept := v.ended.take cs.length }
      else v) }

/-- A convoy's member runs on a new core.  The first to return of a convoy saved whole brings its barriers back; the
others find those that the SYE has kept, and so does a member that was saved alone, before the others or after them
(R285, R286). -/
def State.rejoin (s : State) (c area : Nat) (t : Task) (whole : Bool) : State :=
  match t.convoyId.bind (fun id => s.convoys.find? (fun v => v.id == id)) with
  | none => s
  | some v =>
    let v := if v.saved && whole then v.barriersOf s.mem area else v
    s.setConvoy { v with cores := Tbl.set v.cores t.member c, saved := false }

/-- Restore the context of an area onto a free core, charged at a cost (R328, R384).  The task is there when its berths
are read, so that they are its own, and a UN line that its die filled earlier is given up, for it may be older than what
the task has read (R176). -/
def State.restoreContext (s : State) (area c cost : Nat) : State :=
  let r := s.saved.find? (fun r => r.area == area)
  let t0 := (r.map (fun r => r.task)).getD (Task.blank s.taskSerial)
  let s := { s with saved := s.saved.filter (fun q => q.area != area), taskSerial := s.taskSerial + 1 }.revokeLease c
  let s := (s.stopBallast c).setCore c { (s.core c).vacate (s.core c).parked with ballast := false, task := some t0 }
  let s := if s.unLog.isEmpty then s else s.invalidate (dieOf c) [.un]
  let s := s.restoreBerths c area
  let k := s.loadCore c area t0 ((r.map (fun r => r.copies)).getD [])
  let k := match r with
    | some r => k.withRecord r (bit (s.mem.read (area + 0x30) 8) 0)
    | none => k
  let k := { k with task := k.task.map (fun t =>
    { t with jctr := t.jctr + BitVec.ofNat 64 (cost * 100), drec := bumpRestores t.drec,
             started := s.taskSerial }) }
  ((s.setCore c k).rejoin c area t0 ((r.map (fun r => r.whole)).getD false)).acquireRdc c .dev

/-! ### Units (R312, R313) -/

/-- The head unit of a launch on an island. -/
inductive Head where
  | record (core : Nat) (r : SpawnRecord) (t : Task)
  | saved (rs : List SavedContext)
  | fresh (n : Nat)
  deriving DecidableEq, Repr

/-- The cores of an island whose local task queues hold a record of a launch, with parent and record. -/
def State.records (s : State) (i n : Nat) : List (Nat × SpawnRecord × Task) :=
  (islandCores i).filterMap (fun c =>
    match (s.core c).task, (s.core c).ltq with
    | some t, r :: _ =>
      if t.launch = n && (s.core c).released { st := .P, seq := r.seq } then some (c, r, t) else none
    | _, _ => none)

/-- The saved contexts of the unit that a saved one belongs to; none where some member is missing. -/
def State.savedUnit (s : State) (r : SavedContext) : Option (List SavedContext) :=
  match r.convoyId with
  | none => some [r]
  | some id =>
    match s.convoys.find? (fun v => v.id == id) with
    | none => some [r]
    | some v =>
      let rs := (v.alive.map (fun e => e.1)).filterMap (fun m =>
        s.saved.find? (fun q => q.convoyId == some id && q.task.member == m && !q.forCause))
      if rs.length = v.alive.length then some rs else none

/-- The chart slots bound to a saved context lie on a die (R350). -/
def State.cblOn (s : State) (r : SavedContext) (d : Nat) : Bool :=
  (List.range 8).all (fun j =>
    let h : Word := BitVec.ofNat 64 (s.mem.read (r.area + 0x238 + 8 * j) 8)
    h == 0 || handleDie h == d)

/-- The saved units of a launch that may be restored on a die, earliest saved first. -/
def State.savedUnits (s : State) (n d : Nat) : List (List SavedContext) :=
  (s.saved.filter (fun r => r.task.launch == n && !r.forCause)).filterMap (fun r =>
    (s.savedUnit r).bind (fun rs => if rs.all (fun q => s.cblOn q d) then some rs else none))

/-- Entries of a launch's source log that a start on another die must widen, and whether it may now
(R298). -/
def State.sourceEntries (s : State) (l : Launch) : List LogEntry :=
  match l.source with
  | none => []
  | some c => (s.core c).log.filter (fun e => e.seq ≤ l.srcSeq)

def State.sourceReady (s : State) (l : Launch) (d : Nat) : Bool :=
  match l.source with
  | none => true
  | some c => dieOf c == d || (s.sourceEntries l).all (s.core c).released

/-- The head unit of a launch on an island, where it is eligible (R312). -/
def State.headOn (s : State) (i : Nat) (l : Launch) : Option Head :=
  let d := i / 6
  if !l.allows d then none
  else
    match s.records i l.number with
    | (c, r, t) :: _ => some (.record c r t)
    | [] =>
      match s.savedUnits l.number d with
      | rs :: _ => some (.saved rs)
      | [] =>
        if l.nextUnit < l.units && l.granted && s.sourceReady l d &&
            (l.man.cls != 0 || l.man.relframe ≤ s.islandFrame i) then
          some (.fresh l.nextUnit)
        else none

/-- The rank group of a launch on an island (R312). -/
def Launch.group (l : Launch) (i : Nat) : Nat :=
  if l.man.cls = 0 then 0 else if Tbl.get false l.aged i then 1 else l.man.cls + 1

/-- The launches with an eligible head on an island, in rank order. -/
def State.ranked (s : State) (i : Nat) : List (Launch × Head) :=
  let all := s.launches.filterMap (fun l => (s.headOn i l).map (fun h => (l, h)))
  (List.range 4).flatMap (fun g => all.filter (fun e => e.1.group i == g))

/-! ### Cores for a unit (R22, R313, R372) -/

/-- A core satisfies NEEDCAPS (R372). -/
def capsFit (caps : Nat) (need : Nat) : Bool :=
  let n := if need = 0 then wholeCaps.toNat else need
  bits n 0 6 ≤ bits caps 0 6 && bits n 6 5 ≤ bits caps 6 5 && bits n 11 7 ≤ bits caps 11 7

/-- A CTXL is about to restore a context onto a core. -/
def State.claimed (s : State) (c : Nat) : Bool :=
  s.cores.any (fun e => e.2.ctxOps.any (fun o => !o.save && o.targets.contains c))

/-- A core may take a task of a manifest, the tasks on some cores being gone. -/
def State.coreFits (s : State) (gone : List Nat) (m : Manifest) (c : Nat) : Bool :=
  let k := s.core c
  !isFirmware c && ((k.task.isNone && !s.coreHeld c) || gone.contains c) && !s.claimed c && k.berthCount != 0 &&
    capsFit k.caps.toNat m.needcaps && m.holdlen ≤ k.hdata && !s.layerBarred c

/-- Some members of a list, chosen by free values from a number up. -/
def pickSome : Nat → List Nat → Nat → List Nat
  | 0, _, _ => []
  | n + 1, l, seed =>
    match l[Config.freePick seed % l.length]? with
    | none => []
    | some c => c :: pickSome n (l.erase c) (seed + 1)

/-- Cores of a shape of R22 for a unit of a size at a slot of an island; none where there are not. -/
def State.shape (s : State) (i size : Nat) (ok : Nat → Bool) : Option (List Nat) :=
  let island := (islandCores i).filter ok
  let from' (l : List Nat) : Option (List Nat) :=
    if size ≤ l.length then some (pickSome size l (s.fresh + 1)) else none
  if size = 1 then from' island
  else if size ≤ 4 then
    let cl := [0, 1].map (fun l => island.filter (fun c => layerOf c == l))
    let fit := cl.filter (fun l => size ≤ l.length)
    match fit[Config.freePick s.fresh % fit.length]? with
    | some l => from' l
    | none => none
  else if size = 8 then from' island
  else from' ((dieCores (i / 6)).filter ok)

/-- The cores of a convoy's members, moved from their clusters to others. -/
def moveClusters (map : List (Nat × Nat)) (from' : List Nat) : List Nat :=
  from'.map (fun c => ((map.find? (fun e => e.1 == c / 4)).map (fun e => e.2)).getD 0 * 4 + c % 4)

/-- Another cluster for each of some clusters, so that every core keeps its place in its cluster: each takes the
first that is left and lets the others find theirs. -/
def matchClusters (from' : List Nat) (ok : Nat → Bool) (new : List Nat) : List Nat → Option (List (Nat × Nat))
  | [] => some []
  | o :: rest =>
    let own := from'.filter (fun c => c / 4 == o)
    (new.filter (fun n => own.all (fun c => ok (n * 4 + c % 4)))).findSome? (fun n =>
      ((matchClusters from' ok (new.erase n) rest).map (fun m => (o, n) :: m)))

/-- Cores for a convoy that was saved, in the order of the cores that its members ran on: a shape of R22 in which
every member has its number in its cluster again, by which the others name it (R401; log entry 102). -/
def State.sameShape (s : State) (i size : Nat) (ok : Nat → Bool) (from' : List Nat) : Option (List Nat) :=
  let all := ((if size ≤ 8 then islandCores i else dieCores (i / 6)).map (fun c => c / 4)).eraseDups
  let n := Config.freePick s.fresh % all.length
  (matchClusters from' ok (all.drop n ++ all.take n) ((from'.map (fun c => c / 4)).eraseDups)).map
    (fun m => moveClusters m from')

/-- A convoy of a size may have a member on a core: one of 4 never lies in cluster 0 of island 0 of a die, one of 8 never
in island 0, whichever of its members have ended (R22). -/
def shapeAllows (size c : Nat) : Bool :=
  !(size == 4 && c % 48 / 4 == 0) && !(size == 8 && c % 48 / 8 == 0)

/-- How a unit would start. -/
structure Plan where
  /-- The cores of its tasks: of those that have not ended, of a saved convoy. -/
  cores   : List Nat
  /-- The cores of the ended members of a saved convoy (R21). -/
  kept    : List Nat
  var     : Bool
  victims : List Nat
  ballast : List Nat
  deriving DecidableEq, Repr

/-- Tasks that a unit holds, and the manifest whose cores it needs. -/
def Head.size (h : Head) (s : State) (l : Launch) : Nat :=
  match h with
  | .record _ _ _ => 1
  | .saved rs =>
    match rs.head?.bind (fun r => r.convoyId) with
    | none => 1
    | some id => ((s.convoys.find? (fun v => v.id == id)).map (fun v => v.size)).getD 1
  | .fresh _ => l.man.size

/-- Whether the tasks of a unit run with the variant's manifest. -/
def Head.ranVariant (h : Head) : Bool :=
  match h with
  | .record _ _ t => bit t.drec.toNat 63
  | .saved rs => (rs.head?.map (fun r => bit r.task.drec.toNat 63)).getD false
  | .fresh _ => false

/-- The energy class of a unit. -/
def Head.eclass (h : Head) (l : Launch) (var : Bool) : Nat :=
  match h with
  | .record _ _ t => t.eclass
  | .saved rs => (rs.head?.map (fun r => r.task.eclass)).getD 0
  | .fresh _ => (l.manifest var).eclass

/-- The cores on which the ended members of a convoy ran. -/
def Convoy.endedCores (v : Convoy) : List Nat := v.ended.map (fun m => Tbl.get 0 v.cores m)

/-- The convoy that a saved context is of. -/
def State.convoyOf (s : State) (r : SavedContext) : Option Convoy :=
  r.convoyId.bind (fun id => s.convoys.find? (fun v => v.id == id))

/-- Cores for a unit at a slot of an island, of those that a test admits: a saved convoy's for its tasks, then those for
its ended members, which stay with it (R21). -/
def State.coresFor (s : State) (i : Nat) (l : Launch) (h : Head) (ok : Nat → Bool) : Option (List Nat) :=
  match h with
  | .saved (r :: rs) =>
    match s.convoyOf r with
    | some v =>
      s.sameShape i (h.size s l) (fun c => ok c && shapeAllows (h.size s l) c)
        ((r :: rs).map (fun q => q.core) ++ v.endedCores)
    | none => s.shape i 1 ok
  | h => s.shape i (h.size s l) ok

/-- Islands of some cores. -/
def islandsOf (cs : List Nat) : List Nat := (cs.map islandOf).eraseDups

/-- The cost of placing a class on some cores, by island (R327). -/
def State.costOn (s : State) (cs : List Nat) (e i : Nat) : Nat :=
  Tbl.get 0 (s.island i).cost e * (cs.filter (fun c => islandOf c == i)).length

/-- Every island concerned pays. -/
def State.allPay (s : State) (cs : List Nat) (e : Nat) (t0 : Bool) : Bool :=
  (islandsOf cs).all (fun i => (s.island i).payable t0 (s.costOn cs e i))

/-- The ballast that every island concerned needs; none where one is held (R336). -/
def State.allLayers (s : State) (gone cs kept : List Nat) (e : Nat) : Option (List Nat) :=
  (islandsOf (cs ++ kept)).foldl (fun r i =>
    match r, s.layerPlan i gone (cs.filter (fun c => islandOf c == i)) kept e with
    | some a, some b => some (a ++ b)
    | _, _ => none) (some [])

/-- Cost and layers of a unit on its cores: which manifest it starts with and the ballast (R313). -/
def State.fundPlan (s : State) (l : Launch) (h : Head) (cs gone : List Nat) : Option Plan :=
  let t0 := l.man.cls == 0
  let n := match h with
    | .saved rs => rs.length
    | _ => cs.length
  let run := cs.take n
  let fund (var : Bool) : Option Plan :=
    if s.allPay run (h.eclass l var) t0 then
      (s.allLayers gone run (cs.drop n) (h.eclass l var)).map (fun b =>
        { cores := run, kept := cs.drop n, var, victims := gone, ballast := b })
    else none
  match h with
  | .fresh _ => fund (!s.allPay run (h.eclass l false) t0 && l.variant.isSome)
  | h => fund h.ranVariant

/-- Running units that a T0 unit may pre-empt, most recently started first, T2 before T1 (R315, R316): each
as the core of its most recent member.  Some cores keep their tasks. -/
def State.candidates (s : State) (i : Nat) (wide : Bool) (keep : List Nat) : List Nat :=
  let scope := (if wide then dieCores (i / 6) else islandCores i).filter (fun c => !keep.contains c)
  let run := scope.filterMap (fun c => (s.core c).task.map (fun t => (c, t)))
  let before (a b : Nat × Task) : Bool :=
    decide (b.2.cls < a.2.cls ∨ (a.2.cls = b.2.cls ∧ b.2.started ≤ a.2.started))
  (sortBy before (run.filter (fun e => e.2.cls != 0))).map (fun e => e.1)

/-- Take candidates until cores are found. -/
def State.preemptFor (s : State) (find : List Nat → Option (List Nat)) : List Nat → List Nat →
    Option (List Nat × List Nat)
  | [], _ => none
  | c :: rest, gone =>
    if gone.contains c then State.preemptFor s find rest gone
    else
      let gone := gone ++ s.unitSpan c
      match find gone with
      | some cs => some (cs, gone)
      | none => State.preemptFor s find rest gone

/-- The plan of a head at a slot of an island with the tasks on some cores gone, a T0 unit pre-empting others but
those on some cores (R313, R315). -/
def State.planFor (s : State) (i : Nat) (l : Launch) (h : Head) (gone keep : List Nat) : Option Plan :=
  let find (gone : List Nat) : Option (List Nat) :=
    s.coresFor i l h (s.coreFits gone (l.manifest h.ranVariant))
  match find gone with
  | some cs => s.fundPlan l h cs gone
  | none =>
    if l.man.cls = 0 then
      match s.preemptFor find (s.candidates i (16 ≤ h.size s l) keep) gone with
      | some (cs, gone) => s.fundPlan l h cs gone
      | none => none
    else none

/-! ### Starting a unit -/

/-- Mark a start in its launch: first start, variants, aging (R314). -/
def Launch.started (l : Launch) (fresh var : Bool) (time : Nat) : Launch :=
  { l with nextUnit := if fresh then l.nextUnit + 1 else l.nextUnit,
           variants := if fresh && var then l.variants + 1 else l.variants,
           firstStart := some (l.firstStart.getD time), passed := [], aged := [] }

/-- The acquire of a start (R298): the source's log is widened for another die, which then acquires at
DEV. -/
def State.acquireStart (s : State) (l : Launch) (c : Nat) : State :=
  match l.source with
  | none => s.acquireRdc c .dev
  | some src =>
    if dieOf src = dieOf c then s
    else (s.widen src (s.sourceEntries l).length).acquireRdc c .dev

/-- Start the tasks of an unstarted unit on its cores. -/
def State.startFresh (s : State) (l : Launch) (n : Nat) (p : Plan) : State :=
  let m := l.manifest p.var
  let size := l.man.size
  let id := s.taskSerial
  let v : Convoy :=
    { id, launch := l.number, size, cores := p.cores.mapIdx (fun k c => (k, c)), gen := [], arrived := [],
      ended := [], kept := [], endedDc := [], endedFrom := [], endedMeter := [], saved := false }
  let s := if size = 1 then s else { s with convoys := s.convoys ++ [v], taskSerial := id + 1 }
  p.cores.zipIdx.foldl (fun s e =>
    let i : StartInfo :=
      { launch := l, var := p.var, index := n * size + e.2, member := e.2,
        convoyId := if size = 1 then none else some id,
        cost := Tbl.get 0 (s.island (islandOf e.1)).cost m.eclass, record := none }
    let s := (s.acquireStart l e.1).placeTask e.1 i
    if l.man.cls = 0 then s.recordSlips l.number e.1 (l.man.missedAt (s.frameOf e.1)) else s) s

/-- Start a spawned record on a core; its parent's queue has lost it (R303). -/
def State.startRecord (s : State) (l : Launch) (r : SpawnRecord) (t : Task) (c : Nat) : State :=
  s.placeTask c
    { launch := l, var := bit t.drec.toNat 63, index := t.index, member := 0, convoyId := none,
      cost := Tbl.get 0 (s.island (islandOf c)).cost t.eclass, record := some r }

/-- The unit of some saved contexts runs on its cores: the convoy has its other cores again, and the copies in flight of
its members name the members where they now are (R21, R209). -/
def State.restoreUnit (s : State) (rs : List SavedContext) (p : Plan) : State :=
  let s := (rs.zip p.cores).foldl (fun s e =>
    s.restoreContext e.1.area e.2 (Tbl.get 0 (s.island (islandOf e.2)).cost e.1.task.eclass)) s
  let s := match rs.head?.bind (fun r => r.convoyId) with
    | some id => s.keepCores id p.kept
    | none => s
  p.cores.foldl State.reaimCopies s

/-- Carry out a plan (R313): pre-emptions, ballast, charges, start. -/
def State.runPlan (s : State) (l : Launch) (h : Head) (p : Plan) : State :=
  let take := p.cores
  let e := h.eclass l p.var
  let s := match h with
    | .record c _ _ => s.modCore c (fun k => { k with ltq := k.ltq.drop 1 })
    | _ => s
  let s := p.victims.foldl (fun s c => if (s.core c).task.isSome then s.evictUnit c else s) s
  let s := (take ++ p.kept).foldl State.stopBallast s
  let s := p.ballast.foldl State.startBallast s
  let s := (islandsOf take).foldl (fun s i => s.charge i (l.man.cls == 0) (s.costOn take e i)) s
  let time := s.dieTime l.die
  let s := { s with fresh := s.fresh + 256, launches := s.launches.map (fun (m : Launch) =>
    if m.number = l.number then
      m.started (match h with | .fresh _ => true | _ => false) p.var time
    else m) }
  match h with
  | .fresh n => s.startFresh l n p
  | .record _ r t => s.startRecord l r t ((p.cores[0]?).getD 0)
  | .saved rs => s.restoreUnit rs p

/-- The units that a plan pre-empts can be: a promoting acquire that one has issued completes first (R186). -/
def State.planReady (s : State) (p : Plan) : Bool := p.victims.all s.strikeReady

/-- The first unit in rank order that may start (R313); a launch that is aged and cannot start holds back
every T1 and T2 launch after it (R314). -/
def State.chooseUnit (s : State) (i : Nat) : List (Launch × Head) → Bool → Option (Launch × Head × Plan)
  | [], _ => none
  | (l, h) :: rest, stop =>
    if stop && l.man.cls != 0 then none
    else
      match (s.planFor i l h [] []).filter s.planReady with
      | some p => some (l, h, p)
      | none => State.chooseUnit s i rest (stop || Tbl.get false l.aged i)

/-- A launch whose head was passed over at a slot of an island (R314). -/
def Launch.passOver (l : Launch) (i : Nat) : Launch :=
  let n := Tbl.get 0 l.passed i + 1
  { l with passed := Tbl.set l.passed i n,
           aged := if 256 ≤ n then Tbl.set l.aged i true else l.aged }

/-- What a plan is to pre-empt comes to where it can be saved: starts are finished, and tasks that are about to end
do. -/
def State.prepareAll (s : State) (cs : List Nat) : State := cs.foldl State.prepareSave s

/-- The tasks on some cores are the same in two states. -/
def sameTasks (s t : State) (cs : List Nat) : Bool :=
  cs.all (fun c => (s.core c).task.map (fun u => u.id) == (t.core c).task.map (fun u => u.id))

/-- The choice of a slot, made again where a task that it would pre-empt has ended instead: the layers and the free cores
are others then (R336). -/
def State.chooseReady (s : State) (i : Nat) : Nat → State × Option (Launch × Head × Plan)
  | 0 => (s, none)
  | n + 1 =>
    match s.chooseUnit i (s.ranked i) false with
    | none => (s, none)
    | some (l, h, p) =>
      let t := s.prepareAll p.victims
      if sameTasks s t p.victims then (t, some (l, h, p)) else State.chooseReady t i n

/-- A dispatch slot of an island: at most one unit starts, and the other eligible launches are passed
over. -/
def State.dispatch (s : State) (i : Nat) : State :=
  let (s, choice) := (s.launches.foldl State.grantSlots s).chooseReady i (coreCount + 1)
  let cands := s.ranked i
  match choice with
  | none => { s with fresh := s.fresh + 256 }
  | some (l, h, p) =>
    let s := s.runPlan l h p
    let others := (cands.map (fun e => e.1.number)).filter (fun n => n != l.number)
    { s with launches := s.launches.map (fun m => if others.contains m.number then m.passOver i else m) }

end Sys2Proof.Machine
end

