-- ==== Sys2Proof/Machine/Tasks.lean ====
section
/-!
DEFINITION. Task and launch instructions (R292 to R303, R317 to R323), with the events of dispatch, task end
and deadline.
-/

namespace Sys2Proof.Machine

/-! ### Bundles of P that wait beyond their issue -/

/-- P waits on in its operation. -/
def Ctx.holds (x : Ctx) (s : State) : Res :=
  .wait (s.modCore x.c (fun k => { k with held := some (x.o, x.heldBundle) })) .other

/-- P's operation waits no more. -/
def Ctx.freed (x : Ctx) (s : State) : State :=
  s.modCore x.c (fun k => { k with held := none, waitLine := none })

/-- Whether P of a core waits in an operation and its clock runs. -/
def State.waitsIn (s : State) (c : Nat) (o : Op) : Bool :=
  match (s.core c).held with
  | some (p, _) => p == o && !(s.island (islandOf c)).stop && !s.gated
  | none => false

/-- The event that P's waiting operation waits for looks at it again. -/
def State.resumeHeld (s : State) (c : Nat) (o : Op) (body : Ctx → State → Res) : State :=
  match (s.core c).held with
  | some (_, w) =>
    let x := w.ctx o c (s.tickOf c)
    if s.waitsIn c o then x.conclude (body x s) else s
  | none => s

/-! ### SPAWN and JOINW (R300 to R303) -/

/-- The task record that a block of the hold gives. -/
def Core.taskRecord (k : Core) (off parent : Nat) : SpawnRecord :=
  { entry := k.holdRead off 8,
    args := (List.range 6).map (fun i => BitVec.ofNat 64 (k.holdRead (off + 8 + 8 * i) 8)),
    sp := BitVec.ofNat 64 (k.holdRead (off + 0x38) 8), parent, seq := k.seq }

/-- A task record that R301 refuses. -/
def SpawnRecord.bad (r : SpawnRecord) : Bool := r.entry == 0 || r.entry % 4 != 0 || r.sp.toNat % 16 != 0

/-- The number after a child's in a core's series of nonzero 16-bit numbers. -/
def nextChild (n : Nat) : Nat := n % 65535 + 1

/-- The record enters the local task queue, as a DIE release of its own place in the log (R298). -/
def Ctx.spawn (x : Ctx) (s : State) (r : SpawnRecord) : State :=
  let s := ((s.commitOwn x.c).logScope x.c x.st .die).bump x.c
  s.modCore x.c (fun k =>
    { k with ltq := k.ltq ++ [r], jcount := k.jcount + 1, childSerial := nextChild k.childSerial })

def spawnBody (x : Ctx) (s : State) : Res :=
  let o := (x.reg s x.f.sa).toNat
  let k := s.core x.c
  match x.holdCheck s o 64 64 false with
  | some t => .trap s t
  | none =>
    if k.acquirePending x.st then .wait s .access
    else
      match k.badByte (addrsFrom o 64) with
      | some a => .done (x.holdError s a 0 false) .seq
      | none =>
        let r := k.taskRecord o ((k.task.map (fun t => t.id)).getD 0)
        if r.bad then .trap s { cause := .launchRange, late := true }
        else if 64 ≤ k.ltq.length ∨ k.jcount = 0xFFFF then x.give s 0
        else if x.logWaits s .die then .wait s .access
        else x.give (x.spawn s r) (nextChild k.childSerial)

def execSpawn (b : Bundle) (f : Fields) (s : State) : Host.Outcome State Fault Refusal :=
  issue .spawn b f spawnBody s

/-- JOINW waits until the join counter is low enough; JOINW.NB does not. -/
def joinwBody (x : Ctx) (s : State) : Res :=
  let k := s.core x.c
  if bit x.f.mod.toNat 0 ∨ k.jcount ≤ bits x.f.imm.toNat 0 16 then
    x.give ((s.modCore x.c (fun k => { k with parentWait := none })).acquireRdc x.c .die) k.jcount
  else .wait (s.noteParent x.c) .other

def execJoinw (b : Bundle) (f : Fields) (s : State) : Host.Outcome State Fault Refusal :=
  issue .joinw b f joinwBody s

/-! ### LAUNCH (R297, R298) -/

/-- A read in memory meets an uncorrectable error: nothing is written, and the stream traps at its next
boundary (R142). -/
def Ctx.memError (x : Ctx) (s : State) (va : Nat) : State :=
  s.modStream x.c x.st (fun t =>
    { t with uncorr := t.uncorr ++ [(va, x.a, Fdet.word { async := true })] })

/-- What LAUNCH overrides. -/
def Ctx.launchOverrides (x : Ctx) (s : State) : Overrides :=
  let arg := (x.reg s x.f.sc).toNat
  { count := if bit x.f.mod.toNat 0 then some (x.reg s x.f.sb).toNat else none, cls := none,
    arg := if arg ≠ 0 then some arg else none, completion := none }

/-- The launch of a manifest that has been read and checked is entered, when the die's dispatcher has a free entry
for it. -/
def Ctx.enterRead (x : Ctx) (s : State) (m : Manifest) (v : Option Manifest) : Res :=
  if s.freeEntries (dieOf x.c) = 0 then .wait s .other
  else if x.logWaits s .die then .wait s .access
  else
    let s := s.modCore x.c (fun k => { k with launching := none })
    let (s, n) := (s.release x.c x.st .die).enterLaunch m v (s.core x.c).ptroot (dieOf x.c) (some x.c)
      (s.core x.c).seq
    x.give (if m.count = 0 then s.closeLaunch n else s) n

/-- LAUNCH reads and checks its manifest once, then waits for a free entry. -/
def launchBody (x : Ctx) (s : State) : Res :=
  let ma := (x.reg s x.f.sa).toNat
  match (s.core x.c).launching with
  | some (m, v) => x.enterRead s m v
  | none =>
    if ma % 256 ≠ 0 then .trap s (alignTrap ma 0 .load)
    else if !(s.core x.c).settled x.st then .wait s .access
    else
      match s.readManifest x.c x.st.num (s.core x.c).ptroot (isFirmware x.c) ma (x.launchOverrides s) with
      | .fault f va => .trap s (memTrap va va 0 .load f)
      | .error va => .done (x.memError s va) .seq
      | .wait s => .wait s .access
      | .bad s => .trap s { cause := .launchRange, addr0 := ma, late := true, fdet := Fdet.word {} }
      | .ok s m v => x.enterRead (s.modCore x.c (fun k => { k with launching := some (m, v) })) m v

def execLaunch (b : Bundle) (f : Fields) (s : State) : Host.Outcome State Fault Refusal :=
  issue .launch b f launchBody s

/-! ### YIELD (R320) -/

/-- The launches with an eligible head that rank above a task's on an island. -/
def State.ranksAbove (s : State) (i : Nat) (t : Task) : List (Launch × Head) :=
  match s.launch? t.launch with
  | none => []
  | some l =>
    (s.ranked i).filter (fun e => e.1.group i < l.group i ||
      (e.1.group i == l.group i && e.1.number != l.number &&
        (s.launches.takeWhile (fun m => m.number != l.number)).any (fun m => m.number == e.1.number)))

/-- Some launch of a list can start its head only on cores given up for it; an aged one that cannot start holds
back every T1 and T2 launch after it (R314). -/
def State.needsCores (s : State) (i : Nat) (cs : List Nat) : List (Launch × Head) → Bool → Bool
  | [], _ => false
  | (l, h) :: rest, stop =>
    if stop && l.man.cls != 0 then false
    else if (s.planFor i l h [] cs).isSome then State.needsCores s i cs rest stop
    else (s.planFor i l h cs []).isSome || State.needsCores s i cs rest (stop || Tbl.get false l.aged i)

/-- A unit of higher rank can start only on the cores that a task's unit holds: not without them, even where it may
pre-empt other units (R315, R320). -/
def State.mustYield (s : State) (c : Nat) : Bool :=
  match (s.core c).task with
  | none => false
  | some t => s.needsCores (islandOf c) (s.unitSpan c) (s.ranksAbove (islandOf c) t) false

/-- YIELD: P issues no more before the pre-emption that takes the task off its core. -/
def yieldBody (x : Ctx) (s : State) : Res :=
  if s.mustYield x.c then x.give (s.modCore x.c (fun k => { k with yielded := true })) 1 else x.give s 0

def execYield (b : Bundle) (f : Fields) (s : State) : Host.Outcome State Fault Refusal :=
  issue .yield b f yieldBody s

/-! ### TTREL (R317, R318) -/

/-- The slip of the current release, recorded once, when its budget has passed. -/
def State.checkSlip (s : State) (c : Nat) (t : Task) : State :=
  if t.release + t.budget ≤ s.frameOf c ∧ !t.slipDone then
    (s.recordSlips t.launch c [t.release]).modCore c (fun k =>
      { k with task := some { t with slips := t.slips + 1, slipDone := true } })
  else s

/-- Slips recorded for the task on a core. -/
def State.taskSlips (s : State) (c : Nat) : Nat := ((s.core c).task.map (fun t => t.slips)).getD 0

/-- The next release becomes current. -/
def Task.advance (t : Task) : Task := { t with release := t.release + t.period, slipDone := false }

/-- TTREL checks for a slip when it comes to its wait, and looks at FRAME until the next release. -/
def ttrelBody (x : Ctx) (s : State) : Res :=
  match (s.core x.c).task with
  | none => .plain s .illfield
  | some t =>
    if t.cls ≠ 0 then .plain s .illfield
    else
      let s := if (s.core x.c).held.isSome then s else s.checkSlip x.c t
      let slips := s.taskSlips x.c
      if bit x.f.mod.toNat 0 ∨ t.period = 0 then x.give s slips
      else if t.release + t.period ≤ s.frameOf x.c then
        let s := s.modCore x.c (fun k => { k with task := k.task.map Task.advance })
        x.give (x.freed s) slips
      else x.holds s

def execTtrel (b : Bundle) (f : Fields) (s : State) : Host.Outcome State Fault Refusal :=
  issue .ttrel b f ttrelBody s

/-- NEXT_RELEASE: FRAME has reached the next release of a task that waits in TTREL (R317). -/
def execNextRelease (core : Nat) (s : State) : Host.Outcome State Fault Refusal :=
  if core < coreCount then .next (s.resumeHeld core .ttrel ttrelBody) else .fault .noSuchAgent

/-! ### WAITB (R321, R322) -/

/-- The condition of Table 12.9 on the word read, with comparand and window. -/
def waitHolds (mode w v b win : Nat) : Bool :=
  match mode with
  | 0 => v == b
  | 1 => v != b
  | 2 => (v + 2 ^ w - b) % 2 ^ w < 2 ^ (w - 1)
  | 3 => 2 ^ (w - 1) ≤ (v + 2 ^ w - b) % 2 ^ w
  | _ => (b + 2 ^ w - v) % 2 ^ w < win

/-- The read of WAITB, as a load with an acquire at DEV. -/
def Ctx.waitLoad (x : Ctx) (s : State) (ea : Nat) (ms : List Mapped) : PLoad :=
  { st := x.st, seq := (s.core x.c).seq, parts := ms.mapIdx (fun i m => (i, m.pa, m.kind)),
    dest := .reg (.s 0) false x.size, acq := orderScope .dev ms,
    origin := originOf ea x.size 0 (addrsFrom ea x.size), bundle := x.a }

/-- What WAITB, which compares with `b` in a window and has waited since `t0`, does with the value read. -/
def Ctx.waitValue (x : Ctx) (s : State) (b win t0 line v : Nat) : Res :=
  let s := s.modStream x.c x.st (fun t => { t with waitValue := BitVec.ofNat 64 v })
  if waitHolds (bits x.f.mod.toNat 0 3) (8 * x.size) v b win then x.give (x.freed s) v
  else if x.f.imm.toNat ≤ x.now - t0 then
    .trap s { cause := .waitExpire, late := true, wxtag := x.f.aux.zeroExtend 64,
              wxval := BitVec.ofNat 64 v, wxcmp := BitVec.ofNat 64 b }
  else x.holds (s.modCore x.c (fun k => { k with waitLine := some line }))

/-- WAITB sleeps: nothing has been stored to its line, and its limit is not reached. -/
def Ctx.asleep (x : Ctx) (s : State) : Bool :=
  (s.core x.c).waitLine.isSome &&
    x.now - (s.stream x.c x.st).waitStart.getD x.now < x.f.imm.toNat

def waitbBody (x : Ctx) (s : State) : Res :=
  let ea := (x.reg s x.f.sa).toNat
  let b := (x.reg s x.f.sb).toNat % 2 ^ (8 * x.size)
  let win := (x.reg s x.f.sc).toNat
  let t0 := (s.stream x.c x.st).waitStart.getD x.now
  if x.asleep s then .wait s .other
  else
    match x.plainAccess s .load ea x.size with
    | .trap t => .trap s t
    | .wait s => .wait s .access
    | .ok s ms =>
      let l := x.waitLoad s ea ms
      if !s.loadReady x.c l then .wait s .access
      else
        match (ms.zip (addrsFrom ea x.size)).find? (fun e => s.badLines.contains (e.1.pa / 64)) with
        | some e => .done (x.memError (x.freed s) e.2) .seq
        | none =>
          let s := s.acquireFor x.c l
          let (s, bytes) := s.readParts x.c x.st l.seq l.parts
          let s := (s.acquireFor x.c l).bump x.c
          x.waitValue s b win t0 (((ms.map (fun m => m.pa)).head?.getD 0) / 64) (assemble bytes)

def execWaitb (b : Bundle) (f : Fields) (s : State) : Host.Outcome State Fault Refusal :=
  issue .waitb b f waitbBody s

/-- WAITB_EXPIRY: TICK has reached the limit of a waiting WAITB, which reads its word once more (R322). -/
def execWaitbExpiry (core : Nat) (s : State) : Host.Outcome State Fault Refusal :=
  if core < coreCount then
    match (s.core core).held with
    | some (.waitb, w) =>
      if w.f.imm.toNat ≤ s.tickOf core - (s.stream core .P).waitStart.getD (s.tickOf core) then
        .next (s.resumeHeld core .waitb waitbBody)
      else .next s
    | _ => .next s
  else .fault .noSuchAgent

/-! ### Dispatch -/

/-- DISPATCH_SLOT: the dispatcher of an island acts, once at every TICK that is a multiple of 16 (R313); the
boundaries that have come go first (R326). -/
def execDispatchSlot (island : Nat) (s : State) : Host.Outcome State Fault Refusal :=
  if island < islandCount then
    let v := s.island island
    if v.tick % 16 = 0 ∧ v.slotTick ≠ some v.tick ∧ !v.stop ∧ !s.gated then
      let s := s.catchTides (island / 6)
      .next ((s.setIsland island { s.island island with slotTick := some v.tick, acted := true }).dispatch island)
    else .next s
  else .fault .noSuchAgent

/-- The record that a waiting parent's core may run in its place (R303, R316): the oldest of its queue, after
10 µs, or 20 µs for a member of a convoy when no other core of the island takes it. -/
def State.overdueRecord (s : State) (c : Nat) : Option (Launch × SpawnRecord × Task) :=
  let k := s.core c
  match k.parentWait, k.task, k.ltq with
  | some t0, some t, r :: _ =>
    match s.launch? t.launch with
    | none => none
    | some l =>
      let m := l.manifest (bit t.drec.toNat 63)
      let now := s.timeOf c
      let others := (islandCores (islandOf c)).any (s.coreFits [] m)
      let due := if t.convoyId.isNone then t0 + 10000 ≤ now else t0 + 20000 ≤ now && !others
      if due && k.released { st := .P, seq := r.seq } && s.coreFits (s.unitSpan c) m c then
        some (l, r, t)
      else none
  | _, _, _ => none

/-- PARENT_PREEMPT_TIMEOUT: a parent that has waited for a child whose record has not started is pre-empted,
and its core runs the record (R303); no unit starts in a thermal emergency (R340). -/
def execParentPreemptTimeout (core : Nat) (s : State) : Host.Outcome State Fault Refusal :=
  if core < coreCount then
    let s := s.catchTides (dieOf core)
    match s.overdueRecord core with
    | none => .next s
    | some (l, r, t) =>
      match s.fundPlan l (.record core r t) [core] (s.unitSpan core) with
      | none => .next s
      | some p =>
        let w := s.prepareAll p.victims
        .next (if !s.planReady p || s.gated then s
          else if sameTasks s w p.victims then w.runPlan l (.record core r t) p else w)
  else .fault .noSuchAgent

/-! ### Ends (R299, R318, R319) -/

/-- A saved context that Duwen may end: it met a fault on a core (R318, R377). -/
def SavedContext.faulted (r : SavedContext) : Bool :=
  r.forCause && r.cause != 0 && r.cause != causeCode .throttleWarn

/-- TASK_END: a task whose HALT is complete, or whose start has failed, ends; or Duwen ends one that met a
fault on the core and is not resumed (R299, R318); none while the clocks are gated (R340). -/
def execTaskEnd (core : Nat) (s : State) : Host.Outcome State Fault Refusal :=
  if core < coreCount then
    if s.gated then .next s
    else if (s.core core).halted then .next (s.endTask core ((s.core core).startFault.map causeCode))
    else
      match s.saved.find? (fun r => r.core == core && r.faulted) with
      | some r => .next (s.endSaved r (some r.cause))
      | none => .next s
  else .fault .noSuchAgent

/-- The cores that run tasks of a launch. -/
def State.launchCores (s : State) (n : Nat) : List Nat :=
  (List.range coreCount).filter (fun c => (s.core c).task.map (fun t => t.launch) == some n)

/-- The deadline of a launch has come, the clocks run, and what its tasks have issued can complete (R186, R340).  It is
counted from the first start, so that one that has started no unit has none (Table 12.2, R294; log entry 126). -/
def State.deadlineDue (s : State) (l : Launch) : Bool :=
  !s.gated && (s.launchCores l.number).all s.strikeReady &&
  match l.firstStart with
  | none => false
  | some t => l.man.deadline != 0 && t + l.man.deadline ≤ s.dieTime l.die

/-- Every unit of a launch ends with a cause, and none starts any more (R319). -/
def State.endLaunch (s : State) (l : Launch) (cause : Nat) : State :=
  let s := s.setLaunch
    { l with failed := true, cause := if l.cause = 0 then cause else l.cause, nextUnit := l.units }
  let s := (s.launchCores l.number).foldl (fun s c => s.endTask c (some cause)) s
  let s := (s.saved.filter (fun r => r.task.launch == l.number)).foldl
    (fun s r => s.endSaved r (some cause)) s
  s.closeLaunch l.number

/-- LAUNCH_DEADLINE: Duwen ends every unit of a launch at its deadline (R319). -/
def execLaunchDeadline (launch : Nat) (s : State) : Host.Outcome State Fault Refusal :=
  match s.launch? launch with
  | none => .next s
  | some l => .next (if s.deadlineDue l then s.endLaunch l (causeCode .waitExpire) else s)

end Sys2Proof.Machine
end

