-- ==== Sys2Proof/Machine/System.lean ====
section
/-!
DEFINITION. System and trap instructions (R370 to R387): TRAP, ERET, the special registers, TLBI, context save
and load, IDLE; with the events of pre-emption, mooring, start, links and attestation (R387 to R390).
-/

namespace Sys2Proof.Machine

/-! ### TRAP and ERET (R379, R380) -/

/-- TRAP finishes its bundle, side-op and PUSH included, and raises BREAK; the bundle after it is the recorded
one. -/
def trapBody (svc : Bool) (x : Ctx) (s : State) : Res :=
  let t : TrapInfo := { cause := .brk, code := bits x.f.imm.toNat 0 16, svc, async := true }
  if s.mustDefer x.c t then .wait s .access else .broke ((x.finish s .seq true).raise x.c x.st t)

def execTrap (b : Bundle) (f : Fields) (s : State) : Host.Outcome State Fault Refusal :=
  issue .trap b f (trapBody false) s

def execTrapFw (b : Bundle) (f : Fields) (s : State) : Host.Outcome State Fault Refusal :=
  issue .trapFw b f (trapBody true) s

/-- ERET; at task privilege outside a handler it has trapped with PRIV at decode (R38, R380). -/
def eretBody (x : Ctx) (s : State) : Res := .final ((x.finish s .seq true).eret x.c)

def execEret (b : Bundle) (f : Fields) (s : State) : Host.Outcome State Fault Refusal :=
  issue .eret b f eretBody s

/-! ### Special registers (R371) -/

/-- DEVID (Table 0.3). -/
def deviceId : Word :=
  BitVec.ofNat 64 (0xEB51 * 2 ^ 48 + 0x0004 * 2 ^ 32 + 0x02 * 2 ^ 24 + Config.step.toNat * 2 ^ 12 + 0x300)

/-- COREID (Table 1.2). -/
def coreId (c : Nat) : Word :=
  BitVec.ofNat 64 ((if isFirmware c then 2 ^ 16 else 0) + dieOf c * 2 ^ 14 + c % 48 / 8 * 2 ^ 11 +
    c % 8 / 4 * 2 ^ 10 + c % 4 * 2 ^ 8 + c)

/-- The value of a special register (Table 15.1). -/
def State.special (s : State) (c n : Nat) : Word :=
  let k := s.core c
  let fr := k.frame
  match n with
  | 0 => deviceId
  | 1 => coreId c
  | 2 => k.caps.zeroExtend 64
  | 3 => BitVec.ofNat 64 (s.tickOf c)
  | 4 => BitVec.ofNat 64 (s.timeOf c)
  | 5 => BitVec.ofNat 64 (s.frameOf c)
  | 6 => BitVec.ofNat 64 s.tide
  | 7 => BitVec.ofNat 64 s.flen
  | 8 => k.ptroot
  | 9 => if isFirmware c then 1 else 0
  | 10 => fr.fcause
  | 11 => fr.faddr0
  | 12 => fr.faddr1
  | 13 => fr.fdet
  | 14 => fr.fpc.p
  | 15 => fr.fpc.l
  | 16 => fr.fpc.x
  | 17 => fr.fpc.s
  | 18 => fr.wxtag
  | 19 => fr.wxval
  | 20 => fr.wxcmp
  | 21 => fr.flact
  | 22 => k.tvec
  | 23 => k.ctxptr
  | 24 => if k.lease then 1 else 0
  | 25 => fr.fptg
  | _ => 0

/-- The number of a special register operand. -/
def specialNum : Operand → Nat
  | .special n => n.val
  | _ => 0

def sregBody (x : Ctx) (s : State) : Res :=
  .done (x.result s 2 [x.writes x.f.dst (s.special x.c (specialNum x.f.sa))]) .seq

def execSreg (b : Bundle) (f : Fields) (s : State) : Host.Outcome State Fault Refusal :=
  issue .sreg b f sregBody s

/-- The tide length that a write leaves: no rule states one for a value outside 20 to 1000 (R324). -/
def tideValue (fresh : Nat) (v : Word) : Word :=
  if 20 ≤ v.toNat ∧ v.toNat ≤ 1000 then v else BitVec.ofNat 64 (20 + Config.freePick fresh % 981)

/-- The write of FPC of a stream, whose number is given, by a handler: the stream's pending transfer goes (R371, R380). -/
def Ctx.handlerWrite (x : Ctx) (s : State) (n : Nat) : List Effect :=
  if 14 ≤ n ∧ n ≤ 17 ∧ (s.core x.c).inh then [.framePc (Stream.ofNum (n - 14))] else []

/-- SWREG: the write lands 2 ticks later; a misaligned FPC is refused (R380). -/
def swregBody (x : Ctx) (s : State) : Res :=
  let n := specialNum x.f.dst
  let v := x.rawZ s x.f.sa
  if 14 ≤ n ∧ n ≤ 17 ∧ v.toNat % 4 ≠ 0 then .trap s { cause := .align, addr0 := v.toNat }
  else if n = 6 then
    .done (x.result { s with fresh := s.fresh + 1 } 2 [.special n (tideValue s.fresh v)]) .seq
  else .done (x.result s 2 (.special n v :: x.handlerWrite s n)) .seq

def execSwreg (b : Bundle) (f : Fields) (s : State) : Host.Outcome State Fault Refusal :=
  issue .swreg b f swregBody s

/-! ### TLBI (R385) -/

/-- An entry that a TLBI of a form removes. -/
def TlbEntry.invalidated (t : TlbEntry) (form asid va : Nat) : Bool :=
  match form with
  | 0 => true
  | 1 => t.asid == asid && !pteG t.pte
  | _ => (t.asid == asid || pteG t.pte) && va / 2 ^ pageBits t.lvl == t.vbase / 2 ^ pageBits t.lvl

/-- An entry translates to a physical address. -/
def TlbEntry.maps (t : TlbEntry) (pa : Nat) : Bool :=
  leafPa t.pte t.lvl 0 ≤ pa && pa < leafPa t.pte t.lvl 0 + 2 ^ pageBits t.lvl

/-- The cores whose first-level TLBs a TLBI of a reach clears. -/
def reachCores (reach c : Nat) : List Nat :=
  match reach with
  | 0 => [c]
  | 1 => dieCores (dieOf c)
  | _ => List.range coreCount

/-- The dies whose second-level TLBs it clears. -/
def reachDies (reach c : Nat) : List Nat :=
  match reach with
  | 0 => []
  | 1 => [dieOf c]
  | _ => List.range dieCount

/-- An access at some physical addresses was translated through one of some entries. -/
def anyMaps (ts : List TlbEntry) (pas : List Nat) : Bool := pas.any (fun a => ts.any (fun t => t.maps a))

/-- The accesses of a core already translated through one of some entries, stores in its commit buffer included. -/
def Core.through (k : Core) (c : Nat) (ts : List TlbEntry) : List OpenAccess :=
  (k.loads.filter (fun l => anyMaps ts l.pas)).map (fun l => .issued c l.seq) ++
    (k.stores.filter (fun x => anyMaps ts x.pas)).map (fun x => .issued c x.seq) ++
    (if anyMaps ts (k.dc.map (fun e => e.1)) then
      k.dcStores.map (fun e => match k.task with
        | some t => .kept t.id e.2
        | none => .issued c e.2)
     else [])

/-- The stores in the commit buffers of saved contexts and of ended members of convoys that were translated through
one of some entries (R177, R285). -/
def State.keptThrough (s : State) (ts : List TlbEntry) : List OpenAccess :=
  s.saved.flatMap (fun r =>
    if anyMaps ts (r.dc.map (fun e => e.1)) then r.dcStores.map (fun e => .kept r.task.id e.2) else []) ++
  s.convoys.flatMap (fun v => (v.endedMeter.filter (fun m =>
    anyMaps ts ((Tbl.get [] v.endedDc m.1).map (fun e => e.1)))).map (fun m => .kept m.2.task 0))

/-- A walk could fill an entry that a TLBI of a form removes: a leaf may be global, and as large as a level 2
page. -/
def Walk.mayFill (w : Walk) (form asid va : Nat) : Bool :=
  match form with
  | 0 => true
  | 1 => w.asid == asid
  | _ => w.page * 8192 / 2 ^ pageBits 2 == va / 2 ^ pageBits 2

/-- The walks of a die that a test selects are restarted, but for those that only cores out of reach wait for: they
end here, and the accesses that wait ask for them again. -/
def State.restartWalks (s : State) (d : Nat) (cores : List Nat) (sel : Walk → Bool) : State :=
  let hit (w : Walk) : Bool := sel w && (w.waiters.isEmpty || w.waiters.any (fun e => cores.contains e.1))
  if (s.die d).walks.any hit then
    s.setDie d { s.die d with walks := (s.die d).walks.filter (fun w => !hit w) }
  else s

/-- Remove the matching entries and restart the walks that could fill one; the accesses translated through them are
what P then waits for. -/
def Ctx.invalidate (x : Ctx) (s : State) : State :=
  let gone (t : TlbEntry) : Bool :=
    t.invalidated (bits x.f.mod.toNat 0 2) (bits (x.reg s x.f.sb).toNat 0 16) (x.reg s x.f.sa).toNat
  let reach := bits x.f.mod.toNat 2 2
  let removed (c : Nat) : List TlbEntry := ((s.core c).tlb ++ (s.die (dieOf c)).tlb).filter gone
  let wait := (reachCores reach x.c).flatMap (fun c => (s.core c).through c (removed c)) ++
    s.keptThrough ((reachCores reach x.c).flatMap removed)
  let s := (reachCores reach x.c).foldl (fun s c =>
    if (s.core c).tlb.any gone then s.modCore c (fun k => { k with tlb := k.tlb.filter (fun t => !gone t) })
    else s) s
  let s := (reachDies reach x.c).foldl (fun s d =>
    s.setDie d { s.die d with tlb := (s.die d).tlb.filter (fun t => !gone t) }) s
  let s := (((reachCores reach x.c).map dieOf).eraseDups).foldl (fun s d =>
    s.restartWalks d (reachCores reach x.c) (fun w =>
      w.mayFill (bits x.f.mod.toNat 0 2) (bits (x.reg s x.f.sb).toNat 0 16) (x.reg s x.f.sa).toNat)) s
  s.modCore x.c (fun k => { k with tlbWait := some wait })

/-- An access is still to be performed. -/
def State.accessOpen (s : State) (e : OpenAccess) : Bool :=
  match e with
  | .issued c n =>
    (s.core c).loads.any (fun l => l.seq == n) || (s.core c).stores.any (fun y => y.seq == n) ||
      (s.core c).dcStores.any (fun d => d.2 == n)
  | .kept t n =>
    s.cores.any (fun c => (c.2.task.map (fun u => u.id)) == some t && c.2.dcStores.any (fun d => d.2 == n)) ||
      s.saved.any (fun r => r.task.id == t && r.dcStores.any (fun d => d.2 == n)) ||
      s.convoys.any (fun v => v.endedMeter.any (fun m => m.2.task == t && !(Tbl.get [] v.endedDc m.1).isEmpty))

def tlbiBody (x : Ctx) (s : State) : Res :=
  let s := if (s.core x.c).tlbWait.isNone then x.invalidate s else s
  if ((s.core x.c).tlbWait.getD []).any s.accessOpen then .wait s .access
  else .done (s.modCore x.c (fun k => { k with tlbWait := none })) .seq

def execTlbi (b : Bundle) (f : Fields) (s : State) : Host.Outcome State Fault Refusal :=
  issue .tlbi b f tlbiBody s

/-! ### CTXS and CTXL (R384) -/

/-- Bytes of a context area, and of its part before the berths (R382). -/
def areaSize : Nat := 0x450000
def areaPlain : Nat := 0x150000

/-- The trap of a core number of CTXS or CTXL. -/
def coreTrap (c : Nat) : TrapInfo := { cause := .access, addr0 := c, fdet := Fdet.word {} }

/-- A context operation enters: its token is pending until it has run. -/
def Ctx.enterOp (x : Ctx) (s : State) (save : Bool) (a : Nat) (targets tasks : List Nat) : Res :=
  .done (s.modCore x.c (fun k => { k with ctxOps := k.ctxOps ++
    [{ save, area := a, token := tokenNumber x.f.dst, convoy := bit x.f.mod.toNat 0, targets, tasks }] })) .seq

/-- Checks that both share; then what the operation does with area and core. -/
def Ctx.withArea (x : Ctx) (s : State) (k : AccessKind) (go : Nat → Nat → Res) : Res :=
  let a := (x.reg s x.f.sa).toNat
  let c := (x.reg s x.f.sb).toNat
  if a % 65536 ≠ 0 then .trap s (alignTrap a 0 k)
  else if 191 < c ∨ isFirmware c then .trap s (coreTrap c)
  else go a c

/-- The number of the task on a core. -/
def State.taskOn (s : State) (c : Nat) : Nat := ((s.core c).task.map (fun t => t.id)).getD 0

def ctxsBody (x : Ctx) (s : State) : Res :=
  x.withArea s .store (fun a c =>
    if (s.core c).task.isNone then .trap s (coreTrap c)
    else
      let cs := if bit x.f.mod.toNat 0 then s.unitCores c else [c]
      x.enterOp s true a cs (cs.map s.taskOn))

def execCtxs (b : Bundle) (f : Fields) (s : State) : Host.Outcome State Fault Refusal :=
  issue .ctxs b f ctxsBody s

/-- The handles of an area's chart binding list. -/
def State.areaCharts (s : State) (a : Nat) : List Word :=
  ((List.range 8).map (fun j => BitVec.ofNat 64 (s.mem.read (a + 0x238 + 8 * j) 8))).filter (fun h => h != 0)

/-- NEEDCAPS of an area is satisfied by a core. -/
def State.areaFits (s : State) (a c : Nat) : Bool :=
  capsFit (s.core c).caps.toNat (s.mem.read (a + 4) 4)

/-- The bound chart slots of an area lie on a core's die. -/
def State.chartsFit (s : State) (a c : Nat) : Bool :=
  (s.areaCharts a).all (fun h => handleDie h == dieOf c)

/-- A core can take the context of an area. -/
def State.restorable (s : State) (a c : Nat) : Bool :=
  !isFirmware c && (s.core c).task.isNone && !s.claimed c && (s.core c).berthCount != 0 && s.areaFits a c &&
    s.chartsFit a c

/-- The convoy that some member's saved context names, each member k in its area a + k × 0x45_0000 (R384). -/
def State.areaConvoy (s : State) (a : Nat) : Option Convoy :=
  ((s.saved.find? (fun r => r.convoyId.isSome && r.area == a + areaSize * r.task.member)).bind
    (fun r => r.convoyId)).bind (fun id => s.convoys.find? (fun v => v.id == id))

/-- Members of the convoy saved from an area up. -/
def State.areaCount (s : State) (a : Nat) : Nat :=
  match s.areaConvoy a with
  | some v => v.size
  | none => max (s.mem.read (a + 0x1A) 2) 1

/-- The members of the convoy saved from an area up that are to be restored: those that have not ended. -/
def State.areaMembers (s : State) (a : Nat) : List Nat :=
  match s.areaConvoy a with
  | none => List.range (s.areaCount a)
  | some v => (v.alive.map (fun e => e.1)).filter (fun m => s.saved.any (fun r => r.area == a + areaSize * m))

/-- The cores of its members that have ended, where it is restored whole: it keeps as many again (R21). -/
def State.areaEnded (s : State) (a : Nat) : List Nat :=
  match s.areaConvoy a with
  | none => []
  | some v => if (s.areaMembers a).length = v.alive.length then v.endedCores else []

/-- The area of the first of them. -/
def State.firstArea (s : State) (a : Nat) : Nat := a + areaSize * ((s.areaMembers a).headD 0)

/-- The cores that a convoy's placement from a core may use: its cluster, island or die (R22). -/
def shapeCores (c size : Nat) : List Nat :=
  if size ≤ 1 then [c]
  else if size ≤ 4 then (List.range 4).map (fun i => clusterBase c + i)
  else if size ≤ 8 then islandCores (islandOf c)
  else dieCores (dieOf c)

/-- Cores for the members saved from an area up that keep their numbers in their clusters, the first member's
given. -/
def State.placeSame (s : State) (a c : Nat) (cores : List Nat) (ok : Nat → Bool) : Option (List Nat) :=
  let from' := (s.areaMembers a).filterMap (fun m =>
    (s.saved.find? (fun r => r.area == a + areaSize * m)).map (fun r => r.core))
  let new := c / 4 :: ((cores.map (fun d => d / 4)).eraseDups).erase (c / 4)
  let all := from' ++ s.areaEnded a
  if from'.length = (s.areaMembers a).length then
    ((matchClusters all ok new ((all.map (fun d => d / 4)).eraseDups)).map (fun m => moveClusters m all)).filter
      (fun cs => cs.head? == some c)
  else none

/-- Cores for the members of a convoy that have not ended, the first one's given, then for those that have: with their numbers in their
clusters where that can be (R401; log entry 102), else chosen by free values (R22, R384). -/
def State.placeFrom (s : State) (a c : Nat) : Option (List Nat) :=
  let n := (s.areaMembers a).length + (s.areaEnded a).length
  let cores := shapeCores c (s.areaCount a)
  let ok (d : Nat) : Bool :=
    shapeAllows (s.areaCount a) d && (d == c || !s.coreHeld d) && (s.areaMembers a).all (fun m => s.restorable (a + areaSize * m) d)
  match s.placeSame a c cores ok with
  | some cs => some cs
  | none =>
    let fit := cores.filter (fun d => d != c && ok d)
    if shapeAllows (s.areaCount a) c && n ≤ fit.length + 1 then some (c :: pickSome (n - 1) fit s.fresh) else none

def ctxlBody (x : Ctx) (s : State) : Res :=
  x.withArea s .load (fun a c =>
    let first := if bit x.f.mod.toNat 0 then s.firstArea a else a
    if (s.core c).task.isSome ∨ s.claimed c then .trap s (coreTrap c)
    else if !s.areaFits first c then .trap s { cause := .restoreCaps }
    else if !s.chartsFit first c then .trap s (coreTrap c)
    else if bit x.f.mod.toNat 0 then
      match s.placeFrom a c with
      | none => .trap s (coreTrap c)
      | some cs => x.enterOp { s with fresh := s.fresh + 64 } false a cs []
    else x.enterOp s false a [c] [])

def execCtxl (b : Bundle) (f : Fields) (s : State) : Host.Outcome State Fault Refusal :=
  issue .ctxl b f ctxlBody s

/-- A context operation has run: its status word is written as a DEV release (R187, R194, R384). -/
def State.endOp (s : State) (k : Nat) (o : CtxOp) (bytes : Nat) : State :=
  let s := s.modCore k (fun q => { q with ctxOps := q.ctxOps.erase o })
  ((s.commitOwn k).releaseRdc k .dev).writeToken k .P o.token (statusWord 1 0 false false true bytes) .dev

/-- A CTXS runs: the contexts it found are struck together and saved, each into the area of its member. -/
def State.runSave (s : State) (k : Nat) (o : CtxOp) : State :=
  let live (s : State) : List Nat :=
    ((o.targets.zip o.tasks).filter (fun e => (s.core e.1).task.isSome && s.taskOn e.1 == e.2)).map (fun e => e.1)
  let s := (live s).foldl State.prepareSave s
  let cs := live s
  let was := cs.map s.taskOn
  let member (s : State) (c : Nat) : Nat :=
    if o.convoy then ((s.core c).task.map (fun t => t.member)).getD 0 else 0
  let ids := (cs.map (fun c => (s.core c).task.bind (fun t => t.convoyId))).eraseDups
  let whole := cs.all (fun c => (s.unitCores c).all (fun d => cs.contains d))
  let s := cs.foldl State.strike s
  let s := if whole then s else
    cs.foldl (fun s c => s.modCore c (fun k => { k with task := k.task.map Task.lose })) s
  let s := cs.foldl (fun s c =>
    s.saveContext c (o.area + areaSize * member s c) false true (s.core c).frame) s
  let areas := (s.saved.filter (fun r => was.any (fun e => e == r.task.id))).map (fun r => r.area)
  let s := if whole then ids.foldl (fun s id => s.markSaved areas id) s else s
  s.endOp k o (areaPlain * cs.length)

/-- A CTXL runs: each context is restored on its core and charged again (R328, R384), and a convoy has the cores of its
ended members again (R21).  No rule states the ADDR of its status word. -/
def State.runLoad (s : State) (k : Nat) (o : CtxOp) : State :=
  let members := if o.convoy then s.areaMembers o.area else [0]
  let more := o.targets.drop members.length
  let id := if more.isEmpty then none else (s.areaConvoy o.area).map (fun v => v.id)
  let s := (members.zip o.targets).foldl (fun s e =>
    let a := o.area + areaSize * e.1
    let i := islandOf e.2
    let cost := Tbl.get 0 (s.island i).cost (s.mem.read (a + 0x1C) 2 % 16)
    (s.charge i (s.mem.read (a + 0x1E) 2 == 0) cost).restoreContext a e.2 cost) s
  let s := match id with
    | some id => (more.foldl State.stopBallast s).keepCores id more
    | none => s
  let s := (o.targets.take members.length).foldl State.reaimCopies s
  { s with fresh := s.fresh + 1 }.endOp k o (Config.freeWord s.fresh).toNat

/-- The context operation on a core that is still to run, with the Duwen core that issued it. -/
def State.openOp (s : State) (c : Nat) (save : Bool) : Option (Nat × CtxOp) :=
  s.cores.findSome? (fun e =>
    (e.2.ctxOps.find? (fun o => o.save == save && o.targets.contains c)).map (fun o => (e.1, o)))

/-- A CTXL onto a core runs; no unit starts in a thermal emergency or while the module is moored (R340, R387). -/
def State.restoreOn (s : State) (c : Nat) : State :=
  if s.gated then s
  else
    match s.openOp c false with
    | some (k, o) => s.runLoad k o
    | none => s

/-- PREEMPTION: a core that has been yielded, or that a CTXS names, is struck and its context saved (R381), once
the promoting acquires that it has issued complete (R186). -/
def execPreemption (core : Nat) (s : State) : Host.Outcome State Fault Refusal :=
  if core < coreCount then
    if s.gated then .next s
    else if (s.core core).yielded then .next (if (s.unitCores core).all s.strikeReady then s.evictUnit core else s)
    else
      match s.openOp core true with
      | some (k, o) => .next (if o.targets.all s.strikeReady then s.runSave k o else s)
      | none => .next s
  else .fault .noSuchAgent

/-! ### IDLE (R386) -/

/-- The lowest of the reasons that have come about; none where P waits on. -/
def idleReason (evl : BitVec 4) (limit : Bool) : Option Nat :=
  if evl.getLsbD 0 then some 1
  else if evl.getLsbD 1 then some 2
  else if evl.getLsbD 2 then some 3
  else if limit then some 4
  else if evl.getLsbD 3 then some 5
  else none

/-- The tick limit of an IDLE is reached. -/
def Ctx.idleOver (x : Ctx) (s : State) : Bool :=
  x.f.imm.toNat != 0 && (s.stream x.c x.st).waitStart.getD x.now + x.f.imm.toNat ≤ x.now

def idleBody (x : Ctx) (s : State) : Res :=
  match idleReason (s.core x.c).evl (x.idleOver s) with
  | some r => x.give ((x.freed s).modCore x.c (fun k => { k with evl := 0 })) r
  | none => x.holds s

def execIdle (b : Bundle) (f : Fields) (s : State) : Host.Outcome State Fault Refusal :=
  issue .idle b f idleBody s

/-- IDLE_TICK_LIMIT: TICK has reached the limit of a waiting IDLE. -/
def execIdleTickLimit (core : Nat) (s : State) : Host.Outcome State Fault Refusal :=
  if core < coreCount then .next (s.resumeHeld core .idle idleBody) else .fault .noSuchAgent

/-! ### IDLE.M and the mooring (R387) -/

/-- A packet's wait mask is met (R310). -/
def State.startable (s : State) (p : Packet) : Bool :=
  let w := (s.queue (bits p.hdr 3 6)).tokens
  w &&& p.waitmask == p.waitmask

/-- A packet that has not started waits in a window and could start. -/
def State.packetReady (s : State) : Bool :=
  s.queues.any (fun e => e.2.window.any (fun p => p.launch.isNone && s.startable p))

/-- TIME of the earliest release of a T0 launch still to come or not yet started, in ns; none where no release
is pending. -/
def State.nextReleaseTime (s : State) (c : Nat) (l : Launch) : Option Nat :=
  let ns (r : Nat) : Nat := r * (1000 * s.flen)
  let m := l.man
  if m.cls ≠ 0 then none
  else if l.nextUnit < l.units then some (ns m.relframe)
  else if s.frameOf c ≤ m.relframe then some (ns m.relframe)
  else if m.period = 0 then none
  else some (ns (m.releaseAt (s.frameOf c) + m.period))

/-- The earliest pending release of the T0 launches. -/
def State.earliestRelease (s : State) (c : Nat) : Option Nat :=
  (s.launches.filterMap (s.nextReleaseTime c)).foldl (fun r t =>
    some (match r with
      | some u => min u t
      | none => t)) none

/-- The conditions for mooring. -/
def State.mayMoor (s : State) (c : Nat) : Bool :=
  s.cores.all (fun e => e.2.task.isNone && e.2.copies.isEmpty && e.2.charts.isEmpty) && !s.packetReady &&
    (match s.earliestRelease c with
     | some r => s.timeOf c + 2500000 < r
     | none => true)

def idleMBody (x : Ctx) (s : State) : Res :=
  if s.mayMoor x.c then
    x.holds { s with moored := true, moorCore := x.c, moorFrom := s.timeOf x.c,
                     moorWake := (s.earliestRelease x.c).map (fun r => r - 2500000) }
  else x.give s 0

def execIdleM (b : Bundle) (f : Fields) (s : State) : Host.Outcome State Fault Refusal :=
  issue .idleM b f idleMBody s

/-- A peer's write into an open window is performed at its home (R390). -/
def State.peerWrite (s : State) (w off : Nat) (data : List Byte) : State :=
  match s.windows.find? (fun e => e.1 == w) with
  | some (_, v) =>
    if off + data.length ≤ v.size then
      s.storeFor none (data.mapIdx (fun i b => (v.base + off + i, b)))
    else s
  | none => s

/-- The mooring ends: clocks run, held peer writes are performed in arrival order, and IDLE.M writes the moored
time. -/
def State.endMooring (s : State) : State :=
  if s.moored then
    let held := s.walrisHeld
    let s := { s with moored := false, moorWake := none, walrisHeld := [] }
    let s := held.foldl (fun s e => s.peerWrite e.1 e.2.1 e.2.2) s
    match (s.core s.moorCore).held with
    | some (.idleM, w) =>
      (s.modCore s.moorCore (fun k => { k with held := none })).completeHeld s.moorCore .idleM w
        (BitVec.ofNat 64 (s.timeOf s.moorCore - s.moorFrom))
    | _ => s
  else s

/-- MOOR_WAKE: one of the events of R387 ends the mooring; the armed wake does at its TIME. -/
def execMoorWake (cause : WakeCause) (s : State) : Host.Outcome State Fault Refusal :=
  match cause with
  | .armedWake =>
    match s.moorWake with
    | some t => .next (if t ≤ s.timeOf s.moorCore then s.endMooring else s)
    | none => .next s
  | _ => .next s.endMooring

/-! ### The links (R390) -/

/-- WALRIS_PEER_WRITE: a peer writes into a window that Duwen has opened; while the module is moored the write
is held until the mooring, which it ends, is over. -/
def execWalrisPeerWrite (window offset : Nat) (data : List Byte) (s : State) :
    Host.Outcome State Fault Refusal :=
  if s.windows.any (fun e => e.1 == window) then
    if s.moored then .next { s with walrisHeld := s.walrisHeld ++ [(window, offset, data)] }.endMooring
    else .next (s.peerWrite window offset data)
  else .next s

/-- Every address of a range is LPDDR 6 or a host queue page. -/
def portReaches (addr n : Nat) : Bool :=
  (List.range n).all (fun i => isLpddr (addr + i) || (queuePage (addr + i)).isSome)

/-- HOST_PORT_ACCESS: a host or PCIe agent reads or writes at the home, as a SYS-scope observer. -/
def execHostPortAccess (addr : Nat) (access : PortAccess) (s : State) :
    Host.Outcome State Fault Refusal :=
  let s := s.endMooring
  match access with
  | .read n =>
    if portReaches addr n then
      let s := (withoutRuns ((addrsFrom addr n).map (fun a => a / 64))).foldl (fun s l => s.touchLine l false none) s
      .next { s with hostReads := (addrsFrom addr n).map s.homeByte :: s.hostReads, fresh := s.fresh + 1 }
    else .next s
  | .write data =>
    if portReaches addr data.length then
      .next (s.storeFor none (data.mapIdx (fun i b => (addr + i, b))))
    else .next s

/-! ### Start and identity (R388, R389) -/

/-- A capability word from the repair record, within the ranges of Table 15.3. -/
def capsOf (v : BitVec 32) : BitVec 32 :=
  BitVec.ofNat 32 (min (bits v.toNat 11 7) 64 * 2 ^ 11 + min (bits v.toNat 6 5) 16 * 2 ^ 6 +
    min (bits v.toNat 0 6) 48)

/-- A host queue as Duwen configures and enables it (R305). -/
def configuredQueue (q : Nat) : HostQueue :=
  let lg := 3 + Config.queueLog q % 13
  { HostQueue.reset with
    enabled := true, log2sz := lg, ring := Config.queueRing q / 2 ^ (lg + 6) * 2 ^ (lg + 6),
    doorbell := Config.queueDoorbell q / 8 * 8, rmirror := Config.queueMirror q / 8 * 8,
    root := Config.queueRoot q &&& ptrootMask }

/-- The capability words are loaded and Duwen starts on core 0 of each die (R388 steps 2 and 3). -/
def State.startDies (s : State) : State :=
  let s := { s with cores := (List.range coreCount).map (fun c =>
    (c, { Core.reset with caps := capsOf (Config.repairCaps c), seq := (s.core c).seq })) }
  (List.range dieCount).foldl State.bootFirmware s

/-- COLD_START: the module is reset; it starts when both signatures hold, and else no core runs (R388). -/
def execColdStart (imageGood recordGood : Bool) (s : State) : Host.Outcome State Fault Refusal :=
  let s := { State.reset with agenda := s.agenda, fresh := s.fresh, flash := s.flash, badLines := s.badLines }
  if imageGood ∧ recordGood then
    .next { s.startDies with booted := true, queues := (List.range 64).map (fun q => (q, configuredQueue q)) }
  else .next s

/-- Every core writes the berths that saved contexts still have on it to their areas (R383). -/
def State.writeParked (s : State) : State :=
  s.cores.foldl (fun s e => (e.2.parked.filter (fun p => s.saved.any (fun r => r.area == p.area))).foldl
    (fun s p => s.pullBerths e.1 p.area) s) s

/-- The dies are reset: cores, islands and die units start afresh; memory with every saved context area, launches
and the host side stay. -/
def State.resetDies (s : State) : State :=
  let s := s.writeParked
  let tide := s.refTime / (1000 * s.tide) + 1
  { s.startDies with
    islands := [], dies := (List.range dieCount).map (fun d => (d, { Die.reset with tideNo := tide })),
    dbb := s.dbb.map (fun e => (e.1, { DbbSlot.reset with launch := e.2.launch })), unLog := [],
    convoys := s.convoys.map (fun v => { v with kept := [] }),
    pageWaits := [], thermal := false, moored := false, moorWake := none, note := .none }

/-- An orderly warm start first saves every running context and writes the RDCs back. -/
def State.saveAll (s : State) : State :=
  let s := (List.range coreCount).foldl State.prepareSave s
  let cs := (List.range coreCount).filter (fun c => (s.core c).task.isSome)
  let areas := cs.map (fun c => (s.core c).ctxptr.toNat)
  let s := s.preemptInto (cs.zip areas)
  let s := s.convoys.foldl (fun s v => s.markSaved areas (some v.id)) s
  (List.range dieCount).foldl (fun s d => s.writeBack d [.rc, .un]) s

/-- The launches that run a task. -/
def State.runningLaunches (s : State) : List Nat :=
  (s.launches.map (fun l => l.number)).filter (fun n => !(s.launchCores n).isEmpty)

/-- An abrupt warm start ends each running launch as failed with CAUSE 0; its tasks end where they stand. -/
def State.dropLaunches (s : State) : State :=
  let ns := s.runningLaunches
  let tasks := s.cores.filterMap (fun e => e.2.task) ++ s.saved.map (fun r => r.task)
  let s := (tasks.filter (fun t => ns.contains t.launch)).foldl (fun s t => s.countEnd t none) s
  { s with
    saved := s.saved.filter (fun r => !ns.contains r.task.launch),
    convoys := s.convoys.filter (fun v => !ns.contains v.launch),
    launches := s.launches.map (fun l =>
      if ns.contains l.number then { l with failed := true, cause := 0, nextUnit := l.units } else l) }

/-- WARM_START: the dies are reset with memory and saved contexts kept; an orderly one waits for the promoting
acquires in flight (R186, R388). -/
def execWarmStart (orderly : Bool) (s : State) : Host.Outcome State Fault Refusal :=
  if !s.booted then .next s
  else if orderly then
    .next (if (s.cores.map (fun e => e.1)).all s.strikeReady then s.saveAll.resetDies else s)
  else .next s.dropLaunches.resetDies.closeLaunches

/-- The report that Duwen returns for a nonce. -/
def attestation (nonce : BitVec 256) : Report :=
  { nonce, identity := Config.identityRecord, devid := deviceId, imageHash := Config.imageHash,
    repairHash := Config.repairHash, signature := Config.attestationSignature nonce }

/-- ATTESTATION_REQUEST: a running Duwen answers a nonce with a report (R389). -/
def execAttestationRequest (nonce : BitVec 256) (s : State) : Host.Outcome State Fault Refusal :=
  if s.booted then
    let s := s.endMooring
    .next { s with reports := attestation nonce :: s.reports }
  else .next s

end Sys2Proof.Machine
end

