-- ==== Sys2Proof/Machine/HostQueues.lean ====
section
/-!
DEFINITION. The launch front end: host queues, their packets and its cycles (R304 to R311, R412).

The LFE reads memory through the TLBs of core 0 and its die.
-/

namespace Sys2Proof.Machine

/-! ### Host writes (R304, R306) -/

/-- KICK: the index is folded into WIDX; a kick ends a mooring (R387). -/
def execKick (queue : Nat) (value : Word) (s : State) : Host.Outcome State Fault Refusal :=
  if queue < 64 then .next (writeQueueRegister s.endMooring queue 0x000 value) else .fault .noSuchAgent

/-- DOORBELL_FOLD: the oldest DOORBELL value on its way is folded into WIDX. -/
def execDoorbellFold (queue : Nat) (s : State) : Host.Outcome State Fault Refusal :=
  if queue < 64 then
    match (s.queue queue).bells with
    | [] => .next s
    | w :: _ =>
      let s := s.endMooring
      .next (s.setQueue queue { foldWidx (s.queue queue) w with bells := (s.queue queue).bells.drop 1 })
  else .fault .noSuchAgent

/-- TOKSET: the bits written 1 are set in TOKENS. -/
def execTokset (queue : Nat) (value : Word) (s : State) : Host.Outcome State Fault Refusal :=
  if queue < 64 then .next (writeQueueRegister s.endMooring queue 0x020 value) else .fault .noSuchAgent

/-- TOKCLR: the bits written 1 are cleared in TOKENS. -/
def execTokclr (queue : Nat) (value : Word) (s : State) : Host.Outcome State Fault Refusal :=
  if queue < 64 then .next (writeQueueRegister s.endMooring queue 0x028 value) else .fault .noSuchAgent

/-- HOST_QUEUE_RESERVED_WRITE: a write to a reserved or read-only register changes nothing in the queue; it is
a host-link event (R387). -/
def execHostQueueReservedWrite (queue _offset : Nat) (_value : Word) (s : State) :
    Host.Outcome State Fault Refusal :=
  if queue < 64 then .next s.endMooring else .fault .noSuchAgent

/-! ### Head examination (R307 to R309, R412) -/

/-- Who waits for a page on behalf of a queue, and of a packet. -/
def ringWaiter (q : Nat) : Nat := 2 ^ 42 + q
def packetWaiter (age : Nat) : Nat := 2 ^ 43 + age

/-- A packet is malformed (R307). -/
def packetBad (hdr manifest last : Nat) : Bool :=
  2 ≤ bits hdr 1 2 || bits hdr 11 21 != 0 || last != 0 || (bits hdr 1 2 == 0 && manifest % 256 != 0)

/-- The packet in a slot of 64 bytes (Table 12.7). -/
def parsePacket (index age : Nat) (g : Memory) : Packet :=
  let w (off : Nat) : Word := BitVec.ofNat 64 (g.read off 8)
  { index, hdr := g.read 0x00 4, count := g.read 0x04 4, manifest := g.read 0x08 8, waitmask := w 0x10,
    setmask := w 0x18, clearmask := w 0x20, completion := g.read 0x28 8, arg := g.read 0x30 8,
    bad := packetBad (g.read 0x00 4) (g.read 0x08 8) (g.read 0x38 8), age, launch := none }

/-- The queue stops at a fault (R412). -/
def State.stopQueue (s : State) (q : Nat) (cause : Cause) : State :=
  let s := s.dropPageWaits 0 (ringWaiter q)
  let h := s.queue q
  { s with faultLog := { cause, core := 0, addr := h.ridx.toNat, info := 64 + q } :: s.faultLog }.setQueue q
    { h with enabled := false, rfault := true }

/-- The packet at the head is copied into the window and RIDX advances (R308). -/
def State.copyHead (s : State) (q : Nat) (g : Memory) : State :=
  let h := s.queue q
  { s with fresh := s.fresh + 1 }.setQueue q
    { h with window := h.window ++ [parsePacket h.ridx.toNat s.fresh g], ridx := h.ridx + 1 }

/-- The head may be examined. -/
def HostQueue.mayExamine (h : HostQueue) : Bool :=
  h.enabled && h.examine && h.ridx != h.widx && (h.widx - h.ridx).toNat < 2 ^ 31 && h.window.length < 32

/-- Examine heads of a queue in turn: a valid one is copied, with RIDX written into RMIRROR as a DEV release; an
invalid one stops the LFE. -/
def State.examineQueue (s : State) (q : Nat) : Nat → State
  | 0 => s
  | n + 1 =>
    let h := s.queue q
    if !h.mayExamine then s
    else
      match s.readRange 0 (ringWaiter q) h.root false (h.slotAddr h.ridx.toNat) 64 with
      | .wait s => s
      | .fault f _ => s.stopQueue q f.cause
      | .error _ => s.stopQueue q .memUncorr
      | .ok s bs =>
        let g := memoryOf bs
        if !h.phaseOk h.ridx.toNat (g.read 0x00 4) then s.setQueue q { s.queue q with examine := false }
        else
          match s.writeRange 0 (ringWaiter q) h.root h.rmirror (bytesOfNum (h.ridx + 1).toNat 8) with
          | .wait s => s
          | .fault s f _ => s.stopQueue q f.cause
          | .ok s => State.examineQueue (s.copyHead q g) q n

/-- Examine the heads of every queue. -/
def State.examineHeads (s : State) : State :=
  (List.range 64).foldl (fun s q => s.examineQueue q 33) s

/-! ### Completions and starts (R310, R311) -/

/-- A packet completes: its SETMASK is applied and it leaves the window. -/
def State.finishPacket (s : State) (q : Nat) (p : Packet) : State :=
  let h := s.queue q
  s.setQueue q { h with tokens := h.tokens ||| p.setmask, window := h.window.filter (fun r => r.age != p.age) }

/-- The packet that started a launch, with its queue. -/
def State.packetOf (s : State) (n : Nat) : Option (Nat × Packet) :=
  s.queues.findSome? (fun e => (e.2.window.find? (fun p => p.launch == some n)).map (fun p => (e.1, p)))

/-- The completions that have arrived are applied. -/
def State.applyCompletions (s : State) : State :=
  s.completions.foldl (fun s n =>
    match s.packetOf n with
    | some (q, p) => s.finishPacket q p
    | none => s) { s with completions := [] }

/-- The record of a packet that runs no task. -/
def packetRecord (state cause time : Nat) : List Byte :=
  bytesOfNum (state * 2 ^ 62 + cause % 2 ^ 8 * 2 ^ 54) 8 ++ bytesOfNum time 8 ++ bytesOfNum 0 16

/-- COMPLETION of a packet: its own, or the manifest's where that can be read; none while its page is fetched. -/
def State.packetCompletion (s : State) (q : Nat) (p : Packet) : Option Nat × State :=
  if p.completion ≠ 0 ∨ bits p.hdr 1 2 ≠ 0 ∨ p.manifest % 256 ≠ 0 then (some p.completion, s)
  else
    match s.readRange 0 (packetWaiter p.age) (s.queue q).root false (p.manifest + 0xA8) 8 with
    | .ok s bs => (some (numOfBytes bs), s)
    | .wait s => (none, s)
    | _ => (some 0, s)

/-- A packet's start fails with a cause: record, fault log, SETMASK.  Of a start, false says that it waits for a page. -/
def State.failPacket (s : State) (q : Nat) (p : Packet) (cause : Cause) : Bool × State :=
  match s.packetCompletion q p with
  | (none, s) => (false, s)
  | (some va, s) =>
    match s.writeRecord 0 (packetWaiter p.age) (s.queue q).root va (64 + q)
        (packetRecord 2 (causeCode cause) (s.timeWith s.ioSkew)) with
    | (false, s) => (false, s)
    | (true, s) =>
      let s := s.dropPageWaits 0 (packetWaiter p.age)
      (true, { s with
        faultLog := { cause, core := 0, addr := p.index, info := 64 + q } :: s.faultLog }.finishPacket q p)

/-- A tokens-only packet completes within its start. -/
def State.startTokens (s : State) (q : Nat) (p : Packet) : Bool × State :=
  match s.writeRecord 0 (packetWaiter p.age) (s.queue q).root p.completion (64 + q)
      (packetRecord 1 0 (s.timeWith s.ioSkew)) with
  | (false, s) => (false, s)
  | (true, s) =>
    let h := s.queue q
    (true, (s.setQueue q { h with tokens := h.tokens &&& ~~~p.clearmask }).finishPacket q p)

/-- The die whose launch entry a packet's launch takes: of those allowed, the one with the most free entries,
the lowest on a tie. -/
def State.entryDie (s : State) (dies : Nat) : Option Nat :=
  let ok := (List.range dieCount).filter (fun d => (dies == 0 || bit dies d) && 0 < s.freeEntries d)
  ok.find? (fun d => ok.all (fun e => s.freeEntries e ≤ s.freeEntries d))

/-- What a packet overrides (Table 12.7). -/
def Packet.overrides (p : Packet) : Overrides :=
  let some' (n : Nat) : Option Nat := if n = 0 then none else some n
  { count := some' p.count, cls := (some' (bits p.hdr 9 2)).map (fun n => n - 1), arg := some' p.arg,
    completion := some' p.completion }

/-- The launch of a packet is entered; one of no task completes at once (R294). -/
def State.enterPacket (s : State) (q : Nat) (p : Packet) (m : Manifest) (v : Option Manifest) (d : Nat) :
    State :=
  let h := s.queue q
  let s := s.setQueue q { h with tokens := h.tokens &&& ~~~p.clearmask }
  let (s, n) := s.enterLaunch m v h.root d none 0
  let h := s.queue q
  let s := s.setQueue q
    { h with window := h.window.map (fun r => if r.age = p.age then { r with launch := some n } else r) }
  if m.count = 0 then (s.closeLaunch n).applyCompletions else s

/-- The start of a launch packet; it stays in the window when no allowed die has a free entry. -/
def State.startLaunch (s : State) (q : Nat) (p : Packet) : Bool × State :=
  match s.readManifest 0 (packetWaiter p.age) (s.queue q).root false p.manifest p.overrides with
  | .wait s => (false, s)
  | .fault f _ => s.failPacket q p f.cause
  | .error _ => s.failPacket q p .memUncorr
  | .bad s => s.failPacket q p .launchRange
  | .ok s m v =>
    if !Config.hostMayLaunch p.manifest then s.failPacket q p .access
    else
      match s.entryDie m.dies with
      | none => (true, s)
      | some d => (true, s.enterPacket q p m v d)

/-- A packet starts when it is startable, or was at the beginning of the cycle. -/
def State.startPacket (s : State) (q : Nat) (p : Packet) (first : List Nat) : Bool × State :=
  if !s.startable p && !first.contains p.age then (true, s)
  else if p.bad then s.failPacket q p .launchRange
  else if bits p.hdr 1 2 = 1 then s.startTokens q p
  else s.startLaunch q p

/-- The packets that are startable at the beginning of a cycle: nothing that starts before one of them in the cycle
keeps it from starting (R310; log entry 64). -/
def State.firstPackets (s : State) : List Nat :=
  s.queues.flatMap (fun e =>
    (e.2.window.filter (fun p => p.launch.isNone && s.startable p)).map (fun p => p.age))

/-- The packets that have not started, oldest first. -/
def State.waitingPackets (s : State) : List (Nat × Packet) :=
  sortBy (fun a b => decide (a.2.age ≤ b.2.age))
    (s.queues.flatMap (fun e => (e.2.window.filter (fun p => p.launch.isNone)).map (fun p => (e.1, p))))

/-- The packet of a number that has not started, with its queue. -/
def State.packetAged (s : State) (n : Nat) : Option (Nat × Packet) :=
  s.queues.findSome? (fun e => (e.2.window.find? (fun p => p.age == n && p.launch.isNone)).map (fun p => (e.1, p)))

/-- The starts of a cycle, oldest first.  One that waits for a page keeps the younger ones waiting (R310). -/
def State.runStarts (s : State) (first : List Nat) : List Nat → State
  | [] => { s with lfe := none }
  | n :: rest =>
    match s.packetAged n with
    | none => State.runStarts s first rest
    | some (q, p) =>
      match s.startPacket q p first with
      | (false, s) => { s with lfe := some { first, left := n :: rest } }
      | (true, s) => State.runStarts s first rest

/-- LFE_CYCLE: completions, then head examination, then starts, which a thermal emergency and a mooring hold
back; or the rest of a cycle whose start has waited (R310, R340). -/
def execLfeCycle (s : State) : Host.Outcome State Fault Refusal :=
  match s.lfe with
  | some w => .next (if s.gated then s else s.runStarts w.first w.left)
  | none =>
    let first := s.firstPackets
    let s := s.closeLaunches.applyCompletions.examineHeads
    .next (if s.gated then s else s.runStarts first (s.waitingPackets.map (fun e => e.2.age)))

end Sys2Proof.Machine
end

