-- ==== Sys2Proof/Machine/Elementary.lean ====
section
/-!
DEFINITION. The elementary functions behind VEXP2, VLOG2, VRCP, VRSQ, VSQRT and SMP.TEMP (R231, R361).

Each answers an exact value, or one that lies strictly between the same two neighbours as the exact
result: a long truncated quotient, root or series with a last bit set when something is left over.
Rounding it to a format of this machine is then rounding the exact result (log entry 17).
-/

namespace Sys2Proof

/-- A truncated magnitude `q · 2^e`, with a last bit that says that something is left over. -/
def sticky (neg : Bool) (q : Nat) (e : Int) (inexact : Bool) : FVal :=
  .fin neg (2 * q + (if inexact then 1 else 0)) (e - 1)

/-- The largest `r` below `2^k` added to `r` whose square does not pass `n`. -/
def isqrtFrom (n : Nat) : Nat → Nat → Nat
  | 0, r => r
  | k + 1, r => if (r + 2 ^ k) * (r + 2 ^ k) ≤ n then isqrtFrom n k (r + 2 ^ k) else isqrtFrom n k r

/-- The integer square root. -/
def isqrt (n : Nat) : Nat := isqrtFrom n (Nat.log2 n / 2 + 1) 0

/-- 1 / (m · 2^e), with 88 bits or more. -/
def recipFin (neg : Bool) (m : Nat) (e : Int) : FVal :=
  let k : Nat := 112
  sticky neg (2 ^ k / m) (-(k : Int) - e) (2 ^ k % m != 0)

/-- √(m · 2^e). -/
def sqrtFin (m : Nat) (e : Int) : FVal :=
  let m' := if e % 2 = 0 then m else 2 * m
  let e' := if e % 2 = 0 then e else e - 1
  let n := m' * 2 ^ 120
  let r := isqrt n
  sticky false r (e' / 2 - 60) (r * r != n)

/-- 1 / √(m · 2^e). -/
def rsqrtFin (m : Nat) (e : Int) : FVal :=
  let m' := if e % 2 = 0 then m else 2 * m
  let e' := if e % 2 = 0 then e else e - 1
  let r := isqrt (2 ^ 180 / m')
  sticky false r (-(e' / 2) - 90) (r * r * m' != 2 ^ 180)

/-- The fixed point of the series: 400 fractional bits. -/
def fixBits : Nat := 400

/-- ln 2 in fixed point: the sum of 1 / (k · 2^k). -/
def ln2From : Nat → Nat
  | 0 => 0
  | k + 1 => ln2From k + 2 ^ fixBits / ((k + 1) * 2 ^ (k + 1))

def ln2Fix : Nat := ln2From 420

/-- The series of exp over a fixed-point argument: terms from the k-th on, the k-th being `t`. -/
def expTerms (z : Nat) : Nat → Nat → Nat → Nat
  | 0, _, _ => 0
  | n + 1, k, t => t + expTerms z n (k + 1) (t * z / 2 ^ fixBits / (k + 1))

/-- 2^f in fixed point, for a fixed-point f below 1. -/
def exp2Fix (f : Nat) : Nat := expTerms (f * ln2Fix / 2 ^ fixBits) 90 0 (2 ^ fixBits)

/-- 2^x for a finite x (R231). -/
def exp2Fin (neg : Bool) (m : Nat) (e : Int) : FVal :=
  -- magnitudes past 2^14 overflow or underflow every format here
  if m ≠ 0 ∧ 14 ≤ (Nat.log2 m : Int) + e then .fin false 1 (if neg then -100000 else 100000)
  else
    let v : Int := alignInt neg m (e + fixBits) 0
    -- every operand of a format here has at most 149 fractional bits
    let n := v / ((2 ^ fixBits : Nat) : Int)
    let f := (v % ((2 ^ fixBits : Nat) : Int)).toNat
    if f = 0 then .fin false 1 n
    else sticky false (exp2Fix f) (n - fixBits) true

/-- The fixed point of the squaring algorithm for logarithms. -/
def logBits : Nat := 720

/-- Binary digits of log2 y for a fixed-point y in [1, 2). -/
def log2Digits : Nat → Nat → Nat → Nat
  | 0, _, acc => acc
  | n + 1, y, acc =>
    let q := y * y / 2 ^ logBits
    if 2 ^ (logBits + 1) ≤ q then log2Digits n (q / 2) (2 * acc + 1) else log2Digits n q (2 * acc)

/-- log2 of m · 2^e, m not zero (R231). -/
def log2Fin (m : Nat) (e : Int) : FVal :=
  let k : Int := (Nat.log2 m : Int) + e
  if m = 2 ^ Nat.log2 m then .fin (k < 0) k.natAbs 0
  else
    let y := m * 2 ^ (logBits - Nat.log2 m)
    let d := log2Digits 300 y 0
    -- d < 2^300 · log2 y < d + 1, so the value lies between two neighbours of a 301-bit grid
    let v : Int := k * ((2 ^ 301 : Nat) : Int) + 2 * (d : Int) + 1
    .fin (v < 0) v.natAbs (-301)

/-- log2(e) / T for a finite T above 0 (R361). -/
def log2eOver (m : Nat) (e : Int) : FVal :=
  sticky false (2 ^ (2 * fixBits) / ln2Fix / m) (-(fixBits : Int) - e) true

/-- The transcendental operations of Table 9.3. -/
inductive Elem where
  | exp2 | log2 | rcp | rsq | sqrt
  deriving DecidableEq, Repr

/-- The value of a transcendental, before rounding, with the flags of its specials (Table 9.3). -/
def Elem.value (k : Elem) (v : FVal) : FVal × Flags :=
  match k, v with
  | _, .nan sig => (.nan false, if sig then flagNV else 0)
  | .exp2, .inf neg => (if neg then .fin false 0 0 else .inf false, 0)
  | .exp2, .fin neg m e => (if m = 0 then .fin false 1 0 else exp2Fin neg m e, 0)
  | .log2, .inf neg => if neg then (.nan false, flagNV) else (.inf false, 0)
  | .log2, .fin neg m e =>
    if m = 0 then (.inf true, 0)
    else if neg then (.nan false, flagNV)
    else (log2Fin m e, 0)
  | .rcp, .inf neg => (.fin neg 0 0, 0)
  | .rcp, .fin neg m e => if m = 0 then (.inf neg, flagDZ) else (recipFin neg m e, 0)
  | .rsq, .inf neg => if neg then (.nan false, flagNV) else (.fin false 0 0, 0)
  | .rsq, .fin neg m e =>
    if m = 0 then (.inf neg, flagDZ)
    else if neg then (.nan false, flagNV)
    else (rsqrtFin m e, 0)
  | .sqrt, .inf neg => if neg then (.nan false, flagNV) else (.inf false, 0)
  | .sqrt, .fin neg m e =>
    if m = 0 then (.fin neg 0 0, 0)
    else if neg then (.nan false, flagNV)
    else (sqrtFin m e, 0)

/-- A transcendental of a code, correctly rounded under RNE (R231). -/
def Elem.apply (k : Elem) (f : Format) (code : Nat) : Rounded :=
  let (v, fl) := k.value (f.decode code)
  match v with
  | .nan _ => { code := f.canon, flags := fl }
  | v => let r := f.ofVal .rne false v; { r with flags := r.flags ||| fl }

end Sys2Proof
end

