-- ==== Sys2Proof/Machine/Sampling.lean ====
section
/-!
DEFINITION. Sampling instructions (R360 to R366): temperature, random numbers, candidate tables, drafts and
stop strings.
-/

namespace Sys2Proof.Machine

/-! ### FP32 helpers -/

def f32 : Format := Typ.f32.format

/-- rne32(a + b) over codes. -/
def add32 (a b : Nat) : Nat := ((addExact .rne (f32.decode a) (f32.decode b)).round f32 .rne false).code

/-- The code with its sign turned. -/
def neg32 (a : Nat) : Nat := a ^^^ 2 ^ 31

/-- Whether a code is a NaN. -/
def isNan32 (a : Nat) : Bool := (f32.decode a).isNan

/-- Whether exact(r · c) < d over codes. -/
def prodBelow (r c d : Nat) : Bool :=
  (mulExact (f32.decode r) (f32.decode c)).val.lt (f32.decode d)

def one32 : Nat := 0x3F800000
def inf32 : Nat := 0x7F800000

/-- A trap of SMP_PARAM with its detail code (R352). -/
def smpTrap (d : Nat) : TrapInfo := detailTrap .smpParam d

/-! ### SMP.TEMP (R361) -/

/-- The mode word of a temperature; none for a NaN or a negative one. -/
def modeWord (t : Nat) : Option Nat :=
  match f32.decode t with
  | .nan _ => none
  | .inf neg => if neg then none else some (one32 + 2 * 2 ^ 32)
  | .fin neg m e =>
    if neg && m != 0 then none
    else if bits t 23 8 = 0 then some (one32 + 1 * 2 ^ 32)
    else
      let y := (f32.ofVal .rne false (log2eOver m e)).code
      if y = 0 then some (one32 + 2 * 2 ^ 32) else some y

def smpTempBody (x : Ctx) (s : State) : Res :=
  match modeWord ((x.rawZ s x.f.sa).toNat % 2 ^ 32) with
  | none => .trap s (smpTrap 0x21)
  | some w => .done (x.result s 4 [x.writes x.f.dst (BitVec.ofNat 64 w)]) .seq

def execSmpTemp (b : Bundle) (f : Fields) (s : State) : Host.Outcome State Fault Refusal :=
  issue .smpTemp b f smpTempBody s

/-! ### RNG (R362) -/

/-- One round of Philox-4x32: counter and key. -/
def philoxRound (ctr : List Nat) (k : Nat × Nat) : List Nat × (Nat × Nat) :=
  let w (i : Nat) : Nat := (ctr[i]?).getD 0
  let p0 := 0xD2511F53 * w 0
  let p1 := 0xCD9E8D57 * w 2
  ([p1 / 2 ^ 32 ^^^ w 1 ^^^ k.1, p1 % 2 ^ 32, p0 / 2 ^ 32 ^^^ w 3 ^^^ k.2, p0 % 2 ^ 32],
   ((k.1 + 0x9E3779B9) % 2 ^ 32, (k.2 + 0xBB67AE85) % 2 ^ 32))

/-- Some rounds in turn. -/
def philox : Nat → List Nat × (Nat × Nat) → List Nat
  | 0, ck => ck.1
  | n + 1, ck => philox n (philoxRound ck.1 ck.2)

/-- The FP32 code of (x >> 8) · 2^−24, which is exact. -/
def unitCode (x : Nat) : Nat := (f32.round .rne false false (x / 2 ^ 8) (-24)).code

/-- The result of RNG. -/
def rngWord (seed pos draw : Nat) (hi unit : Bool) : Word :=
  let ctr := philox 10
    ([pos % 2 ^ 32, pos / 2 ^ 32, draw % 2 ^ 32, draw / 2 ^ 32], (seed % 2 ^ 32, seed / 2 ^ 32))
  let x0 := (ctr[if hi then 2 else 0]?).getD 0
  let x1 := (ctr[if hi then 3 else 1]?).getD 0
  let u (x : Nat) : Nat := if unit then unitCode x else x
  BitVec.ofNat 64 (u x1 * 2 ^ 32 + u x0)

def rngBody (x : Ctx) (s : State) : Res :=
  .done (x.result s 6 [x.writes x.f.dst
    (rngWord (x.reg s x.f.sa).toNat (x.reg s x.f.sb).toNat (x.reg s x.f.sc).toNat
      (bit x.f.mod.toNat 0) (bit x.f.mod.toNat 1))]) .seq

def execRng (b : Bundle) (f : Fields) (s : State) : Host.Outcome State Fault Refusal :=
  issue .rng b f rngBody s

/-! ### Rows of a hold -/

/-- The pairs of high and low word of a row, up to the first unused entry (R267, R363). -/
def Core.rowAt (k : Core) (o : Nat) : List (Nat × Nat) :=
  ((List.range 64).map (fun i => (k.holdRead (o + 8 * i + 4) 4, k.holdRead (o + 8 * i) 4))).takeWhile
    (fun e => e.2 != 0xFFFFFFFF)

/-- The bytes of a row: kept entries, then unused ones. -/
def rowBytes (l : List (Nat × Nat)) : List Byte :=
  (List.range 64).flatMap (fun i =>
    let e := (l[i]?).getD (0, 0xFFFFFFFF)
    bytesOfNum e.2 4 ++ bytesOfNum e.1 4)

/-- Go on with a row after its checks: alignment, range and errors (R142, R363). -/
def Ctx.withRow (x : Ctx) (s : State) (size align : Nat) (store : Bool) (go : Core → Nat → Res) : Res :=
  let o := (x.reg s x.f.sa).toNat
  let k := s.core x.c
  match x.holdCheck s o size align store with
  | some t => .trap s t
  | none =>
    if k.acquirePending x.st || (store && k.loadsBefore x.st) then .wait s .memory
    else
      match k.badByte (addrsFrom o size) with
      | some a => .done (x.holdError s a 0 false) .seq
      | none => go k o

/-- The result of an instruction whose stream waits until it has landed. -/
def Ctx.smpResult (x : Ctx) (s : State) (v : Nat) : Res :=
  .done (x.lockedNext s [x.writes x.f.dst (BitVec.ofNat 64 v)]) .seq

/-! ### SMP.FILT (R363) -/

/-- The weight of the candidate at a rank. -/
def weightOf (mode x0 i x : Nat) : Nat :=
  if x = inf32 + 2 ^ 31 then 0
  else if mode = 1 then (if i = 0 then one32 else 0)
  else if mode = 2 then one32
  else if x0 = inf32 then (if x = inf32 then one32 else 0)
  else (Elem.exp2.apply f32 (add32 x (neg32 x0))).code

/-- Running sums of weights. -/
def runningSums (c : Nat) : List Nat → List Nat
  | [] => []
  | w :: rest => add32 c w :: runningSums (add32 c w) rest

/-- The last of the running sums; +0 for none. -/
def finalSum (ws : List Nat) : Nat := ((runningSums 0 ws).getLast?).getD 0

/-- The entries that SMP.FILT keeps: weight and token in rank order. -/
def filterRow (row : List (Nat × Nat)) (topP mode topK : Nat) : List (Nat × Nat) :=
  let x0 := (row.head?.map (fun e => keyValue e.1)).getD 0
  let ws := row.mapIdx (fun i e => (weightOf mode x0 i (keyValue e.1), e.2))
  let kept := ws.filter (fun e => (FVal.fin false 0 0).lt (f32.decode e.1))
  let kept := kept.take (if topK = 0 then 64 else topK)
  let cums := runningSums 0 (kept.map (fun e => e.1))
  let total := finalSum (kept.map (fun e => e.1))
  let target := (mulExact (f32.decode topP) (f32.decode total)).val
  kept.take ((cums.findIdx (fun c => !((f32.decode c).lt target))) + 1)

/-- A top-p out of range: a NaN, not above 0, or above 1. -/
def topPBad (p : Nat) : Bool :=
  isNan32 p || !((FVal.fin false 0 0).lt (f32.decode p)) || (f32.decode one32).lt (f32.decode p)

def smpFiltBody (x : Ctx) (s : State) : Res :=
  x.withRow s 512 8 true (fun k o =>
    let topP := (x.reg s x.f.sb).toNat % 2 ^ 32
    let word := (x.reg s x.f.sc).toNat
    let mode := bits word 32 2
    let row := k.rowAt o
    if bits word 34 30 ≠ 0 ∨ mode = 3 then .trap s (smpTrap 0x27)
    else if topPBad topP then .trap s (smpTrap 0x22)
    else if row.any (fun e => isNan32 (keyValue e.1)) then .trap s (smpTrap 0x23)
    else
      let kept := filterRow row topP mode (bits x.f.imm.toNat 0 7)
      x.smpResult (x.holdPut s ((rowBytes kept).mapIdx (fun i b => (o + i, b)))) kept.length)

def execSmpFilt (b : Bundle) (f : Fields) (s : State) : Host.Outcome State Fault Refusal :=
  issue .smpFilt b f smpFiltBody s

/-! ### SMP.PICK and SMP.VER (R364) -/

/-- A weight that is positive and finite. -/
def weightOk (w : Nat) : Bool :=
  match f32.decode w with
  | .fin neg m _ => !neg && m != 0
  | _ => false

/-- A draw in [0, 1). -/
def drawOk (u : Nat) : Bool :=
  !isNan32 u && !((f32.decode u).lt (.fin false 0 0)) && (f32.decode u).lt (f32.decode one32)

/-- The token drawn from a table with a uniform. -/
def drawToken (tab : List (Nat × Nat)) (r : Nat) : Nat :=
  let ws := tab.map (fun e => e.1)
  let cums := runningSums 0 ws
  match (tab.zip cums).find? (fun e => prodBelow r (finalSum ws) e.2) with
  | some e => e.1.2
  | none => 0

/-- The first check of a table and its draws that fails. -/
def tableDetail (tab : List (Nat × Nat)) (draws : List Nat) : Option Nat :=
  if tab.isEmpty then some 0x24
  else if !tab.all (fun e => weightOk e.1) then some 0x28
  else if !draws.all drawOk then some 0x25
  else if finalSum (tab.map (fun e => e.1)) = inf32 then some 0x29
  else none

def smpPickBody (x : Ctx) (s : State) : Res :=
  x.withRow s 512 8 false (fun k o =>
    let u := (x.reg s x.f.sb).toNat % 2 ^ 32
    let tab := k.rowAt o
    match tableDetail tab [u] with
    | some d => .trap s (smpTrap d)
    | none => x.smpResult s (drawToken tab u))

def execSmpPick (b : Bundle) (f : Fields) (s : State) : Host.Outcome State Fault Refusal :=
  issue .smpPick b f smpPickBody s

/-- The result of SMP.VER: acceptance of the draft, or a token drawn without it. -/
def verifyDraft (tab : List (Nat × Nat)) (d u v : Nat) : Nat :=
  let mine := finalSum ((tab.filter (fun e => e.2 == d)).map (fun e => e.1))
  if prodBelow u (finalSum (tab.map (fun e => e.1))) mine then 2 ^ 32 + d
  else drawToken (tab.filter (fun e => e.2 != d)) v

def smpVerBody (x : Ctx) (s : State) : Res :=
  x.withRow s 512 8 false (fun k o =>
    let d := (x.reg s x.f.sb).toNat % 2 ^ 32
    let uv := (x.reg s x.f.sc).toNat
    let tab := k.rowAt o
    match tableDetail tab [uv % 2 ^ 32, uv / 2 ^ 32] with
    | some e => .trap s (smpTrap e)
    | none => x.smpResult s (verifyDraft tab d (uv % 2 ^ 32) (uv / 2 ^ 32)))

def execSmpVer (b : Bundle) (f : Fields) (s : State) : Host.Outcome State Fault Refusal :=
  issue .smpVer b f smpVerBody s

/-! ### SMP.STOP (R365, R366) -/

/-- A stop string. -/
structure StopString where
  len   : Nat
  start : Nat
  toks  : List Nat
  deriving DecidableEq, Repr

/-- The 32-bit words of a hold from an offset. -/
def Core.holdWords (k : Core) (o n : Nat) : List Nat := (List.range n).map (fun i => k.holdRead (o + 4 * i) 4)

/-- The strings in force of a stop block (Table 14.8). -/
def Core.stopStrings (k : Core) (o nstr : Nat) : List StopString :=
  (List.range nstr).map (fun i =>
    let b := o + 0xC0 + 80 * i
    { len := k.holdRead b 4, start := k.holdRead (b + 8) 8, toks := k.holdWords (b + 0x10) 16 })

/-- The string matches the end of the held tokens from index `j`, held tokens beginning at position `q`. -/
def StopString.hits (t : StopString) (h : List Nat) (q j : Nat) : Bool :=
  h.length - j == t.len && h.drop j == t.toks.take t.len && t.start ≤ q + j

/-- The held tokens from index `j` may begin the string. -/
def StopString.begins (t : StopString) (h : List Nat) (q j : Nat) : Bool :=
  h.length - j < t.len && h.drop j == t.toks.take (h.length - j) && t.start ≤ q + j

/-- The match with the smallest index, then the smallest string. -/
def stopMatch (ts : List StopString) (h : List Nat) (q : Nat) : Option (Nat × Nat) :=
  (List.range h.length).findSome? (fun j =>
    (ts.zipIdx.find? (fun e => e.1.hits h q j)).map (fun e => (j, e.2)))

/-- How many tokens are released where nothing matches. -/
def stopRelease (ts : List StopString) (h : List Nat) (q : Nat) : Nat :=
  ((List.range h.length).find? (fun j => ts.any (fun t => t.begins h q j))).getD h.length

/-- A stop block that SMP.STOP refuses (R365). -/
def stopBad (npos hcnt nstr : Nat) (ts : List StopString) : Bool :=
  8 < nstr || 15 < hcnt || npos < hcnt || ts.any (fun t => t.len < 1 || 16 < t.len)

/-- The bytes that SMP.STOP stores: NPOS, HCNT, the tokens held and the tokens released. -/
def stopStores (o npos : Nat) (held dlv : List Nat) : List (Nat × Byte) :=
  let put (a : Nat) (l : List Byte) : List (Nat × Byte) := l.mapIdx (fun i b => (o + a + i, b))
  put 0x000 (bytesOfNum npos 8) ++ put 0x008 (bytesOfNum held.length 4) ++
    put 0x010 (held.flatMap (fun v => bytesOfNum v 4)) ++ put 0x050 (tokenBlock dlv)

def smpStopBody (x : Ctx) (s : State) : Res :=
  x.withRow s 832 64 true (fun k o =>
    let npos := k.holdRead o 8
    let hcnt := k.holdRead (o + 0x008) 4
    let nstr := k.holdRead (o + 0x00C) 4
    let ts := k.stopStrings o (min nstr 8)
    if stopBad npos hcnt nstr ts then .trap s (smpTrap 0x26)
    else
      let h := k.holdWords (o + 0x010) hcnt ++ [(x.reg s x.f.sb).toNat % 2 ^ 32]
      let q := npos - hcnt
      match stopMatch ts h q with
      | some (j, n) =>
        x.smpResult (x.holdPut s (stopStores o (npos + 1) [] (h.take j))) (j + 2 ^ 16 + n * 2 ^ 17)
      | none =>
        let j := stopRelease ts h q
        x.smpResult (x.holdPut s (stopStores o (npos + 1) (h.drop j) (h.take j))) j)

def execSmpStop (b : Bundle) (f : Fields) (s : State) : Host.Outcome State Fault Refusal :=
  issue .smpStop b f smpStopBody s

end Sys2Proof.Machine
end

