-- ==== Sys2Proof/Machine/Scalar.lean ====
section
/-!
DEFINITION. Scalar, address and predicate instructions (R93 to R112).
-/

namespace Sys2Proof.Machine

/-- An operation that writes one value into its destination after a latency. -/
def writeBody (lat : Nat) (g : Ctx → State → Word) (x : Ctx) (s : State) : Res :=
  .done (x.result s lat [x.writes x.f.dst (g x s)]) .seq

/-- wrap of R95, or sat where MOD[2] asks for it. -/
def Ctx.fit (x : Ctx) (v : Int) : Word := if satOfMod x.f.mod then x.f.typ.sat v else x.f.typ.wrap v

/-! ### Arithmetic (R98 to R100) -/

def addValue (x : Ctx) (s : State) : Word := x.fit (x.val s x.f.sa + x.val s x.f.sb)
def subValue (x : Ctx) (s : State) : Word := x.fit (x.val s x.f.sa - x.val s x.f.sb)
def minValue (x : Ctx) (s : State) : Word := x.f.typ.wrap (min (x.val s x.f.sa) (x.val s x.f.sb))
def maxValue (x : Ctx) (s : State) : Word := x.f.typ.wrap (max (x.val s x.f.sa) (x.val s x.f.sb))
def mulValue (x : Ctx) (s : State) : Word := x.fit (x.val s x.f.sa * x.val s x.f.sb)

/-- The upper half of the product: floor division by 2^w (R99). -/
def mulhValue (x : Ctx) (s : State) : Word :=
  x.f.typ.wrap ((x.val s x.f.sa * x.val s x.f.sb) / ((2 ^ x.f.typ.width : Nat) : Int))

/-- Quotient and remainder of R100: truncation towards zero, with its two corner cases. -/
def divide (t : Typ) (a b : Int) : Int × Int :=
  if b = 0 then (if t.signed then -1 else t.hi, a)
  else if t.signed ∧ a = t.lo ∧ b = -1 then (t.lo, 0)
  else (a.tdiv b, a - a.tdiv b * b)

def divValue (x : Ctx) (s : State) : Word :=
  x.f.typ.wrap (divide x.f.typ (x.val s x.f.sa) (x.val s x.f.sb)).1
def remValue (x : Ctx) (s : State) : Word :=
  x.f.typ.wrap (divide x.f.typ (x.val s x.f.sa) (x.val s x.f.sb)).2

/-- The latency of a divide (Table 4.2). -/
def divLatency (t : Typ) : Nat := if t.width ≤ 16 then 10 else if t.width = 32 then 14 else 22

/-- The divider of the issuing stream is busy (R97). -/
def Ctx.dividing (x : Ctx) (s : State) : Bool :=
  (s.core x.c).flight.any (fun l => l.st == x.st && l.unit == 3)

/-- A divide waits for the divider of its stream (R97). -/
def divideBody (g : Ctx → State → Word) (x : Ctx) (s : State) : Res :=
  if x.dividing s then .wait s .latency
  else
    .done (s.launchResult x.c x.st x.fl (divLatency x.f.typ) false 3 false
      [x.writes x.f.dst (g x s)]) .seq

def execAdd (b : Bundle) (f : Fields) (s : State) : Host.Outcome State Fault Refusal :=
  issue .add b f (writeBody 1 addValue) s

def execSub (b : Bundle) (f : Fields) (s : State) : Host.Outcome State Fault Refusal :=
  issue .sub b f (writeBody 1 subValue) s

def execMin (b : Bundle) (f : Fields) (s : State) : Host.Outcome State Fault Refusal :=
  issue .min b f (writeBody 1 minValue) s

def execMax (b : Bundle) (f : Fields) (s : State) : Host.Outcome State Fault Refusal :=
  issue .max b f (writeBody 1 maxValue) s

def execMinn (b : Bundle) (f : Fields) (s : State) : Host.Outcome State Fault Refusal :=
  issue .minn b f (writeBody 1 minValue) s

def execMaxn (b : Bundle) (f : Fields) (s : State) : Host.Outcome State Fault Refusal :=
  issue .maxn b f (writeBody 1 maxValue) s

def execMul (b : Bundle) (f : Fields) (s : State) : Host.Outcome State Fault Refusal :=
  issue .mul b f (writeBody 3 mulValue) s

def execMulh (b : Bundle) (f : Fields) (s : State) : Host.Outcome State Fault Refusal :=
  issue .mulh b f (writeBody 3 mulhValue) s

def execMulhn (b : Bundle) (f : Fields) (s : State) : Host.Outcome State Fault Refusal :=
  issue .mulhn b f (writeBody 3 mulhValue) s

def execDiv (b : Bundle) (f : Fields) (s : State) : Host.Outcome State Fault Refusal :=
  issue .div b f (divideBody divValue) s

def execDivn (b : Bundle) (f : Fields) (s : State) : Host.Outcome State Fault Refusal :=
  issue .divn b f (divideBody divValue) s

def execRem (b : Bundle) (f : Fields) (s : State) : Host.Outcome State Fault Refusal :=
  issue .rem b f (divideBody remValue) s

def execRemn (b : Bundle) (f : Fields) (s : State) : Host.Outcome State Fault Refusal :=
  issue .remn b f (divideBody remValue) s

/-! ### Logic, shifts and counts (R101 to R103) -/

def andValue (x : Ctx) (s : State) : Word := x.raw s .untyped x.f.sa &&& x.raw s .untyped x.f.sb
def orValue (x : Ctx) (s : State) : Word := x.raw s .untyped x.f.sa ||| x.raw s .untyped x.f.sb
def xorValue (x : Ctx) (s : State) : Word := x.raw s .untyped x.f.sa ^^^ x.raw s .untyped x.f.sb
def andnValue (x : Ctx) (s : State) : Word := x.raw s .untyped x.f.sa &&& ~~~x.raw s .untyped x.f.sb

/-- The low w bits of SA, and the whole of SB as a count. -/
def Ctx.shiftArgs (x : Ctx) (s : State) : Nat × Nat :=
  ((x.raw s x.f.typ x.f.sa).toNat % 2 ^ x.f.typ.width, (x.raw s x.f.typ x.f.sb).toNat)

/-- Shift left within w bits; a count of w or more gives 0 (R102). -/
def shlBits (w v c : Nat) : Nat := if w ≤ c then 0 else v * 2 ^ c % 2 ^ w
/-- Shift right with zero fill within w bits. -/
def shrBits (w v c : Nat) : Nat := if w ≤ c then 0 else v / 2 ^ c
/-- Shift right with sign fill within w bits. -/
def sraBits (w v c : Nat) : Nat :=
  if w ≤ c then (if bit v (w - 1) then 2 ^ w - 1 else 0)
  else lowBits (sextInt v w / ((2 ^ c : Nat) : Int)) w
/-- Rotate left within w bits. -/
def rotBits (w v c : Nat) : Nat := (v * 2 ^ (c % w) % 2 ^ w) + v / 2 ^ (w - c % w)

/-- A shift of SA by SB, extended by the type. -/
def shiftValue (g : Nat → Nat → Nat → Nat) (x : Ctx) (s : State) : Word :=
  let (v, c) := x.shiftArgs s
  x.f.typ.wrap (g x.f.typ.width v c : Nat)

/-- The number of one bits among the low `n` bits. -/
def onesCount (v : Nat) : Nat → Nat
  | 0 => 0
  | n + 1 => onesCount v n + (if bit v n then 1 else 0)

/-- The number of leading zeros of a value of `w` bits. -/
def leadingZeros (v w : Nat) : Nat := if v = 0 then w else w - 1 - Nat.log2 v

def clzValue (x : Ctx) (s : State) : Word :=
  BitVec.ofNat 64 (leadingZeros ((x.raw s x.f.typ x.f.sa).toNat % 2 ^ x.f.typ.width) x.f.typ.width)
def popcValue (x : Ctx) (s : State) : Word :=
  BitVec.ofNat 64 (onesCount (x.raw s x.f.typ x.f.sa).toNat x.f.typ.width)

def execAnd (b : Bundle) (f : Fields) (s : State) : Host.Outcome State Fault Refusal :=
  issue .and b f (writeBody 1 andValue) s

def execOr (b : Bundle) (f : Fields) (s : State) : Host.Outcome State Fault Refusal :=
  issue .or b f (writeBody 1 orValue) s

def execXor (b : Bundle) (f : Fields) (s : State) : Host.Outcome State Fault Refusal :=
  issue .xor b f (writeBody 1 xorValue) s

def execAndn (b : Bundle) (f : Fields) (s : State) : Host.Outcome State Fault Refusal :=
  issue .andn b f (writeBody 1 andnValue) s

def execShl (b : Bundle) (f : Fields) (s : State) : Host.Outcome State Fault Refusal :=
  issue .shl b f (writeBody 1 (shiftValue shlBits)) s

def execShr (b : Bundle) (f : Fields) (s : State) : Host.Outcome State Fault Refusal :=
  issue .shr b f (writeBody 1 (shiftValue shrBits)) s

def execSra (b : Bundle) (f : Fields) (s : State) : Host.Outcome State Fault Refusal :=
  issue .sra b f (writeBody 1 (shiftValue sraBits)) s

def execRot (b : Bundle) (f : Fields) (s : State) : Host.Outcome State Fault Refusal :=
  issue .rot b f (writeBody 1 (shiftValue rotBits)) s

def execClz (b : Bundle) (f : Fields) (s : State) : Host.Outcome State Fault Refusal :=
  issue .clz b f (writeBody 1 clzValue) s

def execPopc (b : Bundle) (f : Fields) (s : State) : Host.Outcome State Fault Refusal :=
  issue .popc b f (writeBody 1 popcValue) s

/-! ### Selection, constants, addresses and bit fields (R104 to R107) -/

def selValue (x : Ctx) (s : State) : Word :=
  if (x.reg s x.f.sc).getLsbD 0 then x.raw s .untyped x.f.sa else x.raw s .untyped x.f.sb

/-- The three forms of LDI (R105). -/
def ldiValue (x : Ctx) (s : State) : Word :=
  match bits x.f.mod.toNat 0 2 with
  | 0 => x.immS
  | 1 => x.immZ
  | _ => (x.reg s x.f.dst &&& 0xFFFFFFFF) ||| (x.immZ <<< 32)

/-- The index of ADDR under its type (R106). -/
def addrIndex (t : Typ) (v : Word) : Word :=
  match t with
  | .i32 => (v.truncate 32).signExtend 64
  | .n32 => v &&& 0xFFFFFFFF
  | _ => v

def addrValue (x : Ctx) (s : State) : Word :=
  x.reg s x.f.sa + (addrIndex x.f.typ (x.reg s x.f.sb) <<< bits x.f.mod.toNat 0 3) + x.immS

/-- Position and length of a bit field (R107). -/
def Ctx.field (x : Ctx) : Nat × Nat := (bits x.f.imm.toNat 0 6, bits x.f.imm.toNat 8 6 + 1)

def bfxValue (x : Ctx) (s : State) : Word :=
  let (pos, len) := x.field
  let v := bits (x.reg s x.f.sa).toNat pos len
  if x.f.typ = .i64 then wordOfInt (sextInt v len) else BitVec.ofNat 64 v

def bfiValue (x : Ctx) (s : State) : Word :=
  let (pos, len) := x.field
  let mask : Word := BitVec.ofNat 64 ((2 ^ len - 1) * 2 ^ pos)
  (x.reg s x.f.sa &&& ~~~mask) ||| ((x.reg s x.f.sb <<< pos) &&& mask)

def execSel (b : Bundle) (f : Fields) (s : State) : Host.Outcome State Fault Refusal :=
  issue .sel b f (writeBody 1 selValue) s

def execLdi (b : Bundle) (f : Fields) (s : State) : Host.Outcome State Fault Refusal :=
  issue .ldi b f (writeBody 1 ldiValue) s

def execAddr (b : Bundle) (f : Fields) (s : State) : Host.Outcome State Fault Refusal :=
  issue .addr b f (writeBody 1 addrValue) s

def execBfx (b : Bundle) (f : Fields) (s : State) : Host.Outcome State Fault Refusal :=
  issue .bfx b f (writeBody 1 bfxValue) s

def execBfi (b : Bundle) (f : Fields) (s : State) : Host.Outcome State Fault Refusal :=
  issue .bfi b f (writeBody 1 bfiValue) s

/-! ### Compares and predicates (R108 to R111) -/

/-- The conditions of Table 4.5 on values and on the low w bits. -/
def compare (c : Nat) (a b : Int) (x y : Nat) : Bool :=
  match c with
  | 0 => a == b
  | 1 => a != b
  | 2 => a < b
  | 3 => b ≤ a
  | 4 => a ≤ b
  | 5 => b < a
  | 6 => x &&& y != 0
  | _ => x &&& y == 0

/-- The old predicate combined with a new one by MOD[4:3] (R108). -/
def combine (mode : Nat) (old t : Word) : Word :=
  match mode with
  | 0 => t
  | 1 => old &&& t
  | _ => old ||| t

def cmpValue (x : Ctx) (s : State) : Word :=
  let w := x.f.typ.width
  let low (o : Operand) : Nat := (x.raw s x.f.typ o).toNat % 2 ^ w
  let t := compare (bits x.f.mod.toNat 0 3) (x.val s x.f.sa) (x.val s x.f.sb) (low x.f.sa) (low x.f.sb)
  combine (bits x.f.mod.toNat 3 2) (x.reg s x.f.dst) (if t then ones64 else 0)

/-- One bit of a truth table of two inputs (R110). -/
def plogBits (t a b : Nat) : Nat → Nat
  | 0 => 0
  | n + 1 =>
    plogBits t a b n + (if bit t (bits a n 1 * 2 + bits b n 1) then 2 ^ n else 0)

def plogValue (x : Ctx) (s : State) : Word :=
  BitVec.ofNat 64 (plogBits x.f.imm.toNat (x.reg s x.f.sa).toNat (x.reg s x.f.sb).toNat 64)

/-- PMOV moves 64 bits between the files; an immediate is sext(IMM, 64) (R111). -/
def pmovValue (x : Ctx) (s : State) : Word := x.raw s .untyped x.f.sa

def execCmp (b : Bundle) (f : Fields) (s : State) : Host.Outcome State Fault Refusal :=
  issue .cmp b f (writeBody 1 cmpValue) s

def execPlog (b : Bundle) (f : Fields) (s : State) : Host.Outcome State Fault Refusal :=
  issue .plog b f (writeBody 1 plogValue) s

def execPmov (b : Bundle) (f : Fields) (s : State) : Host.Outcome State Fault Refusal :=
  issue .pmov b f (writeBody 1 pmovValue) s

end Sys2Proof.Machine
end

