-- ==== Sys2Proof/Machine/Vector.lean ====
section
/-!
DEFINITION. Vector instructions (R218 to R241).
-/

namespace Sys2Proof.Machine

/-! ### Lanes and the unit (R218, R219, R221) -/

/-- A vector instruction waits for the unit, which it then holds for some ticks (R221). -/
def vectorUnit (busy : Nat) (body : Ctx → State → Res) (x : Ctx) (s : State) : Res :=
  if x.now < (s.core x.c).vecFree then .wait s .latency
  else
    match body x s with
    | .done s flow =>
      .done ((s.modCore x.c (fun k => { k with vecFree := x.now + busy })).countVector (islandOf x.c)) flow
    | r => r

/-- A vector instruction over its queue operands that holds the unit for one tick. -/
def vectorBody (lat : Nat) (g : Ctx → State → (Operand → Entry) → Entry × List Effect) :
    Ctx → State → Res :=
  vectorUnit 1 (queueBody lat g)

/-- Lane i of a vector source: of a queue's entry, of a register or of IMM (R219). -/
def Ctx.lane (x : Ctx) (s : State) (taken : Operand → Entry) (o : Operand) (i : Nat) : Nat :=
  let w := x.f.typ.width
  match o with
  | .q _ | .peek _ => laneOf (taken o) w i
  | .imm => x.f.imm.toNat % 2 ^ w
  | o => (x.reg s o).toNat % 2 ^ w

/-- The flags of a float operation; integer operations set none (R223). -/
def Ctx.floatFlags (x : Ctx) (fl : Flags) : List Effect :=
  if x.f.typ.isFloat then [x.flagEffect fl] else []

/-- An entry made lane by lane: a value and flags for each enabled lane, 0 for the others (R218). -/
def Ctx.lanes (x : Ctx) (s : State) (g : Nat → Nat × Flags) : Entry × Flags :=
  let w := x.f.typ.width
  let (l, fl) := elements (x.laneOn s w) g (1024 / w)
  (entryOf w l, fl)

/-- An entry made from the lanes of SA, SB and SC. -/
def mapLanes (g : Typ → BitVec 5 → Nat → Nat → Nat → Nat × Flags) (x : Ctx) (s : State)
    (taken : Operand → Entry) : Entry × List Effect :=
  let (e, fl) := x.lanes s (fun i =>
    g x.f.typ x.f.mod (x.lane s taken x.f.sa i) (x.lane s taken x.f.sb i) (x.lane s taken x.f.sc i))
  (e, x.floatFlags fl)

/-! ### Arithmetic (R222 to R226) -/

/-- An integer lane result under wrap or sat (R223). -/
def fitLane (t : Typ) (mod : BitVec 5) (v : Int) : Nat :=
  (if satOfMod mod then t.sat v else t.wrap v).toNat % 2 ^ t.width

/-- A float lane result. -/
def roundLane (t : Typ) (mod : BitVec 5) (v : Exact) : Nat × Flags :=
  let r := v.round t.format (Rounding.ofMod mod) (satOfMod mod)
  (r.code, r.flags)

/-- A lane operation given on exact floats and on integers. -/
def laneOp (onFloat : Rounding → FVal → FVal → FVal → Exact) (onInt : Int → Int → Int → Int) (t : Typ)
    (mod : BitVec 5) (a b c : Nat) : Nat × Flags :=
  if t.isFloat then
    roundLane t mod (onFloat (Rounding.ofMod mod) (t.format.decode a) (t.format.decode b)
      (t.format.decode c))
  else (fitLane t mod (onInt (t.value a) (t.value b) (t.value c)), 0)

def addLane : Typ → BitVec 5 → Nat → Nat → Nat → Nat × Flags :=
  laneOp (fun m a b _ => addExact m a b) (fun a b _ => a + b)
def subLane : Typ → BitVec 5 → Nat → Nat → Nat → Nat × Flags :=
  laneOp (fun m a b _ => addExact m a b.neg) (fun a b _ => a - b)
def mulLane : Typ → BitVec 5 → Nat → Nat → Nat → Nat × Flags :=
  laneOp (fun _ a b _ => mulExact a b) (fun a b _ => a * b)
def fmaLane : Typ → BitVec 5 → Nat → Nat → Nat → Nat × Flags :=
  laneOp (fun m a b c => fmaExact m a b c) (fun a b c => a * b + c)

/-- The lesser or the greater of two lanes by order key; a NaN gives the canonical one (R225). -/
def pickLane (greater : Bool) (t : Typ) (a b : Nat) : Nat × Flags :=
  let f := t.format
  if t.isFloat && ((f.decode a).isNan || (f.decode b).isNan) then
    (f.canon, if (f.decode a).isSnan || (f.decode b).isSnan then flagNV else 0)
  else
    let less := decide (orderKey t a ≤ orderKey t b)
    (if less != greater then a else b, 0)

def minLane (t : Typ) (_ : BitVec 5) (a b _ : Nat) : Nat × Flags := pickLane false t a b
def maxLane (t : Typ) (_ : BitVec 5) (a b _ : Nat) : Nat × Flags := pickLane true t a b

def absLane (t : Typ) (mod : BitVec 5) (a _ _ : Nat) : Nat × Flags :=
  if t.isFloat then (a % 2 ^ (t.width - 1), 0) else (fitLane t mod ((t.value a).natAbs : Int), 0)
def negLane (t : Typ) (mod : BitVec 5) (a _ _ : Nat) : Nat × Flags :=
  if t.isFloat then (a ^^^ 2 ^ (t.width - 1), 0) else (fitLane t mod (-(t.value a)), 0)

/-- Latencies of the arithmetic rows of Table 9.2. -/
def floatLat (t : Typ) (i : Nat) : Nat := if t.isFloat then 4 else i

def execVadd (b : Bundle) (f : Fields) (s : State) : Host.Outcome State Fault Refusal :=
  issue .vadd b f (vectorBody (floatLat f.typ 2) (mapLanes addLane)) s

def execVsub (b : Bundle) (f : Fields) (s : State) : Host.Outcome State Fault Refusal :=
  issue .vsub b f (vectorBody (floatLat f.typ 2) (mapLanes subLane)) s

def execVmul (b : Bundle) (f : Fields) (s : State) : Host.Outcome State Fault Refusal :=
  issue .vmul b f (vectorBody (floatLat f.typ 3) (mapLanes mulLane)) s

def execVfma (b : Bundle) (f : Fields) (s : State) : Host.Outcome State Fault Refusal :=
  issue .vfma b f (vectorBody (floatLat f.typ 3) (mapLanes fmaLane)) s

def execVmin (b : Bundle) (f : Fields) (s : State) : Host.Outcome State Fault Refusal :=
  issue .vmin b f (vectorBody 2 (mapLanes minLane)) s

def execVmax (b : Bundle) (f : Fields) (s : State) : Host.Outcome State Fault Refusal :=
  issue .vmax b f (vectorBody 2 (mapLanes maxLane)) s

/-- A lane operation that sets no flag under any type. -/
def mapPlain (g : Typ → BitVec 5 → Nat → Nat → Nat → Nat × Flags) (x : Ctx) (s : State)
    (taken : Operand → Entry) : Entry × List Effect :=
  ((mapLanes g x s taken).1, [])

def execVabs (b : Bundle) (f : Fields) (s : State) : Host.Outcome State Fault Refusal :=
  issue .vabs b f (vectorBody 2 (mapPlain absLane)) s

def execVneg (b : Bundle) (f : Fields) (s : State) : Host.Outcome State Fault Refusal :=
  issue .vneg b f (vectorBody 2 (mapPlain negLane)) s

/-! ### Logic and shifts (R227, R228) -/

def andLane (_ : Typ) (_ : BitVec 5) (a b _ : Nat) : Nat × Flags := (a &&& b, 0)
def orLane (_ : Typ) (_ : BitVec 5) (a b _ : Nat) : Nat × Flags := (a ||| b, 0)
def xorLane (_ : Typ) (_ : BitVec 5) (a b _ : Nat) : Nat × Flags := (a ^^^ b, 0)
def shiftLane (g : Nat → Nat → Nat → Nat) (t : Typ) (_ : BitVec 5) (a b _ : Nat) : Nat × Flags :=
  (g t.width a b, 0)

def execVand (b : Bundle) (f : Fields) (s : State) : Host.Outcome State Fault Refusal :=
  issue .vand b f (vectorBody 2 (mapPlain andLane)) s

def execVor (b : Bundle) (f : Fields) (s : State) : Host.Outcome State Fault Refusal :=
  issue .vor b f (vectorBody 2 (mapPlain orLane)) s

def execVxor (b : Bundle) (f : Fields) (s : State) : Host.Outcome State Fault Refusal :=
  issue .vxor b f (vectorBody 2 (mapPlain xorLane)) s

def execVshl (b : Bundle) (f : Fields) (s : State) : Host.Outcome State Fault Refusal :=
  issue .vshl b f (vectorBody 2 (mapPlain (shiftLane shlBits))) s

def execVshr (b : Bundle) (f : Fields) (s : State) : Host.Outcome State Fault Refusal :=
  issue .vshr b f (vectorBody 2 (mapPlain (shiftLane shrBits))) s

def execVsra (b : Bundle) (f : Fields) (s : State) : Host.Outcome State Fault Refusal :=
  issue .vsra b f (vectorBody 2 (mapPlain (shiftLane sraBits))) s

/-! ### VCMP and VSEL (R229, R230) -/

/-- The conditions of Table 4.5 on floats. -/
def compareFloat (c : Nat) (a b : FVal) : Bool :=
  if a.isNan || b.isNan then c == 1
  else
    match c with
    | 0 => a.eq b
    | 1 => !a.eq b
    | 2 => a.lt b
    | 3 => !a.lt b
    | 4 => !b.lt a
    | _ => b.lt a

/-- Whether a lane's test holds, with its flags. -/
def testLane (t : Typ) (c a b : Nat) : Bool × Flags :=
  if t.isFloat then
    let u := t.format.decode a
    let v := t.format.decode b
    (compareFloat c u v, if u.isSnan || v.isSnan then flagNV else 0)
  else (compare c (t.value a) (t.value b) a b, 0)

/-- The predicate bits that lane tests give: pairs of 8-bit lanes are joined (R229). -/
def predBits (w : Nat) (l : List Nat) : Nat :=
  let on (i : Nat) : Bool := (l[i]?).getD 0 == 1
  ((List.range 64).map (fun i =>
    if (if w = 8 then on (2 * i) && on (2 * i + 1) else on i) then 2 ^ i else 0)).sum

def vcmpEntry (x : Ctx) (s : State) (taken : Operand → Entry) : Entry × List Effect :=
  let t := x.f.typ
  let w := t.width
  let (l, fl) := elements (x.laneOn s w) (fun i =>
    let (r, fl) := testLane t (bits x.f.mod.toNat 0 3) (x.lane s taken x.f.sa i)
      (x.lane s taken x.f.sb i)
    (if r then 1 else 0, fl)) (1024 / w)
  if x.f.dst.isPred then
    let v := combine (bits x.f.mod.toNat 3 2) (x.reg s x.f.dst) (BitVec.ofNat 64 (predBits w l))
    (0, x.writes x.f.dst v :: x.floatFlags fl)
  else (entryOf w (l.map (fun e => if e = 1 then 2 ^ w - 1 else 0)), x.floatFlags fl)

def execVcmp (b : Bundle) (f : Fields) (s : State) : Host.Outcome State Fault Refusal :=
  issue .vcmp b f (vectorBody 2 vcmpEntry) s

def vselEntry (x : Ctx) (s : State) (taken : Operand → Entry) : Entry × List Effect :=
  let w := x.f.typ.width
  let (e, _) := x.lanes s (fun i =>
    (if (x.reg s x.f.sc).getLsbD (laneBit w i) then x.lane s taken x.f.sa i
     else x.lane s taken x.f.sb i, 0))
  (e, [])

def execVsel (b : Bundle) (f : Fields) (s : State) : Host.Outcome State Fault Refusal :=
  issue .vsel b f (vectorBody 2 vselEntry) s

/-! ### Transcendentals (R231) -/

def elemLane (k : Elem) (t : Typ) (_ : BitVec 5) (a _ _ : Nat) : Nat × Flags :=
  let r := k.apply t.format a
  (r.code, r.flags)

/-- An FP32 transcendental holds the unit for two ticks (R221). -/
def elemBody (k : Elem) (x : Ctx) (s : State) : Res :=
  let wide := x.f.typ == .f32
  vectorUnit (if wide then 2 else 1) (queueBody (if wide then 10 else 6) (mapLanes (elemLane k))) x s

def execVexp2 (b : Bundle) (f : Fields) (s : State) : Host.Outcome State Fault Refusal :=
  issue .vexp2 b f (elemBody .exp2) s

def execVlog2 (b : Bundle) (f : Fields) (s : State) : Host.Outcome State Fault Refusal :=
  issue .vlog2 b f (elemBody .log2) s

def execVrcp (b : Bundle) (f : Fields) (s : State) : Host.Outcome State Fault Refusal :=
  issue .vrcp b f (elemBody .rcp) s

def execVrsq (b : Bundle) (f : Fields) (s : State) : Host.Outcome State Fault Refusal :=
  issue .vrsq b f (elemBody .rsq) s

def execVsqrt (b : Bundle) (f : Fields) (s : State) : Host.Outcome State Fault Refusal :=
  issue .vsqrt b f (elemBody .sqrt) s

/-! ### Reductions and scans (R232, R233) -/

/-- Combine neighbours of a list. -/
def pairUp (op : Nat → Nat → Nat × Flags) : List Nat → List Nat × Flags
  | a :: b :: rest =>
    let (v, fl) := op a b
    let (l, fl') := pairUp op rest
    (v :: l, fl ||| fl')
  | l => (l, 0)

/-- The binary tree of R232. -/
def treeReduce (op : Nat → Nat → Nat × Flags) : Nat → List Nat → Nat × Flags
  | 0, l => ((l[0]?).getD 0, 0)
  | n + 1, l =>
    let (l', fl) := pairUp op l
    let (v, fl') := treeReduce op n l'
    (v, fl ||| fl')

/-- The code of an infinity or of an integer bound, the identity of MAX and MIN (R232). -/
def extremeLane (t : Typ) (low : Bool) : Nat :=
  if t.isFloat then (t.format.ofVal .rne false (.inf low)).code
  else lowBits (if low then t.lo else t.hi) t.width

/-- The lanes of SA, with an identity in the disabled ones. -/
def Ctx.lanesOr (x : Ctx) (s : State) (taken : Operand → Entry) (unit : Nat) : List Nat :=
  let w := x.f.typ.width
  (List.range (1024 / w)).map (fun i =>
    if x.laneOn s w i then laneOf (taken x.f.sa) w i else unit)

/-- The result of a reduction goes to a scalar, extended by the type, or to lane 0 of an entry. -/
def Ctx.reduced (x : Ctx) (v : Nat) (fl : Flags) : Entry × List Effect :=
  let t := x.f.typ
  if x.f.dst.isQueue then (BitVec.ofNat 1024 (v % 2 ^ t.width), x.floatFlags fl)
  else
    let r : Word := if t.isFloat then BitVec.ofNat 64 v else t.wrap (t.value v)
    (0, x.writes x.f.dst r :: x.floatFlags fl)

def redSum (x : Ctx) (s : State) (taken : Operand → Entry) : Entry × List Effect :=
  let t := x.f.typ
  let l := x.lanesOr s taken 0
  if t.isFloat then
    let (v, fl) := treeReduce (fun a b => addLane t x.f.mod a b 0) 7 l
    x.reduced v fl
  else x.reduced (fitLane t x.f.mod ((l.map (fun v => t.value v)).sum)) 0

def redPick (greater : Bool) (x : Ctx) (s : State) (taken : Operand → Entry) : Entry × List Effect :=
  let t := x.f.typ
  let (v, fl) := treeReduce (pickLane greater t) 7 (x.lanesOr s taken (extremeLane t greater))
  x.reduced v fl

def execVredSum (b : Bundle) (f : Fields) (s : State) : Host.Outcome State Fault Refusal :=
  issue .vredSum b f (vectorBody 6 redSum) s

def execVredMax (b : Bundle) (f : Fields) (s : State) : Host.Outcome State Fault Refusal :=
  issue .vredMax b f (vectorBody 6 (redPick true)) s

def execVredMin (b : Bundle) (f : Fields) (s : State) : Host.Outcome State Fault Refusal :=
  issue .vredMin b f (vectorBody 6 (redPick false)) s

/-- Running combinations: each value with the flags of every step that it rests on, since the flags of a
multi-element result are the OR over its enabled elements (R125, R233; log entry 53). -/
def scanFrom (op : Nat → Nat → Nat × Flags) : Nat → Flags → List Nat → List (Nat × Flags)
  | _, _, [] => []
  | acc, fl, v :: rest =>
    let r := op acc v
    (r.1, fl ||| r.2) :: scanFrom op r.1 (fl ||| r.2) rest

/-- The values of an inclusive scan: r_0, r_0 ⊕ r_1, … -/
def scanValues (op : Nat → Nat → Nat × Flags) : List Nat → List (Nat × Flags)
  | [] => []
  | v :: rest => (v, 0) :: scanFrom op v 0 rest

def scanEntry (excl : Bool) (x : Ctx) (s : State) (taken : Operand → Entry) : Entry × List Effect :=
  let t := x.f.typ
  let vs := scanValues (fun a b => addLane t x.f.mod a b 0) (x.lanesOr s taken 0)
  let out := if excl then (0, 0) :: vs else vs
  let (e, fl) := x.lanes s (fun i => (out[i]?).getD (0, 0))
  (e, x.floatFlags fl)

def execVscanIncl (b : Bundle) (f : Fields) (s : State) : Host.Outcome State Fault Refusal :=
  issue .vscanIncl b f (vectorBody 6 (scanEntry false)) s

def execVscanExcl (b : Bundle) (f : Fields) (s : State) : Host.Outcome State Fault Refusal :=
  issue .vscanExcl b f (vectorBody 6 (scanEntry true)) s

/-! ### Moves (R234 to R238) -/

/-- An entry of moved lanes: no flag. -/
def moveLanes (g : Ctx → State → (Operand → Entry) → Nat → Nat) (x : Ctx) (s : State)
    (taken : Operand → Entry) : Entry × List Effect :=
  ((x.lanes s (fun i => (g x s taken i, 0))).1, [])

def permLane (x : Ctx) (_ : State) (taken : Operand → Entry) (i : Nat) : Nat :=
  let w := x.f.typ.width
  let j := laneOf (taken x.f.sb) w i
  if 1024 / w ≤ j then 0 else laneOf (taken x.f.sa) w j

/-- The lane that IMM names. -/
def Ctx.immLane (x : Ctx) : Nat := bits x.f.imm.toNat 0 7

def bcastLane (x : Ctx) (_ : State) (taken : Operand → Entry) (_ : Nat) : Nat :=
  laneOf (taken x.f.sa) x.f.typ.width x.immLane

def copyLane (x : Ctx) (_ : State) (taken : Operand → Entry) (i : Nat) : Nat :=
  laneOf (taken x.f.sa) x.f.typ.width i

def iotaLane (x : Ctx) (s : State) (_ : Operand → Entry) (i : Nat) : Nat :=
  (x.f.typ.wrap ((x.raw s x.f.typ x.f.sa).toNat + i : Int)).toNat % 2 ^ x.f.typ.width

def keyLane (x : Ctx) (_ : State) (taken : Operand → Entry) (i : Nat) : Nat :=
  orderKey x.f.typ (laneOf (taken x.f.sa) x.f.typ.width i)

def execVperm (b : Bundle) (f : Fields) (s : State) : Host.Outcome State Fault Refusal :=
  issue .vperm b f (vectorBody 3 (moveLanes permLane)) s

def execVbcast (b : Bundle) (f : Fields) (s : State) : Host.Outcome State Fault Refusal :=
  issue .vbcast b f (vectorBody 2 (moveLanes bcastLane)) s

def execVmov (b : Bundle) (f : Fields) (s : State) : Host.Outcome State Fault Refusal :=
  issue .vmov b f (vectorBody 2 (moveLanes copyLane)) s

/-- Extract: DST keeps its value when the lane is not enabled (R236). -/
def extractEntry (x : Ctx) (s : State) (taken : Operand → Entry) : Entry × List Effect :=
  let w := x.f.typ.width
  (0, if x.laneOn s w x.immLane then
        [x.writes x.f.dst (BitVec.ofNat 64 (laneOf (taken x.f.sa) w x.immLane))]
      else [])

def execVmovX (b : Bundle) (f : Fields) (s : State) : Host.Outcome State Fault Refusal :=
  issue .vmovX b f (vectorBody 2 extractEntry) s

/-- Insert: every lane but an enabled named one is copied (R236). -/
def insertEntry (x : Ctx) (s : State) (taken : Operand → Entry) : Entry × List Effect :=
  let w := x.f.typ.width
  let l := lanesOf (taken x.f.sa) w
  (entryOf w (if x.laneOn s w x.immLane then l.set x.immLane ((x.reg s x.f.sb).toNat % 2 ^ w) else l), [])

def execVmovI (b : Bundle) (f : Fields) (s : State) : Host.Outcome State Fault Refusal :=
  issue .vmovI b f (vectorBody 2 insertEntry) s

def execViota (b : Bundle) (f : Fields) (s : State) : Host.Outcome State Fault Refusal :=
  issue .viota b f (vectorBody 2 (moveLanes iotaLane)) s

def execVkey (b : Bundle) (f : Fields) (s : State) : Host.Outcome State Fault Refusal :=
  issue .vkey b f (vectorBody 2 (moveLanes keyLane)) s

/-! ### Radix select (R239, R240) -/

/-- The digits that VHIST counts. -/
def histEntry (x : Ctx) (s : State) (taken : Operand → Entry) : Entry × List Effect :=
  let w := x.f.typ.width
  let shift := bits x.f.imm.toNat 0 5
  let keys := (((List.range (1024 / w)).filter (fun i => x.laneOn s w i)).map (fun i =>
    laneOf (taken x.f.sa) w i)).filter (fun k => k / 2 ^ (shift + 8) == (x.reg s x.f.sb).toNat)
  (0, [.hist (bit x.f.mod.toNat 0) (keys.map (fun k => bits k shift 8))])

def execVhist (b : Bundle) (f : Fields) (s : State) : Host.Outcome State Fault Refusal :=
  issue .vhist b f (vectorBody 4 histEntry) s

/-- An update of HIST is still to land. -/
def Core.histPending (k : Core) : Bool :=
  k.flight.any (fun l => l.effects.any (fun e => match e with
    | .hist _ _ => true
    | _ => false))

/-- The first digit of a walk over the histogram at which the running sum reaches k, with the sum before
it. -/
def cutFrom (h : Tbl (BitVec 32)) (k : Nat) : Nat → List Nat → Nat × Nat
  | sum, [] => (0, sum)
  | sum, d :: rest =>
    let n := (Tbl.get 0 h d).toNat
    if k ≤ sum + n then (d, sum) else cutFrom h k (sum + n) rest

def vcutValue (h : Tbl (BitVec 32)) (asc : Bool) (k : Nat) : Word :=
  let total := ((List.range 256).map (fun d => (Tbl.get 0 h d).toNat)).sum
  if k = 0 ∨ total < k then ones64
  else
    let walk := if asc then List.range 256 else (List.range 256).map (fun d => 255 - d)
    let (d, above) := cutFrom h k 0 walk
    BitVec.ofNat 64 (min above (2 ^ 32 - 1) * 2 ^ 32 +
      min (Tbl.get 0 h d).toNat (2 ^ 24 - 1) * 2 ^ 8 + d)

/-- VCUT reads HIST; on an FL = 0 page it waits for VHISTs in flight (R239, R240). -/
def vcutBody (x : Ctx) (s : State) : Res :=
  let k := s.core x.c
  if !x.fl && k.histPending then .wait s .latency
  else
    .done (x.result s 4 [x.writes x.f.dst
      (vcutValue k.hist (bit x.f.mod.toNat 0) (x.raw s .untyped x.f.sa).toNat)]) .seq

def execVcut (b : Bundle) (f : Fields) (s : State) : Host.Outcome State Fault Refusal :=
  issue .vcut b f (vectorUnit 1 vcutBody) s

end Sys2Proof.Machine
end

