-- ==== Sys2Proof/Machine/Dispatch.lean ====
section
/-!
DEFINITION. The dispatch of an instruction or event to its meaning, one arm per constructor.
-/

namespace Sys2Proof.Machine

/-- The outcome of an instruction in a state. -/
def exec (i : Instr) (s : State) : Host.Outcome State Fault Refusal :=
  match i with
  | .nopTix0 b => Sys2Proof.Machine.execNopTix0 b s
  | .nop b f => Sys2Proof.Machine.execNop b f s
  | .br b f => Sys2Proof.Machine.execBr b f s
  | .brz b f => Sys2Proof.Machine.execBrz b f s
  | .jmp b f => Sys2Proof.Machine.execJmp b f s
  | .jal b f => Sys2Proof.Machine.execJal b f s
  | .jalr b f => Sys2Proof.Machine.execJalr b f s
  | .loop b f => Sys2Proof.Machine.execLoop b f s
  | .fork b f => Sys2Proof.Machine.execFork b f s
  | .join b f => Sys2Proof.Machine.execJoin b f s
  | .joinD b f => Sys2Proof.Machine.execJoinD b f s
  | .qbind b f => Sys2Proof.Machine.execQbind b f s
  | .tokp b f => Sys2Proof.Machine.execTokp b f s
  | .tokw b f => Sys2Proof.Machine.execTokw b f s
  | .halt b f => Sys2Proof.Machine.execHalt b f s
  | .tmpl b f => Sys2Proof.Machine.execTmpl b f s
  | .add b f => Sys2Proof.Machine.execAdd b f s
  | .sub b f => Sys2Proof.Machine.execSub b f s
  | .min b f => Sys2Proof.Machine.execMin b f s
  | .max b f => Sys2Proof.Machine.execMax b f s
  | .minn b f => Sys2Proof.Machine.execMinn b f s
  | .maxn b f => Sys2Proof.Machine.execMaxn b f s
  | .mul b f => Sys2Proof.Machine.execMul b f s
  | .mulh b f => Sys2Proof.Machine.execMulh b f s
  | .mulhn b f => Sys2Proof.Machine.execMulhn b f s
  | .div b f => Sys2Proof.Machine.execDiv b f s
  | .divn b f => Sys2Proof.Machine.execDivn b f s
  | .rem b f => Sys2Proof.Machine.execRem b f s
  | .remn b f => Sys2Proof.Machine.execRemn b f s
  | .and b f => Sys2Proof.Machine.execAnd b f s
  | .or b f => Sys2Proof.Machine.execOr b f s
  | .xor b f => Sys2Proof.Machine.execXor b f s
  | .andn b f => Sys2Proof.Machine.execAndn b f s
  | .shl b f => Sys2Proof.Machine.execShl b f s
  | .shr b f => Sys2Proof.Machine.execShr b f s
  | .sra b f => Sys2Proof.Machine.execSra b f s
  | .rot b f => Sys2Proof.Machine.execRot b f s
  | .clz b f => Sys2Proof.Machine.execClz b f s
  | .popc b f => Sys2Proof.Machine.execPopc b f s
  | .sel b f => Sys2Proof.Machine.execSel b f s
  | .ldi b f => Sys2Proof.Machine.execLdi b f s
  | .addr b f => Sys2Proof.Machine.execAddr b f s
  | .bfx b f => Sys2Proof.Machine.execBfx b f s
  | .bfi b f => Sys2Proof.Machine.execBfi b f s
  | .cvt b f => Sys2Proof.Machine.execCvt b f s
  | .cvtQ b f => Sys2Proof.Machine.execCvtQ b f s
  | .pack4 b f => Sys2Proof.Machine.execPack4 b f s
  | .unpk4 b f => Sys2Proof.Machine.execUnpk4 b f s
  | .pack8 b f => Sys2Proof.Machine.execPack8 b f s
  | .unpk8 b f => Sys2Proof.Machine.execUnpk8 b f s
  | .qtag b f => Sys2Proof.Machine.execQtag b f s
  | .fflag b f => Sys2Proof.Machine.execFflag b f s
  | .fcls b f => Sys2Proof.Machine.execFcls b f s
  | .cmp b f => Sys2Proof.Machine.execCmp b f s
  | .plog b f => Sys2Proof.Machine.execPlog b f s
  | .pmov b f => Sys2Proof.Machine.execPmov b f s
  | .ld b f => Sys2Proof.Machine.execLd b f s
  | .st b f => Sys2Proof.Machine.execSt b f s
  | .ldq b f => Sys2Proof.Machine.execLdq b f s
  | .stq b f => Sys2Proof.Machine.execStq b f s
  | .ldgq b f => Sys2Proof.Machine.execLdgq b f s
  | .stsq b f => Sys2Proof.Machine.execStsq b f s
  | .pf b f => Sys2Proof.Machine.execPf b f s
  | .pfFr b f => Sys2Proof.Machine.execPfFr b f s
  | .lds b f => Sys2Proof.Machine.execLds b f s
  | .fence sc b f => Sys2Proof.Machine.execFence sc b f s
  | .acq sc b f => Sys2Proof.Machine.execAcq sc b f s
  | .rel sc b f => Sys2Proof.Machine.execRel sc b f s
  | .acqp b f => Sys2Proof.Machine.execAcqp b f s
  | .dbb b f => Sys2Proof.Machine.execDbb b f s
  | .dbbU b f => Sys2Proof.Machine.execDbbU b f s
  | .publish b f => Sys2Proof.Machine.execPublish b f s
  | .cpy1 b f => Sys2Proof.Machine.execCpy1 b f s
  | .cpy2 b f => Sys2Proof.Machine.execCpy2 b f s
  | .cpy3 b f => Sys2Proof.Machine.execCpy3 b f s
  | .cpyg b f => Sys2Proof.Machine.execCpyg b f s
  | .cpymc b f => Sys2Proof.Machine.execCpymc b f s
  | .cpyc b f => Sys2Proof.Machine.execCpyc b f s
  | .cpys b f => Sys2Proof.Machine.execCpys b f s
  | .wait b f => Sys2Proof.Machine.execWait b f s
  | .vadd b f => Sys2Proof.Machine.execVadd b f s
  | .vsub b f => Sys2Proof.Machine.execVsub b f s
  | .vmul b f => Sys2Proof.Machine.execVmul b f s
  | .vfma b f => Sys2Proof.Machine.execVfma b f s
  | .vmin b f => Sys2Proof.Machine.execVmin b f s
  | .vmax b f => Sys2Proof.Machine.execVmax b f s
  | .vabs b f => Sys2Proof.Machine.execVabs b f s
  | .vneg b f => Sys2Proof.Machine.execVneg b f s
  | .vand b f => Sys2Proof.Machine.execVand b f s
  | .vor b f => Sys2Proof.Machine.execVor b f s
  | .vxor b f => Sys2Proof.Machine.execVxor b f s
  | .vshl b f => Sys2Proof.Machine.execVshl b f s
  | .vshr b f => Sys2Proof.Machine.execVshr b f s
  | .vsra b f => Sys2Proof.Machine.execVsra b f s
  | .vcmp b f => Sys2Proof.Machine.execVcmp b f s
  | .vsel b f => Sys2Proof.Machine.execVsel b f s
  | .vexp2 b f => Sys2Proof.Machine.execVexp2 b f s
  | .vlog2 b f => Sys2Proof.Machine.execVlog2 b f s
  | .vrcp b f => Sys2Proof.Machine.execVrcp b f s
  | .vrsq b f => Sys2Proof.Machine.execVrsq b f s
  | .vsqrt b f => Sys2Proof.Machine.execVsqrt b f s
  | .vredSum b f => Sys2Proof.Machine.execVredSum b f s
  | .vredMax b f => Sys2Proof.Machine.execVredMax b f s
  | .vredMin b f => Sys2Proof.Machine.execVredMin b f s
  | .vscanIncl b f => Sys2Proof.Machine.execVscanIncl b f s
  | .vscanExcl b f => Sys2Proof.Machine.execVscanExcl b f s
  | .vperm b f => Sys2Proof.Machine.execVperm b f s
  | .vbcast b f => Sys2Proof.Machine.execVbcast b f s
  | .vmov b f => Sys2Proof.Machine.execVmov b f s
  | .vmovX b f => Sys2Proof.Machine.execVmovX b f s
  | .vmovI b f => Sys2Proof.Machine.execVmovI b f s
  | .viota b f => Sys2Proof.Machine.execViota b f s
  | .vkey b f => Sys2Proof.Machine.execVkey b f s
  | .vhist b f => Sys2Proof.Machine.execVhist b f s
  | .vcut b f => Sys2Proof.Machine.execVcut b f s
  | .mmaQ4 b f => Sys2Proof.Machine.execMmaQ4 b f s
  | .mmaF8 b f => Sys2Proof.Machine.execMmaF8 b f s
  | .mmaBf b f => Sys2Proof.Machine.execMmaBf b f s
  | .mmaH b f => Sys2Proof.Machine.execMmaH b f s
  | .scac b f => Sys2Proof.Machine.execScac b f s
  | .accz b f => Sys2Proof.Machine.execAccz b f s
  | .accld b f => Sys2Proof.Machine.execAccld b f s
  | .drain b f => Sys2Proof.Machine.execDrain b f s
  | .epi b f => Sys2Proof.Machine.execEpi b f s
  | .epiOut b f => Sys2Proof.Machine.execEpiOut b f s
  | .sag b f => Sys2Proof.Machine.execSag b f s
  | .sagRd b f => Sys2Proof.Machine.execSagRd b f s
  | .maskld b f => Sys2Proof.Machine.execMaskld b f s
  | .mstat b f => Sys2Proof.Machine.execMstat b f s
  | .mstmp b f => Sys2Proof.Machine.execMstmp b f s
  | .mstmpAbs b f => Sys2Proof.Machine.execMstmpAbs b f s
  | .amoAdd b f => Sys2Proof.Machine.execAmoAdd b f s
  | .amoAnd b f => Sys2Proof.Machine.execAmoAnd b f s
  | .amoOr b f => Sys2Proof.Machine.execAmoOr b f s
  | .amoXor b f => Sys2Proof.Machine.execAmoXor b f s
  | .amoMin b f => Sys2Proof.Machine.execAmoMin b f s
  | .amoMax b f => Sys2Proof.Machine.execAmoMax b f s
  | .amoMinn b f => Sys2Proof.Machine.execAmoMinn b f s
  | .amoMaxn b f => Sys2Proof.Machine.execAmoMaxn b f s
  | .amoXchg b f => Sys2Proof.Machine.execAmoXchg b f s
  | .amoCas b f => Sys2Proof.Machine.execAmoCas b f s
  | .semi b f => Sys2Proof.Machine.execSemi b f s
  | .semw b f => Sys2Proof.Machine.execSemw b f s
  | .sems b f => Sys2Proof.Machine.execSems b f s
  | .semsR b f => Sys2Proof.Machine.execSemsR b f s
  | .bar b f => Sys2Proof.Machine.execBar b f s
  | .mbs b f => Sys2Proof.Machine.execMbs b f s
  | .mbr b f => Sys2Proof.Machine.execMbr b f s
  | .spawn b f => Sys2Proof.Machine.execSpawn b f s
  | .joinw b f => Sys2Proof.Machine.execJoinw b f s
  | .launch b f => Sys2Proof.Machine.execLaunch b f s
  | .yield b f => Sys2Proof.Machine.execYield b f s
  | .ttrel b f => Sys2Proof.Machine.execTtrel b f s
  | .waitb b f => Sys2Proof.Machine.execWaitb b f s
  | .ebud b f => Sys2Proof.Machine.execEbud b f s
  | .ebudW b f => Sys2Proof.Machine.execEbudW b f s
  | .evar b f => Sys2Proof.Machine.execEvar b f s
  | .ejrd b f => Sys2Proof.Machine.execEjrd b f s
  | .ejrdI b f => Sys2Proof.Machine.execEjrdI b f s
  | .ejrdB b f => Sys2Proof.Machine.execEjrdB b f s
  | .ecls b f => Sys2Proof.Machine.execEcls b f s
  | .eclsW b f => Sys2Proof.Machine.execEclsW b f s
  | .ethr b f => Sys2Proof.Machine.execEthr b f s
  | .ethrW b f => Sys2Proof.Machine.execEthrW b f s
  | .chtOpen b f => Sys2Proof.Machine.execChtOpen b f s
  | .chtAppend b f => Sys2Proof.Machine.execChtAppend b f s
  | .chtProp b f => Sys2Proof.Machine.execChtProp b f s
  | .chtPropt b f => Sys2Proof.Machine.execChtPropt b f s
  | .chtSave b f => Sys2Proof.Machine.execChtSave b f s
  | .chtLoad b f => Sys2Proof.Machine.execChtLoad b f s
  | .chtClose b f => Sys2Proof.Machine.execChtClose b f s
  | .smpTemp b f => Sys2Proof.Machine.execSmpTemp b f s
  | .smpFilt b f => Sys2Proof.Machine.execSmpFilt b f s
  | .smpPick b f => Sys2Proof.Machine.execSmpPick b f s
  | .smpVer b f => Sys2Proof.Machine.execSmpVer b f s
  | .smpStop b f => Sys2Proof.Machine.execSmpStop b f s
  | .rng b f => Sys2Proof.Machine.execRng b f s
  | .trap b f => Sys2Proof.Machine.execTrap b f s
  | .trapFw b f => Sys2Proof.Machine.execTrapFw b f s
  | .eret b f => Sys2Proof.Machine.execEret b f s
  | .sreg b f => Sys2Proof.Machine.execSreg b f s
  | .swreg b f => Sys2Proof.Machine.execSwreg b f s
  | .tlbi b f => Sys2Proof.Machine.execTlbi b f s
  | .ctxs b f => Sys2Proof.Machine.execCtxs b f s
  | .ctxl b f => Sys2Proof.Machine.execCtxl b f s
  | .idle b f => Sys2Proof.Machine.execIdle b f s
  | .idleM b f => Sys2Proof.Machine.execIdleM b f s
  | .crewDeadlock core => Sys2Proof.Machine.execCrewDeadlock core s
  | .pageIn leaf ok => Sys2Proof.Machine.execPageIn leaf ok s
  | .pageOut leaf => Sys2Proof.Machine.execPageOut leaf s
  | .loadDataLanding core st seq => Sys2Proof.Machine.execLoadDataLanding core st seq s
  | .memUncorr core st => Sys2Proof.Machine.execMemUncorr core st s
  | .meteredLine core ended => Sys2Proof.Machine.execMeteredLine core ended s
  | .promotionRequest core => Sys2Proof.Machine.execPromotionRequest core s
  | .wideningWaitBound core => Sys2Proof.Machine.execWideningWaitBound core s
  | .copyStart core id => Sys2Proof.Machine.execCopyStart core id s
  | .copyEntryDelivery core id => Sys2Proof.Machine.execCopyEntryDelivery core id s
  | .copyEnd core id => Sys2Proof.Machine.execCopyEnd core id s
  | .resultLanding core => Sys2Proof.Machine.execResultLanding core s
  | .matrixLanding core => Sys2Proof.Machine.execMatrixLanding core s
  | .drainStart core id => Sys2Proof.Machine.execDrainStart core id s
  | .mailboxArrival core => Sys2Proof.Machine.execMailboxArrival core s
  | .waitbExpiry core => Sys2Proof.Machine.execWaitbExpiry core s
  | .dispatchSlot island => Sys2Proof.Machine.execDispatchSlot island s
  | .parentPreemptTimeout core => Sys2Proof.Machine.execParentPreemptTimeout core s
  | .taskEnd core => Sys2Proof.Machine.execTaskEnd core s
  | .launchDeadline launch => Sys2Proof.Machine.execLaunchDeadline launch s
  | .kick queue value => Sys2Proof.Machine.execKick queue value s
  | .doorbellFold queue => Sys2Proof.Machine.execDoorbellFold queue s
  | .tokset queue value => Sys2Proof.Machine.execTokset queue value s
  | .tokclr queue value => Sys2Proof.Machine.execTokclr queue value s
  | .hostQueueReservedWrite queue offset value => Sys2Proof.Machine.execHostQueueReservedWrite queue offset value s
  | .lfeCycle => Sys2Proof.Machine.execLfeCycle s
  | .tideBoundary die => Sys2Proof.Machine.execTideBoundary die s
  | .throttleWarn core => Sys2Proof.Machine.execThrottleWarn core s
  | .throttleStep island => Sys2Proof.Machine.execThrottleStep island s
  | .boostWindowEnd island => Sys2Proof.Machine.execBoostWindowEnd island s
  | .powerLimitStretch island => Sys2Proof.Machine.execPowerLimitStretch island s
  | .thermalTrip => Sys2Proof.Machine.execThermalTrip s
  | .thermalResume => Sys2Proof.Machine.execThermalResume s
  | .timeCorrection region value => Sys2Proof.Machine.execTimeCorrection region value s
  | .chartTransferEnd die slot => Sys2Proof.Machine.execChartTransferEnd die slot s
  | .preemption core => Sys2Proof.Machine.execPreemption core s
  | .moorWake cause => Sys2Proof.Machine.execMoorWake cause s
  | .walrisPeerWrite window offset data => Sys2Proof.Machine.execWalrisPeerWrite window offset data s
  | .coldStart imageGood recordGood => Sys2Proof.Machine.execColdStart imageGood recordGood s
  | .warmStart orderly => Sys2Proof.Machine.execWarmStart orderly s
  | .attestationRequest nonce => Sys2Proof.Machine.execAttestationRequest nonce s
  | .idleTickLimit core => Sys2Proof.Machine.execIdleTickLimit core s
  | .nextRelease core => Sys2Proof.Machine.execNextRelease core s
  | .storePerformed core st seq => Sys2Proof.Machine.execStorePerformed core st seq s
  | .hostPortAccess addr access => Sys2Proof.Machine.execHostPortAccess addr access s

end Sys2Proof.Machine
end

