-- ==== Sys2Proof/Machine/Issue.lean ====
section
/-!
DEFINITION. The turn of a stream: whether it may issue, what a boundary delivers first (R142, R331), the
fetch and decode of its bundle, its meaning, and the lockstep rendezvous (R86, R87).
-/

namespace Sys2Proof.Machine

/-- The images of a member of the convoy that the task on a core belongs to are still being read. -/
def State.unitLoading (s : State) (c : Nat) : Bool :=
  match (s.core c).task.bind (fun t => t.convoyId) with
  | none => false
  | some id => s.cores.any (fun e => e.2.loading.isSome && e.2.task.bind (fun t => t.convoyId) == some id)

/-- A stream may try to issue now: it runs, its time has come, its clock runs, and it is not stopped by
a handler (R17, R66, R340, R376).  The members of a convoy begin when the images of all are read, so that each finds
the others as their manifest sets them (R273, R295; log entry 100). -/
def State.mayIssue (s : State) (c : Nat) (st : Stream) : Bool :=
  let k := s.core c
  let t := k.stream st
  t.run && !s.unitLoading c && !(k.yielded && st == .P) && t.nextTick ≤ s.tickOf c && (!k.inh || st == .P) &&
    !(s.island (islandOf c)).stop &&
    !s.gated &&
    (match t.after with
     | some n => !k.orderedBefore .P n
     | none => true)

/-- A stream waits on its way to a bundle. -/
def State.holdBack (s : State) (c : Nat) (st : Stream) (w : Wait) : State :=
  (s.modStream c st (fun t => { t with wait := w })).noted .waited

/-- Fetch, decode and execute the bundle at the PC of a stream. -/
def State.fetchAndRun (s : State) (c : Nat) (st : Stream) : Host.Outcome State Fault Refusal :=
  match s.fetchBundle c st with
  | .wait s => .next (s.holdBack c st .memory)
  | .trap t => .next (s.raiseOrWait c st t .trapped)
  | .ok s ws fl bh =>
    let k := s.core c
    match k.drainFor st fl with
    | some (bound, true) =>
      .next ((s.modStream c st (fun t => { t with drain := some bound })).holdBack c st .latency)
    | _ =>
      if !fl && k.templatePending st ws then .next (s.holdBack c st .latency)
      else
        match decode (k.stream st).template (some st) ws with
        | .error .illop => .next (s.raiseOrWait c st { cause := .illop } .trapped)
        | .error _ => .next (s.raiseOrWait c st { cause := .illfield } .trapped)
        | .ok (i, _) => exec i { s with cur := { core := c, st, fl, bh } }

/-- A stream goes on with the bundle that it has issued, or with the one at its PC. -/
def State.attempt (s : State) (c : Nat) (st : Stream) : Host.Outcome State Fault Refusal :=
  match (s.stream c st).kept with
  | some e => exec (e.o.instr e.held.b e.held.f) { s with cur := { core := c, st, fl := e.held.fl, bh := e.held.bh } }
  | none => s.fetchAndRun c st

/-- A stream at its bundle boundary: an uncorrectable error that is known is delivered there, before any bundle
(R142). -/
def State.tryBundle (s : State) (c : Nat) (st : Stream) : Host.Outcome State Fault Refusal :=
  match (s.stream c st).uncorr with
  | (a, b, d) :: _ => .next (s.deliverUncorr c st a b d)
  | [] => s.attempt c st

/-- The state that an outcome leaves, or the one given. -/
def outcomeState (o : Host.Outcome State Fault Refusal) (s : State) : State :=
  match o with
  | .next t => t
  | _ => s

/-! ### The lockstep rendezvous -/

/-- The running streams of a core. -/
def State.running (s : State) (c : Nat) : List Stream :=
  streams.filter (fun st => (s.stream c st).run)

/-- Every running stream waits at step 3 of R42 and may issue in this tick, and none that they waited for has become
idle in it. -/
def State.gathered (s : State) (c : Nat) : Bool :=
  !(s.running c).isEmpty && (s.core c).idleTick != some (s.tickOf c) &&
    (s.running c).all (fun st => (s.stream c st).atSync && s.mayIssue c st)

/-- The participants with their rendezvous formed. -/
def State.letGo (s : State) (c : Nat) : State :=
  (s.running c).foldl (fun s st =>
    s.modStream c st (fun t => { t with syncGo := true, atSync := false })) s

/-- What each participant would do. -/
def State.trials (s : State) (c : Nat) : List (Stream × State) :=
  (s.running c).map (fun st => (st, outcomeState ((s.letGo c).tryBundle c st) s))

/-- Record why participants are not ready. -/
def State.recordWaits (s : State) (c : Nat) (l : List (Stream × State)) : State :=
  l.foldl (fun s e =>
    if e.2.note = .waited then
      s.modStream c e.1 (fun t => { t with wait := (e.2.stream c e.1).wait })
    else s) s

/-- Participants issue one after another; with the first that cannot any more beside the others, such as the copy that
finds the last engine record taken. -/
def State.issueAll (s : State) (c : Nat) : List Stream → State × Option (Stream × Wait)
  | [] => (s, none)
  | st :: rest =>
    let t := outcomeState (s.attempt c st) s
    let w := (t.stream c st).wait
    if t.note == .waited && !w.afterIssue then (t, some (st, w)) else State.issueAll t c rest

/-- Form the rendezvous of a core when every running stream has come to it: all its bundles issue in one
step, or the first trap decided at issue, or error known at a boundary (R142), is taken and none issues; nor does any
where one has to wait that could issue without the others (R86, R87).  A trap decided after issue faults its own
participant once the others have issued; an operation that waits beyond its issue goes on alone. -/
def State.rendezvous (s : State) (c : Nat) : State :=
  if !s.gathered c then s
  else
    let l := s.trials c
    if l.any (fun e => e.2.note == .waited && !(e.2.stream c e.1).wait.afterIssue) then
      s.recordWaits c l
    else
      match l.find? (fun e => e.2.note == .trapped) with
      | some e => e.2
      | none =>
        let go := l.filter (fun e => e.2.note != .late)
        let late := l.filter (fun e => e.2.note == .late)
        match (s.letGo c).issueAll c (go.map (fun e => e.1)) with
        | (_, some (st, w)) => s.modStream c st (fun t => { t with wait := w })
        | (t, none) =>
          let stay := l.filter (fun e => e.2.note == .late || e.2.note == .waited)
          let t := stay.foldl (fun s e => s.modStream c e.1 (fun t => { t with syncDone := true })) t
          match late with
          | [] => t
          | e :: _ => outcomeState (t.attempt c e.1) t

/-! ### The turn of a stream -/

/-- A warning is to be delivered at the next boundary: one just received, or one held until ERET. -/
def Core.warnReady (k : Core) : Bool := !k.inh && (k.warnDue || k.warnHeld)

/-- What a stream does at its boundary, with its rendezvous. -/
def State.issueBundle (s : State) (c : Nat) (st : Stream) : Host.Outcome State Fault Refusal :=
  match s.tryBundle c st with
  | .next t =>
    if t.note = .waited ∧ (t.stream c st).atSync then .next (t.rendezvous c) else .next t
  | o => o

/-- The attempt has trapped. -/
def Note.fails : Note → Bool
  | .trapped | .late => true
  | _ => false

/-- The first stream before another in the order P, L, X, S that would fault in the same tick (R391). -/
def State.faultsBefore (s : State) (c : Nat) (st : Stream) : Option Stream :=
  (streams.takeWhile (fun u => u != st)).find? (fun u =>
    s.mayIssue c u && (outcomeState (s.issueBundle c u) s).note.fails)

/-- A stream at its boundary; of two that fault in one tick, the earlier in the order P, L, X, S does (R391). -/
def State.issueFirst (s : State) (c : Nat) (st : Stream) : Host.Outcome State Fault Refusal :=
  match s.issueBundle c st with
  | .next t =>
    if t.note.fails then
      match s.faultsBefore c st with
      | some u => s.issueBundle c u
      | none => .next t
    else .next t
  | o => o

/-- The first stream of a core that would fault in its next attempt: its cause comes before a warning (R391). -/
def State.trapFirst (s : State) (c : Nat) : Option Stream :=
  (s.running c).find? (fun st =>
    s.mayIssue c st && (outcomeState (s.issueBundle c st) s).note.fails)

/-- The turn of a stream. -/
def State.issueTurn (s : State) (c : Nat) (st : Stream) : Host.Outcome State Fault Refusal :=
  let k := s.core c
  if !s.mayIssue c st then .next s
  else if k.inh && k.warnDue then (s.holdWarn c).issueFirst c st
  else if k.warnReady then
    match s.trapFirst c with
    | some u => (s.holdWarn c).issueBundle c u
    | none => .next (s.deliverWarn c)
  else s.issueFirst c st

/-- THROTTLE_WARN on a core: a cause of the same boundary is delivered first (R391). -/
def State.warnTurn (s : State) (c : Nat) (i : Instr) : Host.Outcome State Fault Refusal :=
  if (s.core c).warnReady && (s.core c).loading.isNone then
    match s.trapFirst c with
    | some st => s.issueTurn c st
    | none => exec i s
  else exec i s

/-- MEM_UNCORR on a stream: an earlier stream that would fault in the same tick comes first (R391). -/
def State.uncorrTurn (s : State) (c : Nat) (st : Stream) (i : Instr) : Host.Outcome State Fault Refusal :=
  match s.faultsBefore c st with
  | some u => if (s.stream c st).uncorr.isEmpty then exec i s else s.issueBundle c u
  | none => exec i s

/-- Bring the recorded waits of a core up to date: each running stream that would wait now has its turn, and the
others wait for nothing (R88). -/
def State.refreshWaits (s : State) (c : Nat) : State :=
  (s.running c).foldl (fun s st =>
    let t := outcomeState ({ s with note := .none }.issueTurn c st) s
    if s.mayIssue c st && t.note == .waited then t
    else s.modStream c st (fun t => { t with wait := .none })) s

/-- Every running stream of a core is blocked in this tick: it traps (R89). -/
def State.checkDeadlock (s : State) (c : Nat) : State :=
  if (s.running c).isEmpty then s
  else
    let t := s.refreshWaits c
    if (t.core c).deadlocked then outcomeState (execCrewDeadlock c t) s else s

/-- X of a core has come to a stamped MMA whose tick is now; with true where its bundle has SYNC (R253). -/
def State.stampNow (s : State) (c : Nat) : Option Bool :=
  if !s.mayIssue c .X then none
  else
    match s.fetchBundle c .X with
    | .ok s ws fl bh =>
      match decode (s.stream c .X).template (some .X) ws with
      | .error _ => none
      | .ok (i, _) =>
        match i.parts with
        | none => none
        | some (o, b, f) =>
          let x := Ctx.of o b f { s with cur := { core := c, st := .X, fl, bh } }
          if x.stampDue s && !x.stampPast s then some b.sync else none
    | _ => none

/-- X has its turn in the tick of its stamp, after the streams that may come to its rendezvous in it (R253). -/
def State.stampTurn (s : State) (c : Nat) : State :=
  match s.stampNow c with
  | none => s
  | some sync =>
    (if sync then [.P, .L, .S, .X] else [.X]).foldl (fun s st => outcomeState (s.issueTurn c st) s) s

end Sys2Proof.Machine
end

