-- ==== Sys2Proof/Machine/Turns.lean ====
section
/-!
DEFINITION. The turns of the machine: which comes next, what each does, and how `withFetchWord` places an
instruction where the next step fetches it.
-/

namespace Sys2Proof.Machine

/-- The next turn: the first of the agenda, else the free one (log entry 3). -/
def State.nextTurn (s : State) : Turn × State :=
  match s.agenda with
  | t :: rest => (t, { s with agenda := rest })
  | [] => (Config.freeTurn s.fresh, { s with fresh := s.fresh + 1 })

/-- What the tick that ends still does on a core: a stamped MMA issues in its tick (R253), and a crew whose every
stream is blocked traps (R89). -/
def State.endTick (s : State) (c : Nat) : State := (s.stampTurn c).checkDeadlock c

/-- What a new tick does on a core: what is due lands, and the same-tick hold stores and the records of visible
pushes are dropped (R42, R49, R155). -/
def State.beginTick (s : State) (c : Nat) : State :=
  let s := if (s.core c).holdTick.isEmpty then s else s.modCore c (fun k => { k with holdTick := [] })
  let s := s.landDue c (fun _ => true)
  let now := s.tickOf c
  let k := s.core c
  let pushes := k.pushes.filter (fun p => !k.pushVisible now p)
  if pushes.length = k.pushes.length then s else s.setCore c { k with pushes := pushes }

/-- One edge of an island's clock: TICK rises.  The clock stretcher lengthens every period of an island whose layers
no ballast balances (R17, R335, R336). -/
def State.countTick (s : State) (i : Nat) : State :=
  let v := s.island i
  let busy := (islandCores i).any (fun c => v.tick < (s.core c).arrayFree)
  { s with fresh := s.fresh + 1 }.setIsland i
    { v with tick := v.tick + 1, acted := false, emeas := (v.emeas + Config.measuredEnergy s.fresh) % 2 ^ 64,
             wm := if busy then v.wm + 1 else v.wm, stretch := s.unbalanced i }

/-- The happening that ends a frequency stop or a stretched period, or one tick of an island, a window that has run out
ending before anything else of the new tick (R17, R333, R334, R335). -/
def State.edge (s : State) (i : Nat) : State :=
  let v := s.island i
  if v.stop || v.stretch then s.setIsland i { v with stop := false, stretch := false }
  else
    let s := ((((islandCores i).foldl State.endTick s).countTick i).catchTides (i / 6)).closeWindow i
    (islandCores i).foldl State.beginTick (s.receive i)

/-- The clock of an island goes on, unless it is gated (R340). -/
def State.tickIsland (s : State) (i : Nat) : State := if s.gated then s else s.edge i

/-- The ticks of an island end in which something has been charged to it or written to its budget. -/
def State.endActed (s : State) (i : Nat) : Nat → State
  | 0 => s
  | n + 1 => if (s.island i).acted then State.endActed (s.edge i) i n else s

/-- The same of some islands: each tick takes at most three happenings, and each write on its way makes one more. -/
def State.endTicks (s : State) (is : List Nat) : State :=
  is.foldl (fun s i => s.endActed i (4 * ((s.island i).inbox.length + 2))) s

/-- Time that passes up to a boundary of a die first ends the ticks of its islands in which something is charged or
written: of the same tick it would follow the boundary (R326, R347).  A mooring ends such a tick too (log entry 135). -/
def State.beforeBoundary (s t : State) : State :=
  s.endTicks (((List.range dieCount).filter t.tideDue).flatMap dieIslands)

/-- A core and its die drop their TLB entries of a page (R149). -/
def State.evictPage (s : State) (c page : Nat) : State :=
  let s := s.modCore c (fun k => { k with tlb := k.tlb.filter (fun t => t.vbase != page) })
  let die := s.die (dieOf c)
  s.setDie (dieOf c) { die with tlb := die.tlb.filter (fun t => t.vbase != page) }

/-- Put a number into a list without repeats, or take it out. -/
def member (l : List Nat) (n : Nat) (b : Bool) : List Nat :=
  if b then (if l.contains n then l else n :: l) else l.filter (fun x => x != n)

/-- The constructor is an event row of the opcode table. -/
def isEvent (i : Instr) : Bool :=
  match i with
  | .nopTix0 _ => false
  | i => i.parts.isNone

/-- Duwen enables a stopped queue again, which clears RFAULT (R412). -/
def State.enableQueue (s : State) (q : Nat) : State :=
  if (s.queue q).rfault then
    s.setQueue q { s.queue q with enabled := true, rfault := false, examine := true }
  else s

/-- Duwen opens a window into LPDDR 6 (R390). -/
def State.openWindow (s : State) (w base size : Nat) : State :=
  if base + size ≤ lpddrTop then { s with windows := Tbl.set s.windows w { base, size } } else s

/-- What every turn begins with: the lines that the turn before it moved are metered, unless the clocks are gated, and the
governors are brought up to date (R326, R329, R331, R334, R340). -/
def State.catchUp (s : State) : State := (if s.gated then s else s.meterLines).govern

/-- What a turn does.  A turn that names no
event of the table, or an agent that does not exist, does nothing. -/
def State.runTurn (s : State) (t : Turn) : Host.Outcome State Fault Refusal :=
  let s := s.catchUp
  match t with
  | .issue c st => s.issueTurn c st
  | .event i =>
    if isEvent i && i.wf then
      match i with
      | .crewDeadlock c => exec i (s.refreshWaits c)
      | .throttleWarn c => s.warnTurn c i
      | .memUncorr c st => s.uncorrTurn c st i
      | .timeCorrection _ _ => exec i (s.beforeBoundary (outcomeState (exec i s) s))
      | .thermalTrip => exec i (if s.gated then s else s.endTicks (List.range islandCount))
      | i => exec i s
    else .next s
  | .tick i => .next (s.tickIsland i)
  | .time ns => .next ((s.beforeBoundary (s.passTime ns)).passTime ns)
  | .load c => .next (if s.gated then s else s.loadTask c)
  | .restore c => .next (s.restoreOn c)
  | .enableQueue q => .next (s.enableQueue q)
  | .openWindow w b n => .next (s.openWindow w b n)
  | .evictLine d l => .next (s.evictLine d l)
  | .tearDown a => .next (s.tearDown a)
  | .evictPage c p => .next (s.evictPage c p)
  | .evictCode c st l =>
    .next (s.modStream c st (fun t => { t with icache := Tbl.erase t.icache l }))
  | .fetchCode c st l => .next (if s.gated then s else s.fetchAhead c st l)
  | .walk d n => .next (s.stepWalk d n)
  | .prefetch c w => .next (s.prefetchTurn c w)
  | .copyList c id =>
    .next (match (s.core c).copies.find? (fun q => q.id == id) with
      | some cp => s.copyEntry c cp
      | none => s)
  | .copyRead c id first n own => .next (s.copyRun c id first n own)
  | .tileRead c seq i first n => .next (s.tileRead c seq i first n)
  | .chartRead d slot first n => .next (s.chartRun d slot first n)
  | .lineError l b => .next { s with badLines := member s.badLines l b }
  | .holdError c p b => .next (s.modCore c (fun k => { k with badHold := member k.badHold p b }))

/-! ### Placing an instruction (the fixed interface of this model) -/

/-- The stream that an instruction given as a word is run in: P where it may issue it, else the first
stream that may. -/
def placeStream (nbits w : Nat) : Stream :=
  match (decodeTableWord nbits w).bind Instr.parts with
  | none => .P
  | some (o, _, _) =>
    match o.row.streams with
    | [] => .P
    | st :: rest => if (st :: rest).contains .P then .P else st

/-- A TLB entry that maps a page to a page of the same number on die 0, with every permission. -/
def placeEntry (asid page : Nat) : TlbEntry :=
  { asid, vbase := page * 8192, lvl := 0,
    pte := page * 8192 % 0x3000000000 + 2 ^ 56 + 2 ^ 9 + 2 ^ 8 + 0xF, leaf := 0 }

/-- Core 0 with a stream running, its time come and its code pages mapped. -/
def placeCore (k : Core) (st : Stream) (now : Nat) : Core :=
  let t := k.stream st
  let page := t.pc.toNat / 8192
  let asid := rootAsid k.ptroot
  let t' : StreamState :=
    { t with run := true, nextTick := min t.nextTick now, uncorr := [], icache := [], prevFl := none, kept := none }
  { k.setStream st t' with
    tlb := placeEntry asid page :: placeEntry asid (page + 1) :: k.tlb, inh := false, warnDue := false,
    warnHeld := false }

/-- The instruction stored where the next step fetches: core 0 runs it in a stream that may issue it, and
the agenda gives that stream the next turn (log entry 2). -/
def State.place (s : State) (nbits w : Nat) : State :=
  let st := placeStream nbits w
  let pc := (s.stream 0 st).pc.toNat
  let k := placeCore (s.core 0) st (s.tickOf 0)
  let i := s.island 0
  let base := pc % 0x3000000000
  { (if i.stop then s.setIsland 0 { i with stop := false } else s).setCore 0 k with
    mem := s.mem.setBytes base (tableWordBytes nbits w),
    badLines := s.badLines.filter (fun l => l != base / 64 && l != base / 64 + 1),
    thermal := false, moored := false, agenda := [.issue 0 st] }

end Sys2Proof.Machine
end

