-- ==== Sys2Proof/Machine/Step.lean ====
section
/-!
DEFINITION. The step of the machine.
-/

namespace Sys2Proof.Machine

/-- One step: the next turn is taken. -/
def step (s : State) : Host.Outcome State Fault Refusal :=
  let t := s.nextTurn
  t.2.runTurn t.1

/-- The state with an instruction, given as a word of the opcode table, stored where the next step
fetches it. -/
def State.withFetchWord (s : State) (nbits w : Nat) : State := s.place nbits w

end Sys2Proof.Machine
end

