-- ==== Sys2Proof/Safety.lean ====
section
/-!
DEFINITION. The terms in which claims about runs are made: what counts as safe, when the operation of a
bundle may act, what it means that an instruction completes, and what an instruction leaves alone.
-/

namespace Sys2Proof

/-! ### Rational and real values -/

/-- The magnitude of a code without its sign, of codes above the largest finite one as if exponents had no bound
(R113). -/
def Format.magnitude (f : Format) (c : Nat) : ℚ :=
  if c < 2 ^ f.mw then (c : ℚ) * 2 ^ (f.emin - (f.mw : ℤ))
  else ((2 ^ f.mw + c % 2 ^ f.mw : Nat) : ℚ) * 2 ^ (((c / 2 ^ f.mw : Nat) : ℤ) - (f.bias : ℤ) - (f.mw : ℤ))

/-- The value of a finite decoded code (R113). -/
def FVal.rat : FVal → ℚ
  | .fin neg m e => (if neg then -1 else 1) * ((m : ℚ) * 2 ^ e)
  | _ => 0

/-- A code with flags is the rounding of a value of a sign and a magnitude above 0: of the two neighbouring codes the
mode chooses one, and one past the largest finite code overflows (R120, R121, Table 5.5). -/
def Format.Rounds (f : Format) (mode : Rounding) (sat neg : Bool) (x : ℝ) (r : Rounded) : Prop :=
  ∃ c n : Nat,
    let lo : ℝ := (f.magnitude c : ℝ)
    let hi : ℝ := (f.magnitude (c + 1) : ℝ)
    let up : Prop := match mode with
      | .rne => lo + hi < 2 * x ∨ (2 * x = lo + hi ∧ c % 2 = 1)
      | .rtz => False
      | .rdn => neg = true
      | .rup => neg = false
    let inward : Prop := sat = true ∨ f.spec = .none ∨ mode = .rtz ∨ (mode = .rdn ∧ neg = false) ∨
      (mode = .rup ∧ neg = true)
    let sign : Nat := if neg then 2 ^ (f.ew + f.mw) else 0
    lo ≤ x ∧ x < hi ∧ (x = lo ∨ ¬ up → n = c) ∧ (x ≠ lo ∧ up → n = c + 1) ∧
    (f.maxCode < n → r.flags = flagOF ||| flagNX ∧ (inward → r.code = sign + f.maxCode) ∧
      (¬ inward → r.code = sign + f.maxCode + 1)) ∧
    (n ≤ f.maxCode → r.code = sign + n ∧ (x = lo → r.flags = 0) ∧
      (x ≠ lo → r.flags = flagNX ||| (if c < 2 ^ f.mw then flagUF else 0)))

end Sys2Proof

namespace Sys2Proof.Machine

/-! ### Safe states and steps -/

/-- The canonical form of the module's memory, which every operation keeps. -/
def State.MemoryWf (s : State) : Prop := s.mem.wf = true

/-- A step that neither faults nor is refused. -/
def State.Steps (s : State) : Prop := ∃ t, step s = .next t

/-! ### Completion -/

/-- The state in which the operation of the current bundle acts: its decode checks pass (R58), its POP's
count is taken (R42), its predicate enables it (R38), its operands are readable and its destination is
writable (R50, R51, R194), its rendezvous is past (R86), its PUSH has room (R42) and its side-op meets no
revoked lease (R138).  None where any of these fails. -/
def Ctx.ready (x : Ctx) (s : State) : Option State :=
  match x.decodeTrap s, x.takePop s with
  | none, some u =>
    if x.predReady u && x.runs u && x.operandsReady u && x.loopsReady u && !x.mustSync u &&
        !x.pushFull u && !x.leaseTrap u then
      some (x.tokenReads u)
    else none
  | _, _ => none

/-- The bundle has issued with its operation, and its stream may issue its next one from the next tick at
the earliest (R42). -/
structure Ctx.Issued (x : Ctx) (t : State) : Prop where
  noted : t.note = .issued
  later : x.now < (t.stream x.c x.st).nextTick

/-- A result of the issuing stream is in flight with these effects, to land after a latency: exactly so many
ticks on an FL = 1 page, and on an FL = 0 page not before an earlier result of the same destination
(R49, R51). -/
def Ctx.Lands (x : Ctx) (u t : State) (lat : Nat) (es : List Effect) : Prop :=
  ∃ l ∈ (t.core x.c).flight, l.st = x.st ∧ l.effects = es ∧
    l.tick = (u.core x.c).landingTick x.fl x.now lat es

/-- The side-op and the PUSH of an issued bundle, after which its stream's sequencer goes on (R35, R42). -/
def Ctx.pushed (x : Ctx) (v : State) : State := (x.sideOp v).pushBundle x.c x.st x.b

/-- The answer of an operation that leaves `v` and goes on with `flow`: its bundle's side-op, its PUSH and its
stream's sequencer follow, and the bundle has issued. -/
def Ctx.after (x : Ctx) (v : State) (flow : Flow) : State := (x.finish v flow true).noted .issued

/-- Wherever the operation may act and `g` holds, the instruction answers what follows the state `w`. -/
def Acts (i : Bundle → Fields → Instr) (o : Op) (g : Ctx → State → Prop) (w : Ctx → State → State) : Prop :=
  ∀ (b : Bundle) (f : Fields) (s u : State), (Ctx.of o b f s).ready s = some u → g (Ctx.of o b f s) u →
    exec (i b f) s = .next ((Ctx.of o b f s).after (w (Ctx.of o b f s) u) .seq)

/-- As `Acts`, for a transfer of control: the operation leaves the state `w` and goes on with `flow`. -/
def Steers (i : Bundle → Fields → Instr) (o : Op) (g : Ctx → State → Prop) (w : Ctx → State → State)
    (flow : Ctx → State → Flow) : Prop :=
  ∀ (b : Bundle) (f : Fields) (s u : State), (Ctx.of o b f s).ready s = some u → g (Ctx.of o b f s) u →
    exec (i b f) s = .next ((Ctx.of o b f s).after (w (Ctx.of o b f s) u) (flow (Ctx.of o b f s) u))

/-- Wherever the operation may act and `R` relates the state in which it acts to `v`, the instruction answers what
follows `v`. -/
def Answers (i : Bundle → Fields → Instr) (o : Op) (R : Ctx → State → State → Prop) : Prop :=
  ∀ (b : Bundle) (f : Fields) (s u v : State), (Ctx.of o b f s).ready s = some u → R (Ctx.of o b f s) u v →
    exec (i b f) s = .next ((Ctx.of o b f s).after v .seq)

/-- As `Answers`, for an operation that completes its bundle within itself: the instruction answers `v` with a
note. -/
def Ends (i : Bundle → Fields → Instr) (o : Op) (n : Note) (R : Ctx → State → State → Prop) : Prop :=
  ∀ (b : Bundle) (f : Fields) (s u v : State), (Ctx.of o b f s).ready s = some u → R (Ctx.of o b f s) u v →
    exec (i b f) s = .next (v.noted n)

/-- As `Answers`, for an operation that waits on with the state `v`. -/
def Holds (i : Bundle → Fields → Instr) (o : Op) (R : Ctx → State → State → Prop) : Prop :=
  ∀ (b : Bundle) (f : Fields) (s u v : State), (Ctx.of o b f s).ready s = some u → R (Ctx.of o b f s) u v →
    exec (i b f) s = .next ((Ctx.of o b f s).waits v .other)

/-- Wherever the operation may act, its result is on its way to its destination register with a latency. -/
def Computes (i : Bundle → Fields → Instr) (o : Op) (lat : Nat) (v : Ctx → State → Word) : Prop :=
  Acts i o (fun _ _ => True) (fun x u => x.result u lat [.reg x.st x.f.dst (v x u)])

/-- As `Computes`, where the result is told by what holds of it. -/
def ComputesSome (i : Bundle → Fields → Instr) (o : Op) (lat : Nat) (P : Ctx → State → Word → Prop) : Prop :=
  ∀ (b : Bundle) (f : Fields) (s u : State), (Ctx.of o b f s).ready s = some u →
    ∃ v, exec (i b f) s =
        .next ((Ctx.of o b f s).after ((Ctx.of o b f s).result u lat [.reg s.cur.st f.dst v]) .seq) ∧
      P (Ctx.of o b f s) u v

/-- Wherever the operation may act and `g` holds, the bundle does not issue and its stream takes a trap. -/
def Traps (i : Bundle → Fields → Instr) (o : Op) (g : Ctx → State → Prop) (t : Ctx → State → TrapInfo) : Prop :=
  ∀ (b : Bundle) (f : Fields) (s u : State), (Ctx.of o b f s).ready s = some u → g (Ctx.of o b f s) u →
    exec (i b f) s = .next ((Ctx.of o b f s).traps u (t (Ctx.of o b f s) u))

/-- Wherever the operation may act and `g` holds, the bundle does not issue and its stream waits. -/
def Waits (i : Bundle → Fields → Instr) (o : Op) (g : Ctx → State → Prop) (w : Ctx → State → Wait) : Prop :=
  ∀ (b : Bundle) (f : Fields) (s u : State), (Ctx.of o b f s).ready s = some u → g (Ctx.of o b f s) u →
    exec (i b f) s = .next ((Ctx.of o b f s).waits u (w (Ctx.of o b f s) u))

/-- The result of the type: saturated where MOD[2] asks for it, else wrapped (R95, R98, R99). -/
def Ctx.wrapOrSat (x : Ctx) (v : Int) : Word :=
  if x.f.mod.getLsbD 2 then x.f.typ.wrap (min (max v x.f.typ.lo) x.f.typ.hi) else x.f.typ.wrap v

/-- The low w bits of a source. -/
def Ctx.low (x : Ctx) (s : State) (o : Operand) : BitVec x.f.typ.width :=
  BitVec.ofNat x.f.typ.width (x.raw s x.f.typ o).toNat

/-- Where a store has a DC byte, its stream's loads are performed, and so are its stream's earlier stores of that byte
under an ordered kind (R164, R165, R177). -/
def Core.DcFree (k : Core) (st : Stream) (ms : List Mapped) : Prop :=
  ∀ m ∈ ms, m.kind = .dc → (∀ l ∈ k.loads, l.st ≠ st) ∧
    ∀ y ∈ k.stores, y.st = st → ∀ q ∈ y.parts, q.2.2 ≠ .un → q.1 ≠ m.pa

/-! ### Operations on queues -/

/-- The lanes of a vector result: each enabled lane holds the value given and adds its flags, and each other
lane holds 0 and adds none (R218, R223). -/
def Ctx.ByLane (x : Ctx) (u : State) (w : Nat) (g : Nat → Nat × Flags) (e : Entry) (fl : Flags) : Prop :=
  (∀ i < 1024 / w, laneOf e w i = if x.laneOn u w i then (g i).1 % 2 ^ w else 0) ∧
  ∀ n, fl.getLsbD n = true ↔ ∃ i < 1024 / w, x.laneOn u w i = true ∧ (g i).2.getLsbD n = true

/-- The vector unit is taken for some ticks and counts the instruction (R221, R332). -/
def Ctx.unitTaken (x : Ctx) (busy : Nat) (v : State) : State :=
  (v.modCore x.c (fun k => { k with vecFree := x.now + busy })).countVector (islandOf x.c)

/-- The vector unit is free. -/
def Ctx.unitFree (x : Ctx) (u : State) : Prop := (u.core x.c).vecFree ≤ x.now

/-- Wherever the operation may act, `g` holds and all its queue operands can be taken together, the
instruction answers with `w` of the operands' entries. -/
def TakesQueues (i : Bundle → Fields → Instr) (o : Op) (g : Ctx → State → Prop)
    (P : Ctx → State → State → (Operand → Entry) → State → Prop) : Prop :=
  ∀ (b : Bundle) (f : Fields) (s u : State), (Ctx.of o b f s).ready s = some u → g (Ctx.of o b f s) u →
    ∀ k es, (Ctx.of o b f s).takeQueues u (sourcePositions o f) (pushPosition o f) = .ok k es →
      ∃ v, exec (i b f) s = .next ((Ctx.of o b f s).after v .seq) ∧
        P (Ctx.of o b f s) u (u.setCore s.cur.core k) (takenEntry es) v

/-- A vector operation lane by lane into its destination queue: where the unit is free and the queue
operands can be taken together, the entry made is on its way with a latency, with the flags if it sets
any. -/
def MapsLanes (i : Bundle → Fields → Instr) (o : Op) (lat busy : Typ → Nat) (flagged : Typ → Bool)
    (g : Ctx → State → (Operand → Entry) → Nat → Nat × Flags) : Prop :=
  TakesQueues i o Ctx.unitFree (fun x u v taken t => ∀ q, pushPosition o x.f = some q →
    ∃ e fl, x.ByLane u x.f.typ.width (g x u taken) e fl ∧
      t = x.unitTaken (busy x.f.typ)
        (x.pushEntry v (lat x.f.typ) q e (if flagged x.f.typ then [.flags x.st fl] else [])))

/-! ### What an issued bundle leaves alone -/

/-- A core without what the issue of any bundle may change: its streams' sequencers, results in flight,
token counts, holds and spill slots, the stores that a PUSH commits, and the errors known of pending stores (R35, R42,
R69, R142, R177). -/
def Core.apart (k : Core) : Core :=
  { k with st := Four.all StreamState.reset, flight := [], seq := 0, hold := [], holdTick := [], berths := [],
           claimant := [], overrun := [], parked := [], pb1 := [], fifo := [], pushes := [], dc := [], dcFrom := [],
           dcStores := [], waitLine := none, stores := k.stores.map (fun x => { x with err := none }) }

/-- The module without its cores, memory, caches, host queues, the fault log, the lines still to be metered, the
counter of free values and the model's own notes. -/
def State.apart (s : State) : State :=
  { s with cores := [], mem := [], dies := [], queues := [], faultLog := [], lines := [], fresh := 0, note := .none,
           cur := { core := 0, st := .P, fl := false, bh := false } }

/-- A stream without the errors that it is still to be told of. -/
def StreamState.told (t : StreamState) : StreamState := { t with uncorr := [] }

/-- The bundle commits no DC store: it has no PUSH, or its core's commit buffer is empty (R85, R177). -/
def Ctx.CommitsNone (x : Ctx) (s : State) : Prop := x.b.push = .none ∨ (s.core x.c).dc = []

/-- The registers of a stream: the scalar, predicate, loop and mask files, ln, FSTAT and the templates
(Tables 3.1, 4.1 and 5.6). -/
structure StreamRegs where
  s : Tbl Word
  p : Tbl Word
  lc : Tbl Word
  ml : Tbl Word
  ln : Word
  fstat : BitVec 5
  templates : Tbl WideBits
  deriving DecidableEq, Repr

def StreamState.registers (t : StreamState) : StreamRegs :=
  { s := t.s, p := t.p, lc := t.lc, ml := t.ml, ln := t.ln, fstat := t.fstat, templates := t.templates }

/-- The bytes of device memory that the token push and the side-op of a bundle may store: the DC stores that
a PUSH commits, with the dirty bytes of their lines in the die's RDC (R85, R177, R178), and the berth that a spill
moves out to its parked context's area (R383). -/
def Ctx.SideStores (x : Ctx) (s : State) (a : Nat) : Prop :=
  (x.b.push ≠ .none ∧ ∃ e ∈ (s.core x.c).dc, e.1 = a ∨ ∃ l ∈ (s.die (dieOf x.c)).rdc, l.un = false ∧
    l.line = e.1 / 64 ∧ ∃ o ∈ l.dirty, a = l.line * 64 + o) ∨
  ((∃ r n, x.f.side = .spill r n) ∧ (s.core x.c).lease = false ∧
    ∃ v ∈ (s.core x.c).parked, (v.area + areaBerthMap ≤ a ∧ a < v.area + areaBerthMap + 16) ∨
      ∃ e ∈ v.map, v.area + areaBerths + e.1 * 65536 ≤ a ∧ a < v.area + areaBerths + (e.1 + 1) * 65536)

/-- Effects that may follow the operation of a bundle: its fill, the counts of the loops that end at it and the
link of a call whose second delay slot it is (R35, R69, R74). -/
def Ctx.Follows (x : Ctx) (s : State) (es : List Effect) : Prop :=
  (∃ r n v, x.f.side = .fill r n ∧ es = [.reg x.st (.s r) v]) ∨
  (es ≠ [] ∧ ∀ e ∈ es, ∃ k v, e = .reg x.st (.lc k) v) ∨
  (∃ o v, (s.stream x.c x.st).link = some o ∧ es = [.reg x.st o v])

/-- What the issue of a bundle leaves alone, but for the effects `own` that its operation puts in flight: the
other parts of the module and of every core, every other stream, the registers of its own stream until a
result lands, holds and psum buffers but for a spill, and all of memory but for `SideStores`.  Errors that a commit
meets, the lines that it moves and what it does in caches and host queues are told apart, and so are the caches of a
stream that has a copy's token still to read, at which it acquires (R194). -/
structure Ctx.Frame (x : Ctx) (s t : State) (own : List Effect → Prop) : Prop where
  module : t.apart = s.apart
  cores : ∀ c, (t.core c).apart = (s.core c).apart
  streams : ∀ c st, c ≠ x.c ∨ st ≠ x.st → (t.stream c st).told = (s.stream c st).told
  commits : x.CommitsNone s → t.fresh = s.fresh ∧ t.faultLog = s.faultLog ∧ t.lines = s.lines ∧
    t.queues = s.queues ∧ (∀ c, (t.core c).stores = (s.core c).stores) ∧
    ∀ c st, (t.stream c st).uncorr = (s.stream c st).uncorr
  caches : x.CommitsNone s → (s.stream x.c x.st).tokenAcq = [] → t.dies = s.dies
  registers : (t.stream x.c x.st).registers = (s.stream x.c x.st).registers
  elsewhere : ∀ c, c ≠ x.c → (t.core c).flight = (s.core c).flight ∧ (t.core c).fifo = (s.core c).fifo ∧
    (t.core c).hold = (s.core c).hold ∧ (t.core c).berths = (s.core c).berths
  landings : ∀ l ∈ (t.core x.c).flight, l ∈ (s.core x.c).flight ∨
    l.st = x.st ∧ (own l.effects ∨ x.Follows s l.effects)
  holds : (∀ r n, x.f.side ≠ .spill r n) → ∀ c, (t.core c).hold = (s.core c).hold ∧
    (t.core c).berths = (s.core c).berths ∧ (t.core c).pb1 = (s.core c).pb1 ∧
    (t.core c).claimant = (s.core c).claimant ∧ (t.core c).overrun = (s.core c).overrun
  memory : ∀ a, ¬ x.SideStores s a → t.mem.get a = s.mem.get a

end Sys2Proof.Machine
end

