-- ==== Sys2Proof/Certificates/Slice0/Obligations.lean ====
section
/-!
DEFINITION. The statements for the provers, family by family (INVENTORY.md, heading Instructions; NOTES.md).
-/

open Sys2Proof Sys2Proof.Machine

/-! ### Scalar, address and predicate instructions -/

/-- R98: a and b are val(SA) and val(SB); sums and differences are exact and then saturated or wrapped; MIN and
MINN give the lesser, MAX and MAXN the greater. -/
def Obligations.AddSubMinMax : Prop :=
  Computes .add .add 1 (fun x u => x.wrapOrSat (x.val u x.f.sa + x.val u x.f.sb)) ∧
  Computes .sub .sub 1 (fun x u => x.wrapOrSat (x.val u x.f.sa - x.val u x.f.sb)) ∧
  (∀ p ∈ [(Instr.min, Op.min), (.minn, .minn)], Computes p.1 p.2 1 (fun x u =>
    x.wrapOrSat (if x.val u x.f.sa ≤ x.val u x.f.sb then x.val u x.f.sa else x.val u x.f.sb))) ∧
  (∀ p ∈ [(Instr.max, Op.max), (.maxn, .maxn)], Computes p.1 p.2 1 (fun x u =>
    x.wrapOrSat (if x.val u x.f.sb ≤ x.val u x.f.sa then x.val u x.f.sa else x.val u x.f.sb)))

/-- R99: the exact product saturated or wrapped; MULH and MULHN give its floor division by 2^w. -/
def Obligations.Products : Prop :=
  Computes .mul .mul 3 (fun x u => x.wrapOrSat (x.val u x.f.sa * x.val u x.f.sb)) ∧
  (∀ p ∈ [(Instr.mulh, Op.mulh), (.mulhn, .mulhn)], Computes p.1 p.2 3 (fun x u =>
    x.f.typ.wrap ((x.val u x.f.sa * x.val u x.f.sb) / (2 : Int) ^ x.f.typ.width)))

/-- R100 and Table 4.2: division truncates towards zero; a zero divisor gives all ones and the dividend; no
value traps.  The result occupies the divider of its stream until it lands.
R97: a divide whose stream has a divide still to land waits, as for a published latency. -/
def Obligations.Divisions : Prop :=
  (let free : Ctx → State → Prop := fun x u => ∀ l ∈ (u.core x.c).flight, ¬ (l.st = x.st ∧ l.unit = 3)
   let lat : Ctx → Nat := fun x => if x.f.typ.width ≤ 16 then 10 else if x.f.typ.width = 32 then 14 else 22
   let quo : Ctx → State → Int := fun x u =>
     let a := x.val u x.f.sa; let b := x.val u x.f.sb
     if b = 0 then (if x.f.typ.signed then -1 else x.f.typ.hi)
     else if x.f.typ.signed ∧ a = x.f.typ.lo ∧ b = -1 then x.f.typ.lo else a.tdiv b
   let rem : Ctx → State → Int := fun x u =>
     let a := x.val u x.f.sa; let b := x.val u x.f.sb
     if b = 0 then a
     else if x.f.typ.signed ∧ a = x.f.typ.lo ∧ b = -1 then 0 else a.tmod b
   let launch : (Ctx → State → Int) → Ctx → State → State := fun v x u =>
     u.launchResult x.c x.st x.fl (lat x) false 3 false [.reg x.st x.f.dst (x.f.typ.wrap (v x u))]
   Acts .div .div free (launch quo) ∧ Acts .divn .divn free (launch quo) ∧
   Acts .rem .rem free (launch rem) ∧ Acts .remn .remn free (launch rem)) ∧
  ∀ p ∈ [(Instr.div, Op.div), (.divn, .divn), (.rem, .rem), (.remn, .remn)],
    Waits p.1 p.2 (fun x u => ∃ l ∈ (u.core x.c).flight, l.st = x.st ∧ l.unit = 3) (fun _ _ => .latency)

/-- R101: all 64 bits of both sources, an immediate as sext(IMM, 64). -/
def Obligations.LogicWords : Prop :=
  let src : Ctx → State → Operand → Word := fun x u o =>
    match o with
    | .imm => x.f.imm.signExtend 64
    | o => x.reg u o
  Computes .and .and 1 (fun x u => src x u x.f.sa &&& src x u x.f.sb) ∧
  Computes .or .or 1 (fun x u => src x u x.f.sa ||| src x u x.f.sb) ∧
  Computes .xor .xor 1 (fun x u => src x u x.f.sa ^^^ src x u x.f.sb) ∧
  Computes .andn .andn 1 (fun x u => src x u x.f.sa &&& ~~~src x u x.f.sb)

/-- R102: the low w bits shifted or rotated within w bits by the whole of SB, extended by the type. -/
def Obligations.Shifts : Prop :=
  let count : Ctx → State → Nat := fun x u => (x.raw u x.f.typ x.f.sb).toNat
  Computes .shl .shl 1 (fun x u => x.f.typ.wrap (((x.low u x.f.sa) <<< count x u).toNat : Int)) ∧
  Computes .shr .shr 1 (fun x u => x.f.typ.wrap (((x.low u x.f.sa) >>> count x u).toNat : Int)) ∧
  Computes .sra .sra 1 (fun x u =>
    x.f.typ.wrap (((x.low u x.f.sa).sshiftRight (count x u)).toNat : Int)) ∧
  Computes .rot .rot 1 (fun x u =>
    x.f.typ.wrap (((x.low u x.f.sa).rotateLeft (count x u)).toNat : Int))

/-- R103: the number of leading zeros, or of one bits, of the low w bits; w where all are zero. -/
def Obligations.BitCounts : Prop :=
  ComputesSome .clz .clz 1 (fun x u v => ∃ n ≤ x.f.typ.width, v = BitVec.ofNat 64 n ∧
    (∀ i < x.f.typ.width, x.f.typ.width - n ≤ i → (x.low u x.f.sa).getLsbD i = false) ∧
    (n < x.f.typ.width → (x.low u x.f.sa).getLsbD (x.f.typ.width - 1 - n) = true)) ∧
  Computes .popc .popc 1 (fun x u =>
    BitVec.ofNat 64 ((List.range x.f.typ.width).countP (fun i => (x.low u x.f.sa).getLsbD i)))

/-- R104 to R106: SEL chooses by bit 0 of p[SC]; the three forms of LDI; ADDR adds a base, a scaled index and a
displacement modulo 2^64.
R107, bit by bit: BFX moves a field down and fills with its top bit or with zeros; BFI replaces a field. -/
def Obligations.SelectLoadAddressFields : Prop :=
  (Computes .sel .sel 1 (fun x u =>
     if (x.reg u x.f.sc).getLsbD 0 then x.raw u .untyped x.f.sa else x.raw u .untyped x.f.sb) ∧
   Computes .ldi .ldi 1 (fun x u =>
     if x.f.mod.getLsbD 1 then ((x.reg u x.f.dst).truncate 32).zeroExtend 64 ||| (x.f.imm.zeroExtend 64 <<< 32)
     else if x.f.mod.getLsbD 0 then x.f.imm.zeroExtend 64 else x.f.imm.signExtend 64) ∧
   Computes .addr .addr 1 (fun x u =>
     let index : Word := match x.f.typ with
       | .i32 => ((x.reg u x.f.sb).truncate 32).signExtend 64
       | .n32 => ((x.reg u x.f.sb).truncate 32).zeroExtend 64
       | _ => x.reg u x.f.sb
     BitVec.ofNat 64 ((x.reg u x.f.sa).toNat + index.toNat * 2 ^ (x.f.mod.toNat % 8) +
       (x.f.imm.signExtend 64).toNat))) ∧
  let pos : Ctx → Nat := fun x => x.f.imm.toNat % 64
  let len : Ctx → Nat := fun x => x.f.imm.toNat / 256 % 64 + 1
  ComputesSome .bfx .bfx 1 (fun x u v => ∀ i < 64, v.getLsbD i =
    if i < len x then (x.reg u x.f.sa).getLsbD (pos x + i)
    else x.f.typ == .i64 && (x.reg u x.f.sa).getLsbD (pos x + len x - 1)) ∧
  ComputesSome .bfi .bfi 1 (fun x u v => ∀ i < 64, v.getLsbD i =
    if pos x ≤ i ∧ i < pos x + len x then (x.reg u x.f.sb).getLsbD (i - pos x)
    else (x.reg u x.f.sa).getLsbD i)

/-- R108 to R111: CMP fills a predicate with its condition, combined with the old value; PLOG looks up each
pair of bits in IMM; PMOV moves 64 bits. -/
def Obligations.PredicateResults : Prop :=
  Computes .cmp .cmp 1 (fun x u =>
    let a := x.val u x.f.sa; let b := x.val u x.f.sb
    let held : Bool := match x.f.mod.toNat % 8 with
      | 0 => decide (a = b) | 1 => decide (a ≠ b) | 2 => decide (a < b) | 3 => decide (a ≥ b)
      | 4 => decide (a ≤ b) | 5 => decide (a > b)
      | 6 => decide (x.low u x.f.sa &&& x.low u x.f.sb ≠ 0)
      | _ => decide (x.low u x.f.sa &&& x.low u x.f.sb = 0)
    let t : Word := bif held then BitVec.allOnes 64 else 0
    if x.f.mod.toNat / 8 = 0 then t
    else if x.f.mod.toNat / 8 = 1 then x.reg u x.f.dst &&& t else x.reg u x.f.dst ||| t) ∧
  ComputesSome .plog .plog 1 (fun x u v => ∀ i < 64, v.getLsbD i =
    x.f.imm.getLsbD (2 * ((x.reg u x.f.sa).getLsbD i).toNat + ((x.reg u x.f.sb).getLsbD i).toNat)) ∧
  Computes .pmov .pmov 1 (fun x u => x.raw u .untyped x.f.sa)

/-- R128, R132 (scalar form), R133, R134 and Tables 5.1, 5.7 and 5.8: conversions raise their flags with their
result; FFLAG reads FSTAT and clears or sets bits of it; FCLS writes the class.
R129 to R132: queue conversions element by element, four ticks, with the flags of the enabled elements. -/
def Obligations.Conversions : Prop :=
  (Acts .cvt .cvt (fun _ _ => True) (fun x u =>
     let r := convert x.f.srcTyp x.f.typ x.f.mod (x.raw u x.f.srcTyp x.f.sa).toNat
     x.result u 2 [.reg x.st x.f.dst r.1, .flags x.st r.2]) ∧
   Acts .qtag .qtag (fun x _ => x.f.dst.isQueue = false) (fun x u =>
     let r := scaleCode (Rounding.ofMod x.f.mod) (Typ.f32.format.decode ((x.reg u x.f.sa).toNat % 2 ^ 32))
     x.result u 2 [.reg x.st x.f.dst (BitVec.ofNat 64 (x.f.imm.toNat % 4 * 1024 + r.1)), .flags x.st r.2]) ∧
   Acts .fflag .fflag
     (fun x u => ∀ l ∈ (u.core x.c).flight, ∀ e ∈ l.effects, ∀ fl, e ≠ .flags x.st fl)
     (fun x u =>
       let old := (u.stream x.c x.st).fstat
       let m : Flags := x.f.imm.truncate 5
       let kept := if x.f.mod.toNat % 4 = 1 then old &&& ~~~m else if x.f.mod.toNat % 4 = 2 then old ||| m else old
       x.result (u.modStream x.c x.st (fun t => { t with fstat := kept })) 1
         [.reg x.st x.f.dst (old.zeroExtend 64)]) ∧
   Waits .fflag .fflag (fun x u => ∃ l ∈ (u.core x.c).flight, ∃ e ∈ l.effects, ∃ fl, e = .flags x.st fl)
     (fun _ _ => .latency) ∧
   Computes .fcls .fcls 1 (fun x u =>
     let c := floatClass x.f.typ.format ((x.reg u x.f.sa).toNat % 2 ^ x.f.typ.width)
     if x.f.dst.isPred then (if x.f.imm.getLsbD c then BitVec.allOnes 64 else 0) else BitVec.ofNat 64 (2 ^ c))) ∧
  let makes : (Bundle → Fields → Instr) → Op → (Ctx → Nat × Nat) →
      (Ctx → State → (Operand → Entry) → Nat → Nat × Flags) → Prop := fun i o shape g =>
    TakesQueues i o (fun _ _ => True) (fun x u v taken t => ∀ q, pushPosition o x.f = some q →
      ∃ e fl, t = x.pushEntry v 4 q e [.flags x.st fl] ∧
        (∀ j < (shape x).2, laneOf e (shape x).1 j =
          if x.laneOn u (if o = .cvtQ then max x.f.srcTyp.laneWidth x.f.typ.laneWidth else 32) j then
            (g x u taken j).1 % 2 ^ (shape x).1 else 0) ∧
        (∀ j, (shape x).2 ≤ j → j < 1024 / (shape x).1 → laneOf e (shape x).1 j = 0) ∧
        ∀ n, fl.getLsbD n = true ↔ ∃ j < (shape x).2,
          x.laneOn u (if o = .cvtQ then max x.f.srcTyp.laneWidth x.f.typ.laneWidth else 32) j = true ∧
            (g x u taken j).2.getLsbD n = true)
  let blocks : Typ → Nat := fun t => if t = .f32 then 1 else 2
  let tag : Ctx → State → Nat → Nat := fun x u j => (x.rawZ u x.f.sb).toNat / 2 ^ (16 * (j / 32) + 10) % 4
  makes .cvtQ .cvtQ (fun x => (x.f.typ.laneWidth, 1024 / max x.f.srcTyp.laneWidth x.f.typ.laneWidth))
    (fun x _ taken j =>
      let n := 1024 / max x.f.srcTyp.laneWidth x.f.typ.laneWidth
      let r := convert x.f.srcTyp x.f.typ (x.f.mod &&& 7)
        (laneOf (taken x.f.sa) x.f.srcTyp.laneWidth (x.f.mod.toNat / 8 * n + j))
      (r.1.toNat, r.2)) ∧
  makes .pack4 .pack4 (fun x => (4, 32 * blocks x.f.typ)) (fun x u taken j =>
    packQ4 (tag x u j) x.f.mod (x.f.typ.format.decode (laneOf (taken x.f.sa) x.f.typ.width j))) ∧
  makes .pack8 .pack8 (fun x => (8, 32 * blocks x.f.typ)) (fun x u taken j =>
    packF8 (tag x u j) x.f.mod (x.f.typ.format.decode (laneOf (taken x.f.sa) x.f.typ.width j))) ∧
  makes .unpk4 .unpk4 (fun x => (x.f.typ.width, 32 * blocks x.f.typ)) (fun x u taken j =>
    let code := laneOf (taken x.f.sa) 4 (x.f.mod.toNat % 8 * (32 * blocks x.f.typ) + j)
    let v := q4Int (tag x u j) code
    let r := x.f.typ.format.ofVal .rne false (.fin (v < 0) v.natAbs (-(q4Shift (tag x u j) : Int)))
    (r.code, r.flags)) ∧
  makes .unpk8 .unpk8 (fun x => (x.f.typ.width, 32 * blocks x.f.typ)) (fun x u taken j =>
    let code := laneOf (taken x.f.sa) 8 (x.f.mod.toNat % 8 * (32 * blocks x.f.typ) + j)
    let r := x.f.typ.format.ofVal .rne false (f8Val (tag x u j) code)
    (r.code, r.flags ||| (if tag x u j = 3 then flagNV else 0))) ∧
  makes .qtag .qtag (fun _ => (16, 32)) (fun x _ taken j =>
    let r := scaleCode (Rounding.ofMod x.f.mod) (Typ.f32.format.decode (laneOf (taken x.f.sa) 32 j % 2 ^ 32))
    (x.f.imm.toNat % 4 * 1024 + r.1, r.2))

/-! ### Vector instructions and queue conversions -/

/-- R222 to R224: each enabled lane of a float type is the exact result rounded once under MOD, with the flags
of the rounding; of an integer type the exact result wrapped or saturated, without flags (Table 9.2). -/
def Obligations.VectorArithmetic : Prop :=
  let lanes : (Rounding → FVal → FVal → FVal → Exact) → (Int → Int → Int → Int) →
      Ctx → State → (Operand → Entry) → Nat → Nat × Flags := fun onFloat onInt x u taken i =>
    let t := x.f.typ
    let a := x.lane u taken x.f.sa i; let b := x.lane u taken x.f.sb i; let c := x.lane u taken x.f.sc i
    if t.isFloat then
      let r := (onFloat (Rounding.ofMod x.f.mod) (t.format.decode a) (t.format.decode b)
        (t.format.decode c)).round t.format (Rounding.ofMod x.f.mod) (x.f.mod.getLsbD 2)
      (r.code, r.flags)
    else ((x.wrapOrSat (onInt (t.value a) (t.value b) (t.value c))).toNat, 0)
  let lat : Nat → Typ → Nat := fun n t => if t.isFloat then 4 else n
  MapsLanes .vadd .vadd (lat 2) (fun _ => 1) Typ.isFloat
    (lanes (fun m a b _ => addExact m a b) (fun a b _ => a + b)) ∧
  MapsLanes .vsub .vsub (lat 2) (fun _ => 1) Typ.isFloat
    (lanes (fun m a b _ => addExact m a b.neg) (fun a b _ => a - b)) ∧
  MapsLanes .vmul .vmul (lat 3) (fun _ => 1) Typ.isFloat
    (lanes (fun _ a b _ => mulExact a b) (fun a b _ => a * b)) ∧
  MapsLanes .vfma .vfma (lat 3) (fun _ => 1) Typ.isFloat
    (lanes (fun m a b c => fmaExact m a b c) (fun a b c => a * b + c))

/-- R225, R226: VMIN and VMAX return the lesser or the greater lane unchanged, −0 below +0, and the canonical NaN
where a lane is one; VABS and VNEG act on the sign bit of a float and on the value of an integer. -/
def Obligations.VectorMinMaxSign : Prop :=
  let pick : Bool → Ctx → State → (Operand → Entry) → Nat → Nat × Flags := fun greater x u taken i =>
    let t := x.f.typ
    let a := x.lane u taken x.f.sa i; let b := x.lane u taken x.f.sb i
    if t.isFloat ∧ ((t.format.decode a).isNan ∨ (t.format.decode b).isNan) then
      (t.format.canon, if (t.format.decode a).isSnan ∨ (t.format.decode b).isSnan then flagNV else 0)
    else if greater then (if orderKey t a ≤ orderKey t b then b else a, 0)
    else (if orderKey t a ≤ orderKey t b then a else b, 0)
  let sign : (Nat → Nat → Nat) → (Int → Int) → Ctx → State → (Operand → Entry) → Nat → Nat × Flags :=
    fun onCode onInt x u taken i =>
      let a := x.lane u taken x.f.sa i
      if x.f.typ.isFloat then (onCode x.f.typ.width a, 0) else ((x.wrapOrSat (onInt (x.f.typ.value a))).toNat, 0)
  MapsLanes .vmin .vmin (fun _ => 2) (fun _ => 1) Typ.isFloat (pick false) ∧
  MapsLanes .vmax .vmax (fun _ => 2) (fun _ => 1) Typ.isFloat (pick true) ∧
  MapsLanes .vabs .vabs (fun _ => 2) (fun _ => 1) (fun _ => false)
    (sign (fun w a => a % 2 ^ (w - 1)) (fun a => (a.natAbs : Int))) ∧
  MapsLanes .vneg .vneg (fun _ => 2) (fun _ => 1) (fun _ => false)
    (sign (fun w a => a ^^^ 2 ^ (w - 1)) (fun a => -a))

/-- R227, R228 and R230: logic bit by bit, shifts of w-bit lanes by a count never masked, and the choice of a
lane by the predicate in SC; none sets a flag. -/
def Obligations.VectorLogicSelect : Prop :=
  let two : ((w : Nat) → BitVec w → BitVec w → BitVec w) → Ctx → State → (Operand → Entry) → Nat → Nat × Flags :=
    fun g x u taken i =>
      let w := x.f.typ.width
      ((g w (BitVec.ofNat w (x.lane u taken x.f.sa i)) (BitVec.ofNat w (x.lane u taken x.f.sb i))).toNat, 0)
  (∀ p ∈ [((Instr.vand, Op.vand), fun (_ : Nat) (a b : BitVec _) => a &&& b),
      ((.vor, .vor), fun _ a b => a ||| b), ((.vxor, .vxor), fun _ a b => a ^^^ b),
      ((.vshl, .vshl), fun _ a b => a <<< b.toNat), ((.vshr, .vshr), fun _ a b => a >>> b.toNat),
      ((.vsra, .vsra), fun _ a b => a.sshiftRight b.toNat)],
    MapsLanes p.1.1 p.1.2 (fun _ => 2) (fun _ => 1) (fun _ => false) (two p.2)) ∧
  MapsLanes .vsel .vsel (fun _ => 2) (fun _ => 1) (fun _ => false) (fun x u taken i =>
    (if (x.reg u x.f.sc).getLsbD (if x.f.typ.width = 8 then i / 2 else i) then x.lane u taken x.f.sa i
     else x.lane u taken x.f.sb i, 0))

/-- R229: VCMP into a queue writes all ones in the lanes that are enabled and true; into a predicate it sets one
bit a lane, or one bit a pair of 8-bit lanes, combined with the old predicate. -/
def Obligations.VectorCompare : Prop :=
  let held : Ctx → State → (Operand → Entry) → Nat → Bool := fun x u taken i =>
    x.laneOn u x.f.typ.width i && (testLane x.f.typ (x.f.mod.toNat % 8) (x.lane u taken x.f.sa i)
      (x.lane u taken x.f.sb i)).1
  let flags : Ctx → State → (Operand → Entry) → Flags → Prop := fun x u taken fl =>
    ∀ n, fl.getLsbD n = true ↔ n = 4 ∧ x.f.typ.isFloat ∧ ∃ i < 1024 / x.f.typ.width,
      x.laneOn u x.f.typ.width i = true ∧ ((x.f.typ.format.decode (x.lane u taken x.f.sa i)).isSnan ∨
        (x.f.typ.format.decode (x.lane u taken x.f.sb i)).isSnan)
  TakesQueues .vcmp .vcmp Ctx.unitFree (fun x u v taken t =>
    ∃ fl, flags x u taken fl ∧ match pushPosition .vcmp x.f with
    | some q => ∃ e : Entry, (∀ i < 1024 / x.f.typ.width, laneOf e x.f.typ.width i =
          if held x u taken i then 2 ^ x.f.typ.width - 1 else 0) ∧
        t = x.unitTaken 1 (x.pushEntry v 2 q e (if x.f.typ.isFloat then [.flags x.st fl] else []))
    | none => x.f.dst.isPred = true → ∃ p new : Word,
        (∀ i < 64, new.getLsbD i = if x.f.typ.width = 8 then held x u taken (2 * i) && held x u taken (2 * i + 1)
          else decide (i < 1024 / x.f.typ.width) && held x u taken i) ∧
        p = (if x.f.mod.toNat / 8 = 0 then new else if x.f.mod.toNat / 8 = 1 then x.reg u x.f.dst &&& new
          else x.reg u x.f.dst ||| new) ∧
        t = x.unitTaken 1 (x.result v 2 (.reg x.st x.f.dst p ::
          (if x.f.typ.isFloat then [.flags x.st fl] else []))))

/-- R231 and Table 9.2: each enabled lane is the transcendental of the lane under RNE; an FP32 one takes 10 ticks and
holds the unit for two. -/
def Obligations.VectorElementary : Prop :=
  ∀ p ∈ [((Instr.vexp2, Op.vexp2), Elem.exp2), ((.vlog2, .vlog2), .log2), ((.vrcp, .vrcp), .rcp),
      ((.vrsq, .vrsq), .rsq), ((.vsqrt, .vsqrt), .sqrt)],
    MapsLanes p.1.1 p.1.2 (fun t => if t = .f32 then 10 else 6) (fun t => if t = .f32 then 2 else 1) Typ.isFloat
      (fun x u taken i =>
        let r := p.2.apply x.f.typ.format (x.lane u taken x.f.sa i)
        (r.code, r.flags))

/-- R232: VRED joins neighbouring lanes in a binary tree, disabled lanes holding the identity; an integer sum is the
exact sum of the enabled lanes.  The result goes to a scalar, extended by the type, or to lane 0.
R233: lane i of a scan is the running sum of the enabled lanes up to i, or before i, each step rounded, wrapped
or saturated by itself.  Its flags are those of every step that an enabled lane of the result rests on, which is the
model's reading of R125 (log entry 53). -/
def Obligations.VectorReductionsScans : Prop :=
  (let answers : Ctx → State → Nat → Flags → State → Prop := fun x v r fl t =>
     let fx : List Effect := if x.f.typ.isFloat then [.flags x.st fl] else []
     match pushPosition x.o x.f with
     | some q => t = x.unitTaken 1 (x.pushEntry v 6 q (BitVec.ofNat 1024 (r % 2 ^ x.f.typ.width)) fx)
     | none => x.f.dst.isQueue = false → t = x.unitTaken 1 (x.result v 6 (.reg x.st x.f.dst
         (if x.f.typ.isFloat then BitVec.ofNat 64 r else x.f.typ.wrap (x.f.typ.value r)) :: fx))
   let lanes : Ctx → State → (Operand → Entry) → Nat → List Nat := fun x u taken unit =>
     (List.range (1024 / x.f.typ.width)).map (fun i =>
       if x.laneOn u x.f.typ.width i then laneOf (taken x.f.sa) x.f.typ.width i else unit)
   TakesQueues .vredSum .vredSum Ctx.unitFree (fun x u v taken t =>
     if x.f.typ.isFloat then
       let r := treeReduce (fun a b => addLane x.f.typ x.f.mod a b 0) 7 (lanes x u taken 0)
       answers x v r.1 r.2 t
     else answers x v ((x.wrapOrSat (((List.range (1024 / x.f.typ.width)).map (fun i =>
         if x.laneOn u x.f.typ.width i then x.f.typ.value (laneOf (taken x.f.sa) x.f.typ.width i) else 0)).sum)).toNat %
         2 ^ x.f.typ.width) 0 t) ∧
   TakesQueues .vredMax .vredMax Ctx.unitFree (fun x u v taken t =>
     let r := treeReduce (pickLane true x.f.typ) 7 (lanes x u taken (extremeLane x.f.typ true))
     answers x v r.1 r.2 t) ∧
   TakesQueues .vredMin .vredMin Ctx.unitFree (fun x u v taken t =>
     let r := treeReduce (pickLane false x.f.typ) 7 (lanes x u taken (extremeLane x.f.typ false))
     answers x v r.1 r.2 t)) ∧
  let lane : Ctx → State → (Operand → Entry) → Nat → Nat := fun x u taken j =>
    if x.laneOn u x.f.typ.width j then laneOf (taken x.f.sa) x.f.typ.width j else 0
  let running : Ctx → State → (Operand → Entry) → Nat → Nat × Flags := fun x u taken i =>
    (List.range i).foldl (fun r j =>
      let t := addLane x.f.typ x.f.mod r.1 (lane x u taken (j + 1)) 0
      (t.1, r.2 ||| t.2)) (lane x u taken 0, 0)
  MapsLanes .vscanIncl .vscanIncl (fun _ => 6) (fun _ => 1) Typ.isFloat running ∧
  MapsLanes .vscanExcl .vscanExcl (fun _ => 6) (fun _ => 1) Typ.isFloat (fun x u taken i =>
    match i with
    | 0 => (0, 0)
    | j + 1 => running x u taken j)

/-- R234 to R238: permuted, broadcast and copied lanes, the ramp of VIOTA and the order keys of VKEY; extract writes
a register, insert replaces one lane.
R239, R240: VHIST puts the digits of the matching enabled keys on their way to HIST; VCUT finds the digit at
which the k-th key lies.
R218, R221, R239: a vector instruction waits while the unit is taken; VCUT also waits, on an FL = 0 page, for the
updates of HIST in flight. -/
def Obligations.VectorMovesAndSelect : Prop :=
  (let src : Ctx → (Operand → Entry) → Nat → Nat := fun x taken i => laneOf (taken x.f.sa) x.f.typ.width i
   MapsLanes .vperm .vperm (fun _ => 3) (fun _ => 1) (fun _ => false) (fun x _ taken i =>
     let j := laneOf (taken x.f.sb) x.f.typ.width i
     (if j < 1024 / x.f.typ.width then src x taken j else 0, 0)) ∧
   MapsLanes .vbcast .vbcast (fun _ => 2) (fun _ => 1) (fun _ => false) (fun x _ taken _ =>
     (src x taken (x.f.imm.toNat % 128), 0)) ∧
   MapsLanes .vmov .vmov (fun _ => 2) (fun _ => 1) (fun _ => false) (fun x _ taken i => (src x taken i, 0)) ∧
   MapsLanes .viota .viota (fun _ => 2) (fun _ => 1) (fun _ => false) (fun x u _ i =>
     ((x.f.typ.wrap ((x.raw u x.f.typ x.f.sa).toNat + i)).toNat, 0)) ∧
   MapsLanes .vkey .vkey (fun _ => 2) (fun _ => 1) (fun _ => false) (fun x _ taken i =>
     let w := x.f.typ.width
     let k := BitVec.ofNat w (src x taken i)
     ((if x.f.typ.isFloat then (if k.msb then ~~~k else k ||| BitVec.ofNat w (2 ^ (w - 1)))
       else if x.f.typ.signed then k ^^^ BitVec.ofNat w (2 ^ (w - 1)) else k).toNat, 0)) ∧
   TakesQueues .vmovX .vmovX Ctx.unitFree (fun x u v taken t => pushPosition .vmovX x.f = none →
     t = x.unitTaken 1 (x.result v 2 (if x.laneOn u x.f.typ.width (x.f.imm.toNat % 128) then
       [.reg x.st x.f.dst (BitVec.ofNat 64 (src x taken (x.f.imm.toNat % 128)))] else []))) ∧
   TakesQueues .vmovI .vmovI Ctx.unitFree (fun x u v taken t => ∀ q, pushPosition .vmovI x.f = some q →
     ∃ e, t = x.unitTaken 1 (x.pushEntry v 2 q e []) ∧ ∀ i < 1024 / x.f.typ.width, laneOf e x.f.typ.width i =
       if i = x.f.imm.toNat % 128 ∧ x.laneOn u x.f.typ.width i then (x.reg u x.f.sb).toNat % 2 ^ x.f.typ.width
       else src x taken i)) ∧
  (TakesQueues .vhist .vhist Ctx.unitFree (fun x u v taken t => pushPosition .vhist x.f = none →
     let w := x.f.typ.width
     let shift := x.f.imm.toNat % 32
     t = x.unitTaken 1 (x.result v 4 [.hist (x.f.mod.getLsbD 0)
       ((List.range (1024 / w)).filterMap (fun i =>
         let key := laneOf (taken x.f.sa) w i
         if x.laneOn u w i ∧ key / 2 ^ (shift + 8) = (x.reg u x.f.sb).toNat then some (key / 2 ^ shift % 256)
         else none))])) ∧
   (∀ (b : Bundle) (f : Fields) (s u : State), (Ctx.of .vcut b f s).ready s = some u →
     (Ctx.of .vcut b f s).unitFree u →
     (s.cur.fl = false → ∀ l ∈ (u.core s.cur.core).flight, ∀ e ∈ l.effects, ∀ z ds, e ≠ .hist z ds) →
     ∃ r : Word, exec (.vcut b f) s = .next ((Ctx.of .vcut b f s).after ((Ctx.of .vcut b f s).unitTaken 1
         ((Ctx.of .vcut b f s).result u 4 [.reg s.cur.st f.dst r])) .seq) ∧
       let h : Nat → Nat := fun d => (Tbl.get 0 (u.core s.cur.core).hist d).toNat
       let k := ((Ctx.of .vcut b f s).raw u .untyped f.sa).toNat
       let past : Nat → Nat := fun d => if f.mod.getLsbD 0 then ((List.range d).map h).sum
         else ((List.range (255 - d)).map (fun j => h (d + 1 + j))).sum
       if k = 0 ∨ ((List.range 256).map h).sum < k then r = BitVec.allOnes 64
       else ∃ d < 256, past d < k ∧ k ≤ past d + h d ∧
         r = BitVec.ofNat 64 (min (past d) (2 ^ 32 - 1) * 2 ^ 32 + min (h d) (2 ^ 24 - 1) * 2 ^ 8 + d))) ∧
  (∀ p ∈ [(Instr.vadd, Op.vadd), (.vsub, .vsub), (.vmul, .vmul), (.vfma, .vfma), (.vmin, .vmin), (.vmax, .vmax),
      (.vabs, .vabs), (.vneg, .vneg), (.vand, .vand), (.vor, .vor), (.vxor, .vxor), (.vshl, .vshl), (.vshr, .vshr),
      (.vsra, .vsra), (.vcmp, .vcmp), (.vsel, .vsel), (.vexp2, .vexp2), (.vlog2, .vlog2), (.vrcp, .vrcp),
      (.vrsq, .vrsq), (.vsqrt, .vsqrt), (.vredSum, .vredSum), (.vredMax, .vredMax), (.vredMin, .vredMin),
      (.vscanIncl, .vscanIncl), (.vscanExcl, .vscanExcl), (.vperm, .vperm), (.vbcast, .vbcast), (.vmov, .vmov),
      (.vmovX, .vmovX), (.vmovI, .vmovI), (.viota, .viota), (.vkey, .vkey), (.vhist, .vhist), (.vcut, .vcut)],
    Waits p.1 p.2 (fun x u => ¬ x.unitFree u) (fun _ _ => .latency)) ∧
  Waits .vcut .vcut (fun x u => x.unitFree u ∧ x.fl = false ∧
    ∃ l ∈ (u.core x.c).flight, ∃ e ∈ l.effects, ∃ z ds, e = .hist z ds) (fun _ _ => .latency)


/-! ### Loads, stores and prefetches -/

/-- R154, R155, R159: an aligned LD in the hold below HDATA returns the bytes as they stand, extended by the type,
after 5 ticks; LDS those of a core of its convoy or its own after 12; a memory LD whose bytes translate is in flight
with its destination.
R154, R155: an aligned ST in the hold below HDATA stores the low w bits of SB, lowest byte first; a memory ST whose
bytes translate is in flight with each byte at its translated address, an SO store first committing the task's DC
stores (R175, R177).
R155, R156, R163, R164: performing a piece of a pending load takes each byte from what its stream's core has of it,
else from device memory, and leaves memory as it was; with the last piece a register gets the number that all its bytes
form, lowest first, extended by its type, and a reserved queue entry the number as it is.  This is said of RC bytes
that the die's cache may not hold. -/
def Obligations.ScalarMemory : Prop :=
  (let n : Ctx → Nat := fun x => x.f.typ.width / 8
   let extended : Ctx → Core → Nat → Word := fun x k a =>
     let v := k.holdRead a (n x)
     if x.f.typ.signed then BitVec.ofInt 64 (sextInt v (8 * n x)) else BitVec.ofNat 64 v
   let free : Ctx → State → Prop := fun x u =>
     ∀ l ∈ (u.core x.c).loads, l.st = x.st → l.acq = none ∧ l.hasSo = false
   Answers .ld .ld (fun x u v => x.f.mod.getLsbD 0 = true ∧ x.ea u % n x = 0 ∧
     x.ea u + n x ≤ (u.core x.c).holdLimit ∧ free x u ∧
     (u.core x.c).badByte (addrsFrom (x.ea u) (n x)) = none ∧
     v = x.result u 5 [.reg x.st x.f.dst (extended x (u.core x.c) (x.ea u))]) ∧
   Answers .lds .lds (fun x u v =>
     let t := clusterBase x.c + (x.reg u x.f.sb).toNat
     x.ea u % n x = 0 ∧ (x.reg u x.f.sb).toNat ≤ 3 ∧ x.ea u + n x ≤ (u.core t).holdLimit ∧
     (t = x.c ∨ u.sameConvoy x.c t = true) ∧ free x u ∧
     (u.core t).badByte (addrsFrom (x.ea u) (n x)) = none ∧
     v = x.result u 12 [.reg x.st x.f.dst (extended x (u.core t) (x.ea u))]) ∧
   Answers .ld .ld (fun x u v => x.f.mod.getLsbD 0 = false ∧ ∃ m ms,
     x.mapBytes u .load (addrsFrom (x.ea u) (n x)) = .ok m ms ∧
     v = m.issueLoad x.c { st := x.st, seq := 0, parts := ms.mapIdx (fun i p => (i, p.pa, p.kind)),
                           dest := .reg x.f.dst x.f.typ.signed (n x), acq := none,
                           origin := originOf (x.ea u) (n x) 0 (addrsFrom (x.ea u) (n x)), bundle := x.a })) ∧
  let n : Ctx → Nat := fun x => x.f.typ.width / 8
  Answers .st .st (fun x u v => x.f.mod.getLsbD 0 = true ∧ x.ea u % n x = 0 ∧
    x.ea u + n x ≤ (u.core x.c).holdLimit ∧
    (∀ l ∈ (u.core x.c).loads, l.st = x.st → l.acq = none ∧ l.hasSo = false ∧ l.unOnly = true) ∧
    v = u.holdStore x.c x.st (x.ea u) (bytesOfNum (x.reg u x.f.sb).toNat (n x))) ∧
  Answers .st .st (fun x u v => x.f.mod.getLsbD 0 = false ∧ ∃ m ms,
    x.mapBytes u .store (addrsFrom (x.ea u) (n x)) = .ok m ms ∧
    (m.core x.c).DcFree x.st ms ∧
    v = (if ∃ p ∈ ms, p.kind = .so then m.commitOwn x.c else m).issueStore x.c x.st
      ((ms.zip (bytesOfNum (x.reg u x.f.sb).toNat (n x))).map (fun e => (e.1.pa, e.2, e.1.kind)))
      none (originOf (x.ea u) (n x) 0 (addrsFrom (x.ea u) (n x))) x.a) ∧
  ∀ (s : State) (c : Nat) (l : PLoad) (q : Nat × Nat), l.amo = none → l.err = none →
    (∀ p ∈ (l.piece q true).parts, p.2.2 = .rc ∧ isDevice p.2.1 = false ∧
      s.rdcMayHold (dieOf c) p.2.1 .rc = false ∧ p.2.1 / 64 ∉ s.badLines) →
    let k := s.core c
    let t := s.loadPiece c l q
    let got := l.got ++ (l.piece q true).parts.map (fun p =>
      (p.1, (k.ownByte l.st l.seq p.2.1 .rc).getD (s.mem.get p.2.1)))
    let v := (got.map (fun e => e.2.toNat * 256 ^ e.1)).sum
    t.mem = s.mem ∧
    ((l.piece q false).parts ≠ [] → (t.core c).loads = k.loads.map (fun m =>
      if m.seq = l.seq then { l.piece q false with got := got } else m)) ∧
    ((l.piece q false).parts = [] →
      (∀ o signed, ∀ n ∈ [1, 2, 4, 8], l.dest = .reg o signed n → v < 256 ^ n →
        isRegister o = true → o ≠ .s 0 → o ≠ .p 0 → (t.stream c l.st).reg o =
          if signed = true then (BitVec.ofNat (8 * n) v).signExtend 64 else BitVec.ofNat 64 v) ∧
      ∀ n slot rid, l.dest = .entry n slot rid → Tbl.get 0 (k.queueReg n).rsv slot = rid →
        Tbl.get true (k.queueReg n).rdy slot = false →
        Tbl.get 0 ((t.core c).queueReg n).slots slot = BitVec.ofNat 1024 v ∧
          Tbl.get true ((t.core c).queueReg n).rdy slot = true)

/-- R154 and Tables 6.6 and 6.7: a hold access that is not naturally aligned traps with ALIGN, and one that reaches
HDATA with HOLD_RANGE, the offset being the frame's first address.
R151, R154: a memory LD or ST whose translation faults takes the trap of the fault with the faulting byte's
address, and leaves its stream's bundle unissued. -/
def Obligations.AccessTraps : Prop :=
  (let fdet : Op → Nat := fun o => 32 + (if o = .st then 8 else 0) + 7
   ∀ p ∈ [(Instr.ld, Op.ld), (.st, .st)],
     Traps p.1 p.2 (fun x u => x.f.mod.getLsbD 0 = true ∧ x.ea u % (x.f.typ.width / 8) ≠ 0)
       (fun x u => { cause := .align, addr0 := x.ea u, fdet := fdet p.2 }) ∧
     Traps p.1 p.2 (fun x u => x.f.mod.getLsbD 0 = true ∧ x.ea u % (x.f.typ.width / 8) = 0 ∧
         (u.core x.c).holdLimit < x.ea u + x.f.typ.width / 8)
       (fun x u => { cause := .holdRange, addr0 := x.ea u, fdet := fdet p.2 })) ∧
  ∀ p ∈ [((Instr.ld, Op.ld), AccessKind.load), ((.st, .st), .store)],
    ∀ (b : Bundle) (f : Fields) (s u : State) (e : TransFault) (va : Nat),
      (Ctx.of p.1.2 b f s).ready s = some u → f.mod.getLsbD 0 = false →
      (Ctx.of p.1.2 b f s).mapBytes u p.2
        (addrsFrom ((Ctx.of p.1.2 b f s).ea u) (f.typ.width / 8)) = .fault e va →
      ∃ d, exec (p.1.1 b f) s = .next ((Ctx.of p.1.2 b f s).traps u
        { cause := e.cause, addr0 := va, fdet := d, late := true })

/-- R156, R157: a queue load reserves the tail entry of DST; from the hold it lands the bytes of the enabled lanes,
zeros elsewhere, after 6 or 8 ticks, which are interlocked (R216); from memory it is in flight into that entry.
R156, R157: a queue store takes its entries and stores the bytes of the enabled lanes, in the hold at once and in
memory as one store in flight, an SO store first committing the task's DC stores (R175); of two lanes of STSQ on one
element the higher is stored. -/
def Obligations.QueueMemory : Prop :=
  (let n : Ctx → Nat := fun x => x.f.typ.width / 8
   let free : Ctx → State → Prop := fun x u =>
     ∀ l ∈ (u.core x.c).loads, l.st = x.st → l.acq = none ∧ l.hasSo = false
   let lanes : Ctx → State → List Nat := fun x u =>
     (List.range x.f.typ.laneCount).filter (fun j => x.laneOn u x.f.typ.width j)
   let element : Ctx → State → List (Nat × Entry) → Nat → Nat := fun x u es i =>
     (((x.ea u : Int) + sextInt (laneOf (takenEntry es x.f.sb) 32 i) 32 * n x) % 2 ^ 64).toNat
   let on : Ctx → State → List Nat := fun x u => (List.range 32).filter (fun i => (x.mask u).getLsbD i)
   Answers .ldq .ldq (fun x u v => ∃ k es e,
     x.takeQueues u (sourcePositions .ldq x.f) (pushPosition .ldq x.f) = .ok k es ∧
     x.f.mod.getLsbD 0 = true ∧ x.ea u % 128 = 0 ∧ free x u ∧
     (∀ j ∈ lanes x u, x.ea u + j * n x + n x ≤ (u.core x.c).holdLimit) ∧
     (∀ j ∈ lanes x u, ∀ i < n x, (u.core x.c).badByte [x.ea u + (j * n x + i)] = none) ∧
     (∀ i < 128, laneOf e 8 i =
       if i / n x ∈ lanes x u then ((u.core x.c).holdByte (x.ea u + i)).toNat else 0) ∧
     v = x.pushLoaded u 6 (queueOf x.f.dst) e) ∧
   Answers .ldq .ldq (fun x u v => ∃ k es m ms,
     x.takeQueues u (sourcePositions .ldq x.f) (pushPosition .ldq x.f) = .ok k es ∧
     x.f.mod.getLsbD 0 = false ∧ x.ea u % 16 = 0 ∧
     let at_ := (lanes x u).flatMap (fun j => (List.range (n x)).map (fun i => j * n x + i))
     x.mapBytes u .load (at_.map (fun i => (x.ea u + i) % 2 ^ 64)) = .ok m ms ∧
     v = x.loadEntry m ((at_.zip ms).map (fun e => (e.1, e.2.pa, e.2.kind)))
       (originOf (x.ea u) 128 0 (at_.map (fun i => (x.ea u + i) % 2 ^ 64)))) ∧
   Answers .ldgq .ldgq (fun x u v => ∃ k es e,
     x.takeQueues u (sourcePositions .ldgq x.f) (pushPosition .ldgq x.f) = .ok k es ∧
     x.f.mod.getLsbD 0 = true ∧ free x u ∧
     (∀ i ∈ on x u, element x u es i % n x = 0 ∧ element x u es i + n x ≤ (u.core x.c).holdLimit ∧
       (u.core x.c).badByte (addrsFrom (element x u es i) (n x)) = none) ∧
     (∀ i < 1024 / (8 * n x), laneOf e (8 * n x) i =
       if i ∈ on x u then (u.core x.c).holdRead (element x u es i) (n x) else 0) ∧
     v = x.pushLoaded (x.popSources u) 8 (queueOf x.f.dst) e) ∧
   Answers .ldgq .ldgq (fun x u v => ∃ k es m l,
     x.takeQueues u (sourcePositions .ldgq x.f) (pushPosition .ldgq x.f) = .ok k es ∧
     x.f.mod.getLsbD 0 = false ∧
     x.checkLanes u .load ((on x u).map (fun i => (i, element x u es i))) = .ok m l ∧
     v = x.loadEntry (x.popSources m)
       (l.flatMap (fun e => e.ms.mapIdx (fun j p => (e.i * n x + j, p.pa, p.kind))))
       (l.flatMap (fun e => originOf e.a (n x) e.i (addrsFrom e.a (n x)))))) ∧
  let n : Ctx → Nat := fun x => x.f.typ.width / 8
  let before : Ctx → State → Prop := fun x u =>
    ∀ l ∈ (u.core x.c).loads, l.st = x.st → l.acq = none ∧ l.hasSo = false ∧ l.unOnly = true
  let lanes : Ctx → State → List Nat := fun x u =>
    (List.range x.f.typ.laneCount).filter (fun j => x.laneOn u x.f.typ.width j)
  let at_ : Ctx → State → List Nat := fun x u =>
    (lanes x u).flatMap (fun j => (List.range (n x)).map (fun i => j * n x + i))
  let element : Ctx → State → List (Nat × Entry) → Nat → Nat := fun x u es i =>
    (((x.ea u : Int) + sextInt (laneOf (takenEntry es x.f.sb) 32 i) 32 * n x) % 2 ^ 64).toNat
  let on : Ctx → State → List Nat := fun x u => (List.range 32).filter (fun i => (x.mask u).getLsbD i)
  let last : Ctx → State → List (Nat × Entry) → Nat → Prop := fun x u es i =>
    i ∈ on x u ∧ ∀ j ∈ on x u, i < j → element x u es j ≠ element x u es i
  let datum : Ctx → List (Nat × Entry) → Nat → List Byte := fun x es i =>
    bytesOfNum (laneOf (takenEntry es x.f.sc) (8 * n x) i) (n x)
  Answers .stq .stq (fun x u v => ∃ k es,
    x.takeQueues u (sourcePositions .stq x.f) (pushPosition .stq x.f) = .ok k es ∧
    x.f.mod.getLsbD 0 = true ∧ x.ea u % 128 = 0 ∧ before x u ∧
    (∀ j ∈ lanes x u, x.ea u + j * n x + n x ≤ (u.core x.c).holdLimit) ∧
    v = (at_ x u).foldl (fun s i => s.holdStore x.c x.st (x.ea u + i)
      [BitVec.ofNat 8 (laneOf (takenEntry es x.f.sb) 8 i)]) (x.popSources u)) ∧
  Answers .stq .stq (fun x u v => ∃ k es m ms,
    x.takeQueues u (sourcePositions .stq x.f) (pushPosition .stq x.f) = .ok k es ∧
    x.f.mod.getLsbD 0 = false ∧ x.ea u % 16 = 0 ∧
    x.mapBytes u .store ((at_ x u).map (fun i => (x.ea u + i) % 2 ^ 64)) = .ok m ms ∧
    (m.core x.c).DcFree x.st ms ∧
    v = (if ∃ p ∈ ms, p.kind = .so then (x.popSources m).commitOwn x.c else x.popSources m).issueStore x.c x.st
      ((ms.zip ((at_ x u).map (fun i =>
        BitVec.ofNat 8 (laneOf (takenEntry es x.f.sb) 8 i)))).map (fun e => (e.1.pa, e.2, e.1.kind))) none
      (originOf (x.ea u) 128 0 ((at_ x u).map (fun i => (x.ea u + i) % 2 ^ 64))) x.a) ∧
  Answers .stsq .stsq (fun x u v => ∃ k es, ∃ top : List Nat,
    x.takeQueues u (sourcePositions .stsq x.f) (pushPosition .stsq x.f) = .ok k es ∧
    x.f.mod.getLsbD 0 = true ∧ before x u ∧
    (∀ i ∈ on x u, element x u es i % n x = 0 ∧ element x u es i + n x ≤ (u.core x.c).holdLimit) ∧
    top.Pairwise (· < ·) ∧ (∀ i, i ∈ top ↔ last x u es i) ∧
    v = top.foldl (fun s i => s.holdStore x.c x.st (element x u es i) (datum x es i)) (x.popSources u)) ∧
  Answers .stsq .stsq (fun x u v => ∃ k es m l, ∃ top : List Lane,
    x.takeQueues u (sourcePositions .stsq x.f) (pushPosition .stsq x.f) = .ok k es ∧
    x.f.mod.getLsbD 0 = false ∧
    x.checkLanes u .store ((on x u).map (fun i => (i, element x u es i))) = .ok m l ∧
    (m.core x.c).DcFree x.st (l.flatMap (fun e => e.ms)) ∧
    top = l.filter (fun e => l.all (fun e' => e'.i ≤ e.i || e'.a != e.a)) ∧
    v = (if ∃ e ∈ top, ∃ p ∈ e.ms, p.kind = .so then (x.popSources m).commitOwn x.c else x.popSources m).issueStore
      x.c x.st (((top.flatMap (fun e => e.ms)).zip (top.flatMap (fun e => datum x es e.i))).map
        (fun p => (p.1.pa, p.2, p.1.kind))) none
      (top.flatMap (fun e => originOf e.a (n x) e.i (addrsFrom e.a (n x)))) x.a)

/-- R158: PF and PF.FR enter the background and let their stream go on.  At once, and whenever its turn comes, a
prefetch looks its page up: it joins or starts a walk among the walks of its die where none is known (R149), and is
over where the page faults, is moving or is known.  PF then brings its line into the RDC where the die may hold it
there, else into the L2 of its home where that is the issuing die; PF.FR starts the page-in of a level-0 leaf in flash,
which sets its PB, and does nothing else.  The end of a prefetch leaves memory as it was.  That PF marks and caches the
leaf as a load does is the model's choice (log entry 107), and that it does nothing on a page in flash is the model's
reading (log entry 52). -/
def Obligations.Prefetches : Prop :=
  let moves : State → Nat → Prefetch → State → Prop := fun s c p t =>
    let a := s.redirect (rootAsid p.root) p.va false
    let found := s.look c p.who p.root (isFirmware c) .load a
    let e := s.endPrefetch c p
    (found = .walk ∧ t = s.joinWalk c p.who p.root a) ∨
    (found = .stale ∧ t = (s.leaveWalks c p.who).joinWalk c p.who p.root a) ∨
    (((∃ leaf, found = .busy leaf) ∨ ∃ f, found = .fault f ∧ f.cause ≠ .memUncorr) ∧ t = e) ∨
    (∃ leaf, found = .away leaf ∧ t = if p.ahead = true then
        { e.markEntry p.meter leaf (2 ^ 12) 0 with
          pager := s.pager ++ [{ leaf := leaf, pageIn := true, ahead := some c }] }
      else e) ∨
    ∃ m l, found = .ok m l ∧
      let w := match l with
        | some l => e.markLeaf c p.root .load a l
        | none => e
      t = if p.ahead = true then e
        else if w.rdcMayHold (dieOf c) m.pa m.kind then (w.rdcFetchFor p.meter c m.pa m.kind).1
        else if homeDie m.pa = dieOf c then w.touchLine (m.pa / 64) false p.meter else w
  (∀ p ∈ [((Instr.pf, Op.pf), false), ((.pfFr, .pfFr), true)],
    Answers p.1.1 p.1.2 (fun x u v =>
      let k := u.core x.c
      let r : Prefetch := { who := 4 + k.seq, root := k.ptroot, va := x.ea u, ahead := p.2, meter := u.meterOf x.c,
                            bundle := x.a }
      moves (u.setCore x.c { k with seq := k.seq + 1, prefetches := k.prefetches ++ [r] }) x.c r v)) ∧
  (∀ (s t : State) (c : Nat) (p : Prefetch) (turns : List Turn), s.agenda = .prefetch c p.who :: turns →
    let s' : State := ({ s with agenda := turns } : State).catchUp
    (s'.core c).prefetches.find? (fun q => q.who == p.who) = some p → moves s' c p t → step s = .next t) ∧
  ∀ (s : State) (c : Nat) (p : Prefetch), (s.endPrefetch c p).mem = s.mem ∧
    ((s.endPrefetch c p).core c).prefetches = (s.core c).prefetches.filter (fun q => q.who != p.who)

/-! ### Ordering instructions and dual-backed buffers -/

/-- R180, R173, R177, R182: a fence whose stream's accesses are performed commits the task's DC stores and enters the
promotion log below DEV; at DEV and SYS it writes back and drops the die's RDC lines, and the stream's UN stores take
their places as the model has them (log entry 7). -/
def Obligations.Fences : Prop :=
  ∀ sc, Answers (.fence sc) (.fence sc) (fun x u v =>
      (u.core x.c).quiet x.st = true ∧ (sc.narrow = true → u.logStalls x.c x.st = false) ∧
      v = if sc.narrow then (((u.commitOwn x.c).logRelease x.c x.st).bump x.c).fenceUn x.c x.st false
        else
          let w := ((u.commitOwn x.c).writeBack (dieOf x.c) [.rc]).bump x.c
          ((w.writeBack (dieOf x.c) [.rc, .un]).invalidate (dieOf x.c) [.rc, .un, .dc]).fenceUn x.c x.st true) ∧
    Waits (.fence sc) (.fence sc) (fun x u => (u.core x.c).quiet x.st = false) (fun _ _ => .access)

/-- R181, R184: ACQ and ACQP put an acquiring load in flight, ACQP with a request to the core that SB names; REL
commits the task's DC stores, enters the log below DEV and puts a releasing store in flight.  Pages all UN order
nothing (R176).
R177, R181, R184: an ordering access of any of the three that is misaligned traps with ALIGN and one to a DC page with
ACCESS, and an ACQP of a core past 191 with ACCESS. -/
def Obligations.AcquireRelease : Prop :=
  (let scope : Scope → List Mapped → Option Scope := fun sc ms =>
     if ∀ p ∈ ms, p.kind = .un then none else some sc
   let load : Ctx → Nat → Option Scope → List Mapped → State → State := fun x ea acq ms w =>
     w.issueLoad x.c {
       st := x.st, seq := 0, parts := ms.mapIdx (fun i p => (i, p.pa, p.kind)),
       dest := .reg x.f.dst x.f.typ.signed (x.f.typ.width / 8), acq := acq,
       origin := originOf ea (x.f.typ.width / 8) 0 (addrsFrom ea (x.f.typ.width / 8)), bundle := x.a }
   (∀ sc, Answers (.acq sc) (.acq sc) (fun x u v => ∃ m ms,
     x.plainAccess u .load (x.ea u) (x.f.typ.width / 8) = .ok m ms ∧
     v = load x (x.ea u) (scope sc ms) ms m)) ∧
   (∀ sc, Answers (.rel sc) (.rel sc) (fun x u v => ∃ m ms,
     x.plainAccess u .store (x.ea u) (x.f.typ.width / 8) = .ok m ms ∧
     (sc.narrow = true → m.logStalls x.c x.st = false) ∧
     let w := if sc.narrow then (m.commitOwn x.c).logRelease x.c x.st else m.commitOwn x.c
     v = x.putStore w (scope sc ms) (bytesOfNum (x.reg u x.f.sb).toNat (x.f.typ.width / 8)) ms
       (originOf (x.ea u) (x.f.typ.width / 8) 0 (addrsFrom (x.ea u) (x.f.typ.width / 8))))) ∧
   Answers .acqp .acqp (fun x u v => ∃ m ms,
     (x.reg u x.f.sb).toNat ≤ 191 ∧ x.plainAccess u .load (x.ea u) (x.f.typ.width / 8) = .ok m ms ∧
     (∀ l ∈ (m.core x.c).loads, l.st ≠ x.st) ∧
     v = (load x (x.ea u) (scope .dev ms) ms m).modCore (x.reg u x.f.sb).toNat (fun k =>
       { k with requests := k.requests ++ [{ source := x.c, seq := (m.core x.c).seq, covers := none }] }))) ∧
  (∀ sc, ∀ p ∈ [((Instr.acq sc, Op.acq sc), 0), ((.rel sc, .rel sc), 1)],
    Traps p.1.1 p.1.2 (fun x u => x.ea u % (x.f.typ.width / 8) ≠ 0)
      (fun x u => { cause := .align, addr0 := x.ea u, fdet := 8 * p.2 + 7 })) ∧
  Traps .acqp .acqp (fun x u => (x.reg u x.f.sb).toNat ≤ 191 ∧ x.ea u % (x.f.typ.width / 8) ≠ 0)
    (fun x u => { cause := .align, addr0 := x.ea u, fdet := 7 }) ∧
  (let dcPage : AccessKind → Ctx → State → Prop := fun kind x u => x.ea u % (x.f.typ.width / 8) = 0 ∧
     ∃ m ms, x.mapBytes u kind (addrsFrom (x.ea u) (x.f.typ.width / 8)) = .ok m ms ∧ ∃ p ∈ ms, p.kind = .dc
   (∀ sc, Traps (.acq sc) (.acq sc) (dcPage .load)
     (fun x u => { cause := .access, addr0 := x.ea u, fdet := 7, late := true })) ∧
   (∀ sc, Traps (.rel sc) (.rel sc) (dcPage .store)
     (fun x u => { cause := .access, addr0 := x.ea u, fdet := 15, late := true })) ∧
   Traps .acqp .acqp (fun x u => (x.reg u x.f.sb).toNat ≤ 191 ∧ dcPage .load x u)
     (fun x u => { cause := .access, addr0 := x.ea u, fdet := 7, late := true })) ∧
  Traps .acqp .acqp (fun x u => 191 < (x.reg u x.f.sb).toNat)
    (fun x u => { cause := .access, addr0 := x.ea u, fdet := 7 })

/-- R188 to R191: DBB binds a granted free slot to its two ranges, DBB.U unbinds one with no copy in flight, and
PUBLISH of a stream with no ordered access pending turns the selection over, which every access still to be performed
follows, as it follows an unbinding under SEL = 1, and returns the count.  DST of PUBLISH lands 1 tick after it
completes, which is the model's choice (log entry 54). -/
def Obligations.DualBackedBuffers : Prop :=
  let n : Ctx → Nat := fun x => x.f.imm.toNat % 64
  let mine : Ctx → State → Prop := fun x u =>
    (∃ t, (u.core x.c).task = some t ∧ (u.slot (n x)).launch = some t.launch) ∧ (u.slot (n x)).bound = true ∧
      (u.slot (n x)).asid = rootAsid (u.core x.c).ptroot
  Answers .dbb .dbb (fun x u v =>
    let fb := (x.rawZ u x.f.sa).toNat; let ab := (x.rawZ u x.f.sb).toNat; let len := (x.rawZ u x.f.sc).toNat
    let asid := rootAsid (u.core x.c).ptroot
    (∃ t, (u.core x.c).task = some t ∧ (u.slot (n x)).launch = some t.launch) ∧ (u.slot (n x)).bound = false ∧
    fb % 8192 = 0 ∧ ab % 8192 = 0 ∧ len % 8192 = 0 ∧ 0 < len ∧ len ≤ 2 ^ 30 ∧ fb + len ≤ 2 ^ 48 ∧
    ab + len ≤ 2 ^ 48 ∧ (fb + len ≤ ab ∨ ab + len ≤ fb) ∧ u.meetsSlots asid fb len = false ∧
    u.meetsSlots asid ab len = false ∧ (u.core x.c).settled x.st = true ∧
    let w := u.release x.c x.st .dev
    v = w.setSlot (n x) { w.slot (n x) with bound := true, asid := asid, fbase := fb, abase := ab, len := len,
                                            sel := false, pcount := 0, infl := 0 }) ∧
  Answers .dbbU .dbbU (fun x u v => mine x u ∧ (u.slot (n x)).infl = 0 ∧
    let w := u.setSlot (n x) { u.slot (n x) with bound := false }
    v = if (u.slot (n x)).sel = true then w.followSlot (u.slot (n x)) else w) ∧
  Answers .publish .publish (fun x u v => mine x u ∧ (u.slot (n x)).infl = 0 ∧ (u.core x.c).settled x.st = true ∧
    let d := u.slot (n x)
    let w := (u.setSlot (n x) { d with held := some x.c }).release x.c x.st .dev
    let w := w.flushPages (w.rangePages (u.core x.c).ptroot d.fbase d.len ++
      w.rangePages (u.core x.c).ptroot d.abase d.len)
    let e := w.slot (n x)
    let w := w.setSlot (n x) { e with sel := !e.sel, pcount := (e.pcount + 1) % 2 ^ 64, held := none }
    v = x.locked (w.followSlot e) 1 [.reg x.st x.f.dst (BitVec.ofNat 64 ((d.pcount + 1) % 2 ^ 64))])

/-! ### Copies -/

/-- R193, R198, R199: a copy whose checks pass enters the engines with its operands as they stand, behind the log entry
of its scope, and takes a place in the line of its wait semaphore.
R198, R199, R202, R203: where its bytes lie: byte i of row j of plane k at base + k stride 2 + j stride 1 + i, modulo
2^64; a gather reads its entries one after another.  A byte comes from a hold as it stands, or from device memory; its
destination is the issuer's hold, that of each target, or where its address translates.  At the end of a copy with no
failure about, every byte that it has read stands at its place and the rest of that berth, or of memory, is as before;
then the copy leaves flight as done.  R200: a copy into a queue pushes 128 bytes an entry.  What is said of memory is
said of bytes that the die's cache may not hold. -/
def Obligations.CopiesMove : Prop :=
  let enters : Ctx → State → CopyKind → List (BitVec 32) → State → Prop := fun x u kind shape v => ∃ cp : Copy,
    cp.id = (u.core x.c).seq ∧ cp.seq = (u.core x.c).seq ∧ cp.kind = kind ∧ cp.shape = shape ∧ cp.st = x.st ∧
    cp.mod = x.f.mod ∧ cp.typ = x.f.typ ∧ cp.imm = x.f.imm ∧ cp.aux = x.f.aux ∧ cp.sa = x.reg u x.f.sa ∧
    cp.sb = x.reg u x.f.sb ∧ cp.sc = x.reg u x.f.sc ∧ cp.queue = (match x.f.sb with | .q q => some q.val | _ => none) ∧
    cp.tick = x.now ∧
    cp.started = false ∧ cp.done = 0 ∧ cp.failed = none ∧
    cp.token = (match x.f.dst with | .s r => r.val | _ => 0) ∧
    cp = x.copyOf u kind shape ∧ (u.core x.c).copies.length < 256 ∧
    (cp.scope.narrow = true → u.logStalls x.c x.st = false) ∧
    v = ((u.logScope x.c x.st cp.scope).modCore x.c (fun k =>
      { k with copies := k.copies ++ [cp],
               swq := if cp.wsem then k.swq ++ [.copy cp.wnum cp.id] else k.swq })).bump x.c
  let shaped : Nat → Ctx → State → State → Prop := fun dims x u v =>
    let o := (x.reg u x.f.sc).toNat
    let shape := (u.core x.c).shapeAt o
    o % 32 = 0 ∧ o + 32 ≤ (u.core x.c).holdLimit ∧ (u.core x.c).acquirePending x.st = false ∧
    (u.core x.c).badByte (addrsFrom o 32) = none ∧ shapeBad (dims == 2) shape = false ∧
    x.copyTrap u (x.copyOf u (.linear dims) shape) = none ∧
    enters x u (.linear dims) shape v
  Answers .cpy1 .cpy1 (fun x u v => x.copyTrap u (x.copyOf u (.linear 1) []) = none ∧
    enters x u (.linear 1) [] v) ∧
  Answers .cpy2 .cpy2 (shaped 2) ∧ Answers .cpy3 .cpy3 (shaped 3) ∧
  Answers .cpymc .cpymc (fun x u v => x.copyTrap u (x.copyOf u .multicast []) = none ∧ enters x u .multicast [] v) ∧
  Answers .cpyg .cpyg (fun x u v =>
    let o := (x.reg u x.f.sa).toNat; let n := (x.reg u x.f.sc).toNat
    let list := (u.core x.c).gatherList o n
    o % 16 = 0 ∧ o + 16 * n ≤ (u.core x.c).holdLimit ∧ n ≤ 4096 ∧
    ((∀ q, x.f.sb ≠ .q q) ∨ ((list.map (fun e => e.2)).sum % 128 = 0 ∧
      ∀ e ∈ list, (x.copyOf u .gather []).misaligned e.1 = false)) ∧
    x.sourceDenied u (x.copyOf u .gather []) = false ∧ enters x u .gather [] v) ∧
  (∀ (cp : Copy) (d : Nat), cp.kind = .linear d →
    let len := cp.dims.1; let n1 := cp.dims.2.1; let n2 := cp.dims.2.2
    let spot : Word → Int → Int → Nat → Nat → Nat → Nat := fun base s1 s2 i j k =>
      (((base.toNat : Int) + k * s2 + j * s1 + i) % 2 ^ 64).toNat
    cp.sources.length = len * n1 * n2 ∧ (d = 1 → cp.dims = (cp.sc.toNat, 1, 1)) ∧
    ∀ i < len, ∀ j < n1, ∀ k < n2, ∀ n,
      cp.sources[(k * n1 + j) * len + i]? = some (spot cp.sa (cp.stride 4) (cp.stride 6) i j k) ∧
      (cp.dests n)[(k * n1 + j) * len + i]? = some (spot cp.sb (cp.stride 5) (cp.stride 7) i j k)) ∧
  (∀ cp : Copy, (cp.kind = .gather → cp.sources = cp.list.flatMap (fun e => addrsFrom e.1 e.2)) ∧
    (cp.kind = .gather ∨ cp.kind = .multicast → ∀ n, cp.dests n = addrsFrom cp.sb.toNat n)) ∧
  (∀ (s w : State) (c : Nat) (cp : Copy) (a : Nat) (m : Mapped),
    (cp.shold = true → s.sourceLost c cp = false → a < (s.core (cp.srcCore c)).holdLimit →
      a / 64 ∉ (s.core (cp.srcCore c)).badHold →
      s.engineRead c cp a = (s, .got ((s.core (cp.srcCore c)).holdByte a))) ∧
    (cp.shold = false → s.translate c cp.who .load a = .ok w m → m.kind = .rc → isDevice m.pa = false →
      w.rdcMayHold (dieOf c) m.pa .rc = false → m.pa / 64 ∉ w.badLines →
      (s.engineRead c cp a).2 = .got (w.mem.get m.pa) ∧ (s.engineRead c cp a).1.mem = w.mem) ∧
    (cp.sh = false → s.translateAs c cp.who (s.core c).ptroot (isFirmware c) .store false a = .ok w m →
      s.engineDestMem c cp a = (w, .mem m.pa m.kind a))) ∧
  (∀ (s : State) (c : Nat) (cp : Copy) (as : List Nat),
    (cp.kind ≠ .multicast → cp.dhold = true → (∀ a ∈ as, a < (s.core c).holdLimit) →
      s.engineDests c cp as = (s, as.map (fun a => [.hold c a]))) ∧
    (cp.kind = .multicast → (∀ t ∈ cp.aims, s.aimLost cp t = false ∧ s.aimRuns t = true ∧
        (t.core = c ∨ s.sameConvoy c t.core = true) ∧ ∀ a ∈ as, a < (s.core t.core).holdLimit) →
      s.engineDests c cp as = (s, as.map (fun a => cp.aims.map (fun t => .hold t.core a))))) ∧
  (∀ (s u w : State) (c : Nat) (cp cp' : Copy) (bs : List Byte) (ds : List (List DestByte)),
    cp.started = true → (s.core c).copyOrdered cp = true → cp.queue = none → cp'.failed = none →
    cp.readList (s.core c) (2 ^ 31) cp.sc.toNat = (cp', none) →
    (s.orderCopy c cp').engineReads c cp' cp'.places = (u, bs.map .got) →
    u.engineDests c cp' (cp'.dests bs.length) = (w, ds) → w.lostFail c cp' = none →
    (∀ a ∈ cp'.aims, w.aimLost cp' a = false) →
    (∀ (as targets : List Nat) (berth : Nat), ds = as.map (fun a => targets.map (fun t => .hold t a)) →
      as.length = bs.length → as.Nodup → targets.Nodup → (∀ a ∈ as, a / 65536 = berth) →
      (∀ t ∈ targets, (w.core t).hold.wf = true ∧ Tbl.get 0 (w.core t).berths berth ≠ 0) →
      ∃ v : State, s.endCopy c cp = v.leaveFlight c cp' 1 0 false bs.length ∧ ∀ t ∈ targets,
        (∀ i < bs.length, ∃ a b, as[i]? = some a ∧ bs[i]? = some b ∧ (v.core t).holdByte a = b) ∧
        ∀ a, a / 65536 = berth → a ∉ as → (v.core t).holdByte a = (w.core t).holdByte a) ∧
    (∀ ps : List (Nat × Nat), ds = ps.map (fun p => [.mem p.1 .rc p.2]) → ps.length = bs.length →
      (ps.map (fun p => p.1)).Nodup → w.MemoryWf →
      (∀ p ∈ ps, isDevice p.1 = false ∧ w.rdcMayHold (dieOf c) p.1 .rc = false) →
      ∃ v : State, s.endCopy c cp = v.leaveFlight c cp' 1 0 false bs.length ∧
        (∀ i < bs.length, ∃ p b, ps[i]? = some p ∧ bs[i]? = some b ∧ v.mem.get p.1 = b) ∧
        ∀ a, (∀ p ∈ ps, p.1 ≠ a) → v.mem.get a = w.mem.get a)) ∧
  ∀ (s u : State) (c q : Nat) (cp cp' : Copy) (bad : Option EngineFail) (bs : List Byte),
    cp.readList (s.core c) (cp.done + 127) cp.sc.toNat = (cp', bad) →
    ((cp'.places.drop cp'.done).take 128).length = 128 →
    (s.orderCopy c cp').engineReads c cp' ((cp'.places.drop cp'.done).take 128) = (u, bs.map .got) →
    u.lostFail c cp' = none →
    let r := (u.core c).queueReg q
    let r' := ((s.deliverEntry c cp q).core c).queueReg q
    let slot := (r.head + r.cnt) % 4
    r'.head = r.head ∧ r'.cnt = r.cnt + 1 ∧ Tbl.get true r'.rdy slot = true ∧
    ∀ i < 128, ∃ b, bs[i]? = some b ∧ laneOf (Tbl.get 0 r'.slots slot) 8 i = b.toNat

/-- R206 to R208: CPYC cancels the copy it names, or all that have not started; CPYS reports the state of a copy in
flight or the last status of its register; WAIT passes when the stream's counters are within its limits, and where it
limits the copies it acquires at the widest scope of those that have ended. -/
def Obligations.CopyControl : Prop :=
  let st : Ctx → Stream := fun x => Stream.ofNum (x.f.imm.toNat % 4)
  let reg : Ctx → Nat := fun x => x.f.imm.toNat / 4 % 32
  let named : Ctx → State → Option Copy := fun x u =>
    (u.core x.c).copies.find? (fun c => c.st == st x && c.token == reg x)
  let gives : Ctx → State → Word → State := fun x w n => x.result w 2 [.reg x.st x.f.dst n]
  Acts .cpyc .cpyc (fun x _ => x.f.mod.getLsbD 0 = true) (fun x u =>
    let waiting := (u.core x.c).copies.filter (fun c => c.st == st x && !c.started)
    gives x (waiting.foldl (fun w c => w.cancelCopy x.c c) u) (BitVec.ofNat 64 waiting.length)) ∧
  Acts .cpyc .cpyc (fun x _ => x.f.mod.getLsbD 0 = false) (fun x u =>
    match named x u with
    | none => gives x u 0
    | some c => if c.started then gives x u 2 else gives x (u.cancelCopy x.c c) 1) ∧
  Acts .cpys .cpys (fun _ _ => True) (fun x u =>
    match named x u with
    | some c => gives x u (statusWord 0 0 false false c.started 0)
    | none =>
      let last := Tbl.get 0 (u.stream x.c (st x)).tokenLast (reg x)
      gives x (if last = 0 then u else u.acquireRdc x.c (Tbl.get .core (u.stream x.c (st x)).tokenScope (reg x)))
        last) ∧
  Acts .wait .wait (fun x u => ∀ i < 4, min (((u.core x.c).outstanding x.st)[i]?.getD 0) 255 ≤
      x.f.imm.toNat / 256 ^ i % 256) (fun x u =>
    if x.f.imm.toNat / 65536 % 256 < 255 then
      u.acquireRdc x.c (Tbl.get .core (u.stream x.c x.st).tokenAcq 0) else u) ∧
  Waits .wait .wait (fun x u => ∃ i < 4, x.f.imm.toNat / 256 ^ i % 256 <
      min (((u.core x.c).outstanding x.st)[i]?.getD 0) 255) (fun _ _ => .memory)

/-! ### Matrix instructions -/

/-- R115, R119: the sum of the 32 products of a Q4 block is within 131,072, so that the 32-bit psum word holds it
exactly; a block of either family with a zero tag gives 0 and no flag (R118, R251), an F8 block of type 11 beside it
too by the model's reading (log entry 116). -/
def Obligations.Q4PsumExact : Prop :=
  ∀ a b ta tb j : Nat, ((q4Psum a b ta tb j).natAbs ≤ 131072) ∧
    (tagE ta ≠ 0 → tagE tb ≠ 0 → sextInt (psum .q4 a b ta tb j).1 32 = q4Psum a b ta tb j) ∧
    ∀ fam, tagE ta = 0 ∨ tagE tb = 0 → psum fam a b ta tb j = (0, 0)

/-- R247, R250, R251, R253: an MMA whose operands pass the checks, unstamped or at its tick, lands its psums or its
accumulator elements with their flags after the array's ticks, 12 more, and for a remote A its bytes over 1024.
R251, R253, R269: an MMA with a bad column count traps with ILLFIELD and a misaligned reference, A before B, with
ALIGN; a stamped one past its tick traps with SCHED_MISS, and one before its tick waits, as one does on an FL = 0 page
whose tick cannot be read while a write of MBASE is to land (R51). -/
def Obligations.MatrixProducts : Prop :=
  (∀ p ∈ [((Instr.mmaQ4, Op.mmaQ4), Family.q4, 16, 16, 32), ((.mmaF8, .mmaF8), .f8, 8, 32, 64),
       ((.mmaBf, .mmaBf), .bf, 4, 16, 128), ((.mmaH, .mmaH), .h, 4, 16, 128)],
     let fam := p.2.1; let columns := p.2.2.1; let align := p.2.2.2.1; let row := p.2.2.2.2
     Answers p.1.1 p.1.2 (fun x u v =>
       let plan := x.mmaPlan u
       let busy := plan.n / columns
       (x.stamp u = none ∨ (x.stamp u = some x.now ∧ x.stampKnown u = true)) ∧
       x.mmaHeld u fam = false ∧ plan.n ≠ 0 ∧ plan.n % 16 = 0 ∧ plan.n ≤ 512 ∧ plan.oa % align = 0 ∧
       plan.ob % align = 0 ∧ x.rangesTrap u (x.mmaRanges u fam plan) = none ∧
       u.rangesBad (x.mmaRanges u fam plan) = none ∧
       let n := if fam.tagged then pbNumber x.f.dst else accNumber x.f.dst
       v = (x.unitResult u (busy + 12 + (if plan.ca = some x.c then 0 else 64 * row / 1024)) 1
           (if fam.tagged then x.psumEffects u fam plan else x.dotEffects u fam plan)
           (some (x.readsOf u n plan.n (if fam.tagged then [] else (u.core x.c).chained 1 n)
             (x.mmaRanges u fam plan)))).modCore x.c
         (fun k => { k with arrayFree := x.now + busy }))) ∧
  ∀ p ∈ [((Instr.mmaQ4, Op.mmaQ4), Family.q4, 16), ((.mmaF8, .mmaF8), .f8, 32), ((.mmaBf, .mmaBf), .bf, 16),
      ((.mmaH, .mmaH), .h, 16)],
    let startable : Ctx → State → Prop := fun x u => x.stamp u = none ∧ x.mmaHeld u p.2.1 = false
    Traps p.1.1 p.1.2 (fun x u => startable x u ∧
        ((x.mmaPlan u).n = 0 ∨ (x.mmaPlan u).n % 16 ≠ 0 ∨ 512 < (x.mmaPlan u).n))
      (fun _ _ => { cause := .illfield }) ∧
    Traps p.1.1 p.1.2 (fun x u => startable x u ∧ (x.mmaPlan u).n ≠ 0 ∧ (x.mmaPlan u).n % 16 = 0 ∧
        (x.mmaPlan u).n ≤ 512 ∧ (x.mmaPlan u).oa % p.2.2 ≠ 0)
      (fun x u => { cause := .align, addr0 := (x.mmaPlan u).oa, fdet := 39 }) ∧
    Traps p.1.1 p.1.2 (fun x u => startable x u ∧ (x.mmaPlan u).n ≠ 0 ∧ (x.mmaPlan u).n % 16 = 0 ∧
        (x.mmaPlan u).n ≤ 512 ∧ (x.mmaPlan u).oa % p.2.2 = 0 ∧ (x.mmaPlan u).ob % p.2.2 ≠ 0)
      (fun x u => { cause := .align, addr0 := (x.mmaPlan u).ob, fdet := 39 }) ∧
    Traps p.1.1 p.1.2 (fun x u => x.stampKnown u = true ∧ ∃ t, x.stamp u = some t ∧ t < x.now)
      (fun _ _ => { cause := .schedMiss }) ∧
    Waits p.1.1 p.1.2 (fun x u => ∃ t, x.stamp u = some t ∧ (x.stampKnown u = true → x.now < t))
      (fun _ _ => .latency)

/-- R251: every psum word that an MMA of Q4 or F8 lands is that of its row, column and block, and every accumulator
element of BF16 or FP16 the rounded sum of the old one and 64 products; columns from N on are left as they are. -/
def Obligations.MatrixElements : Prop :=
  ∀ (x : Ctx) (u : State) (fam : Family) (p : MmaPlan),
    let row : Nat → Nat := fun m => u.rangeNum { core := p.ca, off := p.oa + m * p.sa, size := fam.row }
    let col : Nat → Nat := fun c => u.rangeNum { core := p.cb, off := p.ob + c * p.sb, size := fam.row }
    let tagA : Nat → Nat → Nat := fun m j =>
      u.rangeNum (tagRange fam x.c (u.core x.c).sga (p.oa + m * p.sa + j * fam.block))
    let tagB : Nat → Nat → Nat := fun c j =>
      u.rangeNum (tagRange fam x.c (u.core x.c).sgb (p.ob + c * p.sb + j * fam.block))
    (∃ vals tags fl, x.psumEffects u fam p = [.pb (pbNumber x.f.dst) vals fam.pkind p.n tags, .mflags fl] ∧
      ∀ i w, (i, w) ∈ vals ↔ ∃ m < 64, ∃ c < p.n, ∃ j < 2, i = (m * 512 + c) * 2 + j ∧
        w = BitVec.ofNat 32 (psum fam (row m) (col c) (tagA m j) (tagB c j) j).1) ∧
    ∃ vals fl, x.dotEffects u fam p = [.acc (accNumber x.f.dst) vals, .mflags fl] ∧
      ∀ i w, (i, w) ∈ vals ↔ ∃ m < 64, ∃ c < p.n, i = m * 512 + c ∧
        w = BitVec.ofNat 32 (dot (if fam = .bf then .bf16 else .f16)
          (Tbl.get 0 ((u.core x.c).chained 1 (accNumber x.f.dst)) (m * 512 + c)).toNat (row m) (col c)).1

/-- R257 to R259: SCAC folds a psum buffer into an accumulator block by block; ACCZ clears an accumulator or a psum
buffer; ACCLD loads the first N columns of an accumulator from a hold.
R258 at its landing: every element of an accumulator, or every psum word, kind, column count and tag of a psum
buffer, reads 0 afterwards, and nothing else of the core changes. -/
def Obligations.AccumulatorOperations : Prop :=
  (Answers .scac .scac (fun x u v =>
     let k := u.core x.c
     let b := pbNumber x.f.sa; let n := accNumber x.f.dst
     let tag : Nat → Nat := fun i => (Tbl.get 0 (k.ptagOf b) i).toNat
     let word : Nat → Nat → Nat → Nat := fun m c j => (Tbl.get 0 (k.pbOf b) ((m * 512 + c) * 2 + j)).toNat
     k.scacFree ≤ x.now ∧ x.pending u 0 (Effect.onPb b) = false ∧ x.pending u 2 (Effect.onAcc n) = false ∧
     ∃ vals fl, v = (x.unitResult u (k.pnOf b / 16 + 6) 2 [.acc n vals, .mflags fl] none).modCore x.c
         (fun k' => { k' with scacFree := x.now + k.pnOf b / 16 }) ∧
       (∃ g : Nat → Nat → Nat × Flags, (vals, fl) = accElems (if k.pkindOf b = 0 then 0 else k.pnOf b) g ∧
         ∀ m c, g m c = [0, 1].foldl (fun acc j =>
           foldPsum (k.pkindOf b) (x.f.mod.getLsbD 2) (word m c j) (tag (2 * m + j)) (tag (128 + 2 * c + j)) acc)
           ((Tbl.get 0 (k.chained 2 n) (m * 512 + c)).toNat, 0))) ∧
   (∀ (n : Fin 4), Acts .accz .accz (fun x _ => x.f.dst = .acc n) (fun x u => x.matrix u 2 0 [.accZero n.val])) ∧
   (∀ (n : Fin 2), Acts .accz .accz (fun x _ => x.f.dst = .pb n) (fun x u => x.matrix u 2 0 [.pbZero n.val])) ∧
   Answers .accld .accld (fun x u v =>
     let n := (x.reg u x.f.sb).toNat
     let ref := holdRef x.c (x.reg u x.f.sa)
     let es := if x.f.typ = .f32 then 4 else 2
     let stride := x.f.imm.toNat % 65536 * 16
     let rows : List HoldRange := (List.range 64).map (fun m =>
       { core := ref.1, off := ref.2 + m * stride, size := n * es })
     (u.core x.c).accFree ≤ x.now ∧ (u.core x.c).acquirePending x.st = false ∧ n ≠ 0 ∧ n % 16 = 0 ∧ n ≤ 512 ∧
     ref.2 % 16 = 0 ∧ x.rangesTrap u rows = none ∧ u.rangesBad rows = none ∧
     ∃ vals fl, v = (x.unitResult u (n / 4 + (if ref.1 = some x.c then 8 else 20)) 0
         [.acc (accNumber x.f.dst) vals, .mflags fl]
         (some (x.readsOf u (accNumber x.f.dst) n [] rows))).modCore x.c
           (fun k => { k with accFree := x.now + n / 4 }) ∧
       (vals, fl) = accElems n (fun m c =>
         let row := u.rangeNum { core := ref.1, off := ref.2 + m * stride, size := n * es }
         if x.f.typ = .f32 then (row / 2 ^ (32 * c) % 2 ^ 32, 0)
         else ((convert .bf16 .f32 0 (row / 2 ^ (16 * c) % 2 ^ 16)).1.toNat,
           (convert .bf16 .f32 0 (row / 2 ^ (16 * c) % 2 ^ 16)).2)))) ∧
  ∀ (k : Core) (tick : Nat),
    (∀ n < 4, ∀ i, Tbl.get 0 ((k.apply tick (.accZero n)).accOf n) i = 0) ∧
    (∀ n < 4, ∀ m < 4, m ≠ n → (k.apply tick (.accZero n)).accOf m = k.accOf m) ∧
    (∀ n < 4, { k.apply tick (.accZero n) with acc := k.acc } = k) ∧
    (∀ n < 2, let k' := k.apply tick (.pbZero n)
      { k' with pb0 := k.pb0, pb1 := k.pb1, pkind0 := k.pkind0, pkind1 := k.pkind1, pn0 := k.pn0, pn1 := k.pn1,
                ptag0 := k.ptag0, ptag1 := k.ptag1 } = k ∧ (∀ i, Tbl.get 0 (k'.pbOf n) i = 0) ∧
      k'.pkindOf n = 0 ∧ k'.pnOf n = 0 ∧ (∀ i, Tbl.get 0 (k'.ptagOf n) i = 0) ∧
      k'.pbOf (1 - n) = k.pbOf (1 - n) ∧ k'.pkindOf (1 - n) = k.pkindOf (1 - n) ∧ k'.pnOf (1 - n) = k.pnOf (1 - n) ∧
      k'.ptagOf (1 - n) = k.ptagOf (1 - n))

/-- R261 to R268: DRAIN enters the engines with its accumulator, reads it whole when it starts, converts each element
to its type and writes the elements of a row one behind another (without its epilogue); EPI and MASKLD put a checked
block of the hold on its way to EPARAM and EMASK; EPI.OUT the images of EHEAP and EHIST on theirs, where those lie
below the end of the hold, and traps with HOLD_RANGE at the lowest byte past it where one reaches there (R138). -/
def Obligations.DrainAndEpilogue : Prop :=
  (∀ (s : State) (c : Nat) (cp : Copy), cp.isDrain = true → cp.wsem = false → cp.epi = false →
    ∀ q ∈ ((s.startCopy c cp).core c).copies, q.id = cp.id → q.isDrain = true ∧ q.started = true ∧
      (∀ m < 64, ∀ n < cp.columns, ∀ i < cp.elemBytes,
        let x := (Tbl.get 0 ((s.core c).accOf cp.accNum) (m * 512 + n)).toNat
        q.image.get ((m * cp.columns + n) * cp.elemBytes + i) =
          BitVec.ofNat 8 ((convert .f32 cp.typ (cp.mod &&& 7) x).1.toNat / 256 ^ i)) ∧
      ∀ (w : State) (e : Nat × Nat), q.gotAt e.1 = none → w.sourceByte c q e = (w, .got (q.image.get e.1))) ∧
  let block : Nat → Ctx → State → Memory → Prop := fun size x u m =>
    let k := u.core x.c
    (∀ c ∈ k.copies, ¬ (c.epi = true ∧ c.started = true)) ∧ k.epiFree ≤ x.now ∧ k.acquirePending x.st = false ∧
    x.ea u % 8 = 0 ∧ x.ea u + size ≤ k.holdLimit ∧ k.badByte (addrsFrom (x.ea u) size) = none ∧
    m = memoryOf (k.holdBytes (x.ea u) size)
  Answers .drain .drain (fun x u v =>
    let cp : Copy := { x.copyOf u .drain [] with sc := BitVec.ofNat 64 (accNumber x.f.sc) }
    x.drainTrap u cp = none ∧ x.enginesFull u cp = false ∧ v = x.enterCopy u cp) ∧
  Answers .epi .epi (fun x u v => ∃ m, block 64 x u m ∧ eparamOk m = true ∧
    m.read 0x10 8 + 32768 ≤ (u.core x.c).holdLimit ∧ m.read 0x18 8 + 65536 ≤ (u.core x.c).holdLimit ∧
    v = (x.matrix u 4 0 [.eparam m (x.f.mod.getLsbD 0)]).modCore x.c (fun k => { k with epiFree := x.now + 1 })) ∧
  Answers .maskld .maskld (fun x u v => ∃ m, block 528 x u m ∧ emaskOk m = true ∧
    v = x.matrix u 8 0 [.emask m]) ∧
  Answers .epiOut .epiOut (fun x u v =>
    let k := u.core x.c
    (∀ c ∈ k.copies, ¬ (c.epi = true ∧ c.started = true)) ∧ k.epiFree ≤ x.now ∧
    x.pending u 0 Effect.onEpi = false ∧
    k.eparam.read 0x10 8 + 32768 ≤ k.holdLimit ∧ k.eparam.read 0x18 8 + 65536 ≤ k.holdLimit ∧
    (∀ l ∈ k.loads, l.st = x.st → l.acq = none ∧ l.hasSo = false ∧ l.unOnly = true) ∧
    v = (x.matrix u 100 0 [.epiOut k.epiImages (x.f.mod.getLsbD 0)]).modCore x.c
      (fun k => { k with epiFree := x.now + 96 })) ∧
  let free : Ctx → State → Prop := fun x u => let k := u.core x.c
    (∀ c ∈ k.copies, ¬ (c.epi = true ∧ c.started = true)) ∧ k.epiFree ≤ x.now ∧ x.pending u 0 Effect.onEpi = false
  let heap : Ctx → State → Nat := fun x u => (u.core x.c).eparam.read 0x10 8
  let hist : Ctx → State → Nat := fun x u => (u.core x.c).eparam.read 0x18 8
  let limit : Ctx → State → Nat := fun x u => (u.core x.c).holdLimit
  let fault : Nat → TrapInfo := fun a => { cause := .holdRange, addr0 := a, fdet := 39 }
  Traps .epiOut .epiOut (fun x u => free x u ∧ limit x u < heap x u + 32768 ∧ hist x u + 65536 ≤ limit x u)
    (fun x u => fault (max (heap x u) (limit x u))) ∧
  Traps .epiOut .epiOut (fun x u => free x u ∧ heap x u + 32768 ≤ limit x u ∧ limit x u < hist x u + 65536)
    (fun x u => fault (max (hist x u) (limit x u))) ∧
  Traps .epiOut .epiOut (fun x u => free x u ∧ limit x u < heap x u + 32768 ∧ limit x u < hist x u + 65536)
    (fun x u => fault (max (min (heap x u) (hist x u)) (limit x u)))

/-- R245, R254, R260: SAG writes a scale address generator and SAG.RD reads one; MSTAT, once every matrix operation of
X has landed, reads MFLAG and clears or sets bits of it; MSTMP and MSTMP.ABS set MBASE and return it. -/
def Obligations.MatrixRegisters : Prop :=
  Acts .sag .sag (fun x u => (x.reg u x.f.sa).toNat % 2 = 0 ∧ (x.reg u x.f.sa).toNat < 2 ^ 22 ∧
      (x.reg u x.f.sb).toNat < 2 ^ 22) (fun x u =>
    x.matrix u 1 0 [.sag (x.f.dst == .sgb) (((x.f.imm.truncate 3).zeroExtend 64 <<< 48) |||
      (x.reg u x.f.sb <<< 24) ||| x.reg u x.f.sa)]) ∧
  Traps .sag .sag (fun x u => (x.reg u x.f.sa).toNat % 2 = 1)
    (fun x u => { cause := .align, addr0 := (x.reg u x.f.sa).toNat, fdet := 39 }) ∧
  Traps .sag .sag (fun x u => (x.reg u x.f.sa).toNat % 2 = 0 ∧ 2 ^ 22 ≤ (x.reg u x.f.sa).toNat)
    (fun x u => { cause := .holdRange, addr0 := (x.reg u x.f.sa).toNat, fdet := 39 }) ∧
  Acts .sagRd .sagRd (fun x u => x.fl = true ∨ ∀ l ∈ (u.core x.c).flight, ∀ e ∈ l.effects, ∀ b v, e ≠ .sag b v)
    (fun x u => x.matrix u 1 0
      [.reg x.st x.f.dst (if x.f.sa = .sgb then (u.core x.c).sgb else (u.core x.c).sga)]) ∧
  Acts .mstat .mstat (fun x u => ∀ l ∈ (u.core x.c).flight, ¬ (l.st = x.st ∧ l.matrix = true)) (fun x u =>
    let old := (u.core x.c).mflag
    let m : Flags := x.f.imm.truncate 5
    let kept := if x.f.mod.toNat % 4 = 1 then old &&& ~~~m else if x.f.mod.toNat % 4 = 2 then old ||| m else old
    x.matrix (u.modCore x.c (fun k => { k with mflag := kept })) 1 0 [.reg x.st x.f.dst (old.zeroExtend 64)]) ∧
  Waits .mstat .mstat (fun x u => ∃ l ∈ (u.core x.c).flight, l.st = x.st ∧ l.matrix = true)
    (fun _ _ => .latency) ∧
  Acts .mstmp .mstmp (fun _ _ => True) (fun x u =>
    let v := BitVec.ofNat 64 x.now + x.raw u .untyped x.f.sa
    x.matrix u 1 0 [.mbase v, .reg x.st x.f.dst v]) ∧
  Acts .mstmpAbs .mstmpAbs (fun _ _ => True) (fun x u =>
    x.matrix u 1 0 [.mbase (x.rawZ u x.f.sa), .reg x.st x.f.dst (x.rawZ u x.f.sa)])

/-! ### Atomics, semaphores, barriers and mailboxes -/

/-- R276, R277: an AMO on an aligned location of LPDDR 6 outside DC pages goes to its home with its operands; with
release, or on an SO page, it commits the task's DC stores, and below DEV a release enters the log.
R276, R291: one to any other page traps with ACCESS, from the state in which it came.
R276, R279: the value that an atomic stores, for locations of 32 and of 64 bits: ADD wraps, MIN and MAX compare signed,
MINN and MAXN unsigned, MAXN.SER by the sign of the difference; a CAS that fails stores nothing.
R271, R276: a pending AMO whose line no cache holds delivers what its location held, extended by its type, and stores
the new value there; one that releases nothing leaves every other byte of memory as it was. -/
def Obligations.Atomics : Prop :=
  (∀ p ∈ [((Instr.amoAdd, Op.amoAdd), 0), ((.amoAnd, .amoAnd), 1), ((.amoOr, .amoOr), 2), ((.amoXor, .amoXor), 3),
       ((.amoMin, .amoMin), 4), ((.amoMax, .amoMax), 5), ((.amoMinn, .amoMinn), 6), ((.amoMaxn, .amoMaxn), 7),
       ((.amoXchg, .amoXchg), 8), ((.amoCas, .amoCas), 9)],
     Answers p.1.1 p.1.2 (fun x u v => ∃ m ms,
       let n := x.f.typ.width / 8
       let rel := x.f.mod.getLsbD 4
       x.plainAccess u .amo (x.ea u) n = .ok m ms ∧ (∀ q ∈ ms, isLpddr q.pa = true) ∧
       (rel = true → x.modScope.narrow = true → m.logStalls x.c x.st = false) ∧
       let ord : Option Scope := if ∀ q ∈ ms, q.kind = .un then none else some x.modScope
       let w := if rel = true ∨ ∃ q ∈ ms, q.kind = .so then m.commitOwn x.c else m
       let w := if rel = true ∧ x.modScope.narrow = true then w.logRelease x.c x.st else w
       v = w.issueLoad x.c {
         st := x.st, seq := 0, parts := ms.mapIdx (fun i q => (i, q.pa, q.kind)),
         dest := .reg x.f.dst x.f.typ.signed n, acq := if x.f.mod.getLsbD 3 then ord else none,
         origin := originOf (x.ea u) n 0 (addrsFrom (x.ea u) n), bundle := x.a,
         amo := some {
           fn := p.2, size := n, signed := x.f.typ.signed, ser := x.f.aux.getLsbD 0,
           b := (x.reg u x.f.sb).toNat % 2 ^ (8 * n), c := (x.reg u x.f.sc).toNat % 2 ^ (8 * n),
           rel := if rel then ord else none } })) ∧
  (∀ p ∈ [(Instr.amoAdd, Op.amoAdd), (.amoAnd, .amoAnd), (.amoOr, .amoOr), (.amoXor, .amoXor), (.amoMin, .amoMin),
       (.amoMax, .amoMax), (.amoMinn, .amoMinn), (.amoMaxn, .amoMaxn), (.amoXchg, .amoXchg), (.amoCas, .amoCas)],
     Traps p.1 p.2 (fun x u => ∃ m ms, x.plainAccess u .amo (x.ea u) (x.f.typ.width / 8) = .ok m ms ∧
         ∃ q ∈ ms, isLpddr q.pa = false)
       (fun x u => { cause := .access, addr0 := x.ea u, fdet := 15, late := true })) ∧
  (∀ (w : AmoWork) (n : Nat), n = 32 ∨ n = 64 → 8 * w.size = n → ∀ a b c : BitVec n, w.b = b.toNat → w.c = c.toNat →
    let stores : BitVec n → Prop := fun v => w.new a.toNat = some v.toNat
    (w.fn = 0 → stores (a + b)) ∧ (w.fn = 1 → stores (a &&& b)) ∧ (w.fn = 2 → stores (a ||| b)) ∧
    (w.fn = 3 → stores (a ^^^ b)) ∧ (w.fn = 4 → stores (if a.sle b then a else b)) ∧
    (w.fn = 5 → stores (if b.sle a then a else b)) ∧ (w.fn = 6 → stores (if a ≤ b then a else b)) ∧
    (w.fn = 7 → w.ser = false → stores (if b ≤ a then a else b)) ∧
    (w.fn = 7 → w.ser = true → stores (if 0 < (b - a).toInt then b else a)) ∧ (w.fn = 8 → stores b) ∧
    (w.fn = 9 → w.new a.toNat = if a = c then some b.toNat else none)) ∧
  ∀ (s : State) (c : Nat) (l : PLoad) (w : AmoWork) (q : Nat × Nat) (pa : Nat), s.MemoryWf → l.amo = some w →
    w.size ∈ [4, 8] → pa % w.size = 0 → pa < 2 ^ 48 → (∀ a ∈ addrsFrom pa w.size, isDevice a = false) →
    pa / 64 ∉ s.badLines → (∀ d, ∀ x ∈ (s.die d).rdc, ∀ o ∈ x.dirty, o < 64) →
    l.parts.map (fun p => p.2.1) = addrsFrom pa w.size → l.origin.length = l.parts.length →
    (∀ o ∈ l.origin, (o.lane, o.piece) = q) → (∀ d, ∀ x ∈ (s.die d).rdc, x.line ≠ pa / 64) →
    let t := s.loadPiece c l q
    let old := s.mem.read pa w.size
    t.mem.read pa w.size = ((w.new old).getD old) % 256 ^ w.size ∧
    (l.hasSo = false → w.rel = none → ∀ a, a < pa ∨ pa + w.size ≤ a → t.mem.get a = s.mem.get a) ∧
    ∀ o signed, l.dest = .reg o signed w.size → isRegister o = true → o ≠ .s 0 → o ≠ .p 0 → (t.stream c l.st).reg o =
      if signed = true then (BitVec.ofNat (8 * w.size) old).signExtend 64 else BitVec.ofNat 64 old

/-- R281 to R283: SEMI adds to the semaphore of a reachable core as a release, SEMW takes counts, SEMS sets and SEMS.R
reads the count; each returns the old count 2 ticks later, which for a SEMI to another core is the model's choice (log
entry 97).  A SEMW finds before it the waiters of its semaphore but for copies issued in its own tick (R280). -/
def Obligations.Semaphores : Prop :=
  let sem : Ctx → Nat := fun x => x.f.aux.toNat % 256
  let old : State → Nat → Ctx → Nat := fun u c x => Tbl.get 0 (u.core c).sem (sem x)
  let gives : Ctx → State → Nat → State := fun x w n => x.locked w 2 [.reg x.st x.f.dst (BitVec.ofNat 64 n)]
  let covered : Ctx → State → Prop := fun x u =>
    (x.rawZ u x.f.sa).toNat ≤ old u x.c x ∧
      ((∀ q ∈ (u.core x.c).swq, q.sem ≠ sem x ∨ (u.core x.c).sameTick x.now q = true) ∨
      ((x.rawZ u x.f.sa).toNat = 0 ∧ x.f.mod.getLsbD 3 = false))
  Answers .semi .semi (fun x u v => ∃ t, x.selected u = some t ∧ (u.core x.c).settled x.st = true ∧
    (x.modScope.narrow = true → u.logStalls x.c x.st = false) ∧
    v = gives x ((u.release x.c x.st x.modScope).semAdd t (sem x) (x.rawZ u x.f.sa).toNat) (old u t x)) ∧
  Traps .semi .semi (fun x u => x.selected u = none)
    (fun x u => { cause := .access, addr0 := (x.reg u x.f.sb).toNat, fdet := 15 }) ∧
  Answers .semw .semw (fun x u v => (x.rawZ u x.f.sa).toNat ≤ 65535 ∧ (u.core x.c).semw = none ∧ covered x u ∧
    v = gives x ((u.acquireRdc x.c x.modScope).modCore x.c (fun k =>
      { k with sem := Tbl.set k.sem (sem x) (old u x.c x - (x.rawZ u x.f.sa).toNat) })) (old u x.c x)) ∧
  Answers .semw .semw (fun x u v => (x.rawZ u x.f.sa).toNat ≤ 65535 ∧ (u.core x.c).semw = none ∧ ¬ covered x u ∧
    x.f.mod.getLsbD 3 = true ∧ v = gives x u (old u x.c x)) ∧
  Holds .semw .semw (fun x u v => (x.rawZ u x.f.sa).toNat ≤ 65535 ∧ (u.core x.c).semw = none ∧ ¬ covered x u ∧
    x.f.mod.getLsbD 3 = false ∧ v = u.setCore x.c { u.core x.c with
      swq := (u.core x.c).lineSemw (.semw (sem x) (x.rawZ u x.f.sa).toNat) x.now, semw := some x.heldBundle }) ∧
  Traps .semw .semw (fun x u => 65535 < (x.rawZ u x.f.sa).toNat) (fun _ _ => { cause := .illfield }) ∧
  Acts .sems .sems (fun _ _ => True) (fun x u =>
    let new := min (x.rawZ u x.f.sa).toNat 65535
    gives x ((u.setCore x.c { u.core x.c with
        sem := Tbl.set (u.core x.c).sem (sem x) new,
        evl := if old u x.c x < new then (u.core x.c).evl ||| 2 else (u.core x.c).evl }).serve x.c (sem x)
      ((u.core x.c).swq.length + 1)) (old u x.c x)) ∧
  Acts .semsR .semsR (fun _ _ => True) (fun x u => gives x u (old u x.c x))

/-- R284: a BAR of a task in no convoy commits its DC stores and returns 0, which lands 2 ticks later by the model's
reading (log entry 58); one of a convoy's task arrives, and passes the barrier for all members when it is the last to
arrive, else waits.
R287 to R289: MBS enters a value into a mailbox of its own core, where it waits while the mailbox is full but for NB, or
sends it to another core's; MBR takes or peeks at the oldest entry, and with NB reports in a predicate whether there was
one.  That P waits for the arrival of a value sent to another core, with NB too, is the model's reading (log entry 58).
It waits for the receiver that it has addressed, which a save of that receiver alone does not end (log entry 136), and
traps with ACCESS, its entry withdrawn, once the receiver's task has ended. -/
def Obligations.BarriersAndMailboxes : Prop :=
  (let bar : Ctx → Nat := fun x => x.f.aux.toNat % 16
   let arrives : Ctx → State → Convoy → State := fun x u g =>
     let m := ((u.core x.c).task.map (fun t => t.member)).getD 0
     let w := if (Tbl.get 0 g.arrived (bar x)).testBit m then u
       else (u.release x.c x.st (if x.modScope.code < g.placement.code then g.placement else x.modScope)).setConvoy
         { g with arrived := Tbl.set g.arrived (bar x) (Tbl.get 0 g.arrived (bar x) + 2 ^ m) }
     w.modCore x.c (fun k => { k with bar := some x.heldBundle })
   let mayArrive : Ctx → State → Convoy → Prop := fun x u g =>
     let m := ((u.core x.c).task.map (fun t => t.member)).getD 0
     u.convoyOn x.c = some g ∧ (u.core x.c).bar = none ∧ ((Tbl.get 0 g.arrived (bar x)).testBit m = false →
       (u.core x.c).settled x.st = true ∧ u.logStalls x.c x.st = false)
   Acts .bar .bar (fun x u => u.convoyOn x.c = none)
     (fun x u => x.locked (u.commitOwn x.c) 2 [.reg x.st x.f.dst 0]) ∧
   Ends .bar .bar .issued (fun x u v => ∃ g, mayArrive x u g ∧ (arrives x u g).barrierFull g.id (bar x) = true ∧
     v = (arrives x u g).passBarrier g.id (bar x)) ∧
   Holds .bar .bar (fun x u v => ∃ g, mayArrive x u g ∧ (arrives x u g).barrierFull g.id (bar x) = false ∧
     v = arrives x u g)) ∧
  let box : Ctx → Nat := fun x => x.f.aux.toNat % 8
  let gives : Ctx → State → Nat → State := fun x w n => x.locked w 2 [.reg x.st x.f.dst (BitVec.ofNat 64 n)]
  let new : Ctx → State → Prop := fun x u => (u.core x.c).mbsTo = none ∨ u.convoyOn x.c = none
  let sent : Ctx → State → Convoy → Nat → Prop := fun x u g m => (u.core x.c).mbsTo = some m ∧ u.convoyOn x.c = some g
  Answers .mbs .mbs (fun x u v => new x u ∧ x.selected u = some x.c ∧ ((u.core x.c).mailbox (box x)).cnt < 4 ∧
    (u.core x.c).settled x.st = true ∧ u.logStalls x.c x.st = false ∧
    v = gives x ((u.release x.c x.st .clus).enterMail x.c (box x) (x.reg u x.f.sa)) 1) ∧
  Answers .mbs .mbs (fun x u v => new x u ∧ x.selected u = some x.c ∧ 4 ≤ ((u.core x.c).mailbox (box x)).cnt ∧
    x.f.mod.getLsbD 0 = true ∧ v = gives x u 0) ∧
  Waits .mbs .mbs (fun x u => new x u ∧ x.selected u = some x.c ∧ 4 ≤ ((u.core x.c).mailbox (box x)).cnt ∧
    x.f.mod.getLsbD 0 = false) (fun _ _ => .other) ∧
  Holds .mbs .mbs (fun x u v => new x u ∧ ∃ t, x.selected u = some t ∧ t ≠ x.c ∧
    v = (u.modCore t (fun k => { k with mail := k.mail ++
        [{ box := box x, value := x.reg u x.f.sa, sender := x.c, held := x.heldBundle }] })).modCore x.c
      (fun k => { k with mbsTo := some (((u.core t).task.map (fun a => a.member)).getD 0) })) ∧
  Traps .mbs .mbs (fun x u => new x u ∧ x.selected u = none)
    (fun x u => { cause := .access, addr0 := (x.reg u x.f.sb).toNat, fdet := 15 }) ∧
  Waits .mbs .mbs (fun x u => ∃ g m, sent x u g m ∧ m ∉ g.ended ∧ ∃ e ∈ u.cores, ∃ q ∈ e.2.mail, q.sender = x.c)
    (fun _ _ => .other) ∧
  (∀ (b : Bundle) (f : Fields) (s u : State) (g : Convoy) (m : Nat),
    let x := Ctx.of .mbs b f s
    x.ready s = some u → sent x u g m → m ∈ g.ended →
    exec (.mbs b f) s = .next (x.traps (u.withdrawMail x.c)
      { cause := .access, addr0 := (x.reg u x.f.sb).toNat, fdet := 15 })) ∧
  Acts .mbr .mbr (fun x u => 0 < ((u.core x.c).mailbox (box x)).cnt) (fun x u =>
    let m := (u.core x.c).mailbox (box x)
    x.locked (u.setCore x.c ((u.core x.c).setMailbox (box x) (if x.f.mod.getLsbD 1 then m
        else { m with head := (m.head + 1) % 4, cnt := m.cnt - 1 }))) 2
      (.reg x.st x.f.dst (Tbl.get 0 m.slots m.head) ::
        (if x.f.mod.getLsbD 0 then [.reg x.st x.f.sc (BitVec.allOnes 64)] else []))) ∧
  Acts .mbr .mbr (fun x u => ((u.core x.c).mailbox (box x)).cnt = 0 ∧ x.f.mod.getLsbD 0 = true)
    (fun x u => x.locked u 2 [.reg x.st x.f.sc 0]) ∧
  Waits .mbr .mbr (fun x u => ((u.core x.c).mailbox (box x)).cnt = 0 ∧ x.f.mod.getLsbD 0 = false) (fun _ _ => .other)

/-! ### Energy -/

/-- R341 to R346, Tables 13.7 and 13.8: a selector of 0 names the issuing island and a Duwen core may name any;
each read gives its field 4 ticks later, after the boundaries that have come (R326), and each write makes its value
pending and gives the old one.
R17, R341: a write is performed at once on the issuing island, and on another 6 of its ticks later at the earliest,
behind the core's earlier ones; until then the core's own operations find it applied (log entry 98).
R342, R345, R346: a value that a field may not take traps with ILLFIELD.  The excess of a result of another island over
10 ticks is a free value (log entry 46), and that a selector which names no island traps before its value is looked at
is the model's reading (log entry 47). -/
def Obligations.EnergyInstructions : Prop :=
  let names : Ctx → State → Nat → Prop := fun x u i =>
    (x.reg u x.f.sa = 0 ∧ i = islandOf x.c) ∨
      (isFirmware x.c = true ∧ i < 24 ∧ x.reg u x.f.sa = BitVec.ofNat 64 (64 + i))
  let gives : Ctx → State → Nat → Word → State := fun x w i v =>
    if i = islandOf x.c then x.locked w 4 [.reg x.st x.f.dst v]
    else x.locked { w with fresh := w.fresh + 1 } (10 + Config.freePick w.fresh) [.reg x.st x.f.dst v]
  let field : Island → Nat → Word := fun v n =>
    match n with
    | 0 => BitVec.ofInt 64 v.bal | 1 => BitVec.ofNat 64 v.grant | 2 => BitVec.ofNat 64 v.res
    | 3 => BitVec.ofNat 64 v.rbal | 4 => BitVec.ofNat 64 (2 * v.grant) | 5 => BitVec.ofNat 64 v.tides
    | 6 => BitVec.ofNat 64 v.mrate
    | _ => BitVec.ofNat 64 (v.fweight * 16777216 + v.bweight * 65536 + v.bcost)
  let classWord : Island → Nat → Word := fun v n =>
    BitVec.ofNat 64 (Tbl.get 0 v.weight n * 65536 + Tbl.get 0 v.cost n)
  let new : Ctx → State → Nat := fun x u => (x.reg u x.f.sb).toNat
  let now : State → Nat → State := fun u i => u.catchTides (i / 6)
  let seen : Ctx → State → Nat → Island := fun x u i => ((now u i).island i).seenBy x.c
  Answers .ebud .ebud (fun x u v => ∃ i, names x u i ∧ v = gives x (now u i) i (field (seen x u i) (x.f.imm.toNat % 8))) ∧
  Answers .ebudW .ebudW (fun x u v => ∃ i, names x u i ∧
    let d := seen x u i; let n := x.f.imm.toNat % 8
    (n = 1 ∧ new x u ≤ 16383 ∨ n = 2 ∧ new x u ≤ d.pgrant.getD d.grant ∨ n = 6 ∧ 16 ≤ new x u ∧ new x u ≤ 30 ∨
      n = 7 ∧ new x u < 4294967296) ∧
    v = gives x ((now u i).sendWrite x.c i (.field n (new x u))) i (field d n)) ∧
  (∀ (d : Island) (v : Nat),
    (v ≤ 16383 → d.write (.field 1 v) =
      { d with pgrant := some v, pres := if v < d.pres.getD d.res then some v else d.pres }) ∧
    (v ≤ d.pgrant.getD d.grant → d.write (.field 2 v) = { d with pres := some v }) ∧
    (16 ≤ v → v ≤ 30 → d.write (.field 6 v) = { d with pmrate := some v }) ∧
    (v < 4294967296 → d.write (.field 7 v) = { d with pballast := some v }) ∧
    (∀ n < 16, v < 16777216 → d.write (.cls n v) =
      { d with pcost := Tbl.set d.pcost n (v % 65536), pweight := Tbl.set d.pweight n (v / 65536) }) ∧
    (∀ n b, d.write (.limit n b) = d.setLimit n b)) ∧
  (∀ (s : State) (c i : Nat) (w : IslandWrite),
    (i = islandOf c → s.sendWrite c i w = s.setIsland i ({ s.island i with acted := true }.write w)) ∧
    (i ≠ islandOf c → ∃ tick, (s.island i).tick + 6 ≤ tick ∧
      (∀ e ∈ (s.island i).inbox, e.sender = c → e.tick ≤ tick) ∧
      s.sendWrite c i w = ({ s with fresh := s.fresh + 1 } : State).setIsland i { s.island i with
        inbox := (s.island i).inbox ++ [{ tick := tick, sender := c, write := w }] })) ∧
  Traps .ebudW .ebudW (fun x u => (∃ i, names x u i) ∧ x.f.imm.toNat % 8 ∈ [0, 3, 4, 5])
    (fun _ _ => { cause := .illfield }) ∧
  Traps .ebudW .ebudW (fun x u => ∃ i, names x u i ∧ let n := x.f.imm.toNat % 8
      (n = 1 ∧ 16383 < new x u ∨ n = 2 ∧ (seen x u i).pgrant.getD (seen x u i).grant < new x u ∨
        n = 6 ∧ (new x u < 16 ∨ 30 < new x u) ∨ n = 7 ∧ 4294967296 ≤ new x u))
    (fun _ _ => { cause := .illfield }) ∧
  Answers .evar .evar (fun x u v => ∃ t, (u.core x.c).task = some t ∧ v = x.locked u 4 [.reg x.st x.f.dst t.drec]) ∧
  Answers .ejrd .ejrd (fun x u v => ∃ t, (u.meterLines.core x.c).task = some t ∧
    v = x.locked u.meterLines 4 [.reg x.st x.f.dst t.jctr]) ∧
  Answers .ejrdB .ejrdB (fun x u v => ∃ t, (u.meterLines.core x.c).task = some t ∧
    v = x.locked u.meterLines 4 [.reg x.st x.f.dst t.mbytes]) ∧
  Answers .ejrdI .ejrdI (fun x u v => ∃ i, names x u i ∧
    v = gives x (now u i) i (BitVec.ofNat 64 ((now u i).island i).emeas)) ∧
  Answers .ecls .ecls (fun x u v => ∃ i, names x u i ∧
    v = gives x (now u i) i (classWord (seen x u i) (x.f.imm.toNat % 16))) ∧
  Answers .eclsW .eclsW (fun x u v => ∃ i, names x u i ∧ new x u < 16777216 ∧
    let n := x.f.imm.toNat % 16
    v = gives x ((now u i).sendWrite x.c i (.cls n (new x u))) i (classWord (seen x u i) n)) ∧
  Traps .eclsW .eclsW (fun x u => (∃ i, names x u i) ∧ 16777216 ≤ new x u) (fun _ _ => { cause := .illfield }) ∧
  Answers .ethr .ethr (fun x u v => ∃ i, names x u i ∧ v = gives x (now u i) i (seen x u i).status) ∧
  Answers .ethrW .ethrW (fun x u v => ∃ i, names x u i ∧ new x u < 16 ∧ new x u % 8 ≤ 5 ∧
    v = gives x ((now u i).sendWrite x.c i (.limit (new x u % 8) ((new x u).testBit 3))) i (seen x u i).status) ∧
  Traps .ethrW .ethrW (fun x u => (∃ i, names x u i) ∧ (16 ≤ new x u ∨ 5 < new x u % 8))
    (fun _ _ => { cause := .illfield }) ∧
  (∀ p ∈ [(Instr.ebud, Op.ebud), (.ejrdI, .ejrdI), (.ecls, .ecls), (.ethr, .ethr)],
    Traps p.1 p.2 (fun x u => x.reg u x.f.sa ≠ 0 ∧ isFirmware x.c = false) (fun _ _ => { cause := .priv })) ∧
  ∀ p ∈ [(Instr.ebud, Op.ebud), (.ebudW, .ebudW), (.ejrdI, .ejrdI), (.ecls, .ecls), (.eclsW, .eclsW), (.ethr, .ethr),
      (.ethrW, .ethrW)],
    Traps p.1 p.2 (fun x u => x.reg u x.f.sa ≠ 0 ∧ isFirmware x.c = true ∧
        ((x.reg u x.f.sa).toNat < 64 ∨ 88 ≤ (x.reg u x.f.sa).toNat))
      (fun x u => { cause := .access, addr0 := (x.reg u x.f.sa).toNat, fdet := 7 })

/-! ### Charts and sampling -/

/-- R349, R351, R353 to R356, R358: what each chart instruction leaves on a slot whose handle passes its checks and in
whose line nothing stands; the result of OPEN is the handle, of APPEND and CLOSE the token count, of a proposal the
match length, and it lands after 1 tick, before the stream's next bundle (R351), which is the model's choice (log entry
45). Behind an operation of another core or a transfer P takes the last place in the line and waits, in every
synchronous operation on a slot; a transfer takes it and lets P go on.
R355, R356: a proposal drafts what followed the most recent earlier occurrence of the longest suffix that has one,
within MMIN and LMAX; the branches of CHT.PROPT are the earlier occurrences in turn whose next token no kept branch
has. -/
def Obligations.ChartInstructions : Prop :=
  let gives : Ctx → State → Word → State := fun x w v => x.lockedNext w [.reg x.st x.f.dst v]
  let slot : Ctx → State → Nat → Nat → ChartSlot := fun _ u d n => (u.die d).chart n
  let usable : Ctx → State → ChartSlot → Prop := fun x u t =>
    x.handleDetail u (x.reg u x.f.sa) = none ∧ t = u.chartOf (x.reg u x.f.sa) ∧ t.moves = [] ∧
      (u.core x.c).acquirePending x.st = false
  Answers .chtOpen .chtOpen (fun x u v => ∃ n < 512,
    let e := (x.rawZ u x.f.sa).toNat
    let d := dieOf x.c
    10 ≤ e ∧ e ≤ 20 ∧ (x.f.mod.getLsbD 0 = true → (u.core x.c).cbl.length < 8) ∧
    (u.core x.c).acquirePending x.st = false ∧ (slot x u d n).opn = false ∧ (∀ m < n, (slot x u d m).opn = true) ∧
    (u.die d).openPositions + 2 ^ e ≤ 2 ^ 26 ∧ (slot x u d n).moves = [] ∧
    let gen := if (slot x u d n).gen = 65535 then 1 else (slot x u d n).gen + 1
    let h : Word := BitVec.ofNat 64 (gen * 65536 + d * 512 + n)
    let w := u.setChart x.c n { ChartSlot.reset with opn := true, gen := gen, asid := rootAsid (u.core x.c).ptroot, log2c := e }
    v = gives x (if x.f.mod.getLsbD 0 then w.modCore x.c (fun k => { k with cbl := k.cbl ++ [h] }) else w) h) ∧
  Answers .chtAppend .chtAppend (fun x u v => ∃ t,
    let o := (x.reg u x.f.sb).toNat; let n := (x.reg u x.f.sc).toNat
    x.holdCheck u o (4 * n) 4 false = none ∧ usable x u t ∧ n ≤ 65536 ∧
    (u.core x.c).badByte (addrsFrom o (4 * n)) = none ∧
    let t' := t.append ((List.range n).map (fun j => BitVec.ofNat 32 ((u.core x.c).holdRead (o + 4 * j) 4)))
    v = gives x (u.setChart x.c (handleSlot (x.reg u x.f.sa)) t') (BitVec.ofNat 64 t'.n)) ∧
  Answers .chtClose .chtClose (fun x u v => ∃ t, usable x u t ∧
    v = gives x (u.closeChart (x.reg u x.f.sa)) (BitVec.ofNat 64 t.n)) ∧
  (∀ p ∈ [((Instr.chtProp, Op.chtProp), 80, Ctx.draftBlock), ((.chtPropt, .chtPropt), 288, Ctx.branchBlock)],
    Answers p.1.1 p.1.2 (fun x u v => ∃ t,
      let o := (x.reg u x.f.sb).toNat
      x.holdCheck u o p.2.1 16 true = none ∧ usable x u t ∧ (u.core x.c).loadsBefore x.st = false ∧
      let r := p.2.2 x t
      v = gives x (x.holdPut u (r.1.mapIdx (fun i b => (o + i, b)))) (BitVec.ofNat 64 r.2))) ∧
  (∀ p ∈ [((Instr.chtSave, Op.chtSave), true), ((.chtLoad, .chtLoad), false)],
    Answers p.1.1 p.1.2 (fun x u v => ∃ m : ChartMove,
      let h := x.reg u x.f.sa
      let t := u.chartOf h
      (x.reg u x.f.sb).toNat % 64 = 0 ∧ x.handleDetail u h = none ∧
      m = { sync := false, save := p.2, core := x.c, token := (match x.f.dst with | .s r => r.val | _ => 0),
            image := (x.reg u x.f.sb).toNat, slot := handleSlot h, asid := t.asid, seq := (u.core x.c).seq } ∧
      v = (u.setCore x.c { u.core x.c with
          charts := (u.core x.c).charts ++ [m], seq := (u.core x.c).seq + 1 }).setChart x.c
        (handleSlot h) { t with busy := t.moves.isEmpty || t.busy, moves := t.moves ++ [m] })) ∧
  (let behind : Ctx → State → State → Prop := fun x u v =>
     let h := x.reg u x.f.sa
     let t := u.chartOf h
     x.handleDetail u h = none ∧ (u.core x.c).acquirePending x.st = false ∧ t.moves ≠ [] ∧
     (∀ m ∈ t.moves, m.ofCore x.c = false) ∧
     v = (u.setChart x.c (handleSlot h) { t with moves := t.moves ++
       [{ sync := true, save := false, core := x.c, token := 0, image := 0, slot := handleSlot h, asid := t.asid,
          seq := 0 }] }).modCore x.c (fun k => { k with held := some (x.o, x.heldBundle) })
   Holds .chtClose .chtClose behind ∧
   Holds .chtAppend .chtAppend (fun x u v =>
     x.holdCheck u (x.reg u x.f.sb).toNat (4 * (x.reg u x.f.sc).toNat) 4 false = none ∧
     (x.reg u x.f.sc).toNat ≤ 65536 ∧ behind x u v) ∧
   ∀ p ∈ [((Instr.chtProp, Op.chtProp), 80), ((.chtPropt, .chtPropt), 288)],
     Holds p.1.1 p.1.2 (fun x u v => x.holdCheck u (x.reg u x.f.sb).toNat p.2 16 true = none ∧
       (u.core x.c).loadsBefore x.st = false ∧ behind x u v)) ∧
  Traps .chtClose .chtClose (fun x u => ∃ d, x.handleDetail u (x.reg u x.f.sa) = some d)
    (fun x u => { cause := .chart, addr0 := (x.handleDetail u (x.reg u x.f.sa)).getD 0, late := true }) ∧
  ∀ (x : Ctx) (t : ChartSlot),
    let w := t.window
    let least := x.f.imm.toNat % 128; let most := min (x.f.imm.toNat / 256 % 128) (w.length - 1)
    let depth := x.f.imm.toNat / 65536 % 32; let branches := x.f.imm.toNat / 4194304 % 4 + 1
    let occurs : Nat → Nat → Prop := fun l e => e + 1 < w.length ∧ l ≤ e + 1 ∧
      ∀ i < l, w[e + 1 - l + i]? = w[w.length - l + i]?
    let longest : Nat → Prop := fun l =>
      (∀ n, l < n → least ≤ n → n ≤ most → ∀ e, ¬ occurs n e) ∧
      (l ≠ 0 → least ≤ l ∧ l ≤ most ∧ ∃ e, occurs l e)
    let after : Nat → List Nat := fun e => (w.drop (e + 1)).take depth
    let tokens : List Nat → List Byte := fun d => (List.range 16).flatMap (fun i => bytesOfNum (d[i]?.getD 4294967295) 4)
    let head : Nat → Nat → List Byte := fun n l => bytesOfNum n 4 ++ bytesOfNum l 4 ++ bytesOfNum t.n 8
    (∃ d l, x.draftBlock t = (head d.length l ++ tokens d, l) ∧ longest l ∧ (l = 0 → d = []) ∧
      (l ≠ 0 → ∃ e, occurs l e ∧ (∀ e', e < e' → ¬ occurs l e') ∧ d = after e)) ∧
    ∃ es l, x.branchBlock t = (head es.length l ++
        (List.range 4).flatMap (fun i => bytesOfNum ((es[i]?.map after).getD []).length 4) ++
        (List.range 4).flatMap (fun i => tokens ((es[i]?.map after).getD [])), l) ∧ longest l ∧ (l = 0 → es = []) ∧
      (l ≠ 0 → es.length ≤ branches ∧ es.Pairwise (fun a b => b < a ∧ w[a + 1]? ≠ w[b + 1]?) ∧
        (∀ e ∈ es, occurs l e) ∧ ∀ e, occurs l e → e ∈ es ∨ (∃ a ∈ es, e < a ∧ w[a + 1]? = w[e + 1]?) ∨
          (es.length = branches ∧ ∀ a ∈ es, e < a))

/-- R361 to R366: RNG gives a word of its generator and SMP.TEMP the mode word of a temperature, which traps for a NaN
or a negative one; SMP.FILT filters a row in place, SMP.PICK and SMP.VER draw from one, and SMP.STOP moves the tokens
of a stop block along; the address that the trap of SMP.TEMP reports is the detail code, by the model's reading (log
entry 43).  R361 to R366, of their values: the word of Philox-4x32-10; the mode word; the weights, the top k and the
shortest prefix that reaches top-p; the first token whose running sum passes a draw, and the acceptance of a draft; the
match with the smallest index, then string, and else the smallest index from which a string may begin.  The results of
the row and stop operations land after 1 tick, before the stream's next bundle (R360), which is the model's choice (log
entry 45). -/
def Obligations.SamplingInstructions : Prop :=
  let gives : Ctx → State → Nat → State := fun x w n => x.lockedNext w [.reg x.st x.f.dst (BitVec.ofNat 64 n)]
  let row : Nat → Nat → Bool → Ctx → State → Prop := fun size align store x u =>
    let o := (x.reg u x.f.sa).toNat
    x.holdCheck u o size align store = none ∧ (u.core x.c).acquirePending x.st = false ∧
      (store = true → (u.core x.c).loadsBefore x.st = false) ∧ (u.core x.c).badByte (addrsFrom o size) = none
  let table : Ctx → State → List (Nat × Nat) := fun x u => (u.core x.c).rowAt (x.reg u x.f.sa).toNat
  Computes .rng .rng 6 (fun x u => rngWord (x.reg u x.f.sa).toNat (x.reg u x.f.sb).toNat (x.reg u x.f.sc).toNat
    (x.f.mod.getLsbD 0) (x.f.mod.getLsbD 1)) ∧
  Answers .smpTemp .smpTemp (fun x u v => ∃ w, modeWord ((x.rawZ u x.f.sa).toNat % 4294967296) = some w ∧
    v = x.result u 4 [.reg x.st x.f.dst (BitVec.ofNat 64 w)]) ∧
  Traps .smpTemp .smpTemp (fun x u => modeWord ((x.rawZ u x.f.sa).toNat % 4294967296) = none)
    (fun _ _ => { cause := .smpParam, addr0 := 33 }) ∧
  Answers .smpFilt .smpFilt (fun x u v =>
    let p := (x.reg u x.f.sb).toNat % 4294967296; let m := (x.reg u x.f.sc).toNat / 4294967296
    row 512 8 true x u ∧ m < 3 ∧ topPBad p = false ∧ (∀ e ∈ table x u, isNan32 (keyValue e.1) = false) ∧
    let kept := filterRow (table x u) p m (x.f.imm.toNat % 128)
    v = gives x (x.holdPut u ((rowBytes kept).mapIdx (fun i b => ((x.reg u x.f.sa).toNat + i, b)))) kept.length) ∧
  Answers .smpPick .smpPick (fun x u v =>
    let p := (x.reg u x.f.sb).toNat % 4294967296
    row 512 8 false x u ∧ tableDetail (table x u) [p] = none ∧ v = gives x u (drawToken (table x u) p)) ∧
  Answers .smpVer .smpVer (fun x u v =>
    let a := (x.reg u x.f.sc).toNat % 4294967296; let b := (x.reg u x.f.sc).toNat / 4294967296
    row 512 8 false x u ∧ tableDetail (table x u) [a, b] = none ∧
    v = gives x u (verifyDraft (table x u) ((x.reg u x.f.sb).toNat % 4294967296) a b)) ∧
  Answers .smpStop .smpStop (fun x u v =>
    let k := u.core x.c; let o := (x.reg u x.f.sa).toNat
    let npos := k.holdRead o 8; let hcnt := k.holdRead (o + 8) 4; let nstr := k.holdRead (o + 12) 4
    let ts := k.stopStrings o (min nstr 8)
    let h := k.holdWords (o + 16) hcnt ++ [(x.reg u x.f.sb).toNat % 4294967296]
    row 832 64 true x u ∧ stopBad npos hcnt nstr ts = false ∧
    v = match stopMatch ts h (npos - hcnt) with
      | some r => gives x (x.holdPut u (stopStores o (npos + 1) [] (h.take r.1))) (r.1 + 65536 + r.2 * 131072)
      | none =>
        let j := stopRelease ts h (npos - hcnt)
        gives x (x.holdPut u (stopStores o (npos + 1) (h.drop j) (h.take j))) j) ∧
  let code32 : Nat → FVal := Typ.f32.format.decode
  let plus : Nat → Nat → Nat := fun a b => ((addExact .rne (code32 a) (code32 b)).round Typ.f32.format .rne false).code
  let sum : List (Nat × Nat) → Nat := fun l => l.foldl (fun c e => plus c e.1) 0
  let above : Nat → Nat → Nat → Prop := fun r c d => (mulExact (code32 r) (code32 c)).val.lt (code32 d) = true
  (∀ (seed pos draw : Nat) (hi unit : Bool), seed < 2 ^ 64 → pos < 2 ^ 64 → draw < 2 ^ 64 →
    let lo : Nat → Nat := fun n => n % 4294967296
    let up : Nat → Nat := fun n => n / 4294967296
    let round : (Nat × Nat × Nat × Nat) × Nat × Nat → (Nat × Nat × Nat × Nat) × Nat × Nat := fun s =>
      let p0 := 0xD2511F53 * s.1.1; let p1 := 0xCD9E8D57 * s.1.2.2.1
      ((up p1 ^^^ s.1.2.1 ^^^ s.2.1, lo p1, up p0 ^^^ s.1.2.2.2 ^^^ s.2.2, lo p0),
        lo (s.2.1 + 0x9E3779B9), lo (s.2.2 + 0xBB67AE85))
    let c := (round^[10] ((lo pos, up pos, lo draw, up draw), lo seed, up seed)).1
    let x0 := if hi then c.2.2.1 else c.1; let x1 := if hi then c.2.2.2 else c.2.1
    ∃ y0 y1, rngWord seed pos draw hi unit = BitVec.ofNat 64 (y1 * 4294967296 + y0) ∧
      if unit then (code32 y0).rat = ((x0 / 256 : Nat) : ℚ) / 2 ^ 24 ∧ (code32 y1).rat = ((x1 / 256 : Nat) : ℚ) / 2 ^ 24 ∧
        y0 < 4294967296 ∧ y1 < 4294967296
      else y0 = x0 ∧ y1 = x1) ∧
  (∀ t < 4294967296, let v := code32 t; let e := t / 8388608 % 256
    ((∃ b, v = .nan b) ∨ v = .inf true ∨ (2147483648 < t ∧ v.rat ≠ 0) → modeWord t = none) ∧
    (e = 0 → t < 2147483648 ∨ v.rat = 0 → modeWord t = some (0x3F800000 + 4294967296)) ∧
    (v = .inf false → modeWord t = some (0x3F800000 + 8589934592)) ∧
    (e ≠ 0 → e ≠ 255 → t < 2147483648 → ∃ y, modeWord t = some (if y = 0 then 0x3F800000 + 8589934592 else y) ∧
      y < 4294967296 ∧ (8388608 ≤ y → |(code32 y).rat * v.rat - 1442695040888963407 / 10 ^ 18| ≤ 1 / 2 ^ 23))) ∧
  (∀ (r : List (Nat × Nat)) (p m k : Nat),
    let key : Nat → Nat := fun i => keyValue ((r[i]?.getD (0, 0)).1)
    let weight : Nat → Nat := fun i =>
      if key i = 0xFF800000 then 0
      else if m = 1 then (if i = 0 then 0x3F800000 else 0)
      else if m = 2 then 0x3F800000
      else if key 0 = 0x7F800000 then (if key i = 0x7F800000 then 0x3F800000 else 0)
      else (Elem.exp2.apply Typ.f32.format (plus (key i) (key 0 ^^^ 2147483648))).code
    let positive := ((List.range r.length).map (fun i => (weight i, (r[i]?.getD (0, 0)).2))).filter
      (fun e => (FVal.fin false 0 0).lt (code32 e.1))
    let kept := positive.take (if k = 0 then 64 else k)
    let short : Nat → Prop := fun n => (code32 (sum (kept.take n))).lt (mulExact (code32 p) (code32 (sum kept))).val = true
    ∃ n, filterRow r p m k = kept.take n ∧ 1 ≤ n ∧ (n ≤ kept.length → ¬ short n) ∧
      ∀ i, 1 ≤ i → i < n → i ≤ kept.length → short i) ∧
  (∀ (tab : List (Nat × Nat)) (r i : Nat), i < tab.length → above r (sum tab) (sum (tab.take (i + 1))) →
    (∀ j < i, ¬ above r (sum tab) (sum (tab.take (j + 1)))) → drawToken tab r = (tab[i]?.getD (0, 0)).2) ∧
  (∀ (tab : List (Nat × Nat)) (d a b : Nat),
    let mine := sum (tab.filter (fun e => e.2 == d))
    (above a (sum tab) mine → verifyDraft tab d a b = 4294967296 + d) ∧
    (¬ above a (sum tab) mine → verifyDraft tab d a b = drawToken (tab.filter (fun e => e.2 != d)) b)) ∧
  ∀ (ts : List StopString) (h : List Nat) (q : Nat),
    let meets : Nat → Nat → Prop := fun j n => j < h.length ∧ ∃ t, ts[n]? = some t ∧ h.length - j = t.len ∧
      h.drop j = t.toks.take t.len ∧ t.start ≤ q + j
    let begins : Nat → Prop := fun j => ∃ t ∈ ts, h.length - j < t.len ∧ h.drop j = t.toks.take (h.length - j) ∧
      t.start ≤ q + j
    (∀ j n, stopMatch ts h q = some (j, n) ↔ meets j n ∧ (∀ i < j, ∀ k, ¬ meets i k) ∧ ∀ k < n, ¬ meets j k) ∧
    (stopMatch ts h q = none ↔ ∀ j n, ¬ meets j n) ∧
    stopRelease ts h q ≤ h.length ∧ (stopRelease ts h q < h.length → begins (stopRelease ts h q)) ∧
    ∀ j < stopRelease ts h q, ¬ begins j

/-! ### Tasks and launches -/

/-- R297, R300 to R303, R317, R320 to R322: what the task instructions leave where they do not wait: a record in the
local task queue, a launch entered, the join counter, a release advanced, a word that met its condition; each gives
its result 2 ticks later, which is the model's choice (log entry 99).  LAUNCH reads and checks its manifest once, and
then waits for a free entry.  TTREL on a core that runs no task traps with ILLFIELD as one of another class does, which
is the model's choice (log entry 61).
R322, Table 12.9: the conditions of WAITB on words of 32 and of 64 bits: equal, unequal, at or after in serial
order, before, and within a window. -/
def Obligations.TaskInstructions : Prop :=
  (let gives : Ctx → State → Nat → State := fun x w n => x.locked w 2 [.reg x.st x.f.dst (BitVec.ofNat 64 n)]
   let spawns : Ctx → State → SpawnRecord → Prop := fun x u r =>
     let k := u.core x.c; let o := (x.reg u x.f.sa).toNat
     x.holdCheck u o 64 64 false = none ∧ k.acquirePending x.st = false ∧ k.badByte (addrsFrom o 64) = none ∧
     r = k.taskRecord o ((k.task.map (fun t => t.id)).getD 0) ∧
     r.entry ≠ 0 ∧ r.entry % 4 = 0 ∧ r.sp.toNat % 16 = 0
   let slipped : Ctx → State → Task → State := fun x u t =>
     if (u.core x.c).held.isSome then u else u.checkSlip x.c t
   Answers .spawn .spawn (fun x u v => ∃ r, spawns x u r ∧ (u.core x.c).ltq.length < 64 ∧
     (u.core x.c).jcount ≠ 65535 ∧ u.logStalls x.c x.st = false ∧
     let n := (u.core x.c).childSerial % 65535 + 1
     v = gives x ((((u.commitOwn x.c).logRelease x.c x.st).bump x.c).modCore x.c (fun k =>
       { k with ltq := k.ltq ++ [r], jcount := k.jcount + 1, childSerial := k.childSerial % 65535 + 1 })) n) ∧
   Answers .spawn .spawn (fun x u v => ∃ r, spawns x u r ∧
     (64 ≤ (u.core x.c).ltq.length ∨ (u.core x.c).jcount = 65535) ∧ v = gives x u 0) ∧
   Answers .joinw .joinw (fun x u v =>
     (x.f.mod.getLsbD 0 = true ∨ (u.core x.c).jcount ≤ x.f.imm.toNat % 65536) ∧
     v = gives x (u.modCore x.c (fun k => { k with parentWait := none })) (u.core x.c).jcount) ∧
   Holds .joinw .joinw (fun x u v => x.f.mod.getLsbD 0 = false ∧ x.f.imm.toNat % 65536 < (u.core x.c).jcount ∧
     v = u.modCore x.c (fun k => { k with parentWait := some (k.parentWait.getD (u.timeOf x.c)) })) ∧
   (let enters : Ctx → State → Manifest → Option Manifest → State → Prop := fun x w m var v =>
      w.freeEntries (dieOf x.c) ≠ 0 ∧ w.logStalls x.c x.st = false ∧
      let w := w.modCore x.c (fun k => { k with launching := none })
      let r := (w.release x.c x.st .die).enterLaunch m var (w.core x.c).ptroot (dieOf x.c) (some x.c) (w.core x.c).seq
      v = gives x (if m.count = 0 then r.1.closeLaunch r.2 else r.1) r.2
    let reads : Ctx → State → State → Manifest → Option Manifest → Prop := fun x u w m var => ∃ w',
      let ma := (x.reg u x.f.sa).toNat
      (u.core x.c).launching = none ∧ ma % 256 = 0 ∧ (u.core x.c).settled x.st = true ∧
      u.readManifest x.c x.st.num (u.core x.c).ptroot (isFirmware x.c) ma
        { count := if x.f.mod.getLsbD 0 then some (x.reg u x.f.sb).toNat else none, cls := none,
          arg := if (x.reg u x.f.sc).toNat ≠ 0 then some (x.reg u x.f.sc).toNat else none, completion := none } =
        .ok w' m var ∧
      w = w'.modCore x.c (fun k => { k with launching := some (m, var) })
    Answers .launch .launch (fun x u v => ∃ w m var, reads x u w m var ∧ enters x w m var v) ∧
    Answers .launch .launch (fun x u v => ∃ m var, (u.core x.c).launching = some (m, var) ∧ enters x u m var v) ∧
    Holds .launch .launch (fun x u v => ∃ m var, reads x u v m var ∧ v.freeEntries (dieOf x.c) = 0)) ∧
   Acts .yield .yield (fun x u => u.mustYield x.c = true)
     (fun x u => gives x (u.modCore x.c (fun k => { k with yielded := true })) 1) ∧
   Acts .yield .yield (fun x u => u.mustYield x.c = false) (fun x u => gives x u 0) ∧
   Answers .ttrel .ttrel (fun x u v => ∃ t, (u.core x.c).task = some t ∧ t.cls = 0 ∧
     let w := slipped x u t
     ((x.f.mod.getLsbD 0 = true ∨ t.period = 0) ∧ v = gives x w (w.taskSlips x.c)) ∨
     (x.f.mod.getLsbD 0 = false ∧ t.period ≠ 0 ∧ t.release + t.period ≤ w.frameOf x.c ∧
       v = gives x ((w.modCore x.c (fun k => { k with task := k.task.map (fun d =>
         { d with release := d.release + d.period, slipDone := false }) })).modCore x.c (fun k =>
           { k with held := none, waitLine := none })) (w.taskSlips x.c))) ∧
   Traps .ttrel .ttrel (fun x u => ∀ t, (u.core x.c).task = some t → t.cls ≠ 0) (fun _ _ => { cause := .illfield }) ∧
   Answers .waitb .waitb (fun x u v => ∃ m ms,
     let ea := (x.reg u x.f.sa).toNat; let n := x.f.typ.width / 8
     ((u.core x.c).waitLine = none ∨
       x.f.imm.toNat ≤ x.now - (u.stream x.c x.st).waitStart.getD x.now) ∧
     x.plainAccess u .load ea n = .ok m ms ∧
     m.loadReady x.c (x.waitLoad m ea ms) = true ∧ (∀ p ∈ ms, p.pa / 64 ∉ m.badLines) ∧
     let l := x.waitLoad m ea ms
     let r := (m.acquireFor x.c l).readParts x.c x.st l.seq l.parts
     let d := assemble r.2
     waitHolds (x.f.mod.toNat % 8) (8 * n) d ((x.reg u x.f.sb).toNat % 2 ^ (8 * n)) (x.reg u x.f.sc).toNat = true ∧
     v = gives x ((((r.1.acquireFor x.c l).bump x.c).modStream x.c x.st (fun t =>
       { t with waitValue := BitVec.ofNat 64 d })).modCore x.c (fun k => { k with held := none, waitLine := none })) d)) ∧
  ∀ n, n = 32 ∨ n = 64 → ∀ (v b : BitVec n) (win : Nat),
    (waitHolds 0 n v.toNat b.toNat win = true ↔ v = b) ∧ (waitHolds 1 n v.toNat b.toNat win = true ↔ v ≠ b) ∧
    (waitHolds 2 n v.toNat b.toNat win = true ↔ 0 ≤ (v - b).toInt) ∧
    (waitHolds 3 n v.toNat b.toNat win = true ↔ (v - b).toInt < 0) ∧
    (waitHolds 4 n v.toNat b.toNat win = true ↔ (b - v).toNat < win)

/-! ### System and trap instructions -/

/-- R371, R379, R380, R384 to R387: TRAP finishes its bundle and raises BREAK, ERET returns, SREG reads and SWREG
writes a special register, with INH = 1 an FPC as a handler does (R371), TRAP and TRAP.FW first waiting where the save
that they lead to must wait (R186), TLBI passes once what it waits for is performed, CTXS and CTXL enter their
operation, IDLE gives its reason and IDLE.M moors the module.  The results of IDLE and IDLE.M come 2 ticks later, which
is the model's choice (log entry 99), and that TRAP and TRAP.FW wait beyond a promoting acquire, for what else a save
waits for, is the model's reading (log entry 104). -/
def Obligations.SystemInstructions : Prop :=
  let gives : Ctx → State → Nat → State := fun x w n => x.locked w 2 [.reg x.st x.f.dst (BitVec.ofNat 64 n)]
  let number : Operand → Nat := fun o => match o with | .special n => n.val | _ => 0
  let token : Ctx → Nat := fun x => match x.f.dst with | .s r => r.val | _ => 0
  let waits : Ctx → State → State := fun x w =>
    w.modCore x.c (fun k => { k with held := some (x.o, x.heldBundle) })
  let past : Ctx → State → Bool := fun x u => x.f.imm.toNat != 0 &&
    decide ((u.stream x.c x.st).waitStart.getD x.now + x.f.imm.toNat ≤ x.now)
  let area : Ctx → State → Prop := fun x u => (x.reg u x.f.sa).toNat % 65536 = 0 ∧
    (x.reg u x.f.sb).toNat ≤ 191 ∧ isFirmware (x.reg u x.f.sb).toNat = false
  let enters : Ctx → State → Bool → List Nat → List Nat → State := fun x w save cs ts =>
    w.modCore x.c (fun k => { k with ctxOps := k.ctxOps ++
      [{ save := save, area := (x.reg w x.f.sa).toNat, token := token x, convoy := x.f.mod.getLsbD 0, targets := cs,
         tasks := ts }] })
  (∀ p ∈ [((Instr.trap, Op.trap), false), ((.trapFw, .trapFw), true)],
    let brk : Ctx → TrapInfo := fun x =>
      { cause := .brk, code := x.f.imm.toNat % 65536, svc := p.2, async := true }
    Ends p.1.1 p.1.2 .late (fun x u v => u.mustDefer x.c (brk x) = false ∧
      v = (x.finish u .seq true).raise x.c x.st (brk x)) ∧
    Waits p.1.1 p.1.2 (fun x u => u.mustDefer x.c (brk x) = true) (fun _ _ => .access)) ∧
  Ends .eret .eret .issued (fun x u v => v = (x.finish u .seq true).eret x.c) ∧
  Acts .sreg .sreg (fun _ _ => True)
    (fun x u => x.result u 2 [.reg x.st x.f.dst (u.special x.c (number x.f.sa))]) ∧
  Acts .swreg .swreg (fun x u => number x.f.dst ≠ 6 ∧
      (14 ≤ number x.f.dst → number x.f.dst ≤ 17 → (x.rawZ u x.f.sa).toNat % 4 = 0))
    (fun x u => x.result u 2 (.special (number x.f.dst) (x.rawZ u x.f.sa) ::
      if 14 ≤ number x.f.dst ∧ number x.f.dst ≤ 17 ∧ (u.core x.c).inh = true
        then [.framePc (Stream.ofNum (number x.f.dst - 14))] else [])) ∧
  Acts .swreg .swreg (fun x u => number x.f.dst = 6 ∧ 20 ≤ (x.rawZ u x.f.sa).toNat ∧ (x.rawZ u x.f.sa).toNat ≤ 1000)
    (fun x u => x.result { u with fresh := u.fresh + 1 } 2 [.special 6 (x.rawZ u x.f.sa)]) ∧
  Traps .swreg .swreg (fun x u => 14 ≤ number x.f.dst ∧ number x.f.dst ≤ 17 ∧ (x.rawZ u x.f.sa).toNat % 4 ≠ 0)
    (fun x u => { cause := .align, addr0 := (x.rawZ u x.f.sa).toNat }) ∧
  Answers .tlbi .tlbi (fun x u v => ∃ w,
    w = (if (u.core x.c).tlbWait.isNone then x.invalidate u else u) ∧
    (∀ e ∈ (w.core x.c).tlbWait.getD [], w.accessOpen e = false) ∧
    v = w.modCore x.c (fun k => { k with tlbWait := none })) ∧
  Answers .ctxs .ctxs (fun x u v =>
    let c := (x.reg u x.f.sb).toNat
    area x u ∧ (u.core c).task.isSome = true ∧
    let cs := if x.f.mod.getLsbD 0 then u.unitCores c else [c]
    v = enters x u true cs (cs.map (fun d => ((u.core d).task.map (fun t => t.id)).getD 0))) ∧
  Answers .ctxl .ctxl (fun x u v =>
    let c := (x.reg u x.f.sb).toNat; let a := (x.reg u x.f.sa).toNat
    let first := if x.f.mod.getLsbD 0 then u.firstArea a else a
    area x u ∧ (u.core c).task = none ∧ u.claimed c = false ∧ u.areaFits first c = true ∧ u.chartsFit first c = true ∧
    ((x.f.mod.getLsbD 0 = false ∧ v = enters x u false [c] []) ∨
     ∃ cs, x.f.mod.getLsbD 0 = true ∧ u.placeFrom a c = some cs ∧
      v = enters x { u with fresh := u.fresh + 64 } false cs [])) ∧
  Answers .idle .idle (fun x u v => ∃ r, idleReason (u.core x.c).evl (past x u) = some r ∧
    v = gives x ((u.modCore x.c (fun k => { k with held := none, waitLine := none })).modCore x.c (fun k =>
      { k with evl := 0 })) r) ∧
  Holds .idle .idle (fun x u v => idleReason (u.core x.c).evl (past x u) = none ∧ v = waits x u) ∧
  Acts .idleM .idleM (fun x u => u.mayMoor x.c = false) (fun x u => gives x u 0) ∧
  Holds .idleM .idleM (fun x u v => u.mayMoor x.c = true ∧
    v = waits x { u with
      moored := true, moorCore := x.c, moorFrom := u.timeOf x.c,
      moorWake := (u.earliestRelease x.c).map (fun r => r - 2500000) })

/-! ### Control -/

/-- R69, R72 to R74: the targets of BR, BRZ, JMP, JAL and JALR; BRZ is taken when SA is zero, with NZ when it is not; a
call writes its link, on a native page the address after its second delay slot: past the words of the two bundles
that follow it where they can be fetched at issue, and else when the second slot issues, which is the model's reading
(log entry 22); a misaligned target traps.  A target of 2^48 or more is cut to 48 bits, which is the model's choice (log
entry 11). -/
def Obligations.Transfers : Prop :=
  let near : Ctx → State → Nat := fun x _ => (BitVec.ofNat 64 x.a + x.f.imm.signExtend 64).toNat
  let far : Ctx → State → Nat := fun x u => (x.reg u x.f.sa + x.f.imm.signExtend 64).toNat
  let taken : Ctx → State → Prop := fun x u => (x.reg u x.f.sa = 0 ↔ x.f.mod.getLsbD 1 = false)
  Steers .br .br (fun x u => near x u % 4 = 0) (fun _ u => u) (fun x u => .jump (near x u % 2 ^ 48) true) ∧
  Steers .brz .brz (fun x u => taken x u ∧ near x u % 4 = 0) (fun _ u => u)
    (fun x u => .jump (near x u % 2 ^ 48) true) ∧
  Acts .brz .brz (fun x u => ¬ taken x u) (fun _ u => u) ∧
  Steers .jmp .jmp (fun x u => far x u % 4 = 0) (fun _ u => u) (fun x u => .jump (far x u % 2 ^ 48) true) ∧
  Traps .brz .brz (fun x u => taken x u ∧ near x u % 4 ≠ 0)
    (fun x u => { cause := .align, addr0 := near x u }) ∧
  (∀ p ∈ [((Instr.br, Op.br), near), ((.jmp, .jmp), far), ((.jal, .jal), near), ((.jalr, .jalr), far)],
    Traps p.1.1 p.1.2 (fun x u => p.2 x u % 4 ≠ 0) (fun x u => { cause := .align, addr0 := p.2 x u })) ∧
  ∀ p ∈ [((Instr.jal, Op.jal), near), ((.jalr, .jalr), far)],
    Steers p.1.1 p.1.2 (fun x u => x.bh = true ∧ p.2 x u % 4 = 0)
      (fun x u => x.result u 1 [.reg x.st x.f.dst (BitVec.ofNat 64 x.next)])
      (fun x u => .jump (p.2 x u % 2 ^ 48) false) ∧
    ∀ (b : Bundle) (f : Fields) (s u w : State) (a : Nat), ((Ctx.of p.1.2 b f s).ready s = some u →
      s.cur.bh = false → p.2 (Ctx.of p.1.2 b f s) u % 4 = 0 → (Ctx.of p.1.2 b f s).nativeLink u = .known w a →
      exec (p.1.1 b f) s = .next ((Ctx.of p.1.2 b f s).after
        ((Ctx.of p.1.2 b f s).result w 1 [.reg s.cur.st f.dst (BitVec.ofNat 64 a)])
        (.jump (p.2 (Ctx.of p.1.2 b f s) u % 2 ^ 48) false)) ∧
    ((Ctx.of p.1.2 b f s).nativeLink u = .known w a → ∃ m ws₁ ws₂ f₁ f₂ b₁ b₂,
      (u.bundleEnd s.cur.core s.cur.st (Ctx.of p.1.2 b f s).next).1 = .ok m ws₁ f₁ b₁ ∧
      (m.bundleEnd s.cur.core s.cur.st ((Ctx.of p.1.2 b f s).next + 4 * ws₁.length)).1 = .ok w ws₂ f₂ b₂ ∧
      a = (Ctx.of p.1.2 b f s).next + 4 * ws₁.length + 4 * ws₂.length)) ∧
  ∀ p ∈ [((Instr.jal, Op.jal), near), ((.jalr, .jalr), far)],
    ∀ (b : Bundle) (f : Fields) (s u : State), (Ctx.of p.1.2 b f s).ready s = some u →
      s.cur.bh = false → p.2 (Ctx.of p.1.2 b f s) u % 4 = 0 → (Ctx.of p.1.2 b f s).nativeLink u = .later →
      exec (p.1.1 b f) s = .next ((Ctx.of p.1.2 b f s).after
        (u.modStream s.cur.core s.cur.st (fun t => { t with link := some f.dst }))
        (.jump (p.2 (Ctx.of p.1.2 b f s) u % 2 ^ 48) false))

/-- R69, R74, R76, R77: what the sequencer makes of a stream that has issued a bundle, with whatever side-op and PUSH:
a delay slot counts PEND down and the second goes to PTARGET and writes a link still to be written; a transfer goes to
its target at once or after two slots, and one that is no call makes the loops inactive whose bodies it leaves; a
bundle that ends no loop is followed by the next in sequence; one that ends active loops, the innermost first, makes
each inactive with count 0 whose count is 1 or less, and goes to the start of the first whose count is above 1,
counting it down.  That a stream issues one bundle a tick at most, that a LOOP of count 0 goes to its exit with no
loop-end check, and that the second slot writes a link still to be written, are the model's choices (log entries 4, 18
and 22). -/
def Obligations.Sequencer : Prop :=
  ∀ (x : Ctx) (v : State) (flow : Flow), v.tickOf x.c = x.now →
    let t := v.stream x.c x.st
    let w := x.after v flow
    let t' := w.stream x.c x.st
    let ends : Nat → Bool := fun k => Tbl.get false t.lact k && (Tbl.get 0 t.lexit k).toNat == x.next
    let lc : Nat → Word := fun k => Tbl.get 0 t.lc k
    let zeroed : Nat → List Effect := fun n =>
      ((List.range n).filter ends).map (fun j => .reg x.st (.lc (Fin.ofNat 4 j)) 0)
    (x.now < t'.nextTick) ∧
    (t.pend ≠ 0 → t'.pend = t.pend - 1 ∧ t'.lact = t.lact ∧
      t'.pc = if t.pend = 1 then t.ptarget else BitVec.ofNat 48 x.next) ∧
    (t.pend = 1 → ∀ o, t.link = some o → t'.link = none ∧
      x.Lands (x.pushed v) w 1 [.reg x.st o (BitVec.ofNat 64 x.next)]) ∧
    (t.pend = 0 → ∀ a lv, flow = .jump a lv → x.bh = true → t'.pend = 0 ∧ t'.pc = BitVec.ofNat 48 a) ∧
    (t.pend = 0 → ∀ a lv, flow = .jump a lv → x.bh = false →
      t'.pend = 2 ∧ t'.ptarget = BitVec.ofNat 48 a ∧ t'.pc = BitVec.ofNat 48 x.next) ∧
    (t.pend = 0 → ∀ a lv, flow = .jump a lv → ∀ k < 4, Tbl.get false t'.lact k = (Tbl.get false t.lact k &&
      (!lv || decide ((Tbl.get 0 t.lstart k).toNat ≤ a % 2 ^ 48 ∧ a % 2 ^ 48 < (Tbl.get 0 t.lexit k).toNat)))) ∧
    (t.pend = 0 → ∀ a, flow = .skip a → t'.pc = BitVec.ofNat 48 a ∧ t'.lact = t.lact) ∧
    (t.pend = 0 → flow = .seq → (∀ k < 4, ends k = false) → t'.pc = BitVec.ofNat 48 x.next ∧ t'.lact = t.lact) ∧
    (t.pend = 0 → flow = .seq → (∀ k < 4, ends k = true → (lc k).toNat ≤ 1) → (∃ k < 4, ends k = true) →
      t'.pc = BitVec.ofNat 48 x.next ∧
      (∀ k < 4, Tbl.get false t'.lact k = (Tbl.get false t.lact k && !ends k)) ∧
      x.Lands (x.pushed v) w 1 (zeroed 4)) ∧
    ∀ k < 4, t.pend = 0 → flow = .seq → ends k = true → (∀ j < k, ends j = true → (lc j).toNat ≤ 1) →
      1 < (lc k).toNat →
      t'.pc.toNat = (Tbl.get 0 t.lstart k).toNat ∧
      (∀ j < 4, Tbl.get false t'.lact j = (Tbl.get false t.lact j && !(decide (j < k) && ends j))) ∧
      x.Lands (x.pushed v) w 1 (zeroed k ++ [.reg x.st (.lc (Fin.ofNat 4 k)) (lc k - 1)])

/-- R76, R78 to R85, R91, R92, R170, R177: NOP does nothing; LOOP sets its loop up; FORK starts streams, a release at
which a task outside a convoy commits its DC stores; QBIND rebinds a queue; JOIN and JOIN.D clear the crew once it has
stopped; TOKP and TOKW move counts, and a TOKP whose counts, with the one that its bundle's PUSH adds, do not fit traps
with TOKOVF; HALT stops its stream, in L, X or S as such a release too and in P at the end of the task; TMPL loads a
template. That JOIN.D cancels in the step in which it completes, and that a LOOP of count 0 skips to its exit, are the
model's choices (log entries 94 and 18). -/
def Obligations.StreamControl : Prop :=
  let gives : Ctx → State → Word → State := fun x w v => x.result w 1 [.reg x.st x.f.dst v]
  let idle : Ctx → State → Prop := fun x u => let k := u.core x.c
    (∀ st ∈ [Stream.L, .X, .S], (k.stream st).run = false) ∧ (∀ l ∈ k.loads, l.st = .P) ∧
      (∀ y ∈ k.stores, y.st = .P) ∧ ∀ l ∈ k.flight, l.st = .P
  let unused : Ctx → State → Prop := fun x u =>
    ∀ q < 16, ((u.core x.c).queueReg q).cnt = 0 ∧ ∀ cp ∈ (u.core x.c).copies, cp.queue ≠ some q
  (∀ (b : Bundle) (s u : State), (Ctx.of .nop b Fields.zero s).ready s = some u →
    exec (.nopTix0 b) s = .next ((Ctx.of .nop b Fields.zero s).after u .seq)) ∧
  Acts .nop .nop (fun _ _ => True) (fun _ u => u) ∧
  (∀ k : Fin 4, Steers .loop .loop (fun x _ => x.f.dst = .lc k ∧
      (if x.f.mod.getLsbD 0 then x.f.sa = .s 0 else x.f.aux = 0) ∧ x.f.imm.toNat % 4 = 0 ∧
      4 * x.b.words < x.f.imm.toNat ∧ x.f.imm.toNat ≤ 1048576)
    (fun x u =>
      let n : Word := if x.f.mod.getLsbD 0 then x.f.aux.zeroExtend 64 else x.reg u x.f.sa
      (gives x u n).modStream x.c x.st (fun t => { t with
        lstart := Tbl.set t.lstart k.val (BitVec.ofNat 48 x.next),
        lexit := Tbl.set t.lexit k.val (BitVec.ofNat 48 ((x.a + x.f.imm.toNat) % 2 ^ 48)),
        lact := Tbl.set t.lact k.val (n != 0) }))
    (fun x u => if (if x.f.mod.getLsbD 0 then x.f.aux.zeroExtend 64 else x.reg u x.f.sa) = (0 : Word)
      then .skip ((x.a + x.f.imm.toNat) % 2 ^ 48) else .seq)) ∧
  Answers .fork .fork (fun x u v =>
    let k := u.core x.c; let o := x.ea u; let block := k.holdRead o 32; let es := forkEntries block
    o % 8 = 0 ∧ x.holdTrap u o 32 8 = none ∧ k.acquirePending x.st = false ∧ k.badByte (addrsFrom o 32) = none ∧
    (∀ e ∈ es, e.2 % 4 = 0 ∧ (k.stream e.1).run = false ∧ k.argsFree false e.1 = true) ∧
    (es ≠ [] → k.argsFree x.fl .P = true) ∧ (∀ q < 16, k.rebindBreaks q (block / 2 ^ 192 / 16 ^ q % 16) = false) ∧
    v = es.foldl (fun w e => x.startStream w e.1 e.2)
      ((if es = [] then u else u.commitOwn x.c).modCore x.c (fun k =>
        { k with qmap := BitVec.ofNat 64 (block / 2 ^ 192 % 2 ^ 64) }))) ∧
  (∀ q : Fin 16, Acts .qbind .qbind
    (fun x u => x.f.dst = .q q ∧ (u.core x.c).rebindBreaks q.val (x.f.aux.toNat % 16) = false)
    (fun x u => u.setCore x.c { u.core x.c with
      qmap := BitVec.ofNat 64 ((u.core x.c).qmap.toNat - (u.core x.c).qmap.toNat / 2 ^ (4 * q.val) % 16 * 2 ^ (4 * q.val) +
        x.f.aux.toNat % 16 * 2 ^ (4 * q.val)) })) ∧
  Acts .join .join (fun x u => idle x u ∧ unused x u) (fun x u => u.setCore x.c (u.core x.c).clearCrew) ∧
  Traps .join .join (fun x u => idle x u ∧ ¬ unused x u) (fun _ _ => { cause := .qjoin }) ∧
  Waits .join .join (fun x u => ∃ st ∈ [Stream.L, .X, .S], ((u.core x.c).stream st).run = true) (fun _ _ => .join) ∧
  Answers .joinD .joinD (fun x u v => idle x u ∧
    let w := u.discardQueues x.c
    (∀ cp ∈ (w.core x.c).copies, cp.queue.isSome = true → cp.started = false) ∧
    let w' := ((w.core x.c).copies.filter (fun cp => cp.queue.isSome)).foldl (fun w cp => w.cancelCopy x.c cp) w
    v = w'.setCore x.c (w'.core x.c).clearCrew) ∧
  Ends .halt .halt .issued (fun x u v => x.st ≠ .P ∧
    v = (x.finish (u.commitOwn x.c) .seq true).modCore x.c (fun k =>
      { k.modStream x.st (fun t => { t with run := false }) with idleTick := some x.now })) ∧
  Ends .halt .halt .issued (fun x u v => x.st = .P ∧ idle x u ∧ unused x u ∧
    (u.core x.c).copies = [] ∧ (u.core x.c).charts = [] ∧ (u.core x.c).quiet .P = true ∧ (u.core x.c).flight = [] ∧
    (u.core x.c).jcount = 0 ∧
    v = (x.finish (u.setCore x.c (u.core x.c).clearCrew) .seq true).modCore x.c (fun k =>
      { k.modStream .P (fun t => { t with run := false }) with halted := true, parentWait := none })) ∧
  (∀ d : Stream, Acts .tokp .tokp (fun x u => namedStream x.st (TokenCode.ofBits x.f.aux.toNat) = some d ∧
      1 ≤ x.f.imm.toNat ∧ x.f.imm.toNat ≤ 15 ∧ (u.core x.c).fifoCount x.st d + x.f.imm.toNat +
        (if namedStream x.st x.b.push = some d then 1 else 0) ≤ 15)
    (fun x u => u.pushTokens x.c x.st d x.f.imm.toNat)) ∧
  (∀ d : Stream, Traps .tokp .tokp (fun x u => namedStream x.st (TokenCode.ofBits x.f.aux.toNat) = some d ∧
      1 ≤ x.f.imm.toNat ∧ x.f.imm.toNat ≤ 15 ∧ 15 < (u.core x.c).fifoCount x.st d + x.f.imm.toNat +
        (if namedStream x.st x.b.push = some d then 1 else 0))
    (fun _ _ => { cause := .tokovf })) ∧
  (∀ d : Stream,
    let names : Ctx → Prop := fun x => namedStream x.st (TokenCode.ofBits x.f.aux.toNat) = some d
    let seen : Ctx → State → Nat := fun x u => (u.core x.c).fifoVisible x.now d x.st
    Acts .tokw .tokw (fun x u => names x ∧ x.f.mod.getLsbD 1 = false ∧ x.f.mod.getLsbD 0 = false ∧
        1 ≤ x.f.imm.toNat ∧ x.f.imm.toNat ≤ 15 ∧ x.f.imm.toNat ≤ seen x u)
      (fun x u => gives x (u.setCore x.c ((u.core x.c).setFifo d x.st
        ((u.core x.c).fifoCount d x.st - x.f.imm.toNat))) (BitVec.ofNat 64 (seen x u))) ∧
    Acts .tokw .tokw (fun x u => names x ∧ (x.f.mod.toNat % 4 = 1 ∧ 1 ≤ x.f.imm.toNat ∧ x.f.imm.toNat ≤ 15 ∧
        x.f.imm.toNat ≤ seen x u ∨ x.f.mod.toNat % 4 = 2 ∧ x.f.imm.toNat = 0))
      (fun x u => gives x u (BitVec.ofNat 64 (seen x u))) ∧
    Waits .tokw .tokw (fun x u => names x ∧ x.f.mod.getLsbD 1 = false ∧ 1 ≤ x.f.imm.toNat ∧
        x.f.imm.toNat ≤ 15 ∧ seen x u < x.f.imm.toNat) (fun x _ => .tokens d x.f.imm.toNat)) ∧
  Acts .tmpl .tmpl (fun x u => 1 ≤ x.f.aux.toNat ∧ x.f.aux.toNat ≤ 62 ∧ x.holdTrap u (x.ea u) 16 16 = none ∧
      (u.core x.c).acquirePending x.st = false ∧ (u.core x.c).badByte (addrsFrom (x.ea u) 16) = none)
    (fun x u => x.result u 4 [.template x.st x.f.aux.toNat (BitVec.ofNat 128 ((u.core x.c).holdRead (x.ea u) 16))])

/-! ### Events -/

/-- R88, R89, R141, R142, R163, R183 to R185, R194, R200, R204, R212, R248, R262, R287, R329, R331, R340: what the
events of a core do where their condition holds: a piece of an access performed, a widening ended or a request that the
next one serves, a copy moved along, what is due landed, an entry that arrives, lines metered but while the clocks are
gated (log entry 135), a cause delivered.  A start marks its copy and no other; a copy that has not started does not
end, and one that has ended leaves done or failed in the status of its token; no result that is due is in flight after
its landing.  The model's readings and choices here: CREW_DEADLOCK is asynchronous (log entry 19), an access is
performed in pieces (log entry 51), and a promoting acquire uses two PROMOTION_REQUEST events (log entry 56). -/
def Obligations.CoreEvents : Prop :=
  ∀ (s : State) (c : Nat), c < 192 → let k := s.core c
    ((∃ st, (k.stream st).run = true) → (∀ st, (k.stream st).run = true → k.blocked st (k.stream st).wait = true) →
      s.mustDefer c { cause := .crewDeadlock, async := true } = false →
      exec (.crewDeadlock c) s = .next (s.raise c .P { cause := .crewDeadlock, async := true })) ∧
    (∀ st seq l, k.loads.find? (fun m => m.st == st && m.seq == seq) = some l → s.promotionOpen c seq = false →
      (l.parts ≠ [] → s.loadPieces c l ≠ [] → ∃ q ∈ s.loadPieces c l, ∃ n ≤ 1,
        exec (.loadDataLanding c st seq) s = .next (({ s with fresh := s.fresh + n } : State).loadPiece c l q)) ∧
      (l.parts = [] → s.loadReady c l = true → exec (.loadDataLanding c st seq) s = .next (s.finishLoad c l))) ∧
    (∀ st seq y, k.stores.find? (fun m => m.st == st && m.seq == seq) = some y → k.storePieces y ≠ [] →
      ∃ q ∈ k.storePieces y, ∃ n ≤ 1,
        exec (.storePerformed c st seq) s = .next (({ s with fresh := s.fresh + n } : State).storePiece c y q)) ∧
    (∀ st a b d rest, (k.stream st).uncorr = (a, b, d) :: rest → (k.inh = true → st = .P) → s.gated = false →
      exec (.memUncorr c st) s = .next (s.deliverUncorr c st a b d)) ∧
    (∀ n t, k.widening = some (n, t) → (∀ e ∈ k.log.take n, k.released e = true) →
      exec (.promotionRequest c) s = .next (s.endWidening c n)) ∧
    (∀ n t, k.widening = some (n, t) → (∃ e ∈ k.log.take n, k.released e = false) →
      (∃ r ∈ k.requests, r.covers = none) → exec (.promotionRequest c) s =
      .next (s.setCore c { k with requests := arriveFirst k.log.length true k.requests })) ∧
    (k.widening = none → (∃ r ∈ k.requests, r.covers = none) → exec (.promotionRequest c) s =
      .next ((s.setCore c { k with requests := arriveFirst k.log.length false k.requests }).startWidening c
        k.log.length)) ∧
    (∀ n t, k.widening = some (n, t) → t + 2000 ≤ s.timeOf c →
      exec (.wideningWaitBound c) s = .next (s.modCore c (fun k => { k with wideBound := true }))) ∧
    (∀ id cp, k.copyById id = some cp →
      (cp.isDrain = false → s.copyMayStart c cp = true → exec (.copyStart c id) s = .next (s.startCopy c cp)) ∧
      (cp.isDrain = true → s.copyMayStart c cp = true → exec (.drainStart c id) s = .next (s.startCopy c cp)) ∧
      (∀ q, cp.queue = some q → s.mayDeliver c cp q = true →
        exec (.copyEntryDelivery c id) s = .next (s.deliverEntry c cp q)) ∧
      exec (.copyEnd c id) s = .next (s.endCopy c cp) ∧
      (cp.wsem = false → cp.isDrain = false → ((s.startCopy c cp).core c).copies = k.copies.map (fun q =>
        if q.id = cp.id then { cp with started := true, shadow := s.shadowSlots c cp } else q)) ∧
      (cp.started = false → s.endCopy c cp = s) ∧
      let t := s.endCopy c cp
      (((t.core c).copyById cp.id = none → cp.token ≠ 0 →
        (Tbl.get 0 (t.stream c cp.st).tokenLast cp.token).toNat / 2 ^ 62 ∈ [1, 2]))) ∧
    (let t := s.landDue c (fun l => !l.matrix)
     exec (.resultLanding c) s = .next t ∧ ∀ l ∈ (t.core c).flight, l.matrix = false → s.tickOf c < l.tick) ∧
    (let t := s.landDue c (fun l => l.matrix)
     exec (.matrixLanding c) s = .next t ∧ ∀ l ∈ (t.core c).flight, l.matrix = true → s.tickOf c < l.tick) ∧
    (s.gated = false → (∃ m ∈ k.mail, s.mailReady c m = true) → ∃ m ∈ k.mail, s.mailReady c m = true ∧
      exec (.mailboxArrival c) s = .next ({ s with fresh := s.fresh + 1 }.arrive c m)) ∧
    (∀ ended, exec (.meteredLine c ended) s = .next (if s.gated = true then s else
      (s.lines.filter (s.lineOf c ended)).foldl (fun w m => w.meterTo (some m))
        { s with lines := s.lines.filter (fun m => !s.lineOf c ended m) })) ∧
    (k.loading = none → s.gated = false → k.inh = false → k.warnDue = true ∨ k.warnHeld = true →
      exec (.throttleWarn c) s = .next (s.deliverWarn c)) ∧
    (k.loading = none → s.gated = false → k.inh = true → k.warnDue = true →
      exec (.throttleWarn c) s = .next (s.holdWarn c)) ∧
    (∀ w, k.held = some (.idle, w) → s.waitsIn c .idle = true → exec (.idleTickLimit c) s =
      .next ((w.ctx .idle c (s.tickOf c)).conclude (idleBody (w.ctx .idle c (s.tickOf c)) s))) ∧
    (∀ w, k.held = some (.ttrel, w) → s.waitsIn c .ttrel = true → exec (.nextRelease c) s =
      .next ((w.ctx .ttrel c (s.tickOf c)).conclude (ttrelBody (w.ctx .ttrel c (s.tickOf c)) s))) ∧
    ∀ w, k.held = some (.waitb, w) → s.waitsIn c .waitb = true →
      w.f.imm.toNat ≤ s.tickOf c - (s.stream c .P).waitStart.getD (s.tickOf c) → exec (.waitbExpiry c) s =
      .next ((w.ctx .waitb c (s.tickOf c)).conclude (waitbBody (w.ctx .waitb c (s.tickOf c)) s))

/-- R299, R303, R318, R319, R381, R384: what the events of tasks and launches do where their condition holds: a task
ends, a launch ends at its deadline, a context is saved, a waiting parent's core runs its child.
R304, R306: a kick folds its index into WIDX as a serial maximum, TOKSET sets and TOKCLR clears bits of TOKENS, a
doorbell folds the oldest value on its way, and a write to a reserved register leaves every queue as it was; each ends
a mooring first.  A core whose task has ended runs none; a slot at which no head can start leaves every core as it was,
and one at which a unit starts counts each other eligible launch as passed over; the tasks that it pre-empts come first
to where they can be saved, and the choice is made again where one of them has ended (R336).  That Duwen may end the
task of a context that a cause has saved (log entry 80), and what ends a mooring (log entry 66), are the model's
readings. -/
def Obligations.TaskAndQueueEvents : Prop :=
  (∀ (s : State), s.gated = false →
     (∀ c < 192, (s.core c).halted = true →
       let t := s.endTask c ((s.core c).startFault.map causeCode)
       exec (.taskEnd c) s = .next t ∧ (t.core c).task = none) ∧
     (∀ c < 192, ∀ r, (s.core c).halted = false → s.saved.find? (fun q => q.core == c && q.faulted) = some r →
       exec (.taskEnd c) s = .next (s.endSaved r (some r.cause))) ∧
     (∀ n l, s.launch? n = some l → s.deadlineDue l = true →
       exec (.launchDeadline n) s = .next (s.endLaunch l 17)) ∧
     (∀ c < 192, (s.core c).yielded = true → (∀ d ∈ s.unitCores c, s.strikeReady d = true) →
       exec (.preemption c) s = .next (s.evictUnit c)) ∧
     (∀ c < 192, ∀ k o, (s.core c).yielded = false → s.openOp c true = some (k, o) →
       (∀ d ∈ o.targets, s.strikeReady d = true) → exec (.preemption c) s = .next (s.runSave k o)) ∧
     (∀ c < 192, ∀ l r t p, let w := s.catchTides (dieOf c)
       w.overdueRecord c = some (l, r, t) →
       w.fundPlan l (.record c r t) [c] (w.unitSpan c) = some p → w.planReady p = true → w.gated = false →
       let u := w.prepareAll p.victims
       exec (.parentPreemptTimeout c) s =
         .next (if sameTasks w u p.victims = true then u.runPlan l (.record c r t) p else u)) ∧
     ∀ i < 24, (s.island i).tick % 16 = 0 → (s.island i).slotTick ≠ some (s.island i).tick →
       (s.island i).stop = false →
       let w := s.catchTides (i / 6)
       let w := w.setIsland i { w.island i with slotTick := some (s.island i).tick, acted := true }
       let g := w.launches.foldl State.grantSlots w
       let t := w.dispatch i
       exec (.dispatchSlot i) s = .next t ∧
       (g.chooseUnit i (g.ranked i) false = none → t.cores = w.cores ∧ t.mem = w.mem) ∧
       (∀ l h p, g.chooseUnit i (g.ranked i) false = some (l, h, p) → let u := g.prepareAll p.victims
         sameTasks g u p.victims = true → g.chooseReady i 193 = (u, some (l, h, p))) ∧
       ∀ u l h p, g.chooseReady i 193 = (u, some (l, h, p)) → ∀ m ∈ t.launches,
         m.number ≠ l.number → (∃ e ∈ u.ranked i, e.1.number = m.number) → 1 ≤ Tbl.get 0 m.passed i) ∧
  ∀ (s : State) (q : Nat) (v : Word), q < 64 →
    let w := s.endMooring
    let h := w.queue q
    let fold : HostQueue → BitVec 32 → HostQueue := fun h i =>
      { h with widx := if 0 < (i - h.widx).toInt then i else h.widx, examine := true }
    exec (.kick q v) s = .next (w.setQueue q (fold h (v.truncate 32))) ∧
    exec (.tokset q v) s = .next (w.setQueue q { h with tokens := h.tokens ||| v }) ∧
    exec (.tokclr q v) s = .next (w.setQueue q { h with tokens := h.tokens &&& ~~~v }) ∧
    (∀ off, exec (.hostQueueReservedWrite q off v) s = .next w) ∧
    ∀ i rest, (s.queue q).bells = i :: rest →
      exec (.doorbellFold q) s = .next (w.setQueue q { fold h i with bells := h.bells.drop 1 })

/-- R17, R150, R310, R326, R331, R334, R335, R339, R340, R358, R387 to R390: what the events of the pager, the launch
front end, the governors, the clocks, the charts, the links and the starts do.  After a page-in has ended no access
waits for its leaf but one that will fault; a page-out that has begun leaves no TLB entry of its leaf; a transfer
leaves its slot's line or waits at its head; the starts of a cycle keep their order, those behind one that waits for a
page waiting with it. Boundaries that have come go first, and throttle steps of earlier times before a boundary.  The
model's own here, by log entry: how a correction moves TIME (49), a page-out in two events (55), the queues that a cold
start configures (60), when a packet is startable (64), what ends a mooring (66) and what starts keep (72). -/
def Obligations.ModuleEvents : Prop :=
  ∀ (s : State),
    let fresh : State := { State.reset with agenda := s.agenda, fresh := s.fresh, flash := s.flash, badLines := s.badLines }
    (∀ leaf ok, (∃ j ∈ s.pager, j.leaf = leaf ∧ j.pageIn = true) →
      let t := s.endPageIn leaf ok
      exec (.pageIn leaf ok) s = .next t ∧ (∀ j ∈ t.pager, j.leaf = leaf → j.pageIn = false) ∧
      ∀ w ∈ t.pageWaits, w.leaf = leaf → w.failed = true) ∧
    (∀ leaf, leaf % 8 = 0 → isLpddr leaf = true →
      let e := s.homeNumber leaf 8
      let t := s.startPageOut leaf
      pteV e = true → ptePointer e = false → pteReserved e 0 = false → pteFr e = false → ptePb e = false →
      isLpddr (pteFrame e) = true → (∀ j ∈ s.pager, j.leaf = leaf → j.pageIn = true) →
      exec (.pageOut leaf) s = .next t ∧ t.pager = s.pager ++ [{ leaf := leaf, pageIn := false, ahead := none }] ∧
      (∀ k ∈ t.cores, ∀ e ∈ k.2.tlb, e.leaf ≠ leaf) ∧ ∀ d ∈ t.dies, ∀ e ∈ d.2.tlb, e.leaf ≠ leaf) ∧
    (∀ leaf, (∃ j ∈ s.pager, j.leaf = leaf ∧ j.pageIn = false) →
      exec (.pageOut leaf) s = .next (s.tryPageOut leaf)) ∧
    (s.lfe = none → exec .lfeCycle s = (let w := s.closeLaunches.applyCompletions.examineHeads
      .next (if w.gated = true then w else w.runStarts s.firstPackets (w.waitingPackets.map (fun e => e.2.age))))) ∧
    (∀ e, s.lfe = some e →
      exec .lfeCycle s = .next (if s.gated = true then s else s.runStarts e.first e.left)) ∧
    (∀ first n rest, s.runStarts first [] = { s with lfe := none } ∧
      (s.packetAged n = none → s.runStarts first (n :: rest) = s.runStarts first rest) ∧
      ∀ q p, s.packetAged n = some (q, p) →
        (s.startable p = false → p.age ∉ first → s.runStarts first (n :: rest) = s.runStarts first rest) ∧
        (∀ w, s.startPacket q p first = (true, w) → s.runStarts first (n :: rest) = w.runStarts first rest) ∧
        ∀ w, s.startPacket q p first = (false, w) →
          s.runStarts first (n :: rest) = { w with lfe := some { first := first, left := n :: rest } }) ∧
    (let step : State → Nat → State := fun w i =>
       if (w.island i).tws = true ∧ (w.island i).tstep ≤ w.islandTime i ∧ w.thermal = false then
         w.setIsland i (w.island i).throttleStep else w
     (∀ d < 4, exec (.tideBoundary d) s = .next (if s.tideDue d = true then
       (let w := (List.range 6).foldl (fun w k =>
          if (w.island (d * 6 + k)).tstep < (s.die d).tideNo * (1000 * s.tide) then step w (d * 6 + k) else w) s
        (List.range 6).foldl (fun w k => w.tideIsland (d * 6 + k))
          (w.setDie d { w.die d with tideNo := (w.die d).tideNo + 1 })) else s)) ∧
     (∀ i < 24, exec (.throttleStep i) s = .next (step (s.catchTides (i / 6)) i)) ∧
     (s.thermal = true → exec .thermalResume s = .next ((List.range 24).foldl step { s with thermal := false }))) ∧
    (∀ i < 24, let w := s.catchTides (i / 6)
      exec (.boostWindowEnd i) s = .next (if (w.island i).windows * 4096 + 4096 ≤ (w.island i).tick then
        w.setIsland i (w.island i).endWindow else w)) ∧
    (∀ i < 24, exec (.powerLimitStretch i) s = .next (s.setIsland i { s.island i with stretch := true })) ∧
    exec .thermalTrip s = .next { s with thermal := true } ∧
    (∀ v : Nat,
      let d : Int := (v : Int) - (s.refTime : Int)
      d ≤ 10 → -10 ≤ d →
      (∀ i < 24, exec (.timeCorrection i v) s =
        .next (s.setIsland i { s.island i with skew := max (s.island i).skew d, slew := d })) ∧
      (∀ n < 4, exec (.timeCorrection (24 + n) v) s =
        .next (s.setDie n { s.die n with skew := max (s.die n).skew d, slew := d })) ∧
      exec (.timeCorrection 28 v) s = .next { s with ioSkew := max s.ioSkew d, ioSlew := d }) ∧
    (∀ d < 4, ∀ n < 512, ∀ m rest, ((s.die d).chart n).moves = m :: rest →
      let t := if m.sync = true then s else s.endTransfer d m
      exec (.chartTransferEnd d n) s = .next t ∧
      (m.slot = n → ((t.die d).chart n).moves = m :: rest ∨ ((t.die d).chart n).moves = rest)) ∧
    (∀ cause, cause ≠ .armedWake → exec (.moorWake cause) s = .next s.endMooring) ∧
    (∀ t, s.moorWake = some t → t ≤ s.timeOf s.moorCore → exec (.moorWake .armedWake) s = .next s.endMooring) ∧
    (∀ w v off data, s.windows.find? (fun e => e.1 == w) = some (w, v) → s.moored = false →
      off + data.length ≤ v.size → exec (.walrisPeerWrite w off data) s =
        .next (s.storeFor none (data.mapIdx (fun i b => (v.base + off + i, b))))) ∧
    (∀ a data, (∀ i < data.length, isLpddr (a + i) = true ∨ (queuePage (a + i)).isSome = true) →
      exec (.hostPortAccess a (.write data)) s =
        .next (s.endMooring.storeFor none (data.mapIdx (fun i b => (a + i, b))))) ∧
    (∀ a n, (∀ i < n, isLpddr (a + i) = true ∨ (queuePage (a + i)).isSome = true) →
      exec (.hostPortAccess a (.read n)) s = .next (
        let w := (withoutRuns ((List.range n).map (fun i => (a + i) / 64))).foldl (fun w l => w.touchLine l false none)
          s.endMooring
        { w with
          hostReads := ((List.range n).map (fun i => w.homeByte (a + i))) :: w.hostReads, fresh := w.fresh + 1 })) ∧
    exec (.coldStart true true) s =   .next { fresh.startDies with
      booted := true, queues := (List.range 64).map (fun q => (q, configuredQueue q)) } ∧
    (∀ a b, (a && b) = false → exec (.coldStart a b) s = .next fresh) ∧
    (s.booted = true → ((∀ e ∈ s.cores, s.strikeReady e.1 = true) →
        exec (.warmStart true) s = .next s.saveAll.resetDies) ∧
      exec (.warmStart false) s = .next s.dropLaunches.resetDies.closeLaunches) ∧
    ∀ nonce, s.booted = true → exec (.attestationRequest nonce) s =
      .next (let w := s.endMooring; { w with reports := attestation nonce :: w.reports })

/-! ### Decoding and running -/

/-- Table 2.4, R34 to R40: decoding what the encoder writes gives the instruction back, every field at every value that
its encoding admits, and leaves the words that follow. -/
def Obligations.DecodeEncode : Prop :=
  ∀ (i : Instr) (rest : List W32), i.wf = true → isEvent i = false →
    let tpl : Nat → WideBits := fun n => if n = 1 then encodeTemplate i else 0
    decode tpl none (encode i ++ rest) = .ok (i, rest) ∧
    ∀ st, (∀ o b f, i.parts = some (o, b, f) → st ∈ o.row.streams) →
      decode tpl (some st) (encode i ++ rest) = .ok (i, rest)

/-- Words written out in the specification decode to the instructions they stand for. -/
def Obligations.DecodedWords : Prop :=
  let b : Bundle := { push := .none, pop := .none, sync := false, words := 5 }
  let read : List W32 → Option Instr := fun ws =>
    match decode (fun _ => 0) none ws with
    | .ok (i, []) => some i
    | _ => none
  read [0x00000000] = some (.nopTix0 { push := .none, pop := .none, sync := false, words := 1 }) ∧
  read [0xFC000000, 0x00000000, 0x00000064, 0xE0000103, 0x10000506] = some (.add b { Fields.zero with
    dst := .s 5, sa := .s 6, sb := .imm, mod := 4, typ := .i32, imm := 100 }) ∧
  read [0xFC000000, 0x00000000, 0x00000010, 0x00000007, 0x30000304] = some (.ld b { Fields.zero with
    dst := .s 3, sa := .s 4, typ := .n32, imm := 16 }) ∧
  read [0xFC000000, 0x00000000, 0x00000000, 0x51050010, 0x53004340] = some (.vfma b { Fields.zero with
    dst := .q 3, sa := .q 0, sb := .peek 1, sc := .s 5, typ := .f32 }) ∧
  read [0xFC000000, 0x00280000, 0x00040004, 0x050600D8, 0x70006404] = some (.mmaQ4 b { Fields.zero with
    dst := .pb 0, sa := .s 4, sb := .s 5, sc := .s 6, mod := 3, typ := .q4, imm := 0x00040004, aux := 0x0028 }) ∧
  read [0xFC000000, 0x03090000, 0x00000001, 0x05060680, 0x48020C04] = some (.cpy2 b { Fields.zero with
    dst := .s 12, sa := .s 4, sb := .s 5, sc := .s 6, mod := 26, imm := 1, aux := 0x0309 }) ∧
  read [0xFC000000, 0x00000000, 0x00000008, 0x00000008, 0x41030304] = some (.acq .dev b { Fields.zero with
    dst := .s 3, sa := .s 4, typ := .n64, imm := 8 }) ∧
  read [0xFC000000, 0x00000000, 0x00000000, 0x060006C8, 0x80000504] = some (.amoAdd b { Fields.zero with
    dst := .s 5, sa := .s 4, sb := .s 6, mod := 27, typ := .n64 }) ∧
  read [0xFC000000, 0x00030000, 0x000007D0, 0x06070107, 0x95000504] = some (.waitb b { Fields.zero with
    dst := .s 5, sa := .s 4, sb := .s 6, sc := .s 7, mod := 4, typ := .n32, imm := 2000, aux := 3 }) ∧
  read [0xFC000000, 0x00000000, 0x00041002, 0x06000000, 0xA2008905] = some (.chtProp b { Fields.zero with
    dst := .ml 1, sa := .s 5, sb := .s 6, imm := 0x00041002 }) ∧
  read [0xFC000000, 0x00000000, 0x00000000, 0x00000000, 0xB20005A4] = some (.sreg b { Fields.zero with
    dst := .s 5, sa := .special 4 })

/-- R42, R45, R46, R58, R391: a turn of a stream whose bundle is fetched whole, needs no drain and decodes runs that
instruction, when the lines that the turn before moved have been metered and the governors brought up to date (R326,
R331, R334), and forms its rendezvous where the bundle waits for it; where that traps and a stream earlier in the order
P, L, X, S would trap in the same tick, that one does.  A stream whose bundle has issued and waits goes on with it. -/
def Obligations.StepRunsInstruction : Prop :=
  ∀ (s t : State) (c : Nat) (st : Stream) (turns : List Turn), s.agenda = .issue c st :: turns →
    let s' : State := ({ s with agenda := turns } : State).catchUp
    let r := if t.note = .waited ∧ (t.stream c st).atSync = true then t.rendezvous c else t
    let runs : Prop := step s = match (if r.note.fails then s'.faultsBefore c st else none) with
      | some u => s'.issueBundle c u
      | none => .next r
    s'.mayIssue c st = true → (s'.stream c st).uncorr = [] → (s'.core c).warnDue = false →
    (s'.core c).warnHeld = false →
    (∀ (w : State) (ws rest : List W32) (fl bh : Bool) (i : Instr), (s'.stream c st).kept = none →
      s'.fetchBundle c st = .ok w ws fl bh →
      (∀ n, (w.core c).drainFor st fl ≠ some (n, true)) → (fl = true ∨ (w.core c).templatePending st ws = false) →
      decode (w.stream c st).template (some st) ws = .ok (i, rest) →
      exec i { w with cur := { core := c, st := st, fl := fl, bh := bh } } = .next t → runs) ∧
    ∀ e, (s'.stream c st).kept = some e →
      exec (e.o.instr e.held.b e.held.f) { s' with cur := { core := c, st := st, fl := e.held.fl, bh := e.held.bh } } =
        .next t → runs

/-- No step faults and none is refused, from any state. -/
def Obligations.StepsNeverStop : Prop := ∀ s : State, s.Steps

/-- Every step keeps the memory in its canonical form: addresses rise strictly and no listed byte is 0. -/
def Obligations.StepKeepsMemory : Prop :=
  ∀ s t : State, s.MemoryWf → step s = .next t → t.MemoryWf

/-- R324, R388: right after reset no stream runs and no task is loaded, TICK and TIME of every core are 0, TIDE is 100
and FLEN 10, and the memory has its canonical form.  That the registers, queues, holds and frames read 0, or all ones
in p0, is the choice of log entry 5 where the specification gives no value. -/
def Obligations.ResetState : Prop :=
  let s := State.reset
  s.MemoryWf ∧ s.tide = 100 ∧ s.flen = 10 ∧ s.thermal = false ∧ s.moored = false ∧
  ∀ c, let k := s.core c
    s.tickOf c = 0 ∧ s.timeOf c = 0 ∧ k.task = none ∧ k.inh = false ∧ k.lease = false ∧ k.frame = Frame.reset ∧
    (∀ o, k.holdRead o 8 = 0) ∧ (∀ q, (k.queueReg q).cnt = 0) ∧ (∀ a b, k.fifoCount a b = 0) ∧
    (∀ n i, Tbl.get 0 (k.accOf n) i = 0) ∧ (∀ n, Tbl.get 0 k.sem n = 0) ∧
    ∀ st, (k.stream st).run = false ∧ (k.stream st).pc = 0 ∧ (k.stream st).pend = 0 ∧ (k.stream st).fstat = 0 ∧
      ∀ o, (k.stream st).reg o = if o = .p 0 then BitVec.allOnes 64 else 0

/-! ### What an instruction leaves alone -/

/-- R38, R49, R154: what an issued scalar instruction leaves unchanged: its result is in flight to its destination
register, with its flags if it raises any, and nothing else of the module changes but the stream's sequencer, what its
bundle's fields do and the bytes that those may store; FFLAG also changes its stream's FSTAT, in its clearing and
setting forms only. -/
def Obligations.ScalarFrames : Prop :=
  let plain : List ((Bundle → Fields → Instr) × Op) := [(.add, .add), (.sub, .sub), (.min, .min), (.minn, .minn),
    (.max, .max), (.maxn, .maxn), (.mul, .mul), (.mulh, .mulh), (.mulhn, .mulhn), (.div, .div), (.divn, .divn),
    (.rem, .rem), (.remn, .remn), (.and, .and), (.or, .or), (.xor, .xor), (.andn, .andn), (.shl, .shl), (.shr, .shr),
    (.sra, .sra), (.rot, .rot), (.clz, .clz), (.popc, .popc), (.sel, .sel), (.ldi, .ldi), (.addr, .addr), (.bfx, .bfx),
    (.bfi, .bfi), (.cmp, .cmp), (.plog, .plog), (.pmov, .pmov), (.fcls, .fcls), (.sreg, .sreg), (.rng, .rng)]
  (∀ p ∈ plain, ∀ (b : Bundle) (f : Fields) (s t : State), s.MemoryWf → exec (p.1 b f) s = .next t → t.note = .issued →
    (Ctx.of p.2 b f s).Frame s t (fun es => ∃ v, es = [.reg s.cur.st f.dst v])) ∧
  (∀ (b : Bundle) (f : Fields) (s t : State), s.MemoryWf → exec (.cvt b f) s = .next t → t.note = .issued →
    (Ctx.of .cvt b f s).Frame s t (fun es => ∃ v fl, es = [.reg s.cur.st f.dst v, .flags s.cur.st fl])) ∧
  (∀ (b : Bundle) (f : Fields) (s t : State), s.MemoryWf → f.dst.isQueue = false → exec (.qtag b f) s = .next t →
    t.note = .issued →
    (Ctx.of .qtag b f s).Frame s t (fun es => ∃ v fl, es = [.reg s.cur.st f.dst v, .flags s.cur.st fl])) ∧
  (∀ (b : Bundle) (f : Fields) (s t : State), s.MemoryWf → exec (.fflag b f) s = .next t → t.note = .issued →
    let x := Ctx.of .fflag b f s
    let old := (s.stream x.c x.st).fstat
    let m : Flags := f.imm.truncate 5
    let new := (t.stream x.c x.st).fstat
    x.Frame s (t.modStream x.c x.st (fun k => { k with fstat := old })) (fun es => ∃ v, es = [.reg s.cur.st f.dst v]) ∧
    (new = old ∨ f.mod.toNat % 4 = 1 ∧ new = old &&& ~~~m ∨ f.mod.toNat % 4 = 2 ∧ new = old ||| m)) ∧
  ∀ (b : Bundle) (f : Fields) (s t : State), s.MemoryWf → exec (.nop b f) s = .next t → t.note = .issued →
    (Ctx.of .nop b f s).Frame s t (fun _ => False)

/-- R38: an operation that its predicate does not enable does nothing but its bundle's POP, SYNC and PUSH, whichever
instruction it is. -/
def Obligations.DisabledOperations : Prop :=
  ∀ (i : Instr) (o : Op) (b : Bundle) (f : Fields) (s u : State), i.parts = some (o, b, f) →
    let x := Ctx.of o b f s
    x.decodeTrap s = none → x.takePop s = some u → x.predReady u = true → laneEnabled o f = false →
    x.enabled u = false → x.loopsReady u = true → x.mustSync u = false → x.pushFull u = false →
    exec i s = .next ((x.finish u .seq false).noted .issued)

/-- R37, R49: a landing writes its destination register and no other; s0 stays 0 and p0 stays all ones whatever is
written to them, and sp is s31.
R49, R125, R212, R239, R251, R254, R260, R371, R380: the other effects write what they name and nothing else: FSTAT and
MFLAG gain flags, a template is replaced, histogram bins count up to 2^32 - 1, accumulator elements and psum words are
replaced, a reserved queue entry gets its data, and a special register reads as written, bits that it has not reading
0; a handler's write of FPC of P clears FLACT[5:4], of another stream its PEND.  The results that are due land one
after another, each with all its effects. -/
def Obligations.Landings : Prop :=
  (∀ (k : Core) (tick : Nat) (st st' : Stream) (o o' : Operand) (v : Word),
    let k' := k.apply tick (.reg st o v)
    (k'.stream st).reg (.s 0) = 0 ∧ (k'.stream st).reg (.p 0) = BitVec.allOnes 64 ∧
    (k'.stream st).reg .sp = (k'.stream st).reg (.s 31) ∧
    (isRegister o = true → o ≠ .s 0 → o ≠ .p 0 → (k'.stream st).reg o = v) ∧
    (canonReg o' ≠ canonReg o → (k'.stream st).reg o' = (k.stream st).reg o') ∧
    (st' ≠ st → k'.stream st' = k.stream st') ∧ { k' with st := k.st } = k ∧
    (k'.stream st).pc = (k.stream st).pc ∧ (k'.stream st).fstat = (k.stream st).fstat) ∧
  (∀ (k : Core) (tick : Nat),
    (∀ st fl, k.apply tick (.flags st fl) = k.modStream st (fun t => { t with fstat := (k.stream st).fstat ||| fl })) ∧
    (∀ fl, k.apply tick (.mflags fl) = { k with mflag := k.mflag ||| fl }) ∧
    (∀ v, k.apply tick (.sag false v) = { k with sga := v } ∧ k.apply tick (.sag true v) = { k with sgb := v } ∧
      k.apply tick (.mbase v) = { k with mbase := v }) ∧
    (∀ st n v, let k' := k.apply tick (.template st n v)
      Tbl.get 0 (k'.stream st).templates n = v ∧
      (∀ m, m ≠ n → Tbl.get 0 (k'.stream st).templates m = Tbl.get 0 (k.stream st).templates m) ∧
      { k'.stream st with templates := (k.stream st).templates } = k.stream st ∧
      (∀ u, u ≠ st → k'.stream u = k.stream u) ∧ { k' with st := k.st } = k) ∧
    (∀ clear digits b, let k' := k.apply tick (.hist clear digits)
      (Tbl.get 0 k'.hist b).toNat =
        min ((if clear then 0 else (Tbl.get 0 k.hist b).toNat) + digits.count b) (2 ^ 32 - 1) ∧
      { k' with hist := k.hist } = k) ∧
    (∀ n < 4, ∀ vals, let k' := k.apply tick (.acc n vals)
      (∀ i w, (i, w) ∈ vals → (∀ w', (i, w') ∈ vals → w' = w) → Tbl.get 0 (k'.accOf n) i = w) ∧
      (∀ i, (∀ w, (i, w) ∉ vals) → Tbl.get 0 (k'.accOf n) i = Tbl.get 0 (k.accOf n) i) ∧
      (∀ m < 4, m ≠ n → k'.accOf m = k.accOf m) ∧ { k' with acc := k.acc } = k) ∧
    (∀ n < 2, ∀ vals kind pn tags, let k' := k.apply tick (.pb n vals kind pn tags)
      (∀ i w, (i, w) ∈ vals → (∀ w', (i, w') ∈ vals → w' = w) → Tbl.get 0 (k'.pbOf n) i = w) ∧
      (∀ i, (∀ w, (i, w) ∉ vals) → Tbl.get 0 (k'.pbOf n) i = Tbl.get 0 (k.pbOf n) i) ∧
      k'.pkindOf n = kind ∧ k'.pnOf n = pn ∧ k'.ptagOf n = tags ∧ k'.pbOf (1 - n) = k.pbOf (1 - n) ∧
      k'.pkindOf (1 - n) = k.pkindOf (1 - n) ∧ k'.pnOf (1 - n) = k.pnOf (1 - n) ∧ k'.ptagOf (1 - n) = k.ptagOf (1 - n) ∧
      { k' with pb0 := k.pb0, pb1 := k.pb1, pkind0 := k.pkind0, pkind1 := k.pkind1, pn0 := k.pn0, pn1 := k.pn1,
                ptag0 := k.ptag0, ptag1 := k.ptag1 } = k) ∧
    (∀ q slot rid v, let k' := k.apply tick (.entry q slot rid v); let r := k.queueReg q; let r' := k'.queueReg q
      (Tbl.get 0 r.rsv slot = rid → Tbl.get true r.rdy slot = false →
        Tbl.get 0 r'.slots slot = v ∧ Tbl.get true r'.rdy slot = true ∧ r'.head = r.head ∧ r'.cnt = r.cnt ∧
        ∀ m, m ≠ slot → Tbl.get 0 r'.slots m = Tbl.get 0 r.slots m ∧ Tbl.get true r'.rdy m = Tbl.get true r.rdy m) ∧
      (Tbl.get 0 r.rsv slot ≠ rid ∨ Tbl.get true r.rdy slot = true → r' = r) ∧
      (∀ p, p ≠ q → k'.queueReg p = k.queueReg p) ∧ { k' with queues := k.queues } = k) ∧
    (let k' := k.apply tick (.framePc .P)
     k'.frame.flact = k.frame.flact &&& 15 ∧ { k' with frame := k.frame } = k) ∧
    ∀ st, st ≠ .P → let k' := k.apply tick (.framePc st)
      (k'.stream st).pend = 0 ∧ (∀ u, u ≠ st → k'.stream u = k.stream u) ∧ { k' with st := k.st } = k) ∧
  (∀ (s : State) (c : Nat) (l : Landing) (n : Nat) (v : Word), l.effects = [.special n v] →
    let t := s.landOne c l
    (n ∈ [6, 7, 11, 12, 14, 15, 16, 17, 18, 19, 20, 22, 23, 25] → t.special c n = v) ∧
    (n = 8 → t.special c n = v &&& 0xFFFF3FFFFFFFE000) ∧ (n = 10 → t.special c n = v &&& 0xFFFF0FFF) ∧
    (n = 13 → t.special c n = v &&& 0xFFFF) ∧ (n = 21 → t.special c n = v &&& 0x3F) ∧
    (n = 24 → t.special c n = v &&& 1) ∧
    (∀ m, m ≠ n → ¬ (m = 5 ∧ n = 7) → t.special c m = s.special c m) ∧ ∀ d, d ≠ c → t.core d = s.core d) ∧
  ∀ (s : State) (c : Nat) (due : Landing → Bool),
    let k := s.core c
    let now : Landing → Bool := fun l => decide (l.tick ≤ s.tickOf c) && due l
    s.landDue c due = (k.flight.filter now).foldl (fun w l => w.landOne c l)
      (s.setCore c { k with flight := k.flight.filter (fun l => !now l) }) ∧
    ∀ l, l.isEpiOut = false → (s.landOne c l).core c = l.effects.foldl (fun k e => k.apply l.tick e) k

/-- R141, R163, R171: performing a pending store that releases nothing, all its pieces, to bytes of device memory
that its die's cache may not hold, writes them and leaves every other byte of memory as it was. -/
def Obligations.StoresPerformed : Prop :=
  ∀ (s : State) (c : Nat) (y : PStore), s.MemoryWf → y.release = none →
    (s.core c).stores.find? (fun z => z.seq == y.seq) = some y → y.origin.length = y.parts.length →
    (y.parts.map (fun p => p.1)).Nodup →
    (∀ p ∈ y.parts, isDevice p.1 = false ∧ s.rdcMayHold (dieOf c) p.1 p.2.2 = false) →
    let t := s.performStore c y
    (∀ p ∈ y.parts, t.mem.get p.1 = p.2.1) ∧
    ∀ a, (∀ p ∈ y.parts, p.1 ≠ a) → t.mem.get a = s.mem.get a

/-! ### Exceptions, privilege and queue traps -/

/-- R74, R374 to R377: taking an exception once the core's results have landed: the frame records the cause, the
addresses, the PC of each stream and P's loops, delay slots, SYNCDONE (R87) and link still to be written, which the
model keeps with the frame (log entry 22); a task's handler, or TVEC on a Duwen core, gets control in P with no loop
and no delay slot active, and INH set; any other cause on a core of tasks, but for a THROTTLE_WARN that INH holds back,
frees the core and enters the fault log; and one on a Duwen core while INH = 1 starts its firmware anew, at an entry
and with a root that its image gives (log entry 20), its frame as at reset (log entry 5). -/
def Obligations.ExceptionEntry : Prop :=
  ∀ (s : State) (c : Nat) (st : Stream) (t : TrapInfo),
    let w := ((s.stopStreams c).landAll c).dropPageWaits c st.num
    let k := w.core c
    let s' := s.raise c st t
    let k' := s'.core c
    let entered : Word → Prop := fun h =>
      k'.inh = true ∧ k'.frame.fcause.toNat % 256 = causeCode t.cause ∧ k'.frame.fcause.toNat / 256 % 4 = st.num ∧
      k'.frame.fcause.getLsbD 10 = t.async ∧ k'.frame.fcause.getLsbD 11 = t.svc ∧
      k'.frame.fcause.toNat / 65536 = t.code % 65536 ∧
      k'.frame.faddr0 = BitVec.ofNat 64 t.addr0 ∧ k'.frame.faddr1 = BitVec.ofNat 64 t.addr1 ∧
      k'.frame.fdet = BitVec.ofNat 64 t.fdet ∧ k'.frame.wxtag = t.wxtag ∧ k'.frame.wxval = t.wxval ∧
      k'.frame.wxcmp = t.wxcmp ∧
      (∀ u, (t.record = none ∨ u ≠ st) → k'.frame.fpc.get u = (k.stream u).pc.zeroExtend 64) ∧
      (∀ a, t.record = some a → k'.frame.fpc.get st = BitVec.ofNat 64 a) ∧
      (∀ n < 4, k'.frame.flact.getLsbD n = Tbl.get false (k.stream .P).lact n) ∧
      k'.frame.flact.toNat / 16 = (k.stream .P).pend.toNat ∧
      k'.frame.fptg = (k.stream .P).ptarget.zeroExtend 64 ∧ k'.frame.flink = (k.stream .P).link ∧
      (k'.stream .P).link = none ∧ k'.frame.fsync = (k.stream .P).syncDone ∧ (k'.stream .P).syncDone = false ∧
      (k'.stream .P).pc = BitVec.ofNat 48 (h.toNat / 4 * 4) ∧ (k'.stream .P).pend = 0 ∧
      (∀ n, Tbl.get false (k'.stream .P).lact n = false) ∧
      (k'.stream .P).registers = (k.stream .P).registers ∧ (∀ u, u ≠ .P → k'.stream u = k.stream u) ∧
      k'.task = k.task ∧ (∀ d, d ≠ c → s'.core d = w.core d) ∧ s'.mem = w.mem
    (isFirmware c = false → ∀ u, k.task = some u → toHandler t.cause = true → t.svc = false → k.inh = false →
      u.handler ≠ 0 → u.handler < 2 ^ 64 → entered (BitVec.ofNat 64 u.handler)) ∧
    (isFirmware c = true → k.inh = false → entered k.tvec) ∧
    (isFirmware c = true → k.inh = true → k'.inh = false ∧ k'.frame = Frame.reset ∧
      (∀ u, (k'.stream u).run = (u == .P)) ∧
      (k'.stream .P).pc = BitVec.ofNat 48 ((Config.firmwareEntry (dieOf c)).toNat / 4 * 4) ∧
      k'.ptroot = (Config.firmwareRoot (dieOf c)) &&& ptrootMask) ∧
    (isFirmware c = false → (t.cause ≠ .throttleWarn ∨ k.inh = false) → (∀ u, k.task = some u →
        toHandler t.cause = false ∨ t.svc = true ∨ k.inh = true ∨ u.handler = 0) →
      k'.task = none ∧ s'.faultLog.head? =
        some { cause := t.cause, core := c, addr := t.addr0, info := (k.stream st).pc.toNat })

/-- R45, R74, R380: ERET restores the PC of every stream from its FPC and P's loops, delay slots and target from FLACT
and FPTG, bits [1:0] of an address dropped, clears INH, lets no stream issue within 2 ticks, and changes nothing else,
but that SYNCDONE of P (R87) and the link still to be written come back from the frame, which keeps the link by the
model's reading (log entry 22). -/
def Obligations.ExceptionReturn : Prop :=
  ∀ (s : State) (c : Nat),
    let k := s.core c
    let s' := s.eret c
    let k' := s'.core c
    k'.inh = false ∧
    (∀ st, (k'.stream st).pc = BitVec.ofNat 48 ((k.frame.fpc.get st).toNat / 4 * 4) ∧
      s.tickOf c + 2 ≤ (k'.stream st).nextTick ∧ (k'.stream st).registers = (k.stream st).registers ∧
      (k'.stream st).run = (k.stream st).run) ∧
    (∀ n < 4, Tbl.get false (k'.stream .P).lact n = k.frame.flact.getLsbD n) ∧
    (k'.stream .P).pend.toNat = k.frame.flact.toNat / 16 % 4 ∧
    (k'.stream .P).ptarget = BitVec.ofNat 48 (k.frame.fptg.toNat / 4 * 4) ∧ (k'.stream .P).link = k.frame.flink ∧
    (k'.stream .P).syncDone = k.frame.fsync ∧
    (∀ st, st ≠ .P → (k'.stream st).pend = (k.stream st).pend ∧ (k'.stream st).lact = (k.stream st).lact) ∧
    { k' with st := k.st, inh := k.inh } = k ∧ { s' with cores := s.cores } = s ∧ ∀ d, d ≠ c → s'.core d = s.core d

/-- R38, R370, R371, R380: at task privilege the firmware instructions, reads of TVEC, CTXPTR and LEASE, writes of
every special register but FPC in a handler, and ERET outside a handler trap with PRIV at decode, after ILLOP, ILLFIELD
and DSLOT.  That SREG, SWREG and ERET trap so where their predicate disables them too is the model's reading (log entry
39). -/
def Obligations.PrivilegeTraps : Prop :=
  ∀ (o : Op) (b : Bundle) (f : Fields) (s : State),
    let x := Ctx.of o b f s
    isFirmware x.c = false → x.st ∈ o.row.streams → o.legal f = true →
    (s.core x.c).bindingsOk o f x.st = true → x.slotTrap s = false →
    (o ∈ [.ebudW, .eclsW, .ethrW, .tlbi, .ctxs, .ctxl, .idleM] ∨
      (o = .sreg ∧ ∃ n : Fin 26, f.sa = .special n ∧ 22 ≤ n.val ∧ n.val ≤ 24) ∨
      (o = .swreg ∧ ∃ n : Fin 26, f.dst = .special n ∧
        ¬ (14 ≤ n.val ∧ n.val ≤ 17 ∧ (s.core x.c).inh = true)) ∨
      (o = .eret ∧ (s.core x.c).inh = false)) →
    exec (o.instr b f) s = .next (x.traps s { cause := .priv })

/-- R152, R213: on a queue whose producer and consumer are one stream, a pop or peek of an empty queue traps with QUND,
and, where no source does, a push into a full one traps with QOVF, a pop of the same instruction counted first: in a
vector instruction once its unit is free, in a queue conversion, and in a queue load or store, whose fault detail gives
the kind of access.  That it does so even where another queue operand would wait is the model's choice (log entry 112). -/
def Obligations.QueueTraps : Prop :=
  let empty : Op → Ctx → State → Prop := fun o x u => ∃ q ∈ queuesOf (sourcePositions o x.f),
    (u.core x.c).producer q = x.st ∧ ((u.core x.c).queueReg q).cnt = 0
  let full : Op → Ctx → State → Prop := fun o x u => ¬ empty o x u ∧ ∃ q, pushPosition o x.f = some q ∧
    (u.core x.c).consumer q = x.st ∧ 4 ≤ ((u.core x.c).queueReg q).cnt -
      (if q ∈ popsOf (sourcePositions o x.f) then 1 else 0)
  let traps : (Bundle → Fields → Instr) → Op → (Ctx → State → Prop) → (Ctx → Nat) → Prop := fun i o g d =>
    Traps i o (fun x u => g x u ∧ empty o x u) (fun x _ => { cause := .qund, fdet := d x }) ∧
    Traps i o (fun x u => g x u ∧ full o x u) (fun x _ => { cause := .qovf, fdet := d x })
  (∀ p ∈ [(Instr.vadd, Op.vadd), (.vsub, .vsub), (.vmul, .vmul), (.vfma, .vfma), (.vmin, .vmin), (.vmax, .vmax),
      (.vabs, .vabs), (.vneg, .vneg), (.vand, .vand), (.vor, .vor), (.vxor, .vxor), (.vshl, .vshl), (.vshr, .vshr),
      (.vsra, .vsra), (.vcmp, .vcmp), (.vsel, .vsel), (.vexp2, .vexp2), (.vlog2, .vlog2), (.vrcp, .vrcp),
      (.vrsq, .vrsq), (.vsqrt, .vsqrt), (.vredSum, .vredSum), (.vredMax, .vredMax), (.vredMin, .vredMin),
      (.vscanIncl, .vscanIncl), (.vscanExcl, .vscanExcl), (.vperm, .vperm), (.vbcast, .vbcast), (.vmov, .vmov),
      (.vmovX, .vmovX), (.vmovI, .vmovI), (.viota, .viota), (.vkey, .vkey), (.vhist, .vhist)],
    traps p.1 p.2 Ctx.unitFree (fun _ => 0)) ∧
  (∀ p ∈ [(Instr.cvtQ, Op.cvtQ), (.pack4, .pack4), (.pack8, .pack8), (.unpk4, .unpk4), (.unpk8, .unpk8)],
    traps p.1 p.2 (fun _ _ => True) (fun _ => 0)) ∧
  traps .qtag .qtag (fun x _ => x.f.dst.isQueue = true) (fun _ => 0) ∧
  ∀ p ∈ [((Instr.ldq, Op.ldq), 7), ((.ldgq, .ldgq), 7), ((.stq, .stq), 15), ((.stsq, .stsq), 15)],
    traps p.1.1 p.1.2 (fun _ _ => True) (fun x => p.2 + if x.f.mod.getLsbD 0 then 32 else 0)

/-! ### Values of the numeric functions -/

/-- R113, R114, R120 to R124: what codes stand for, and to which codes, with which flags, finite values, infinities,
NaNs and integers are converted.  R132: a value above 0 is rounded over the scale tags, ties to the code with bit 0
clear, one at 2^-63 upwards.  R130: an element of a Q4 block is rounded over its type's values and saturates; the flags
of a value above the greatest one are not stated here (log entry 96).
R231 and Table 9.3: VRCP, VRSQ and VSQRT round the exact result, VEXP2 of an integer and VLOG2 of a power of 2 too, and
the special operands give what the table says; that the others of VEXP2 and VLOG2 are rounded from long series is log
entry 17. -/
def Obligations.RoundedValues : Prop :=
  let floats : List Typ := [.f32, .f16, .bf16, .e4m3, .e5m2, .e3m2, .e2m3, .e2m1]
  let ints : List Typ := [.i8, .i16, .i32, .i64, .n8, .n16, .n32, .n64]
  (∀ t ∈ floats, let f := t.format; let half := 2 ^ (f.ew + f.mw)
    (∀ code neg m e, code < 2 * half → f.decode code = .fin neg m e →
      (neg = true ↔ half ≤ code) ∧ code % half ≤ f.maxCode ∧ (m : ℚ) * 2 ^ e = f.magnitude (code % half)) ∧
    (∀ mode sat neg, ∀ m : Nat, ∀ e, 0 < m →
      f.Rounds mode sat neg (((m : ℚ) * 2 ^ e : ℚ) : ℝ) (f.ofVal mode sat (.fin neg m e))) ∧
    (∀ mode sat neg e, f.ofVal mode sat (.fin neg 0 e) = { code := if neg then half else 0, flags := 0 })) ∧
  (∀ p ∈ [(Typ.f32, 0x7FC00000, 0x7F800000), (.f16, 0x7E00, 0x7C00), (.bf16, 0x7FC0, 0x7F80), (.e5m2, 0x7E, 0x7C)],
    let f := p.1.format
    ∀ mode sat b, f.ofVal mode sat (.nan b) = { code := p.2.1, flags := if b then flagNV else 0 } ∧
      f.ofVal mode sat (.inf b) = { code := (if b then 2 ^ (f.ew + f.mw) else 0) + p.2.2, flags := 0 }) ∧
  (∀ mode sat b, Typ.e4m3.format.ofVal mode sat (.nan b) = { code := 0x7F, flags := if b then flagNV else 0 } ∧
    Typ.e4m3.format.ofVal mode sat (.inf b) =
      { code := (if b then 0x80 else 0) + (if sat then 0x7E else 0x7F), flags := flagOF }) ∧
  (∀ p ∈ [(Typ.e3m2, 0x1F, 0x20), (.e2m3, 0x1F, 0x20), (.e2m1, 7, 8)],
    ∀ mode sat b, p.1.format.ofVal mode sat (.nan b) = { code := p.2.1, flags := flagNV } ∧
      p.1.format.ofVal mode sat (.inf b) = { code := (if b then p.2.2 else 0) + p.2.1, flags := flagOF }) ∧
  (∀ src ∈ ints, ∀ (mod : BitVec 5) (code : Nat), let v := src.value code
    (∀ dst ∈ ints, convert src dst mod code =
      (dst.wrap (if mod.getLsbD 2 = true then max dst.lo (min dst.hi v) else v), 0)) ∧
    ∀ dst ∈ floats, let r := dst.format.ofVal (Rounding.ofMod mod) (mod.getLsbD 2) (.fin (decide (v < 0)) v.natAbs 0)
      convert src dst mod code = (BitVec.ofNat 64 r.code, r.flags)) ∧
  (∀ src ∈ floats, ∀ (mod : BitVec 5) (code : Nat), let v := src.format.decode (code % 2 ^ src.format.width)
    (∀ dst ∈ floats, let r := dst.format.ofVal (Rounding.ofMod mod) (mod.getLsbD 2) v
      convert src dst mod code = (BitVec.ofNat 64 r.code, r.flags)) ∧
    ∀ dst ∈ ints,
      (∀ b, v = .nan b → convert src dst mod code = (0, flagNV)) ∧
      (∀ b, v = .inf b → convert src dst mod code = (dst.wrap (if b then dst.lo else dst.hi), flagNV)) ∧
      ∀ neg m e, v = .fin neg m e →
        let lo : Int := ⌊v.rat⌋
        let up : Bool := match Rounding.ofMod mod with
          | .rne => decide (2 * (lo : ℚ) + 1 < 2 * v.rat) || (decide (2 * (lo : ℚ) + 1 = 2 * v.rat) && lo % 2 == 1)
          | .rtz => decide (v.rat < 0)
          | .rdn => false
          | .rup => true
        let n : Int := if (lo : ℚ) ≠ v.rat ∧ up = true then lo + 1 else lo
        convert src dst mod code = (dst.wrap (max dst.lo (min dst.hi n)),
          if n < dst.lo ∨ dst.hi < n then flagNV else if (lo : ℚ) = v.rat then 0 else flagNX)) ∧
  (let tag : Nat → ℚ := fun c => ((8 + c % 8 : Nat) : ℚ) * 2 ^ (((c / 8 : Nat) : ℤ) - 66)
   (∀ mode, (∀ b, scaleCode mode (.nan b) = (0, flagNV)) ∧ scaleCode mode (.inf true) = (0, flagNV) ∧
     scaleCode mode (.inf false) = (0x3FF, flagOF) ∧ (∀ b e, scaleCode mode (.fin b 0 e) = (0, 0)) ∧
     ∀ m e, 0 < m → scaleCode mode (.fin true m e) = (0, flagNV)) ∧
   ∀ mode, ∀ m : Nat, ∀ e, 0 < m → let x : ℚ := (m : ℚ) * 2 ^ e; let r := scaleCode mode (.fin false m e)
     (x < tag 8 → r = if mode = .rup ∨ (mode = .rne ∧ 2 * x ≥ tag 8) then (8, flagNX) else (0, flagUF ||| flagNX)) ∧
     ∀ c, 8 ≤ c → tag c ≤ x → x < tag (c + 1) →
       let up : Prop := mode = .rup ∨
         (mode = .rne ∧ (tag c + tag (c + 1) < 2 * x ∨ (2 * x = tag c + tag (c + 1) ∧ c % 2 = 1)))
       ∃ n, (x = tag c ∨ ¬ up → n = c) ∧ (x ≠ tag c ∧ up → n = c + 1) ∧
         (0x3FF < n → r = (0x3FF, flagOF ||| flagNX)) ∧
         (n ≤ 0x3FF → r = (n, if x = tag c then 0 else flagNX))) ∧
  (∀ (mod : BitVec 5), let mode := Rounding.ofMod mod
    (∀ ty < 4, ∀ b, packQ4 ty mod (.nan b) = (7, flagNV) ∧
      packQ4 ty mod (.inf b) = (if b then (if ty = 0 then 8 else 15) else 7, flagOF)) ∧
    (∀ ty < 4, ∀ b e, packQ4 ty mod (.fin b 0 e) = (0, 0)) ∧
    ∀ ty, 1 ≤ ty → ty < 4 → ∀ neg m e, 0 < m → let r := packQ4 ty mod (.fin neg m e)
      let step : Nat → ℚ := fun i => (q4Int ty i : ℚ)
      let x : ℚ := (m : ℚ) * 2 ^ (e + (q4Shift ty : ℤ))
      (step 7 ≤ x → r.1 = (if neg then 15 else 7) ∧ (x = step 7 → r.2 = 0) ∧ (x ≠ step 7 → r.2.getLsbD 0 = true)) ∧
      ∀ i < 7, step i ≤ x → x < step (i + 1) →
        let up : Prop := match mode with
          | .rne => step i + step (i + 1) < 2 * x ∨ (2 * x = step i + step (i + 1) ∧ i % 2 = 1)
          | .rtz => False
          | .rdn => neg = true
          | .rup => neg = false
        ∃ n, (x = step i ∨ ¬ up → n = i) ∧ (x ≠ step i ∧ up → n = i + 1) ∧
          r = (if n = 0 then 0 else if neg then 8 + n else n,
            if x = step i then 0 else flagNX ||| (if x < 1 then flagUF else 0))) ∧
  ∀ t ∈ [Typ.f32, .f16, .bf16], let f := t.format
    (∀ code neg m e, code < 2 ^ f.width → f.decode code = .fin neg m e → 0 < m → let x : ℝ := (((m : ℚ) * 2 ^ e : ℚ) : ℝ)
      f.Rounds .rne false neg (1 / x) (Elem.rcp.apply f code) ∧
      (neg = false → f.Rounds .rne false false (Real.sqrt x) (Elem.sqrt.apply f code) ∧
        f.Rounds .rne false false (1 / Real.sqrt x) (Elem.rsq.apply f code)) ∧
      (∀ n : Int, (FVal.fin neg m e).rat = (n : ℚ) → f.Rounds .rne false false ((2 : ℝ) ^ n) (Elem.exp2.apply f code)) ∧
      ∀ n : Int, neg = false → (m : ℚ) * 2 ^ e = (2 : ℚ) ^ n →
        (n = 0 → Elem.log2.apply f code = { code := 0, flags := 0 }) ∧
        (n ≠ 0 → f.Rounds .rne false (decide (n < 0)) (n.natAbs : ℝ) (Elem.log2.apply f code))) ∧
    let half := 2 ^ (f.ew + f.mw); let inf := (2 ^ f.ew - 1) * 2 ^ f.mw; let one := f.bias * 2 ^ f.mw
    let gives : Elem → Nat → Nat → Flags → Prop := fun k code v fl => k.apply f code = { code := v, flags := fl }
    (∀ k ∈ [Elem.exp2, .log2, .rcp, .rsq, .sqrt], ∀ code b, f.decode code = .nan b →
      gives k code f.canon (if b then flagNV else 0)) ∧
    gives .exp2 inf inf 0 ∧ gives .log2 inf inf 0 ∧ gives .rcp inf 0 0 ∧ gives .rsq inf 0 0 ∧ gives .sqrt inf inf 0 ∧
    gives .exp2 (half + inf) 0 0 ∧ gives .rcp (half + inf) half 0 ∧ gives .exp2 0 one 0 ∧ gives .exp2 half one 0 ∧
    gives .log2 0 (half + inf) 0 ∧ gives .log2 half (half + inf) 0 ∧
    (∀ k ∈ [Elem.rcp, .rsq], gives k 0 inf flagDZ ∧ gives k half (half + inf) flagDZ) ∧
    gives .sqrt 0 0 0 ∧ gives .sqrt half half 0 ∧
    ∀ k ∈ [Elem.log2, .rsq, .sqrt], gives k (half + inf) f.canon flagNV ∧
      ∀ code m e, f.decode code = .fin true m e → 0 < m → gives k code f.canon flagNV
end

