-- ==== Sys2Proof/Laws/Table.lean ====
section
/-!
SUPPORT. Laws of finite tables: a written key reads back, every other key reads as before.
-/

namespace Sys2Proof.Machine

theorem Tbl.get_set {α : Type} (d : α) (t : Tbl α) (k j : Nat) (v : α) :
    Tbl.get d (Tbl.set t k v) j = if j = k then v else Tbl.get d t j := by
  induction t with
  | nil =>
    by_cases h : k = j
    · simp [Tbl.set, Tbl.get, h]
    · simp [Tbl.set, Tbl.get, h, Ne.symm h]
  | cons e t ih =>
    obtain ⟨a, w⟩ := e
    simp only [Tbl.set]
    by_cases hj : j = k
    · subst hj
      split
      · simp [Tbl.get]
      · split
        · simp [Tbl.get]
        · rename_i h
          simp [Tbl.get, ih, Ne.symm h]
    · have hk : ¬k = j := fun h => hj h.symm
      split
      · simp [Tbl.get, hk]
      · split
        · rename_i h
          subst h
          simp [Tbl.get, hk]
        · simp [Tbl.get, ih, hj]

@[simp] theorem Tbl.get_set_same {α : Type} (d : α) (t : Tbl α) (k : Nat) (v : α) :
    Tbl.get d (Tbl.set t k v) k = v := by simp [Tbl.get_set]

theorem Tbl.get_set_other {α : Type} (d : α) (t : Tbl α) {k j : Nat} (v : α) (h : j ≠ k) :
    Tbl.get d (Tbl.set t k v) j = Tbl.get d t j := by simp [Tbl.get_set, h]

/-- Values changed in place, key by key, stay related to what they were. -/
theorem Tbl.get_map_rel {α : Type} {R : α → α → Prop} (d : α) (hd : R d d) (g : Nat × α → Nat × α)
    (h1 : ∀ e, (g e).1 = e.1) (h2 : ∀ e, R (g e).2 e.2) (t : Tbl α) (k : Nat) :
    R (Tbl.get d (t.map g) k) (Tbl.get d t k) := by
  induction t with
  | nil => exact hd
  | cons e t ih =>
    have e1 := h1 e
    have e2 := h2 e
    obtain ⟨a, v⟩ := e
    rw [List.map_cons]
    generalize g (a, v) = w at e1 e2
    obtain ⟨b, w⟩ := w
    simp only at e1 e2
    subst e1
    simp only [Tbl.get]
    split
    · exact e2
    · exact ih

@[simp] theorem Tbl.get_nil {α : Type} (d : α) (k : Nat) : Tbl.get d ([] : Tbl α) k = d := rfl

end Sys2Proof.Machine
end

