-- ==== Sys2Proof/Laws/State.lean ====
section
/-!
SUPPORT. One law for each field and each named update of the state and of a core: the updates of
Access.lean are never unfolded in later proofs.
-/

namespace Sys2Proof.Machine

/-! ### State.setCore -/

@[simp] theorem State.setCore_agenda (s : State) (c : Nat) (k : Core) : (s.setCore c k).agenda = s.agenda := rfl
@[simp] theorem State.setCore_fresh (s : State) (c : Nat) (k : Core) : (s.setCore c k).fresh = s.fresh := rfl
@[simp] theorem State.setCore_cur (s : State) (c : Nat) (k : Core) : (s.setCore c k).cur = s.cur := rfl
@[simp] theorem State.setCore_note (s : State) (c : Nat) (k : Core) : (s.setCore c k).note = s.note := rfl
@[simp] theorem State.setCore_mem (s : State) (c : Nat) (k : Core) : (s.setCore c k).mem = s.mem := rfl
@[simp] theorem State.setCore_badLines (s : State) (c : Nat) (k : Core) : (s.setCore c k).badLines = s.badLines := rfl
@[simp] theorem State.setCore_unLog (s : State) (c : Nat) (k : Core) : (s.setCore c k).unLog = s.unLog := rfl
@[simp] theorem State.setCore_unPlaces (s : State) (c : Nat) (k : Core) : (s.setCore c k).unPlaces = s.unPlaces := rfl
@[simp] theorem State.setCore_lines (s : State) (c : Nat) (k : Core) : (s.setCore c k).lines = s.lines := rfl
@[simp] theorem State.setCore_flash (s : State) (c : Nat) (k : Core) : (s.setCore c k).flash = s.flash := rfl
@[simp] theorem State.setCore_islands (s : State) (c : Nat) (k : Core) : (s.setCore c k).islands = s.islands := rfl
@[simp] theorem State.setCore_dies (s : State) (c : Nat) (k : Core) : (s.setCore c k).dies = s.dies := rfl
@[simp] theorem State.setCore_queues (s : State) (c : Nat) (k : Core) : (s.setCore c k).queues = s.queues := rfl
@[simp] theorem State.setCore_dbb (s : State) (c : Nat) (k : Core) : (s.setCore c k).dbb = s.dbb := rfl
@[simp] theorem State.setCore_launches (s : State) (c : Nat) (k : Core) : (s.setCore c k).launches = s.launches := rfl
@[simp] theorem State.setCore_convoys (s : State) (c : Nat) (k : Core) : (s.setCore c k).convoys = s.convoys := rfl
@[simp] theorem State.setCore_saved (s : State) (c : Nat) (k : Core) : (s.setCore c k).saved = s.saved := rfl
@[simp] theorem State.setCore_launchSerial (s : State) (c : Nat) (k : Core) : (s.setCore c k).launchSerial = s.launchSerial := rfl
@[simp] theorem State.setCore_taskSerial (s : State) (c : Nat) (k : Core) : (s.setCore c k).taskSerial = s.taskSerial := rfl
@[simp] theorem State.setCore_refTime (s : State) (c : Nat) (k : Core) : (s.setCore c k).refTime = s.refTime := rfl
@[simp] theorem State.setCore_ioSkew (s : State) (c : Nat) (k : Core) : (s.setCore c k).ioSkew = s.ioSkew := rfl
@[simp] theorem State.setCore_ioSlew (s : State) (c : Nat) (k : Core) : (s.setCore c k).ioSlew = s.ioSlew := rfl
@[simp] theorem State.setCore_tide (s : State) (c : Nat) (k : Core) : (s.setCore c k).tide = s.tide := rfl
@[simp] theorem State.setCore_flen (s : State) (c : Nat) (k : Core) : (s.setCore c k).flen = s.flen := rfl
@[simp] theorem State.setCore_faultLog (s : State) (c : Nat) (k : Core) : (s.setCore c k).faultLog = s.faultLog := rfl
@[simp] theorem State.setCore_slipLog (s : State) (c : Nat) (k : Core) : (s.setCore c k).slipLog = s.slipLog := rfl
@[simp] theorem State.setCore_completions (s : State) (c : Nat) (k : Core) : (s.setCore c k).completions = s.completions := rfl
@[simp] theorem State.setCore_lfe (s : State) (c : Nat) (k : Core) : (s.setCore c k).lfe = s.lfe := rfl
@[simp] theorem State.setCore_pager (s : State) (c : Nat) (k : Core) : (s.setCore c k).pager = s.pager := rfl
@[simp] theorem State.setCore_pageWaits (s : State) (c : Nat) (k : Core) : (s.setCore c k).pageWaits = s.pageWaits := rfl
@[simp] theorem State.setCore_windows (s : State) (c : Nat) (k : Core) : (s.setCore c k).windows = s.windows := rfl
@[simp] theorem State.setCore_walrisHeld (s : State) (c : Nat) (k : Core) : (s.setCore c k).walrisHeld = s.walrisHeld := rfl
@[simp] theorem State.setCore_thermal (s : State) (c : Nat) (k : Core) : (s.setCore c k).thermal = s.thermal := rfl
@[simp] theorem State.setCore_moored (s : State) (c : Nat) (k : Core) : (s.setCore c k).moored = s.moored := rfl
@[simp] theorem State.setCore_moorCore (s : State) (c : Nat) (k : Core) : (s.setCore c k).moorCore = s.moorCore := rfl
@[simp] theorem State.setCore_moorFrom (s : State) (c : Nat) (k : Core) : (s.setCore c k).moorFrom = s.moorFrom := rfl
@[simp] theorem State.setCore_moorWake (s : State) (c : Nat) (k : Core) : (s.setCore c k).moorWake = s.moorWake := rfl
@[simp] theorem State.setCore_booted (s : State) (c : Nat) (k : Core) : (s.setCore c k).booted = s.booted := rfl
@[simp] theorem State.setCore_reports (s : State) (c : Nat) (k : Core) : (s.setCore c k).reports = s.reports := rfl
@[simp] theorem State.setCore_hostReads (s : State) (c : Nat) (k : Core) : (s.setCore c k).hostReads = s.hostReads := rfl

/-! ### State.setIsland -/

@[simp] theorem State.setIsland_agenda (s : State) (i : Nat) (v : Island) : (s.setIsland i v).agenda = s.agenda := rfl
@[simp] theorem State.setIsland_fresh (s : State) (i : Nat) (v : Island) : (s.setIsland i v).fresh = s.fresh := rfl
@[simp] theorem State.setIsland_cur (s : State) (i : Nat) (v : Island) : (s.setIsland i v).cur = s.cur := rfl
@[simp] theorem State.setIsland_note (s : State) (i : Nat) (v : Island) : (s.setIsland i v).note = s.note := rfl
@[simp] theorem State.setIsland_mem (s : State) (i : Nat) (v : Island) : (s.setIsland i v).mem = s.mem := rfl
@[simp] theorem State.setIsland_badLines (s : State) (i : Nat) (v : Island) : (s.setIsland i v).badLines = s.badLines := rfl
@[simp] theorem State.setIsland_unLog (s : State) (i : Nat) (v : Island) : (s.setIsland i v).unLog = s.unLog := rfl
@[simp] theorem State.setIsland_unPlaces (s : State) (i : Nat) (v : Island) : (s.setIsland i v).unPlaces = s.unPlaces := rfl
@[simp] theorem State.setIsland_lines (s : State) (i : Nat) (v : Island) : (s.setIsland i v).lines = s.lines := rfl
@[simp] theorem State.setIsland_flash (s : State) (i : Nat) (v : Island) : (s.setIsland i v).flash = s.flash := rfl
@[simp] theorem State.setIsland_cores (s : State) (i : Nat) (v : Island) : (s.setIsland i v).cores = s.cores := rfl
@[simp] theorem State.setIsland_dies (s : State) (i : Nat) (v : Island) : (s.setIsland i v).dies = s.dies := rfl
@[simp] theorem State.setIsland_queues (s : State) (i : Nat) (v : Island) : (s.setIsland i v).queues = s.queues := rfl
@[simp] theorem State.setIsland_dbb (s : State) (i : Nat) (v : Island) : (s.setIsland i v).dbb = s.dbb := rfl
@[simp] theorem State.setIsland_launches (s : State) (i : Nat) (v : Island) : (s.setIsland i v).launches = s.launches := rfl
@[simp] theorem State.setIsland_convoys (s : State) (i : Nat) (v : Island) : (s.setIsland i v).convoys = s.convoys := rfl
@[simp] theorem State.setIsland_saved (s : State) (i : Nat) (v : Island) : (s.setIsland i v).saved = s.saved := rfl
@[simp] theorem State.setIsland_launchSerial (s : State) (i : Nat) (v : Island) : (s.setIsland i v).launchSerial = s.launchSerial := rfl
@[simp] theorem State.setIsland_taskSerial (s : State) (i : Nat) (v : Island) : (s.setIsland i v).taskSerial = s.taskSerial := rfl
@[simp] theorem State.setIsland_refTime (s : State) (i : Nat) (v : Island) : (s.setIsland i v).refTime = s.refTime := rfl
@[simp] theorem State.setIsland_ioSkew (s : State) (i : Nat) (v : Island) : (s.setIsland i v).ioSkew = s.ioSkew := rfl
@[simp] theorem State.setIsland_ioSlew (s : State) (i : Nat) (v : Island) : (s.setIsland i v).ioSlew = s.ioSlew := rfl
@[simp] theorem State.setIsland_tide (s : State) (i : Nat) (v : Island) : (s.setIsland i v).tide = s.tide := rfl
@[simp] theorem State.setIsland_flen (s : State) (i : Nat) (v : Island) : (s.setIsland i v).flen = s.flen := rfl
@[simp] theorem State.setIsland_faultLog (s : State) (i : Nat) (v : Island) : (s.setIsland i v).faultLog = s.faultLog := rfl
@[simp] theorem State.setIsland_slipLog (s : State) (i : Nat) (v : Island) : (s.setIsland i v).slipLog = s.slipLog := rfl
@[simp] theorem State.setIsland_completions (s : State) (i : Nat) (v : Island) : (s.setIsland i v).completions = s.completions := rfl
@[simp] theorem State.setIsland_lfe (s : State) (i : Nat) (v : Island) : (s.setIsland i v).lfe = s.lfe := rfl
@[simp] theorem State.setIsland_pager (s : State) (i : Nat) (v : Island) : (s.setIsland i v).pager = s.pager := rfl
@[simp] theorem State.setIsland_pageWaits (s : State) (i : Nat) (v : Island) : (s.setIsland i v).pageWaits = s.pageWaits := rfl
@[simp] theorem State.setIsland_windows (s : State) (i : Nat) (v : Island) : (s.setIsland i v).windows = s.windows := rfl
@[simp] theorem State.setIsland_walrisHeld (s : State) (i : Nat) (v : Island) : (s.setIsland i v).walrisHeld = s.walrisHeld := rfl
@[simp] theorem State.setIsland_thermal (s : State) (i : Nat) (v : Island) : (s.setIsland i v).thermal = s.thermal := rfl
@[simp] theorem State.setIsland_moored (s : State) (i : Nat) (v : Island) : (s.setIsland i v).moored = s.moored := rfl
@[simp] theorem State.setIsland_moorCore (s : State) (i : Nat) (v : Island) : (s.setIsland i v).moorCore = s.moorCore := rfl
@[simp] theorem State.setIsland_moorFrom (s : State) (i : Nat) (v : Island) : (s.setIsland i v).moorFrom = s.moorFrom := rfl
@[simp] theorem State.setIsland_moorWake (s : State) (i : Nat) (v : Island) : (s.setIsland i v).moorWake = s.moorWake := rfl
@[simp] theorem State.setIsland_booted (s : State) (i : Nat) (v : Island) : (s.setIsland i v).booted = s.booted := rfl
@[simp] theorem State.setIsland_reports (s : State) (i : Nat) (v : Island) : (s.setIsland i v).reports = s.reports := rfl
@[simp] theorem State.setIsland_hostReads (s : State) (i : Nat) (v : Island) : (s.setIsland i v).hostReads = s.hostReads := rfl

/-! ### State.setDie -/

@[simp] theorem State.setDie_agenda (s : State) (d : Nat) (v : Die) : (s.setDie d v).agenda = s.agenda := rfl
@[simp] theorem State.setDie_fresh (s : State) (d : Nat) (v : Die) : (s.setDie d v).fresh = s.fresh := rfl
@[simp] theorem State.setDie_cur (s : State) (d : Nat) (v : Die) : (s.setDie d v).cur = s.cur := rfl
@[simp] theorem State.setDie_note (s : State) (d : Nat) (v : Die) : (s.setDie d v).note = s.note := rfl
@[simp] theorem State.setDie_mem (s : State) (d : Nat) (v : Die) : (s.setDie d v).mem = s.mem := rfl
@[simp] theorem State.setDie_badLines (s : State) (d : Nat) (v : Die) : (s.setDie d v).badLines = s.badLines := rfl
@[simp] theorem State.setDie_unLog (s : State) (d : Nat) (v : Die) : (s.setDie d v).unLog = s.unLog := rfl
@[simp] theorem State.setDie_unPlaces (s : State) (d : Nat) (v : Die) : (s.setDie d v).unPlaces = s.unPlaces := rfl
@[simp] theorem State.setDie_lines (s : State) (d : Nat) (v : Die) : (s.setDie d v).lines = s.lines := rfl
@[simp] theorem State.setDie_flash (s : State) (d : Nat) (v : Die) : (s.setDie d v).flash = s.flash := rfl
@[simp] theorem State.setDie_cores (s : State) (d : Nat) (v : Die) : (s.setDie d v).cores = s.cores := rfl
@[simp] theorem State.setDie_islands (s : State) (d : Nat) (v : Die) : (s.setDie d v).islands = s.islands := rfl
@[simp] theorem State.setDie_queues (s : State) (d : Nat) (v : Die) : (s.setDie d v).queues = s.queues := rfl
@[simp] theorem State.setDie_dbb (s : State) (d : Nat) (v : Die) : (s.setDie d v).dbb = s.dbb := rfl
@[simp] theorem State.setDie_launches (s : State) (d : Nat) (v : Die) : (s.setDie d v).launches = s.launches := rfl
@[simp] theorem State.setDie_convoys (s : State) (d : Nat) (v : Die) : (s.setDie d v).convoys = s.convoys := rfl
@[simp] theorem State.setDie_saved (s : State) (d : Nat) (v : Die) : (s.setDie d v).saved = s.saved := rfl
@[simp] theorem State.setDie_launchSerial (s : State) (d : Nat) (v : Die) : (s.setDie d v).launchSerial = s.launchSerial := rfl
@[simp] theorem State.setDie_taskSerial (s : State) (d : Nat) (v : Die) : (s.setDie d v).taskSerial = s.taskSerial := rfl
@[simp] theorem State.setDie_refTime (s : State) (d : Nat) (v : Die) : (s.setDie d v).refTime = s.refTime := rfl
@[simp] theorem State.setDie_ioSkew (s : State) (d : Nat) (v : Die) : (s.setDie d v).ioSkew = s.ioSkew := rfl
@[simp] theorem State.setDie_ioSlew (s : State) (d : Nat) (v : Die) : (s.setDie d v).ioSlew = s.ioSlew := rfl
@[simp] theorem State.setDie_tide (s : State) (d : Nat) (v : Die) : (s.setDie d v).tide = s.tide := rfl
@[simp] theorem State.setDie_flen (s : State) (d : Nat) (v : Die) : (s.setDie d v).flen = s.flen := rfl
@[simp] theorem State.setDie_faultLog (s : State) (d : Nat) (v : Die) : (s.setDie d v).faultLog = s.faultLog := rfl
@[simp] theorem State.setDie_slipLog (s : State) (d : Nat) (v : Die) : (s.setDie d v).slipLog = s.slipLog := rfl
@[simp] theorem State.setDie_completions (s : State) (d : Nat) (v : Die) : (s.setDie d v).completions = s.completions := rfl
@[simp] theorem State.setDie_lfe (s : State) (d : Nat) (v : Die) : (s.setDie d v).lfe = s.lfe := rfl
@[simp] theorem State.setDie_pager (s : State) (d : Nat) (v : Die) : (s.setDie d v).pager = s.pager := rfl
@[simp] theorem State.setDie_pageWaits (s : State) (d : Nat) (v : Die) : (s.setDie d v).pageWaits = s.pageWaits := rfl
@[simp] theorem State.setDie_windows (s : State) (d : Nat) (v : Die) : (s.setDie d v).windows = s.windows := rfl
@[simp] theorem State.setDie_walrisHeld (s : State) (d : Nat) (v : Die) : (s.setDie d v).walrisHeld = s.walrisHeld := rfl
@[simp] theorem State.setDie_thermal (s : State) (d : Nat) (v : Die) : (s.setDie d v).thermal = s.thermal := rfl
@[simp] theorem State.setDie_moored (s : State) (d : Nat) (v : Die) : (s.setDie d v).moored = s.moored := rfl
@[simp] theorem State.setDie_moorCore (s : State) (d : Nat) (v : Die) : (s.setDie d v).moorCore = s.moorCore := rfl
@[simp] theorem State.setDie_moorFrom (s : State) (d : Nat) (v : Die) : (s.setDie d v).moorFrom = s.moorFrom := rfl
@[simp] theorem State.setDie_moorWake (s : State) (d : Nat) (v : Die) : (s.setDie d v).moorWake = s.moorWake := rfl
@[simp] theorem State.setDie_booted (s : State) (d : Nat) (v : Die) : (s.setDie d v).booted = s.booted := rfl
@[simp] theorem State.setDie_reports (s : State) (d : Nat) (v : Die) : (s.setDie d v).reports = s.reports := rfl
@[simp] theorem State.setDie_hostReads (s : State) (d : Nat) (v : Die) : (s.setDie d v).hostReads = s.hostReads := rfl

/-! ### State.setQueue -/

@[simp] theorem State.setQueue_agenda (s : State) (q : Nat) (v : HostQueue) : (s.setQueue q v).agenda = s.agenda := rfl
@[simp] theorem State.setQueue_fresh (s : State) (q : Nat) (v : HostQueue) : (s.setQueue q v).fresh = s.fresh := rfl
@[simp] theorem State.setQueue_cur (s : State) (q : Nat) (v : HostQueue) : (s.setQueue q v).cur = s.cur := rfl
@[simp] theorem State.setQueue_note (s : State) (q : Nat) (v : HostQueue) : (s.setQueue q v).note = s.note := rfl
@[simp] theorem State.setQueue_mem (s : State) (q : Nat) (v : HostQueue) : (s.setQueue q v).mem = s.mem := rfl
@[simp] theorem State.setQueue_badLines (s : State) (q : Nat) (v : HostQueue) : (s.setQueue q v).badLines = s.badLines := rfl
@[simp] theorem State.setQueue_unLog (s : State) (q : Nat) (v : HostQueue) : (s.setQueue q v).unLog = s.unLog := rfl
@[simp] theorem State.setQueue_unPlaces (s : State) (q : Nat) (v : HostQueue) : (s.setQueue q v).unPlaces = s.unPlaces := rfl
@[simp] theorem State.setQueue_lines (s : State) (q : Nat) (v : HostQueue) : (s.setQueue q v).lines = s.lines := rfl
@[simp] theorem State.setQueue_flash (s : State) (q : Nat) (v : HostQueue) : (s.setQueue q v).flash = s.flash := rfl
@[simp] theorem State.setQueue_cores (s : State) (q : Nat) (v : HostQueue) : (s.setQueue q v).cores = s.cores := rfl
@[simp] theorem State.setQueue_islands (s : State) (q : Nat) (v : HostQueue) : (s.setQueue q v).islands = s.islands := rfl
@[simp] theorem State.setQueue_dies (s : State) (q : Nat) (v : HostQueue) : (s.setQueue q v).dies = s.dies := rfl
@[simp] theorem State.setQueue_dbb (s : State) (q : Nat) (v : HostQueue) : (s.setQueue q v).dbb = s.dbb := rfl
@[simp] theorem State.setQueue_launches (s : State) (q : Nat) (v : HostQueue) : (s.setQueue q v).launches = s.launches := rfl
@[simp] theorem State.setQueue_convoys (s : State) (q : Nat) (v : HostQueue) : (s.setQueue q v).convoys = s.convoys := rfl
@[simp] theorem State.setQueue_saved (s : State) (q : Nat) (v : HostQueue) : (s.setQueue q v).saved = s.saved := rfl
@[simp] theorem State.setQueue_launchSerial (s : State) (q : Nat) (v : HostQueue) : (s.setQueue q v).launchSerial = s.launchSerial := rfl
@[simp] theorem State.setQueue_taskSerial (s : State) (q : Nat) (v : HostQueue) : (s.setQueue q v).taskSerial = s.taskSerial := rfl
@[simp] theorem State.setQueue_refTime (s : State) (q : Nat) (v : HostQueue) : (s.setQueue q v).refTime = s.refTime := rfl
@[simp] theorem State.setQueue_ioSkew (s : State) (q : Nat) (v : HostQueue) : (s.setQueue q v).ioSkew = s.ioSkew := rfl
@[simp] theorem State.setQueue_ioSlew (s : State) (q : Nat) (v : HostQueue) : (s.setQueue q v).ioSlew = s.ioSlew := rfl
@[simp] theorem State.setQueue_tide (s : State) (q : Nat) (v : HostQueue) : (s.setQueue q v).tide = s.tide := rfl
@[simp] theorem State.setQueue_flen (s : State) (q : Nat) (v : HostQueue) : (s.setQueue q v).flen = s.flen := rfl
@[simp] theorem State.setQueue_faultLog (s : State) (q : Nat) (v : HostQueue) : (s.setQueue q v).faultLog = s.faultLog := rfl
@[simp] theorem State.setQueue_slipLog (s : State) (q : Nat) (v : HostQueue) : (s.setQueue q v).slipLog = s.slipLog := rfl
@[simp] theorem State.setQueue_completions (s : State) (q : Nat) (v : HostQueue) : (s.setQueue q v).completions = s.completions := rfl
@[simp] theorem State.setQueue_lfe (s : State) (q : Nat) (v : HostQueue) : (s.setQueue q v).lfe = s.lfe := rfl
@[simp] theorem State.setQueue_pager (s : State) (q : Nat) (v : HostQueue) : (s.setQueue q v).pager = s.pager := rfl
@[simp] theorem State.setQueue_pageWaits (s : State) (q : Nat) (v : HostQueue) : (s.setQueue q v).pageWaits = s.pageWaits := rfl
@[simp] theorem State.setQueue_windows (s : State) (q : Nat) (v : HostQueue) : (s.setQueue q v).windows = s.windows := rfl
@[simp] theorem State.setQueue_walrisHeld (s : State) (q : Nat) (v : HostQueue) : (s.setQueue q v).walrisHeld = s.walrisHeld := rfl
@[simp] theorem State.setQueue_thermal (s : State) (q : Nat) (v : HostQueue) : (s.setQueue q v).thermal = s.thermal := rfl
@[simp] theorem State.setQueue_moored (s : State) (q : Nat) (v : HostQueue) : (s.setQueue q v).moored = s.moored := rfl
@[simp] theorem State.setQueue_moorCore (s : State) (q : Nat) (v : HostQueue) : (s.setQueue q v).moorCore = s.moorCore := rfl
@[simp] theorem State.setQueue_moorFrom (s : State) (q : Nat) (v : HostQueue) : (s.setQueue q v).moorFrom = s.moorFrom := rfl
@[simp] theorem State.setQueue_moorWake (s : State) (q : Nat) (v : HostQueue) : (s.setQueue q v).moorWake = s.moorWake := rfl
@[simp] theorem State.setQueue_booted (s : State) (q : Nat) (v : HostQueue) : (s.setQueue q v).booted = s.booted := rfl
@[simp] theorem State.setQueue_reports (s : State) (q : Nat) (v : HostQueue) : (s.setQueue q v).reports = s.reports := rfl
@[simp] theorem State.setQueue_hostReads (s : State) (q : Nat) (v : HostQueue) : (s.setQueue q v).hostReads = s.hostReads := rfl

/-! ### State.setSlot -/

@[simp] theorem State.setSlot_agenda (s : State) (n : Nat) (v : DbbSlot) : (s.setSlot n v).agenda = s.agenda := rfl
@[simp] theorem State.setSlot_fresh (s : State) (n : Nat) (v : DbbSlot) : (s.setSlot n v).fresh = s.fresh := rfl
@[simp] theorem State.setSlot_cur (s : State) (n : Nat) (v : DbbSlot) : (s.setSlot n v).cur = s.cur := rfl
@[simp] theorem State.setSlot_note (s : State) (n : Nat) (v : DbbSlot) : (s.setSlot n v).note = s.note := rfl
@[simp] theorem State.setSlot_mem (s : State) (n : Nat) (v : DbbSlot) : (s.setSlot n v).mem = s.mem := rfl
@[simp] theorem State.setSlot_badLines (s : State) (n : Nat) (v : DbbSlot) : (s.setSlot n v).badLines = s.badLines := rfl
@[simp] theorem State.setSlot_unLog (s : State) (n : Nat) (v : DbbSlot) : (s.setSlot n v).unLog = s.unLog := rfl
@[simp] theorem State.setSlot_unPlaces (s : State) (n : Nat) (v : DbbSlot) : (s.setSlot n v).unPlaces = s.unPlaces := rfl
@[simp] theorem State.setSlot_lines (s : State) (n : Nat) (v : DbbSlot) : (s.setSlot n v).lines = s.lines := rfl
@[simp] theorem State.setSlot_flash (s : State) (n : Nat) (v : DbbSlot) : (s.setSlot n v).flash = s.flash := rfl
@[simp] theorem State.setSlot_cores (s : State) (n : Nat) (v : DbbSlot) : (s.setSlot n v).cores = s.cores := rfl
@[simp] theorem State.setSlot_islands (s : State) (n : Nat) (v : DbbSlot) : (s.setSlot n v).islands = s.islands := rfl
@[simp] theorem State.setSlot_dies (s : State) (n : Nat) (v : DbbSlot) : (s.setSlot n v).dies = s.dies := rfl
@[simp] theorem State.setSlot_queues (s : State) (n : Nat) (v : DbbSlot) : (s.setSlot n v).queues = s.queues := rfl
@[simp] theorem State.setSlot_launches (s : State) (n : Nat) (v : DbbSlot) : (s.setSlot n v).launches = s.launches := rfl
@[simp] theorem State.setSlot_convoys (s : State) (n : Nat) (v : DbbSlot) : (s.setSlot n v).convoys = s.convoys := rfl
@[simp] theorem State.setSlot_saved (s : State) (n : Nat) (v : DbbSlot) : (s.setSlot n v).saved = s.saved := rfl
@[simp] theorem State.setSlot_launchSerial (s : State) (n : Nat) (v : DbbSlot) : (s.setSlot n v).launchSerial = s.launchSerial := rfl
@[simp] theorem State.setSlot_taskSerial (s : State) (n : Nat) (v : DbbSlot) : (s.setSlot n v).taskSerial = s.taskSerial := rfl
@[simp] theorem State.setSlot_refTime (s : State) (n : Nat) (v : DbbSlot) : (s.setSlot n v).refTime = s.refTime := rfl
@[simp] theorem State.setSlot_ioSkew (s : State) (n : Nat) (v : DbbSlot) : (s.setSlot n v).ioSkew = s.ioSkew := rfl
@[simp] theorem State.setSlot_ioSlew (s : State) (n : Nat) (v : DbbSlot) : (s.setSlot n v).ioSlew = s.ioSlew := rfl
@[simp] theorem State.setSlot_tide (s : State) (n : Nat) (v : DbbSlot) : (s.setSlot n v).tide = s.tide := rfl
@[simp] theorem State.setSlot_flen (s : State) (n : Nat) (v : DbbSlot) : (s.setSlot n v).flen = s.flen := rfl
@[simp] theorem State.setSlot_faultLog (s : State) (n : Nat) (v : DbbSlot) : (s.setSlot n v).faultLog = s.faultLog := rfl
@[simp] theorem State.setSlot_slipLog (s : State) (n : Nat) (v : DbbSlot) : (s.setSlot n v).slipLog = s.slipLog := rfl
@[simp] theorem State.setSlot_completions (s : State) (n : Nat) (v : DbbSlot) : (s.setSlot n v).completions = s.completions := rfl
@[simp] theorem State.setSlot_lfe (s : State) (n : Nat) (v : DbbSlot) : (s.setSlot n v).lfe = s.lfe := rfl
@[simp] theorem State.setSlot_pager (s : State) (n : Nat) (v : DbbSlot) : (s.setSlot n v).pager = s.pager := rfl
@[simp] theorem State.setSlot_pageWaits (s : State) (n : Nat) (v : DbbSlot) : (s.setSlot n v).pageWaits = s.pageWaits := rfl
@[simp] theorem State.setSlot_windows (s : State) (n : Nat) (v : DbbSlot) : (s.setSlot n v).windows = s.windows := rfl
@[simp] theorem State.setSlot_walrisHeld (s : State) (n : Nat) (v : DbbSlot) : (s.setSlot n v).walrisHeld = s.walrisHeld := rfl
@[simp] theorem State.setSlot_thermal (s : State) (n : Nat) (v : DbbSlot) : (s.setSlot n v).thermal = s.thermal := rfl
@[simp] theorem State.setSlot_moored (s : State) (n : Nat) (v : DbbSlot) : (s.setSlot n v).moored = s.moored := rfl
@[simp] theorem State.setSlot_moorCore (s : State) (n : Nat) (v : DbbSlot) : (s.setSlot n v).moorCore = s.moorCore := rfl
@[simp] theorem State.setSlot_moorFrom (s : State) (n : Nat) (v : DbbSlot) : (s.setSlot n v).moorFrom = s.moorFrom := rfl
@[simp] theorem State.setSlot_moorWake (s : State) (n : Nat) (v : DbbSlot) : (s.setSlot n v).moorWake = s.moorWake := rfl
@[simp] theorem State.setSlot_booted (s : State) (n : Nat) (v : DbbSlot) : (s.setSlot n v).booted = s.booted := rfl
@[simp] theorem State.setSlot_reports (s : State) (n : Nat) (v : DbbSlot) : (s.setSlot n v).reports = s.reports := rfl
@[simp] theorem State.setSlot_hostReads (s : State) (n : Nat) (v : DbbSlot) : (s.setSlot n v).hostReads = s.hostReads := rfl

/-! ### State.modCore -/

@[simp] theorem State.modCore_agenda (s : State) (c : Nat) (g : Core → Core) : (s.modCore c g).agenda = s.agenda := rfl
@[simp] theorem State.modCore_fresh (s : State) (c : Nat) (g : Core → Core) : (s.modCore c g).fresh = s.fresh := rfl
@[simp] theorem State.modCore_cur (s : State) (c : Nat) (g : Core → Core) : (s.modCore c g).cur = s.cur := rfl
@[simp] theorem State.modCore_note (s : State) (c : Nat) (g : Core → Core) : (s.modCore c g).note = s.note := rfl
@[simp] theorem State.modCore_mem (s : State) (c : Nat) (g : Core → Core) : (s.modCore c g).mem = s.mem := rfl
@[simp] theorem State.modCore_badLines (s : State) (c : Nat) (g : Core → Core) : (s.modCore c g).badLines = s.badLines := rfl
@[simp] theorem State.modCore_unLog (s : State) (c : Nat) (g : Core → Core) : (s.modCore c g).unLog = s.unLog := rfl
@[simp] theorem State.modCore_unPlaces (s : State) (c : Nat) (g : Core → Core) : (s.modCore c g).unPlaces = s.unPlaces := rfl
@[simp] theorem State.modCore_lines (s : State) (c : Nat) (g : Core → Core) : (s.modCore c g).lines = s.lines := rfl
@[simp] theorem State.modCore_flash (s : State) (c : Nat) (g : Core → Core) : (s.modCore c g).flash = s.flash := rfl
@[simp] theorem State.modCore_islands (s : State) (c : Nat) (g : Core → Core) : (s.modCore c g).islands = s.islands := rfl
@[simp] theorem State.modCore_dies (s : State) (c : Nat) (g : Core → Core) : (s.modCore c g).dies = s.dies := rfl
@[simp] theorem State.modCore_queues (s : State) (c : Nat) (g : Core → Core) : (s.modCore c g).queues = s.queues := rfl
@[simp] theorem State.modCore_dbb (s : State) (c : Nat) (g : Core → Core) : (s.modCore c g).dbb = s.dbb := rfl
@[simp] theorem State.modCore_launches (s : State) (c : Nat) (g : Core → Core) : (s.modCore c g).launches = s.launches := rfl
@[simp] theorem State.modCore_convoys (s : State) (c : Nat) (g : Core → Core) : (s.modCore c g).convoys = s.convoys := rfl
@[simp] theorem State.modCore_saved (s : State) (c : Nat) (g : Core → Core) : (s.modCore c g).saved = s.saved := rfl
@[simp] theorem State.modCore_launchSerial (s : State) (c : Nat) (g : Core → Core) : (s.modCore c g).launchSerial = s.launchSerial := rfl
@[simp] theorem State.modCore_taskSerial (s : State) (c : Nat) (g : Core → Core) : (s.modCore c g).taskSerial = s.taskSerial := rfl
@[simp] theorem State.modCore_refTime (s : State) (c : Nat) (g : Core → Core) : (s.modCore c g).refTime = s.refTime := rfl
@[simp] theorem State.modCore_ioSkew (s : State) (c : Nat) (g : Core → Core) : (s.modCore c g).ioSkew = s.ioSkew := rfl
@[simp] theorem State.modCore_ioSlew (s : State) (c : Nat) (g : Core → Core) : (s.modCore c g).ioSlew = s.ioSlew := rfl
@[simp] theorem State.modCore_tide (s : State) (c : Nat) (g : Core → Core) : (s.modCore c g).tide = s.tide := rfl
@[simp] theorem State.modCore_flen (s : State) (c : Nat) (g : Core → Core) : (s.modCore c g).flen = s.flen := rfl
@[simp] theorem State.modCore_faultLog (s : State) (c : Nat) (g : Core → Core) : (s.modCore c g).faultLog = s.faultLog := rfl
@[simp] theorem State.modCore_slipLog (s : State) (c : Nat) (g : Core → Core) : (s.modCore c g).slipLog = s.slipLog := rfl
@[simp] theorem State.modCore_completions (s : State) (c : Nat) (g : Core → Core) : (s.modCore c g).completions = s.completions := rfl
@[simp] theorem State.modCore_lfe (s : State) (c : Nat) (g : Core → Core) : (s.modCore c g).lfe = s.lfe := rfl
@[simp] theorem State.modCore_pager (s : State) (c : Nat) (g : Core → Core) : (s.modCore c g).pager = s.pager := rfl
@[simp] theorem State.modCore_pageWaits (s : State) (c : Nat) (g : Core → Core) : (s.modCore c g).pageWaits = s.pageWaits := rfl
@[simp] theorem State.modCore_windows (s : State) (c : Nat) (g : Core → Core) : (s.modCore c g).windows = s.windows := rfl
@[simp] theorem State.modCore_walrisHeld (s : State) (c : Nat) (g : Core → Core) : (s.modCore c g).walrisHeld = s.walrisHeld := rfl
@[simp] theorem State.modCore_thermal (s : State) (c : Nat) (g : Core → Core) : (s.modCore c g).thermal = s.thermal := rfl
@[simp] theorem State.modCore_moored (s : State) (c : Nat) (g : Core → Core) : (s.modCore c g).moored = s.moored := rfl
@[simp] theorem State.modCore_moorCore (s : State) (c : Nat) (g : Core → Core) : (s.modCore c g).moorCore = s.moorCore := rfl
@[simp] theorem State.modCore_moorFrom (s : State) (c : Nat) (g : Core → Core) : (s.modCore c g).moorFrom = s.moorFrom := rfl
@[simp] theorem State.modCore_moorWake (s : State) (c : Nat) (g : Core → Core) : (s.modCore c g).moorWake = s.moorWake := rfl
@[simp] theorem State.modCore_booted (s : State) (c : Nat) (g : Core → Core) : (s.modCore c g).booted = s.booted := rfl
@[simp] theorem State.modCore_reports (s : State) (c : Nat) (g : Core → Core) : (s.modCore c g).reports = s.reports := rfl
@[simp] theorem State.modCore_hostReads (s : State) (c : Nat) (g : Core → Core) : (s.modCore c g).hostReads = s.hostReads := rfl

/-! ### State.setStream -/

@[simp] theorem State.setStream_agenda (s : State) (c : Nat) (st : Stream) (t : StreamState) : (s.setStream c st t).agenda = s.agenda := rfl
@[simp] theorem State.setStream_fresh (s : State) (c : Nat) (st : Stream) (t : StreamState) : (s.setStream c st t).fresh = s.fresh := rfl
@[simp] theorem State.setStream_cur (s : State) (c : Nat) (st : Stream) (t : StreamState) : (s.setStream c st t).cur = s.cur := rfl
@[simp] theorem State.setStream_note (s : State) (c : Nat) (st : Stream) (t : StreamState) : (s.setStream c st t).note = s.note := rfl
@[simp] theorem State.setStream_mem (s : State) (c : Nat) (st : Stream) (t : StreamState) : (s.setStream c st t).mem = s.mem := rfl
@[simp] theorem State.setStream_badLines (s : State) (c : Nat) (st : Stream) (t : StreamState) : (s.setStream c st t).badLines = s.badLines := rfl
@[simp] theorem State.setStream_unLog (s : State) (c : Nat) (st : Stream) (t : StreamState) : (s.setStream c st t).unLog = s.unLog := rfl
@[simp] theorem State.setStream_unPlaces (s : State) (c : Nat) (st : Stream) (t : StreamState) : (s.setStream c st t).unPlaces = s.unPlaces := rfl
@[simp] theorem State.setStream_lines (s : State) (c : Nat) (st : Stream) (t : StreamState) : (s.setStream c st t).lines = s.lines := rfl
@[simp] theorem State.setStream_flash (s : State) (c : Nat) (st : Stream) (t : StreamState) : (s.setStream c st t).flash = s.flash := rfl
@[simp] theorem State.setStream_islands (s : State) (c : Nat) (st : Stream) (t : StreamState) : (s.setStream c st t).islands = s.islands := rfl
@[simp] theorem State.setStream_dies (s : State) (c : Nat) (st : Stream) (t : StreamState) : (s.setStream c st t).dies = s.dies := rfl
@[simp] theorem State.setStream_queues (s : State) (c : Nat) (st : Stream) (t : StreamState) : (s.setStream c st t).queues = s.queues := rfl
@[simp] theorem State.setStream_dbb (s : State) (c : Nat) (st : Stream) (t : StreamState) : (s.setStream c st t).dbb = s.dbb := rfl
@[simp] theorem State.setStream_launches (s : State) (c : Nat) (st : Stream) (t : StreamState) : (s.setStream c st t).launches = s.launches := rfl
@[simp] theorem State.setStream_convoys (s : State) (c : Nat) (st : Stream) (t : StreamState) : (s.setStream c st t).convoys = s.convoys := rfl
@[simp] theorem State.setStream_saved (s : State) (c : Nat) (st : Stream) (t : StreamState) : (s.setStream c st t).saved = s.saved := rfl
@[simp] theorem State.setStream_launchSerial (s : State) (c : Nat) (st : Stream) (t : StreamState) : (s.setStream c st t).launchSerial = s.launchSerial := rfl
@[simp] theorem State.setStream_taskSerial (s : State) (c : Nat) (st : Stream) (t : StreamState) : (s.setStream c st t).taskSerial = s.taskSerial := rfl
@[simp] theorem State.setStream_refTime (s : State) (c : Nat) (st : Stream) (t : StreamState) : (s.setStream c st t).refTime = s.refTime := rfl
@[simp] theorem State.setStream_ioSkew (s : State) (c : Nat) (st : Stream) (t : StreamState) : (s.setStream c st t).ioSkew = s.ioSkew := rfl
@[simp] theorem State.setStream_ioSlew (s : State) (c : Nat) (st : Stream) (t : StreamState) : (s.setStream c st t).ioSlew = s.ioSlew := rfl
@[simp] theorem State.setStream_tide (s : State) (c : Nat) (st : Stream) (t : StreamState) : (s.setStream c st t).tide = s.tide := rfl
@[simp] theorem State.setStream_flen (s : State) (c : Nat) (st : Stream) (t : StreamState) : (s.setStream c st t).flen = s.flen := rfl
@[simp] theorem State.setStream_faultLog (s : State) (c : Nat) (st : Stream) (t : StreamState) : (s.setStream c st t).faultLog = s.faultLog := rfl
@[simp] theorem State.setStream_slipLog (s : State) (c : Nat) (st : Stream) (t : StreamState) : (s.setStream c st t).slipLog = s.slipLog := rfl
@[simp] theorem State.setStream_completions (s : State) (c : Nat) (st : Stream) (t : StreamState) : (s.setStream c st t).completions = s.completions := rfl
@[simp] theorem State.setStream_lfe (s : State) (c : Nat) (st : Stream) (t : StreamState) : (s.setStream c st t).lfe = s.lfe := rfl
@[simp] theorem State.setStream_pager (s : State) (c : Nat) (st : Stream) (t : StreamState) : (s.setStream c st t).pager = s.pager := rfl
@[simp] theorem State.setStream_pageWaits (s : State) (c : Nat) (st : Stream) (t : StreamState) : (s.setStream c st t).pageWaits = s.pageWaits := rfl
@[simp] theorem State.setStream_windows (s : State) (c : Nat) (st : Stream) (t : StreamState) : (s.setStream c st t).windows = s.windows := rfl
@[simp] theorem State.setStream_walrisHeld (s : State) (c : Nat) (st : Stream) (t : StreamState) : (s.setStream c st t).walrisHeld = s.walrisHeld := rfl
@[simp] theorem State.setStream_thermal (s : State) (c : Nat) (st : Stream) (t : StreamState) : (s.setStream c st t).thermal = s.thermal := rfl
@[simp] theorem State.setStream_moored (s : State) (c : Nat) (st : Stream) (t : StreamState) : (s.setStream c st t).moored = s.moored := rfl
@[simp] theorem State.setStream_moorCore (s : State) (c : Nat) (st : Stream) (t : StreamState) : (s.setStream c st t).moorCore = s.moorCore := rfl
@[simp] theorem State.setStream_moorFrom (s : State) (c : Nat) (st : Stream) (t : StreamState) : (s.setStream c st t).moorFrom = s.moorFrom := rfl
@[simp] theorem State.setStream_moorWake (s : State) (c : Nat) (st : Stream) (t : StreamState) : (s.setStream c st t).moorWake = s.moorWake := rfl
@[simp] theorem State.setStream_booted (s : State) (c : Nat) (st : Stream) (t : StreamState) : (s.setStream c st t).booted = s.booted := rfl
@[simp] theorem State.setStream_reports (s : State) (c : Nat) (st : Stream) (t : StreamState) : (s.setStream c st t).reports = s.reports := rfl
@[simp] theorem State.setStream_hostReads (s : State) (c : Nat) (st : Stream) (t : StreamState) : (s.setStream c st t).hostReads = s.hostReads := rfl

/-! ### State.modStream -/

@[simp] theorem State.modStream_agenda (s : State) (c : Nat) (st : Stream) (g : StreamState → StreamState) : (s.modStream c st g).agenda = s.agenda := rfl
@[simp] theorem State.modStream_fresh (s : State) (c : Nat) (st : Stream) (g : StreamState → StreamState) : (s.modStream c st g).fresh = s.fresh := rfl
@[simp] theorem State.modStream_cur (s : State) (c : Nat) (st : Stream) (g : StreamState → StreamState) : (s.modStream c st g).cur = s.cur := rfl
@[simp] theorem State.modStream_note (s : State) (c : Nat) (st : Stream) (g : StreamState → StreamState) : (s.modStream c st g).note = s.note := rfl
@[simp] theorem State.modStream_mem (s : State) (c : Nat) (st : Stream) (g : StreamState → StreamState) : (s.modStream c st g).mem = s.mem := rfl
@[simp] theorem State.modStream_badLines (s : State) (c : Nat) (st : Stream) (g : StreamState → StreamState) : (s.modStream c st g).badLines = s.badLines := rfl
@[simp] theorem State.modStream_unLog (s : State) (c : Nat) (st : Stream) (g : StreamState → StreamState) : (s.modStream c st g).unLog = s.unLog := rfl
@[simp] theorem State.modStream_unPlaces (s : State) (c : Nat) (st : Stream) (g : StreamState → StreamState) : (s.modStream c st g).unPlaces = s.unPlaces := rfl
@[simp] theorem State.modStream_lines (s : State) (c : Nat) (st : Stream) (g : StreamState → StreamState) : (s.modStream c st g).lines = s.lines := rfl
@[simp] theorem State.modStream_flash (s : State) (c : Nat) (st : Stream) (g : StreamState → StreamState) : (s.modStream c st g).flash = s.flash := rfl
@[simp] theorem State.modStream_islands (s : State) (c : Nat) (st : Stream) (g : StreamState → StreamState) : (s.modStream c st g).islands = s.islands := rfl
@[simp] theorem State.modStream_dies (s : State) (c : Nat) (st : Stream) (g : StreamState → StreamState) : (s.modStream c st g).dies = s.dies := rfl
@[simp] theorem State.modStream_queues (s : State) (c : Nat) (st : Stream) (g : StreamState → StreamState) : (s.modStream c st g).queues = s.queues := rfl
@[simp] theorem State.modStream_dbb (s : State) (c : Nat) (st : Stream) (g : StreamState → StreamState) : (s.modStream c st g).dbb = s.dbb := rfl
@[simp] theorem State.modStream_launches (s : State) (c : Nat) (st : Stream) (g : StreamState → StreamState) : (s.modStream c st g).launches = s.launches := rfl
@[simp] theorem State.modStream_convoys (s : State) (c : Nat) (st : Stream) (g : StreamState → StreamState) : (s.modStream c st g).convoys = s.convoys := rfl
@[simp] theorem State.modStream_saved (s : State) (c : Nat) (st : Stream) (g : StreamState → StreamState) : (s.modStream c st g).saved = s.saved := rfl
@[simp] theorem State.modStream_launchSerial (s : State) (c : Nat) (st : Stream) (g : StreamState → StreamState) : (s.modStream c st g).launchSerial = s.launchSerial := rfl
@[simp] theorem State.modStream_taskSerial (s : State) (c : Nat) (st : Stream) (g : StreamState → StreamState) : (s.modStream c st g).taskSerial = s.taskSerial := rfl
@[simp] theorem State.modStream_refTime (s : State) (c : Nat) (st : Stream) (g : StreamState → StreamState) : (s.modStream c st g).refTime = s.refTime := rfl
@[simp] theorem State.modStream_ioSkew (s : State) (c : Nat) (st : Stream) (g : StreamState → StreamState) : (s.modStream c st g).ioSkew = s.ioSkew := rfl
@[simp] theorem State.modStream_ioSlew (s : State) (c : Nat) (st : Stream) (g : StreamState → StreamState) : (s.modStream c st g).ioSlew = s.ioSlew := rfl
@[simp] theorem State.modStream_tide (s : State) (c : Nat) (st : Stream) (g : StreamState → StreamState) : (s.modStream c st g).tide = s.tide := rfl
@[simp] theorem State.modStream_flen (s : State) (c : Nat) (st : Stream) (g : StreamState → StreamState) : (s.modStream c st g).flen = s.flen := rfl
@[simp] theorem State.modStream_faultLog (s : State) (c : Nat) (st : Stream) (g : StreamState → StreamState) : (s.modStream c st g).faultLog = s.faultLog := rfl
@[simp] theorem State.modStream_slipLog (s : State) (c : Nat) (st : Stream) (g : StreamState → StreamState) : (s.modStream c st g).slipLog = s.slipLog := rfl
@[simp] theorem State.modStream_completions (s : State) (c : Nat) (st : Stream) (g : StreamState → StreamState) : (s.modStream c st g).completions = s.completions := rfl
@[simp] theorem State.modStream_lfe (s : State) (c : Nat) (st : Stream) (g : StreamState → StreamState) : (s.modStream c st g).lfe = s.lfe := rfl
@[simp] theorem State.modStream_pager (s : State) (c : Nat) (st : Stream) (g : StreamState → StreamState) : (s.modStream c st g).pager = s.pager := rfl
@[simp] theorem State.modStream_pageWaits (s : State) (c : Nat) (st : Stream) (g : StreamState → StreamState) : (s.modStream c st g).pageWaits = s.pageWaits := rfl
@[simp] theorem State.modStream_windows (s : State) (c : Nat) (st : Stream) (g : StreamState → StreamState) : (s.modStream c st g).windows = s.windows := rfl
@[simp] theorem State.modStream_walrisHeld (s : State) (c : Nat) (st : Stream) (g : StreamState → StreamState) : (s.modStream c st g).walrisHeld = s.walrisHeld := rfl
@[simp] theorem State.modStream_thermal (s : State) (c : Nat) (st : Stream) (g : StreamState → StreamState) : (s.modStream c st g).thermal = s.thermal := rfl
@[simp] theorem State.modStream_moored (s : State) (c : Nat) (st : Stream) (g : StreamState → StreamState) : (s.modStream c st g).moored = s.moored := rfl
@[simp] theorem State.modStream_moorCore (s : State) (c : Nat) (st : Stream) (g : StreamState → StreamState) : (s.modStream c st g).moorCore = s.moorCore := rfl
@[simp] theorem State.modStream_moorFrom (s : State) (c : Nat) (st : Stream) (g : StreamState → StreamState) : (s.modStream c st g).moorFrom = s.moorFrom := rfl
@[simp] theorem State.modStream_moorWake (s : State) (c : Nat) (st : Stream) (g : StreamState → StreamState) : (s.modStream c st g).moorWake = s.moorWake := rfl
@[simp] theorem State.modStream_booted (s : State) (c : Nat) (st : Stream) (g : StreamState → StreamState) : (s.modStream c st g).booted = s.booted := rfl
@[simp] theorem State.modStream_reports (s : State) (c : Nat) (st : Stream) (g : StreamState → StreamState) : (s.modStream c st g).reports = s.reports := rfl
@[simp] theorem State.modStream_hostReads (s : State) (c : Nat) (st : Stream) (g : StreamState → StreamState) : (s.modStream c st g).hostReads = s.hostReads := rfl

/-! ### Core.setStream -/

@[simp] theorem Core.setStream_qmap (k : Core) (st : Stream) (t : StreamState) : (k.setStream st t).qmap = k.qmap := rfl
@[simp] theorem Core.setStream_fifo (k : Core) (st : Stream) (t : StreamState) : (k.setStream st t).fifo = k.fifo := rfl
@[simp] theorem Core.setStream_pushes (k : Core) (st : Stream) (t : StreamState) : (k.setStream st t).pushes = k.pushes := rfl
@[simp] theorem Core.setStream_queues (k : Core) (st : Stream) (t : StreamState) : (k.setStream st t).queues = k.queues := rfl
@[simp] theorem Core.setStream_hist (k : Core) (st : Stream) (t : StreamState) : (k.setStream st t).hist = k.hist := rfl
@[simp] theorem Core.setStream_acc (k : Core) (st : Stream) (t : StreamState) : (k.setStream st t).acc = k.acc := rfl
@[simp] theorem Core.setStream_pb0 (k : Core) (st : Stream) (t : StreamState) : (k.setStream st t).pb0 = k.pb0 := rfl
@[simp] theorem Core.setStream_pb1 (k : Core) (st : Stream) (t : StreamState) : (k.setStream st t).pb1 = k.pb1 := rfl
@[simp] theorem Core.setStream_pkind0 (k : Core) (st : Stream) (t : StreamState) : (k.setStream st t).pkind0 = k.pkind0 := rfl
@[simp] theorem Core.setStream_pkind1 (k : Core) (st : Stream) (t : StreamState) : (k.setStream st t).pkind1 = k.pkind1 := rfl
@[simp] theorem Core.setStream_pn0 (k : Core) (st : Stream) (t : StreamState) : (k.setStream st t).pn0 = k.pn0 := rfl
@[simp] theorem Core.setStream_pn1 (k : Core) (st : Stream) (t : StreamState) : (k.setStream st t).pn1 = k.pn1 := rfl
@[simp] theorem Core.setStream_ptag0 (k : Core) (st : Stream) (t : StreamState) : (k.setStream st t).ptag0 = k.ptag0 := rfl
@[simp] theorem Core.setStream_ptag1 (k : Core) (st : Stream) (t : StreamState) : (k.setStream st t).ptag1 = k.ptag1 := rfl
@[simp] theorem Core.setStream_sga (k : Core) (st : Stream) (t : StreamState) : (k.setStream st t).sga = k.sga := rfl
@[simp] theorem Core.setStream_sgb (k : Core) (st : Stream) (t : StreamState) : (k.setStream st t).sgb = k.sgb := rfl
@[simp] theorem Core.setStream_mflag (k : Core) (st : Stream) (t : StreamState) : (k.setStream st t).mflag = k.mflag := rfl
@[simp] theorem Core.setStream_mbase (k : Core) (st : Stream) (t : StreamState) : (k.setStream st t).mbase = k.mbase := rfl
@[simp] theorem Core.setStream_eparam (k : Core) (st : Stream) (t : StreamState) : (k.setStream st t).eparam = k.eparam := rfl
@[simp] theorem Core.setStream_emask (k : Core) (st : Stream) (t : StreamState) : (k.setStream st t).emask = k.emask := rfl
@[simp] theorem Core.setStream_eheap (k : Core) (st : Stream) (t : StreamState) : (k.setStream st t).eheap = k.eheap := rfl
@[simp] theorem Core.setStream_ehist (k : Core) (st : Stream) (t : StreamState) : (k.setStream st t).ehist = k.ehist := rfl
@[simp] theorem Core.setStream_arrayFree (k : Core) (st : Stream) (t : StreamState) : (k.setStream st t).arrayFree = k.arrayFree := rfl
@[simp] theorem Core.setStream_scacFree (k : Core) (st : Stream) (t : StreamState) : (k.setStream st t).scacFree = k.scacFree := rfl
@[simp] theorem Core.setStream_accFree (k : Core) (st : Stream) (t : StreamState) : (k.setStream st t).accFree = k.accFree := rfl
@[simp] theorem Core.setStream_epiFree (k : Core) (st : Stream) (t : StreamState) : (k.setStream st t).epiFree = k.epiFree := rfl
@[simp] theorem Core.setStream_vecFree (k : Core) (st : Stream) (t : StreamState) : (k.setStream st t).vecFree = k.vecFree := rfl
@[simp] theorem Core.setStream_sem (k : Core) (st : Stream) (t : StreamState) : (k.setStream st t).sem = k.sem := rfl
@[simp] theorem Core.setStream_swq (k : Core) (st : Stream) (t : StreamState) : (k.setStream st t).swq = k.swq := rfl
@[simp] theorem Core.setStream_semw (k : Core) (st : Stream) (t : StreamState) : (k.setStream st t).semw = k.semw := rfl
@[simp] theorem Core.setStream_bar (k : Core) (st : Stream) (t : StreamState) : (k.setStream st t).bar = k.bar := rfl
@[simp] theorem Core.setStream_mb (k : Core) (st : Stream) (t : StreamState) : (k.setStream st t).mb = k.mb := rfl
@[simp] theorem Core.setStream_mail (k : Core) (st : Stream) (t : StreamState) : (k.setStream st t).mail = k.mail := rfl
@[simp] theorem Core.setStream_mbsTo (k : Core) (st : Stream) (t : StreamState) : (k.setStream st t).mbsTo = k.mbsTo := rfl
@[simp] theorem Core.setStream_seq (k : Core) (st : Stream) (t : StreamState) : (k.setStream st t).seq = k.seq := rfl
@[simp] theorem Core.setStream_flight (k : Core) (st : Stream) (t : StreamState) : (k.setStream st t).flight = k.flight := rfl
@[simp] theorem Core.setStream_loads (k : Core) (st : Stream) (t : StreamState) : (k.setStream st t).loads = k.loads := rfl
@[simp] theorem Core.setStream_stores (k : Core) (st : Stream) (t : StreamState) : (k.setStream st t).stores = k.stores := rfl
@[simp] theorem Core.setStream_copies (k : Core) (st : Stream) (t : StreamState) : (k.setStream st t).copies = k.copies := rfl
@[simp] theorem Core.setStream_charts (k : Core) (st : Stream) (t : StreamState) : (k.setStream st t).charts = k.charts := rfl
@[simp] theorem Core.setStream_log (k : Core) (st : Stream) (t : StreamState) : (k.setStream st t).log = k.log := rfl
@[simp] theorem Core.setStream_requests (k : Core) (st : Stream) (t : StreamState) : (k.setStream st t).requests = k.requests := rfl
@[simp] theorem Core.setStream_widening (k : Core) (st : Stream) (t : StreamState) : (k.setStream st t).widening = k.widening := rfl
@[simp] theorem Core.setStream_wideBound (k : Core) (st : Stream) (t : StreamState) : (k.setStream st t).wideBound = k.wideBound := rfl
@[simp] theorem Core.setStream_dc (k : Core) (st : Stream) (t : StreamState) : (k.setStream st t).dc = k.dc := rfl
@[simp] theorem Core.setStream_dcFrom (k : Core) (st : Stream) (t : StreamState) : (k.setStream st t).dcFrom = k.dcFrom := rfl
@[simp] theorem Core.setStream_dcStores (k : Core) (st : Stream) (t : StreamState) : (k.setStream st t).dcStores = k.dcStores := rfl
@[simp] theorem Core.setStream_tlb (k : Core) (st : Stream) (t : StreamState) : (k.setStream st t).tlb = k.tlb := rfl
@[simp] theorem Core.setStream_hold (k : Core) (st : Stream) (t : StreamState) : (k.setStream st t).hold = k.hold := rfl
@[simp] theorem Core.setStream_badHold (k : Core) (st : Stream) (t : StreamState) : (k.setStream st t).badHold = k.badHold := rfl
@[simp] theorem Core.setStream_leaseGen (k : Core) (st : Stream) (t : StreamState) : (k.setStream st t).leaseGen = k.leaseGen := rfl
@[simp] theorem Core.setStream_claimant (k : Core) (st : Stream) (t : StreamState) : (k.setStream st t).claimant = k.claimant := rfl
@[simp] theorem Core.setStream_overrun (k : Core) (st : Stream) (t : StreamState) : (k.setStream st t).overrun = k.overrun := rfl
@[simp] theorem Core.setStream_prefetches (k : Core) (st : Stream) (t : StreamState) : (k.setStream st t).prefetches = k.prefetches := rfl
@[simp] theorem Core.setStream_berths (k : Core) (st : Stream) (t : StreamState) : (k.setStream st t).berths = k.berths := rfl
@[simp] theorem Core.setStream_parked (k : Core) (st : Stream) (t : StreamState) : (k.setStream st t).parked = k.parked := rfl
@[simp] theorem Core.setStream_holdTick (k : Core) (st : Stream) (t : StreamState) : (k.setStream st t).holdTick = k.holdTick := rfl
@[simp] theorem Core.setStream_task (k : Core) (st : Stream) (t : StreamState) : (k.setStream st t).task = k.task := rfl
@[simp] theorem Core.setStream_fwRun (k : Core) (st : Stream) (t : StreamState) : (k.setStream st t).fwRun = k.fwRun := rfl
@[simp] theorem Core.setStream_idleTick (k : Core) (st : Stream) (t : StreamState) : (k.setStream st t).idleTick = k.idleTick := rfl
@[simp] theorem Core.setStream_halted (k : Core) (st : Stream) (t : StreamState) : (k.setStream st t).halted = k.halted := rfl
@[simp] theorem Core.setStream_loading (k : Core) (st : Stream) (t : StreamState) : (k.setStream st t).loading = k.loading := rfl
@[simp] theorem Core.setStream_startFault (k : Core) (st : Stream) (t : StreamState) : (k.setStream st t).startFault = k.startFault := rfl
@[simp] theorem Core.setStream_jcount (k : Core) (st : Stream) (t : StreamState) : (k.setStream st t).jcount = k.jcount := rfl
@[simp] theorem Core.setStream_ltq (k : Core) (st : Stream) (t : StreamState) : (k.setStream st t).ltq = k.ltq := rfl
@[simp] theorem Core.setStream_childSerial (k : Core) (st : Stream) (t : StreamState) : (k.setStream st t).childSerial = k.childSerial := rfl
@[simp] theorem Core.setStream_launching (k : Core) (st : Stream) (t : StreamState) : (k.setStream st t).launching = k.launching := rfl
@[simp] theorem Core.setStream_cbl (k : Core) (st : Stream) (t : StreamState) : (k.setStream st t).cbl = k.cbl := rfl
@[simp] theorem Core.setStream_evl (k : Core) (st : Stream) (t : StreamState) : (k.setStream st t).evl = k.evl := rfl
@[simp] theorem Core.setStream_yielded (k : Core) (st : Stream) (t : StreamState) : (k.setStream st t).yielded = k.yielded := rfl
@[simp] theorem Core.setStream_ctxOps (k : Core) (st : Stream) (t : StreamState) : (k.setStream st t).ctxOps = k.ctxOps := rfl
@[simp] theorem Core.setStream_held (k : Core) (st : Stream) (t : StreamState) : (k.setStream st t).held = k.held := rfl
@[simp] theorem Core.setStream_tlbWait (k : Core) (st : Stream) (t : StreamState) : (k.setStream st t).tlbWait = k.tlbWait := rfl
@[simp] theorem Core.setStream_inh (k : Core) (st : Stream) (t : StreamState) : (k.setStream st t).inh = k.inh := rfl
@[simp] theorem Core.setStream_warnHeld (k : Core) (st : Stream) (t : StreamState) : (k.setStream st t).warnHeld = k.warnHeld := rfl
@[simp] theorem Core.setStream_warnDue (k : Core) (st : Stream) (t : StreamState) : (k.setStream st t).warnDue = k.warnDue := rfl
@[simp] theorem Core.setStream_frame (k : Core) (st : Stream) (t : StreamState) : (k.setStream st t).frame = k.frame := rfl
@[simp] theorem Core.setStream_ptroot (k : Core) (st : Stream) (t : StreamState) : (k.setStream st t).ptroot = k.ptroot := rfl
@[simp] theorem Core.setStream_tvec (k : Core) (st : Stream) (t : StreamState) : (k.setStream st t).tvec = k.tvec := rfl
@[simp] theorem Core.setStream_ctxptr (k : Core) (st : Stream) (t : StreamState) : (k.setStream st t).ctxptr = k.ctxptr := rfl
@[simp] theorem Core.setStream_lease (k : Core) (st : Stream) (t : StreamState) : (k.setStream st t).lease = k.lease := rfl
@[simp] theorem Core.setStream_leaseGone (k : Core) (st : Stream) (t : StreamState) : (k.setStream st t).leaseGone = k.leaseGone := rfl
@[simp] theorem Core.setStream_caps (k : Core) (st : Stream) (t : StreamState) : (k.setStream st t).caps = k.caps := rfl
@[simp] theorem Core.setStream_ballast (k : Core) (st : Stream) (t : StreamState) : (k.setStream st t).ballast = k.ballast := rfl
@[simp] theorem Core.setStream_waitLine (k : Core) (st : Stream) (t : StreamState) : (k.setStream st t).waitLine = k.waitLine := rfl
@[simp] theorem Core.setStream_parentWait (k : Core) (st : Stream) (t : StreamState) : (k.setStream st t).parentWait = k.parentWait := rfl

/-! ### Core.modStream -/

@[simp] theorem Core.modStream_qmap (k : Core) (st : Stream) (g : StreamState → StreamState) : (k.modStream st g).qmap = k.qmap := rfl
@[simp] theorem Core.modStream_fifo (k : Core) (st : Stream) (g : StreamState → StreamState) : (k.modStream st g).fifo = k.fifo := rfl
@[simp] theorem Core.modStream_pushes (k : Core) (st : Stream) (g : StreamState → StreamState) : (k.modStream st g).pushes = k.pushes := rfl
@[simp] theorem Core.modStream_queues (k : Core) (st : Stream) (g : StreamState → StreamState) : (k.modStream st g).queues = k.queues := rfl
@[simp] theorem Core.modStream_hist (k : Core) (st : Stream) (g : StreamState → StreamState) : (k.modStream st g).hist = k.hist := rfl
@[simp] theorem Core.modStream_acc (k : Core) (st : Stream) (g : StreamState → StreamState) : (k.modStream st g).acc = k.acc := rfl
@[simp] theorem Core.modStream_pb0 (k : Core) (st : Stream) (g : StreamState → StreamState) : (k.modStream st g).pb0 = k.pb0 := rfl
@[simp] theorem Core.modStream_pb1 (k : Core) (st : Stream) (g : StreamState → StreamState) : (k.modStream st g).pb1 = k.pb1 := rfl
@[simp] theorem Core.modStream_pkind0 (k : Core) (st : Stream) (g : StreamState → StreamState) : (k.modStream st g).pkind0 = k.pkind0 := rfl
@[simp] theorem Core.modStream_pkind1 (k : Core) (st : Stream) (g : StreamState → StreamState) : (k.modStream st g).pkind1 = k.pkind1 := rfl
@[simp] theorem Core.modStream_pn0 (k : Core) (st : Stream) (g : StreamState → StreamState) : (k.modStream st g).pn0 = k.pn0 := rfl
@[simp] theorem Core.modStream_pn1 (k : Core) (st : Stream) (g : StreamState → StreamState) : (k.modStream st g).pn1 = k.pn1 := rfl
@[simp] theorem Core.modStream_ptag0 (k : Core) (st : Stream) (g : StreamState → StreamState) : (k.modStream st g).ptag0 = k.ptag0 := rfl
@[simp] theorem Core.modStream_ptag1 (k : Core) (st : Stream) (g : StreamState → StreamState) : (k.modStream st g).ptag1 = k.ptag1 := rfl
@[simp] theorem Core.modStream_sga (k : Core) (st : Stream) (g : StreamState → StreamState) : (k.modStream st g).sga = k.sga := rfl
@[simp] theorem Core.modStream_sgb (k : Core) (st : Stream) (g : StreamState → StreamState) : (k.modStream st g).sgb = k.sgb := rfl
@[simp] theorem Core.modStream_mflag (k : Core) (st : Stream) (g : StreamState → StreamState) : (k.modStream st g).mflag = k.mflag := rfl
@[simp] theorem Core.modStream_mbase (k : Core) (st : Stream) (g : StreamState → StreamState) : (k.modStream st g).mbase = k.mbase := rfl
@[simp] theorem Core.modStream_eparam (k : Core) (st : Stream) (g : StreamState → StreamState) : (k.modStream st g).eparam = k.eparam := rfl
@[simp] theorem Core.modStream_emask (k : Core) (st : Stream) (g : StreamState → StreamState) : (k.modStream st g).emask = k.emask := rfl
@[simp] theorem Core.modStream_eheap (k : Core) (st : Stream) (g : StreamState → StreamState) : (k.modStream st g).eheap = k.eheap := rfl
@[simp] theorem Core.modStream_ehist (k : Core) (st : Stream) (g : StreamState → StreamState) : (k.modStream st g).ehist = k.ehist := rfl
@[simp] theorem Core.modStream_arrayFree (k : Core) (st : Stream) (g : StreamState → StreamState) : (k.modStream st g).arrayFree = k.arrayFree := rfl
@[simp] theorem Core.modStream_scacFree (k : Core) (st : Stream) (g : StreamState → StreamState) : (k.modStream st g).scacFree = k.scacFree := rfl
@[simp] theorem Core.modStream_accFree (k : Core) (st : Stream) (g : StreamState → StreamState) : (k.modStream st g).accFree = k.accFree := rfl
@[simp] theorem Core.modStream_epiFree (k : Core) (st : Stream) (g : StreamState → StreamState) : (k.modStream st g).epiFree = k.epiFree := rfl
@[simp] theorem Core.modStream_vecFree (k : Core) (st : Stream) (g : StreamState → StreamState) : (k.modStream st g).vecFree = k.vecFree := rfl
@[simp] theorem Core.modStream_sem (k : Core) (st : Stream) (g : StreamState → StreamState) : (k.modStream st g).sem = k.sem := rfl
@[simp] theorem Core.modStream_swq (k : Core) (st : Stream) (g : StreamState → StreamState) : (k.modStream st g).swq = k.swq := rfl
@[simp] theorem Core.modStream_semw (k : Core) (st : Stream) (g : StreamState → StreamState) : (k.modStream st g).semw = k.semw := rfl
@[simp] theorem Core.modStream_bar (k : Core) (st : Stream) (g : StreamState → StreamState) : (k.modStream st g).bar = k.bar := rfl
@[simp] theorem Core.modStream_mb (k : Core) (st : Stream) (g : StreamState → StreamState) : (k.modStream st g).mb = k.mb := rfl
@[simp] theorem Core.modStream_mail (k : Core) (st : Stream) (g : StreamState → StreamState) : (k.modStream st g).mail = k.mail := rfl
@[simp] theorem Core.modStream_mbsTo (k : Core) (st : Stream) (g : StreamState → StreamState) : (k.modStream st g).mbsTo = k.mbsTo := rfl
@[simp] theorem Core.modStream_seq (k : Core) (st : Stream) (g : StreamState → StreamState) : (k.modStream st g).seq = k.seq := rfl
@[simp] theorem Core.modStream_flight (k : Core) (st : Stream) (g : StreamState → StreamState) : (k.modStream st g).flight = k.flight := rfl
@[simp] theorem Core.modStream_loads (k : Core) (st : Stream) (g : StreamState → StreamState) : (k.modStream st g).loads = k.loads := rfl
@[simp] theorem Core.modStream_stores (k : Core) (st : Stream) (g : StreamState → StreamState) : (k.modStream st g).stores = k.stores := rfl
@[simp] theorem Core.modStream_copies (k : Core) (st : Stream) (g : StreamState → StreamState) : (k.modStream st g).copies = k.copies := rfl
@[simp] theorem Core.modStream_charts (k : Core) (st : Stream) (g : StreamState → StreamState) : (k.modStream st g).charts = k.charts := rfl
@[simp] theorem Core.modStream_log (k : Core) (st : Stream) (g : StreamState → StreamState) : (k.modStream st g).log = k.log := rfl
@[simp] theorem Core.modStream_requests (k : Core) (st : Stream) (g : StreamState → StreamState) : (k.modStream st g).requests = k.requests := rfl
@[simp] theorem Core.modStream_widening (k : Core) (st : Stream) (g : StreamState → StreamState) : (k.modStream st g).widening = k.widening := rfl
@[simp] theorem Core.modStream_wideBound (k : Core) (st : Stream) (g : StreamState → StreamState) : (k.modStream st g).wideBound = k.wideBound := rfl
@[simp] theorem Core.modStream_dc (k : Core) (st : Stream) (g : StreamState → StreamState) : (k.modStream st g).dc = k.dc := rfl
@[simp] theorem Core.modStream_dcFrom (k : Core) (st : Stream) (g : StreamState → StreamState) : (k.modStream st g).dcFrom = k.dcFrom := rfl
@[simp] theorem Core.modStream_dcStores (k : Core) (st : Stream) (g : StreamState → StreamState) : (k.modStream st g).dcStores = k.dcStores := rfl
@[simp] theorem Core.modStream_tlb (k : Core) (st : Stream) (g : StreamState → StreamState) : (k.modStream st g).tlb = k.tlb := rfl
@[simp] theorem Core.modStream_hold (k : Core) (st : Stream) (g : StreamState → StreamState) : (k.modStream st g).hold = k.hold := rfl
@[simp] theorem Core.modStream_badHold (k : Core) (st : Stream) (g : StreamState → StreamState) : (k.modStream st g).badHold = k.badHold := rfl
@[simp] theorem Core.modStream_leaseGen (k : Core) (st : Stream) (g : StreamState → StreamState) : (k.modStream st g).leaseGen = k.leaseGen := rfl
@[simp] theorem Core.modStream_claimant (k : Core) (st : Stream) (g : StreamState → StreamState) : (k.modStream st g).claimant = k.claimant := rfl
@[simp] theorem Core.modStream_overrun (k : Core) (st : Stream) (g : StreamState → StreamState) : (k.modStream st g).overrun = k.overrun := rfl
@[simp] theorem Core.modStream_prefetches (k : Core) (st : Stream) (g : StreamState → StreamState) : (k.modStream st g).prefetches = k.prefetches := rfl
@[simp] theorem Core.modStream_berths (k : Core) (st : Stream) (g : StreamState → StreamState) : (k.modStream st g).berths = k.berths := rfl
@[simp] theorem Core.modStream_parked (k : Core) (st : Stream) (g : StreamState → StreamState) : (k.modStream st g).parked = k.parked := rfl
@[simp] theorem Core.modStream_holdTick (k : Core) (st : Stream) (g : StreamState → StreamState) : (k.modStream st g).holdTick = k.holdTick := rfl
@[simp] theorem Core.modStream_task (k : Core) (st : Stream) (g : StreamState → StreamState) : (k.modStream st g).task = k.task := rfl
@[simp] theorem Core.modStream_fwRun (k : Core) (st : Stream) (g : StreamState → StreamState) : (k.modStream st g).fwRun = k.fwRun := rfl
@[simp] theorem Core.modStream_idleTick (k : Core) (st : Stream) (g : StreamState → StreamState) : (k.modStream st g).idleTick = k.idleTick := rfl
@[simp] theorem Core.modStream_halted (k : Core) (st : Stream) (g : StreamState → StreamState) : (k.modStream st g).halted = k.halted := rfl
@[simp] theorem Core.modStream_loading (k : Core) (st : Stream) (g : StreamState → StreamState) : (k.modStream st g).loading = k.loading := rfl
@[simp] theorem Core.modStream_startFault (k : Core) (st : Stream) (g : StreamState → StreamState) : (k.modStream st g).startFault = k.startFault := rfl
@[simp] theorem Core.modStream_jcount (k : Core) (st : Stream) (g : StreamState → StreamState) : (k.modStream st g).jcount = k.jcount := rfl
@[simp] theorem Core.modStream_ltq (k : Core) (st : Stream) (g : StreamState → StreamState) : (k.modStream st g).ltq = k.ltq := rfl
@[simp] theorem Core.modStream_childSerial (k : Core) (st : Stream) (g : StreamState → StreamState) : (k.modStream st g).childSerial = k.childSerial := rfl
@[simp] theorem Core.modStream_launching (k : Core) (st : Stream) (g : StreamState → StreamState) : (k.modStream st g).launching = k.launching := rfl
@[simp] theorem Core.modStream_cbl (k : Core) (st : Stream) (g : StreamState → StreamState) : (k.modStream st g).cbl = k.cbl := rfl
@[simp] theorem Core.modStream_evl (k : Core) (st : Stream) (g : StreamState → StreamState) : (k.modStream st g).evl = k.evl := rfl
@[simp] theorem Core.modStream_yielded (k : Core) (st : Stream) (g : StreamState → StreamState) : (k.modStream st g).yielded = k.yielded := rfl
@[simp] theorem Core.modStream_ctxOps (k : Core) (st : Stream) (g : StreamState → StreamState) : (k.modStream st g).ctxOps = k.ctxOps := rfl
@[simp] theorem Core.modStream_held (k : Core) (st : Stream) (g : StreamState → StreamState) : (k.modStream st g).held = k.held := rfl
@[simp] theorem Core.modStream_tlbWait (k : Core) (st : Stream) (g : StreamState → StreamState) : (k.modStream st g).tlbWait = k.tlbWait := rfl
@[simp] theorem Core.modStream_inh (k : Core) (st : Stream) (g : StreamState → StreamState) : (k.modStream st g).inh = k.inh := rfl
@[simp] theorem Core.modStream_warnHeld (k : Core) (st : Stream) (g : StreamState → StreamState) : (k.modStream st g).warnHeld = k.warnHeld := rfl
@[simp] theorem Core.modStream_warnDue (k : Core) (st : Stream) (g : StreamState → StreamState) : (k.modStream st g).warnDue = k.warnDue := rfl
@[simp] theorem Core.modStream_frame (k : Core) (st : Stream) (g : StreamState → StreamState) : (k.modStream st g).frame = k.frame := rfl
@[simp] theorem Core.modStream_ptroot (k : Core) (st : Stream) (g : StreamState → StreamState) : (k.modStream st g).ptroot = k.ptroot := rfl
@[simp] theorem Core.modStream_tvec (k : Core) (st : Stream) (g : StreamState → StreamState) : (k.modStream st g).tvec = k.tvec := rfl
@[simp] theorem Core.modStream_ctxptr (k : Core) (st : Stream) (g : StreamState → StreamState) : (k.modStream st g).ctxptr = k.ctxptr := rfl
@[simp] theorem Core.modStream_lease (k : Core) (st : Stream) (g : StreamState → StreamState) : (k.modStream st g).lease = k.lease := rfl
@[simp] theorem Core.modStream_leaseGone (k : Core) (st : Stream) (g : StreamState → StreamState) : (k.modStream st g).leaseGone = k.leaseGone := rfl
@[simp] theorem Core.modStream_caps (k : Core) (st : Stream) (g : StreamState → StreamState) : (k.modStream st g).caps = k.caps := rfl
@[simp] theorem Core.modStream_ballast (k : Core) (st : Stream) (g : StreamState → StreamState) : (k.modStream st g).ballast = k.ballast := rfl
@[simp] theorem Core.modStream_waitLine (k : Core) (st : Stream) (g : StreamState → StreamState) : (k.modStream st g).waitLine = k.waitLine := rfl
@[simp] theorem Core.modStream_parentWait (k : Core) (st : Stream) (g : StreamState → StreamState) : (k.modStream st g).parentWait = k.parentWait := rfl

/-! ### Core.setQueueReg -/

@[simp] theorem Core.setQueueReg_st (k : Core) (q : Nat) (v : QueueReg) : (k.setQueueReg q v).st = k.st := rfl
@[simp] theorem Core.setQueueReg_qmap (k : Core) (q : Nat) (v : QueueReg) : (k.setQueueReg q v).qmap = k.qmap := rfl
@[simp] theorem Core.setQueueReg_fifo (k : Core) (q : Nat) (v : QueueReg) : (k.setQueueReg q v).fifo = k.fifo := rfl
@[simp] theorem Core.setQueueReg_pushes (k : Core) (q : Nat) (v : QueueReg) : (k.setQueueReg q v).pushes = k.pushes := rfl
@[simp] theorem Core.setQueueReg_hist (k : Core) (q : Nat) (v : QueueReg) : (k.setQueueReg q v).hist = k.hist := rfl
@[simp] theorem Core.setQueueReg_acc (k : Core) (q : Nat) (v : QueueReg) : (k.setQueueReg q v).acc = k.acc := rfl
@[simp] theorem Core.setQueueReg_pb0 (k : Core) (q : Nat) (v : QueueReg) : (k.setQueueReg q v).pb0 = k.pb0 := rfl
@[simp] theorem Core.setQueueReg_pb1 (k : Core) (q : Nat) (v : QueueReg) : (k.setQueueReg q v).pb1 = k.pb1 := rfl
@[simp] theorem Core.setQueueReg_pkind0 (k : Core) (q : Nat) (v : QueueReg) : (k.setQueueReg q v).pkind0 = k.pkind0 := rfl
@[simp] theorem Core.setQueueReg_pkind1 (k : Core) (q : Nat) (v : QueueReg) : (k.setQueueReg q v).pkind1 = k.pkind1 := rfl
@[simp] theorem Core.setQueueReg_pn0 (k : Core) (q : Nat) (v : QueueReg) : (k.setQueueReg q v).pn0 = k.pn0 := rfl
@[simp] theorem Core.setQueueReg_pn1 (k : Core) (q : Nat) (v : QueueReg) : (k.setQueueReg q v).pn1 = k.pn1 := rfl
@[simp] theorem Core.setQueueReg_ptag0 (k : Core) (q : Nat) (v : QueueReg) : (k.setQueueReg q v).ptag0 = k.ptag0 := rfl
@[simp] theorem Core.setQueueReg_ptag1 (k : Core) (q : Nat) (v : QueueReg) : (k.setQueueReg q v).ptag1 = k.ptag1 := rfl
@[simp] theorem Core.setQueueReg_sga (k : Core) (q : Nat) (v : QueueReg) : (k.setQueueReg q v).sga = k.sga := rfl
@[simp] theorem Core.setQueueReg_sgb (k : Core) (q : Nat) (v : QueueReg) : (k.setQueueReg q v).sgb = k.sgb := rfl
@[simp] theorem Core.setQueueReg_mflag (k : Core) (q : Nat) (v : QueueReg) : (k.setQueueReg q v).mflag = k.mflag := rfl
@[simp] theorem Core.setQueueReg_mbase (k : Core) (q : Nat) (v : QueueReg) : (k.setQueueReg q v).mbase = k.mbase := rfl
@[simp] theorem Core.setQueueReg_eparam (k : Core) (q : Nat) (v : QueueReg) : (k.setQueueReg q v).eparam = k.eparam := rfl
@[simp] theorem Core.setQueueReg_emask (k : Core) (q : Nat) (v : QueueReg) : (k.setQueueReg q v).emask = k.emask := rfl
@[simp] theorem Core.setQueueReg_eheap (k : Core) (q : Nat) (v : QueueReg) : (k.setQueueReg q v).eheap = k.eheap := rfl
@[simp] theorem Core.setQueueReg_ehist (k : Core) (q : Nat) (v : QueueReg) : (k.setQueueReg q v).ehist = k.ehist := rfl
@[simp] theorem Core.setQueueReg_arrayFree (k : Core) (q : Nat) (v : QueueReg) : (k.setQueueReg q v).arrayFree = k.arrayFree := rfl
@[simp] theorem Core.setQueueReg_scacFree (k : Core) (q : Nat) (v : QueueReg) : (k.setQueueReg q v).scacFree = k.scacFree := rfl
@[simp] theorem Core.setQueueReg_accFree (k : Core) (q : Nat) (v : QueueReg) : (k.setQueueReg q v).accFree = k.accFree := rfl
@[simp] theorem Core.setQueueReg_epiFree (k : Core) (q : Nat) (v : QueueReg) : (k.setQueueReg q v).epiFree = k.epiFree := rfl
@[simp] theorem Core.setQueueReg_vecFree (k : Core) (q : Nat) (v : QueueReg) : (k.setQueueReg q v).vecFree = k.vecFree := rfl
@[simp] theorem Core.setQueueReg_sem (k : Core) (q : Nat) (v : QueueReg) : (k.setQueueReg q v).sem = k.sem := rfl
@[simp] theorem Core.setQueueReg_swq (k : Core) (q : Nat) (v : QueueReg) : (k.setQueueReg q v).swq = k.swq := rfl
@[simp] theorem Core.setQueueReg_semw (k : Core) (q : Nat) (v : QueueReg) : (k.setQueueReg q v).semw = k.semw := rfl
@[simp] theorem Core.setQueueReg_bar (k : Core) (q : Nat) (v : QueueReg) : (k.setQueueReg q v).bar = k.bar := rfl
@[simp] theorem Core.setQueueReg_mb (k : Core) (q : Nat) (v : QueueReg) : (k.setQueueReg q v).mb = k.mb := rfl
@[simp] theorem Core.setQueueReg_mail (k : Core) (q : Nat) (v : QueueReg) : (k.setQueueReg q v).mail = k.mail := rfl
@[simp] theorem Core.setQueueReg_mbsTo (k : Core) (q : Nat) (v : QueueReg) : (k.setQueueReg q v).mbsTo = k.mbsTo := rfl
@[simp] theorem Core.setQueueReg_seq (k : Core) (q : Nat) (v : QueueReg) : (k.setQueueReg q v).seq = k.seq := rfl
@[simp] theorem Core.setQueueReg_flight (k : Core) (q : Nat) (v : QueueReg) : (k.setQueueReg q v).flight = k.flight := rfl
@[simp] theorem Core.setQueueReg_loads (k : Core) (q : Nat) (v : QueueReg) : (k.setQueueReg q v).loads = k.loads := rfl
@[simp] theorem Core.setQueueReg_stores (k : Core) (q : Nat) (v : QueueReg) : (k.setQueueReg q v).stores = k.stores := rfl
@[simp] theorem Core.setQueueReg_copies (k : Core) (q : Nat) (v : QueueReg) : (k.setQueueReg q v).copies = k.copies := rfl
@[simp] theorem Core.setQueueReg_charts (k : Core) (q : Nat) (v : QueueReg) : (k.setQueueReg q v).charts = k.charts := rfl
@[simp] theorem Core.setQueueReg_log (k : Core) (q : Nat) (v : QueueReg) : (k.setQueueReg q v).log = k.log := rfl
@[simp] theorem Core.setQueueReg_requests (k : Core) (q : Nat) (v : QueueReg) : (k.setQueueReg q v).requests = k.requests := rfl
@[simp] theorem Core.setQueueReg_widening (k : Core) (q : Nat) (v : QueueReg) : (k.setQueueReg q v).widening = k.widening := rfl
@[simp] theorem Core.setQueueReg_wideBound (k : Core) (q : Nat) (v : QueueReg) : (k.setQueueReg q v).wideBound = k.wideBound := rfl
@[simp] theorem Core.setQueueReg_dc (k : Core) (q : Nat) (v : QueueReg) : (k.setQueueReg q v).dc = k.dc := rfl
@[simp] theorem Core.setQueueReg_dcFrom (k : Core) (q : Nat) (v : QueueReg) : (k.setQueueReg q v).dcFrom = k.dcFrom := rfl
@[simp] theorem Core.setQueueReg_dcStores (k : Core) (q : Nat) (v : QueueReg) : (k.setQueueReg q v).dcStores = k.dcStores := rfl
@[simp] theorem Core.setQueueReg_tlb (k : Core) (q : Nat) (v : QueueReg) : (k.setQueueReg q v).tlb = k.tlb := rfl
@[simp] theorem Core.setQueueReg_hold (k : Core) (q : Nat) (v : QueueReg) : (k.setQueueReg q v).hold = k.hold := rfl
@[simp] theorem Core.setQueueReg_badHold (k : Core) (q : Nat) (v : QueueReg) : (k.setQueueReg q v).badHold = k.badHold := rfl
@[simp] theorem Core.setQueueReg_leaseGen (k : Core) (q : Nat) (v : QueueReg) : (k.setQueueReg q v).leaseGen = k.leaseGen := rfl
@[simp] theorem Core.setQueueReg_claimant (k : Core) (q : Nat) (v : QueueReg) : (k.setQueueReg q v).claimant = k.claimant := rfl
@[simp] theorem Core.setQueueReg_overrun (k : Core) (q : Nat) (v : QueueReg) : (k.setQueueReg q v).overrun = k.overrun := rfl
@[simp] theorem Core.setQueueReg_prefetches (k : Core) (q : Nat) (v : QueueReg) : (k.setQueueReg q v).prefetches = k.prefetches := rfl
@[simp] theorem Core.setQueueReg_berths (k : Core) (q : Nat) (v : QueueReg) : (k.setQueueReg q v).berths = k.berths := rfl
@[simp] theorem Core.setQueueReg_parked (k : Core) (q : Nat) (v : QueueReg) : (k.setQueueReg q v).parked = k.parked := rfl
@[simp] theorem Core.setQueueReg_holdTick (k : Core) (q : Nat) (v : QueueReg) : (k.setQueueReg q v).holdTick = k.holdTick := rfl
@[simp] theorem Core.setQueueReg_task (k : Core) (q : Nat) (v : QueueReg) : (k.setQueueReg q v).task = k.task := rfl
@[simp] theorem Core.setQueueReg_fwRun (k : Core) (q : Nat) (v : QueueReg) : (k.setQueueReg q v).fwRun = k.fwRun := rfl
@[simp] theorem Core.setQueueReg_idleTick (k : Core) (q : Nat) (v : QueueReg) : (k.setQueueReg q v).idleTick = k.idleTick := rfl
@[simp] theorem Core.setQueueReg_halted (k : Core) (q : Nat) (v : QueueReg) : (k.setQueueReg q v).halted = k.halted := rfl
@[simp] theorem Core.setQueueReg_loading (k : Core) (q : Nat) (v : QueueReg) : (k.setQueueReg q v).loading = k.loading := rfl
@[simp] theorem Core.setQueueReg_startFault (k : Core) (q : Nat) (v : QueueReg) : (k.setQueueReg q v).startFault = k.startFault := rfl
@[simp] theorem Core.setQueueReg_jcount (k : Core) (q : Nat) (v : QueueReg) : (k.setQueueReg q v).jcount = k.jcount := rfl
@[simp] theorem Core.setQueueReg_ltq (k : Core) (q : Nat) (v : QueueReg) : (k.setQueueReg q v).ltq = k.ltq := rfl
@[simp] theorem Core.setQueueReg_childSerial (k : Core) (q : Nat) (v : QueueReg) : (k.setQueueReg q v).childSerial = k.childSerial := rfl
@[simp] theorem Core.setQueueReg_launching (k : Core) (q : Nat) (v : QueueReg) : (k.setQueueReg q v).launching = k.launching := rfl
@[simp] theorem Core.setQueueReg_cbl (k : Core) (q : Nat) (v : QueueReg) : (k.setQueueReg q v).cbl = k.cbl := rfl
@[simp] theorem Core.setQueueReg_evl (k : Core) (q : Nat) (v : QueueReg) : (k.setQueueReg q v).evl = k.evl := rfl
@[simp] theorem Core.setQueueReg_yielded (k : Core) (q : Nat) (v : QueueReg) : (k.setQueueReg q v).yielded = k.yielded := rfl
@[simp] theorem Core.setQueueReg_ctxOps (k : Core) (q : Nat) (v : QueueReg) : (k.setQueueReg q v).ctxOps = k.ctxOps := rfl
@[simp] theorem Core.setQueueReg_held (k : Core) (q : Nat) (v : QueueReg) : (k.setQueueReg q v).held = k.held := rfl
@[simp] theorem Core.setQueueReg_tlbWait (k : Core) (q : Nat) (v : QueueReg) : (k.setQueueReg q v).tlbWait = k.tlbWait := rfl
@[simp] theorem Core.setQueueReg_inh (k : Core) (q : Nat) (v : QueueReg) : (k.setQueueReg q v).inh = k.inh := rfl
@[simp] theorem Core.setQueueReg_warnHeld (k : Core) (q : Nat) (v : QueueReg) : (k.setQueueReg q v).warnHeld = k.warnHeld := rfl
@[simp] theorem Core.setQueueReg_warnDue (k : Core) (q : Nat) (v : QueueReg) : (k.setQueueReg q v).warnDue = k.warnDue := rfl
@[simp] theorem Core.setQueueReg_frame (k : Core) (q : Nat) (v : QueueReg) : (k.setQueueReg q v).frame = k.frame := rfl
@[simp] theorem Core.setQueueReg_ptroot (k : Core) (q : Nat) (v : QueueReg) : (k.setQueueReg q v).ptroot = k.ptroot := rfl
@[simp] theorem Core.setQueueReg_tvec (k : Core) (q : Nat) (v : QueueReg) : (k.setQueueReg q v).tvec = k.tvec := rfl
@[simp] theorem Core.setQueueReg_ctxptr (k : Core) (q : Nat) (v : QueueReg) : (k.setQueueReg q v).ctxptr = k.ctxptr := rfl
@[simp] theorem Core.setQueueReg_lease (k : Core) (q : Nat) (v : QueueReg) : (k.setQueueReg q v).lease = k.lease := rfl
@[simp] theorem Core.setQueueReg_leaseGone (k : Core) (q : Nat) (v : QueueReg) : (k.setQueueReg q v).leaseGone = k.leaseGone := rfl
@[simp] theorem Core.setQueueReg_caps (k : Core) (q : Nat) (v : QueueReg) : (k.setQueueReg q v).caps = k.caps := rfl
@[simp] theorem Core.setQueueReg_ballast (k : Core) (q : Nat) (v : QueueReg) : (k.setQueueReg q v).ballast = k.ballast := rfl
@[simp] theorem Core.setQueueReg_waitLine (k : Core) (q : Nat) (v : QueueReg) : (k.setQueueReg q v).waitLine = k.waitLine := rfl
@[simp] theorem Core.setQueueReg_parentWait (k : Core) (q : Nat) (v : QueueReg) : (k.setQueueReg q v).parentWait = k.parentWait := rfl

/-! ### Core.setMailbox -/

@[simp] theorem Core.setMailbox_st (k : Core) (n : Nat) (m : Mailbox) : (k.setMailbox n m).st = k.st := rfl
@[simp] theorem Core.setMailbox_qmap (k : Core) (n : Nat) (m : Mailbox) : (k.setMailbox n m).qmap = k.qmap := rfl
@[simp] theorem Core.setMailbox_fifo (k : Core) (n : Nat) (m : Mailbox) : (k.setMailbox n m).fifo = k.fifo := rfl
@[simp] theorem Core.setMailbox_pushes (k : Core) (n : Nat) (m : Mailbox) : (k.setMailbox n m).pushes = k.pushes := rfl
@[simp] theorem Core.setMailbox_queues (k : Core) (n : Nat) (m : Mailbox) : (k.setMailbox n m).queues = k.queues := rfl
@[simp] theorem Core.setMailbox_hist (k : Core) (n : Nat) (m : Mailbox) : (k.setMailbox n m).hist = k.hist := rfl
@[simp] theorem Core.setMailbox_acc (k : Core) (n : Nat) (m : Mailbox) : (k.setMailbox n m).acc = k.acc := rfl
@[simp] theorem Core.setMailbox_pb0 (k : Core) (n : Nat) (m : Mailbox) : (k.setMailbox n m).pb0 = k.pb0 := rfl
@[simp] theorem Core.setMailbox_pb1 (k : Core) (n : Nat) (m : Mailbox) : (k.setMailbox n m).pb1 = k.pb1 := rfl
@[simp] theorem Core.setMailbox_pkind0 (k : Core) (n : Nat) (m : Mailbox) : (k.setMailbox n m).pkind0 = k.pkind0 := rfl
@[simp] theorem Core.setMailbox_pkind1 (k : Core) (n : Nat) (m : Mailbox) : (k.setMailbox n m).pkind1 = k.pkind1 := rfl
@[simp] theorem Core.setMailbox_pn0 (k : Core) (n : Nat) (m : Mailbox) : (k.setMailbox n m).pn0 = k.pn0 := rfl
@[simp] theorem Core.setMailbox_pn1 (k : Core) (n : Nat) (m : Mailbox) : (k.setMailbox n m).pn1 = k.pn1 := rfl
@[simp] theorem Core.setMailbox_ptag0 (k : Core) (n : Nat) (m : Mailbox) : (k.setMailbox n m).ptag0 = k.ptag0 := rfl
@[simp] theorem Core.setMailbox_ptag1 (k : Core) (n : Nat) (m : Mailbox) : (k.setMailbox n m).ptag1 = k.ptag1 := rfl
@[simp] theorem Core.setMailbox_sga (k : Core) (n : Nat) (m : Mailbox) : (k.setMailbox n m).sga = k.sga := rfl
@[simp] theorem Core.setMailbox_sgb (k : Core) (n : Nat) (m : Mailbox) : (k.setMailbox n m).sgb = k.sgb := rfl
@[simp] theorem Core.setMailbox_mflag (k : Core) (n : Nat) (m : Mailbox) : (k.setMailbox n m).mflag = k.mflag := rfl
@[simp] theorem Core.setMailbox_mbase (k : Core) (n : Nat) (m : Mailbox) : (k.setMailbox n m).mbase = k.mbase := rfl
@[simp] theorem Core.setMailbox_eparam (k : Core) (n : Nat) (m : Mailbox) : (k.setMailbox n m).eparam = k.eparam := rfl
@[simp] theorem Core.setMailbox_emask (k : Core) (n : Nat) (m : Mailbox) : (k.setMailbox n m).emask = k.emask := rfl
@[simp] theorem Core.setMailbox_eheap (k : Core) (n : Nat) (m : Mailbox) : (k.setMailbox n m).eheap = k.eheap := rfl
@[simp] theorem Core.setMailbox_ehist (k : Core) (n : Nat) (m : Mailbox) : (k.setMailbox n m).ehist = k.ehist := rfl
@[simp] theorem Core.setMailbox_arrayFree (k : Core) (n : Nat) (m : Mailbox) : (k.setMailbox n m).arrayFree = k.arrayFree := rfl
@[simp] theorem Core.setMailbox_scacFree (k : Core) (n : Nat) (m : Mailbox) : (k.setMailbox n m).scacFree = k.scacFree := rfl
@[simp] theorem Core.setMailbox_accFree (k : Core) (n : Nat) (m : Mailbox) : (k.setMailbox n m).accFree = k.accFree := rfl
@[simp] theorem Core.setMailbox_epiFree (k : Core) (n : Nat) (m : Mailbox) : (k.setMailbox n m).epiFree = k.epiFree := rfl
@[simp] theorem Core.setMailbox_vecFree (k : Core) (n : Nat) (m : Mailbox) : (k.setMailbox n m).vecFree = k.vecFree := rfl
@[simp] theorem Core.setMailbox_sem (k : Core) (n : Nat) (m : Mailbox) : (k.setMailbox n m).sem = k.sem := rfl
@[simp] theorem Core.setMailbox_swq (k : Core) (n : Nat) (m : Mailbox) : (k.setMailbox n m).swq = k.swq := rfl
@[simp] theorem Core.setMailbox_semw (k : Core) (n : Nat) (m : Mailbox) : (k.setMailbox n m).semw = k.semw := rfl
@[simp] theorem Core.setMailbox_bar (k : Core) (n : Nat) (m : Mailbox) : (k.setMailbox n m).bar = k.bar := rfl
@[simp] theorem Core.setMailbox_mail (k : Core) (n : Nat) (m : Mailbox) : (k.setMailbox n m).mail = k.mail := rfl
@[simp] theorem Core.setMailbox_mbsTo (k : Core) (n : Nat) (m : Mailbox) : (k.setMailbox n m).mbsTo = k.mbsTo := rfl
@[simp] theorem Core.setMailbox_seq (k : Core) (n : Nat) (m : Mailbox) : (k.setMailbox n m).seq = k.seq := rfl
@[simp] theorem Core.setMailbox_flight (k : Core) (n : Nat) (m : Mailbox) : (k.setMailbox n m).flight = k.flight := rfl
@[simp] theorem Core.setMailbox_loads (k : Core) (n : Nat) (m : Mailbox) : (k.setMailbox n m).loads = k.loads := rfl
@[simp] theorem Core.setMailbox_stores (k : Core) (n : Nat) (m : Mailbox) : (k.setMailbox n m).stores = k.stores := rfl
@[simp] theorem Core.setMailbox_copies (k : Core) (n : Nat) (m : Mailbox) : (k.setMailbox n m).copies = k.copies := rfl
@[simp] theorem Core.setMailbox_charts (k : Core) (n : Nat) (m : Mailbox) : (k.setMailbox n m).charts = k.charts := rfl
@[simp] theorem Core.setMailbox_log (k : Core) (n : Nat) (m : Mailbox) : (k.setMailbox n m).log = k.log := rfl
@[simp] theorem Core.setMailbox_requests (k : Core) (n : Nat) (m : Mailbox) : (k.setMailbox n m).requests = k.requests := rfl
@[simp] theorem Core.setMailbox_widening (k : Core) (n : Nat) (m : Mailbox) : (k.setMailbox n m).widening = k.widening := rfl
@[simp] theorem Core.setMailbox_wideBound (k : Core) (n : Nat) (m : Mailbox) : (k.setMailbox n m).wideBound = k.wideBound := rfl
@[simp] theorem Core.setMailbox_dc (k : Core) (n : Nat) (m : Mailbox) : (k.setMailbox n m).dc = k.dc := rfl
@[simp] theorem Core.setMailbox_dcFrom (k : Core) (n : Nat) (m : Mailbox) : (k.setMailbox n m).dcFrom = k.dcFrom := rfl
@[simp] theorem Core.setMailbox_dcStores (k : Core) (n : Nat) (m : Mailbox) : (k.setMailbox n m).dcStores = k.dcStores := rfl
@[simp] theorem Core.setMailbox_tlb (k : Core) (n : Nat) (m : Mailbox) : (k.setMailbox n m).tlb = k.tlb := rfl
@[simp] theorem Core.setMailbox_hold (k : Core) (n : Nat) (m : Mailbox) : (k.setMailbox n m).hold = k.hold := rfl
@[simp] theorem Core.setMailbox_badHold (k : Core) (n : Nat) (m : Mailbox) : (k.setMailbox n m).badHold = k.badHold := rfl
@[simp] theorem Core.setMailbox_leaseGen (k : Core) (n : Nat) (m : Mailbox) : (k.setMailbox n m).leaseGen = k.leaseGen := rfl
@[simp] theorem Core.setMailbox_claimant (k : Core) (n : Nat) (m : Mailbox) : (k.setMailbox n m).claimant = k.claimant := rfl
@[simp] theorem Core.setMailbox_overrun (k : Core) (n : Nat) (m : Mailbox) : (k.setMailbox n m).overrun = k.overrun := rfl
@[simp] theorem Core.setMailbox_prefetches (k : Core) (n : Nat) (m : Mailbox) : (k.setMailbox n m).prefetches = k.prefetches := rfl
@[simp] theorem Core.setMailbox_berths (k : Core) (n : Nat) (m : Mailbox) : (k.setMailbox n m).berths = k.berths := rfl
@[simp] theorem Core.setMailbox_parked (k : Core) (n : Nat) (m : Mailbox) : (k.setMailbox n m).parked = k.parked := rfl
@[simp] theorem Core.setMailbox_holdTick (k : Core) (n : Nat) (m : Mailbox) : (k.setMailbox n m).holdTick = k.holdTick := rfl
@[simp] theorem Core.setMailbox_task (k : Core) (n : Nat) (m : Mailbox) : (k.setMailbox n m).task = k.task := rfl
@[simp] theorem Core.setMailbox_fwRun (k : Core) (n : Nat) (m : Mailbox) : (k.setMailbox n m).fwRun = k.fwRun := rfl
@[simp] theorem Core.setMailbox_idleTick (k : Core) (n : Nat) (m : Mailbox) : (k.setMailbox n m).idleTick = k.idleTick := rfl
@[simp] theorem Core.setMailbox_halted (k : Core) (n : Nat) (m : Mailbox) : (k.setMailbox n m).halted = k.halted := rfl
@[simp] theorem Core.setMailbox_loading (k : Core) (n : Nat) (m : Mailbox) : (k.setMailbox n m).loading = k.loading := rfl
@[simp] theorem Core.setMailbox_startFault (k : Core) (n : Nat) (m : Mailbox) : (k.setMailbox n m).startFault = k.startFault := rfl
@[simp] theorem Core.setMailbox_jcount (k : Core) (n : Nat) (m : Mailbox) : (k.setMailbox n m).jcount = k.jcount := rfl
@[simp] theorem Core.setMailbox_ltq (k : Core) (n : Nat) (m : Mailbox) : (k.setMailbox n m).ltq = k.ltq := rfl
@[simp] theorem Core.setMailbox_childSerial (k : Core) (n : Nat) (m : Mailbox) : (k.setMailbox n m).childSerial = k.childSerial := rfl
@[simp] theorem Core.setMailbox_launching (k : Core) (n : Nat) (m : Mailbox) : (k.setMailbox n m).launching = k.launching := rfl
@[simp] theorem Core.setMailbox_cbl (k : Core) (n : Nat) (m : Mailbox) : (k.setMailbox n m).cbl = k.cbl := rfl
@[simp] theorem Core.setMailbox_evl (k : Core) (n : Nat) (m : Mailbox) : (k.setMailbox n m).evl = k.evl := rfl
@[simp] theorem Core.setMailbox_yielded (k : Core) (n : Nat) (m : Mailbox) : (k.setMailbox n m).yielded = k.yielded := rfl
@[simp] theorem Core.setMailbox_ctxOps (k : Core) (n : Nat) (m : Mailbox) : (k.setMailbox n m).ctxOps = k.ctxOps := rfl
@[simp] theorem Core.setMailbox_held (k : Core) (n : Nat) (m : Mailbox) : (k.setMailbox n m).held = k.held := rfl
@[simp] theorem Core.setMailbox_tlbWait (k : Core) (n : Nat) (m : Mailbox) : (k.setMailbox n m).tlbWait = k.tlbWait := rfl
@[simp] theorem Core.setMailbox_inh (k : Core) (n : Nat) (m : Mailbox) : (k.setMailbox n m).inh = k.inh := rfl
@[simp] theorem Core.setMailbox_warnHeld (k : Core) (n : Nat) (m : Mailbox) : (k.setMailbox n m).warnHeld = k.warnHeld := rfl
@[simp] theorem Core.setMailbox_warnDue (k : Core) (n : Nat) (m : Mailbox) : (k.setMailbox n m).warnDue = k.warnDue := rfl
@[simp] theorem Core.setMailbox_frame (k : Core) (n : Nat) (m : Mailbox) : (k.setMailbox n m).frame = k.frame := rfl
@[simp] theorem Core.setMailbox_ptroot (k : Core) (n : Nat) (m : Mailbox) : (k.setMailbox n m).ptroot = k.ptroot := rfl
@[simp] theorem Core.setMailbox_tvec (k : Core) (n : Nat) (m : Mailbox) : (k.setMailbox n m).tvec = k.tvec := rfl
@[simp] theorem Core.setMailbox_ctxptr (k : Core) (n : Nat) (m : Mailbox) : (k.setMailbox n m).ctxptr = k.ctxptr := rfl
@[simp] theorem Core.setMailbox_lease (k : Core) (n : Nat) (m : Mailbox) : (k.setMailbox n m).lease = k.lease := rfl
@[simp] theorem Core.setMailbox_leaseGone (k : Core) (n : Nat) (m : Mailbox) : (k.setMailbox n m).leaseGone = k.leaseGone := rfl
@[simp] theorem Core.setMailbox_caps (k : Core) (n : Nat) (m : Mailbox) : (k.setMailbox n m).caps = k.caps := rfl
@[simp] theorem Core.setMailbox_ballast (k : Core) (n : Nat) (m : Mailbox) : (k.setMailbox n m).ballast = k.ballast := rfl
@[simp] theorem Core.setMailbox_waitLine (k : Core) (n : Nat) (m : Mailbox) : (k.setMailbox n m).waitLine = k.waitLine := rfl
@[simp] theorem Core.setMailbox_parentWait (k : Core) (n : Nat) (m : Mailbox) : (k.setMailbox n m).parentWait = k.parentWait := rfl

/-! ### Core.setFifo -/

@[simp] theorem Core.setFifo_st (k : Core) (a b : Stream) (n : Nat) : (k.setFifo a b n).st = k.st := rfl
@[simp] theorem Core.setFifo_qmap (k : Core) (a b : Stream) (n : Nat) : (k.setFifo a b n).qmap = k.qmap := rfl
@[simp] theorem Core.setFifo_pushes (k : Core) (a b : Stream) (n : Nat) : (k.setFifo a b n).pushes = k.pushes := rfl
@[simp] theorem Core.setFifo_queues (k : Core) (a b : Stream) (n : Nat) : (k.setFifo a b n).queues = k.queues := rfl
@[simp] theorem Core.setFifo_hist (k : Core) (a b : Stream) (n : Nat) : (k.setFifo a b n).hist = k.hist := rfl
@[simp] theorem Core.setFifo_acc (k : Core) (a b : Stream) (n : Nat) : (k.setFifo a b n).acc = k.acc := rfl
@[simp] theorem Core.setFifo_pb0 (k : Core) (a b : Stream) (n : Nat) : (k.setFifo a b n).pb0 = k.pb0 := rfl
@[simp] theorem Core.setFifo_pb1 (k : Core) (a b : Stream) (n : Nat) : (k.setFifo a b n).pb1 = k.pb1 := rfl
@[simp] theorem Core.setFifo_pkind0 (k : Core) (a b : Stream) (n : Nat) : (k.setFifo a b n).pkind0 = k.pkind0 := rfl
@[simp] theorem Core.setFifo_pkind1 (k : Core) (a b : Stream) (n : Nat) : (k.setFifo a b n).pkind1 = k.pkind1 := rfl
@[simp] theorem Core.setFifo_pn0 (k : Core) (a b : Stream) (n : Nat) : (k.setFifo a b n).pn0 = k.pn0 := rfl
@[simp] theorem Core.setFifo_pn1 (k : Core) (a b : Stream) (n : Nat) : (k.setFifo a b n).pn1 = k.pn1 := rfl
@[simp] theorem Core.setFifo_ptag0 (k : Core) (a b : Stream) (n : Nat) : (k.setFifo a b n).ptag0 = k.ptag0 := rfl
@[simp] theorem Core.setFifo_ptag1 (k : Core) (a b : Stream) (n : Nat) : (k.setFifo a b n).ptag1 = k.ptag1 := rfl
@[simp] theorem Core.setFifo_sga (k : Core) (a b : Stream) (n : Nat) : (k.setFifo a b n).sga = k.sga := rfl
@[simp] theorem Core.setFifo_sgb (k : Core) (a b : Stream) (n : Nat) : (k.setFifo a b n).sgb = k.sgb := rfl
@[simp] theorem Core.setFifo_mflag (k : Core) (a b : Stream) (n : Nat) : (k.setFifo a b n).mflag = k.mflag := rfl
@[simp] theorem Core.setFifo_mbase (k : Core) (a b : Stream) (n : Nat) : (k.setFifo a b n).mbase = k.mbase := rfl
@[simp] theorem Core.setFifo_eparam (k : Core) (a b : Stream) (n : Nat) : (k.setFifo a b n).eparam = k.eparam := rfl
@[simp] theorem Core.setFifo_emask (k : Core) (a b : Stream) (n : Nat) : (k.setFifo a b n).emask = k.emask := rfl
@[simp] theorem Core.setFifo_eheap (k : Core) (a b : Stream) (n : Nat) : (k.setFifo a b n).eheap = k.eheap := rfl
@[simp] theorem Core.setFifo_ehist (k : Core) (a b : Stream) (n : Nat) : (k.setFifo a b n).ehist = k.ehist := rfl
@[simp] theorem Core.setFifo_arrayFree (k : Core) (a b : Stream) (n : Nat) : (k.setFifo a b n).arrayFree = k.arrayFree := rfl
@[simp] theorem Core.setFifo_scacFree (k : Core) (a b : Stream) (n : Nat) : (k.setFifo a b n).scacFree = k.scacFree := rfl
@[simp] theorem Core.setFifo_accFree (k : Core) (a b : Stream) (n : Nat) : (k.setFifo a b n).accFree = k.accFree := rfl
@[simp] theorem Core.setFifo_epiFree (k : Core) (a b : Stream) (n : Nat) : (k.setFifo a b n).epiFree = k.epiFree := rfl
@[simp] theorem Core.setFifo_vecFree (k : Core) (a b : Stream) (n : Nat) : (k.setFifo a b n).vecFree = k.vecFree := rfl
@[simp] theorem Core.setFifo_sem (k : Core) (a b : Stream) (n : Nat) : (k.setFifo a b n).sem = k.sem := rfl
@[simp] theorem Core.setFifo_swq (k : Core) (a b : Stream) (n : Nat) : (k.setFifo a b n).swq = k.swq := rfl
@[simp] theorem Core.setFifo_semw (k : Core) (a b : Stream) (n : Nat) : (k.setFifo a b n).semw = k.semw := rfl
@[simp] theorem Core.setFifo_bar (k : Core) (a b : Stream) (n : Nat) : (k.setFifo a b n).bar = k.bar := rfl
@[simp] theorem Core.setFifo_mb (k : Core) (a b : Stream) (n : Nat) : (k.setFifo a b n).mb = k.mb := rfl
@[simp] theorem Core.setFifo_mail (k : Core) (a b : Stream) (n : Nat) : (k.setFifo a b n).mail = k.mail := rfl
@[simp] theorem Core.setFifo_mbsTo (k : Core) (a b : Stream) (n : Nat) : (k.setFifo a b n).mbsTo = k.mbsTo := rfl
@[simp] theorem Core.setFifo_seq (k : Core) (a b : Stream) (n : Nat) : (k.setFifo a b n).seq = k.seq := rfl
@[simp] theorem Core.setFifo_flight (k : Core) (a b : Stream) (n : Nat) : (k.setFifo a b n).flight = k.flight := rfl
@[simp] theorem Core.setFifo_loads (k : Core) (a b : Stream) (n : Nat) : (k.setFifo a b n).loads = k.loads := rfl
@[simp] theorem Core.setFifo_stores (k : Core) (a b : Stream) (n : Nat) : (k.setFifo a b n).stores = k.stores := rfl
@[simp] theorem Core.setFifo_copies (k : Core) (a b : Stream) (n : Nat) : (k.setFifo a b n).copies = k.copies := rfl
@[simp] theorem Core.setFifo_charts (k : Core) (a b : Stream) (n : Nat) : (k.setFifo a b n).charts = k.charts := rfl
@[simp] theorem Core.setFifo_log (k : Core) (a b : Stream) (n : Nat) : (k.setFifo a b n).log = k.log := rfl
@[simp] theorem Core.setFifo_requests (k : Core) (a b : Stream) (n : Nat) : (k.setFifo a b n).requests = k.requests := rfl
@[simp] theorem Core.setFifo_widening (k : Core) (a b : Stream) (n : Nat) : (k.setFifo a b n).widening = k.widening := rfl
@[simp] theorem Core.setFifo_wideBound (k : Core) (a b : Stream) (n : Nat) : (k.setFifo a b n).wideBound = k.wideBound := rfl
@[simp] theorem Core.setFifo_dc (k : Core) (a b : Stream) (n : Nat) : (k.setFifo a b n).dc = k.dc := rfl
@[simp] theorem Core.setFifo_dcFrom (k : Core) (a b : Stream) (n : Nat) : (k.setFifo a b n).dcFrom = k.dcFrom := rfl
@[simp] theorem Core.setFifo_dcStores (k : Core) (a b : Stream) (n : Nat) : (k.setFifo a b n).dcStores = k.dcStores := rfl
@[simp] theorem Core.setFifo_tlb (k : Core) (a b : Stream) (n : Nat) : (k.setFifo a b n).tlb = k.tlb := rfl
@[simp] theorem Core.setFifo_hold (k : Core) (a b : Stream) (n : Nat) : (k.setFifo a b n).hold = k.hold := rfl
@[simp] theorem Core.setFifo_badHold (k : Core) (a b : Stream) (n : Nat) : (k.setFifo a b n).badHold = k.badHold := rfl
@[simp] theorem Core.setFifo_leaseGen (k : Core) (a b : Stream) (n : Nat) : (k.setFifo a b n).leaseGen = k.leaseGen := rfl
@[simp] theorem Core.setFifo_claimant (k : Core) (a b : Stream) (n : Nat) : (k.setFifo a b n).claimant = k.claimant := rfl
@[simp] theorem Core.setFifo_overrun (k : Core) (a b : Stream) (n : Nat) : (k.setFifo a b n).overrun = k.overrun := rfl
@[simp] theorem Core.setFifo_prefetches (k : Core) (a b : Stream) (n : Nat) : (k.setFifo a b n).prefetches = k.prefetches := rfl
@[simp] theorem Core.setFifo_berths (k : Core) (a b : Stream) (n : Nat) : (k.setFifo a b n).berths = k.berths := rfl
@[simp] theorem Core.setFifo_parked (k : Core) (a b : Stream) (n : Nat) : (k.setFifo a b n).parked = k.parked := rfl
@[simp] theorem Core.setFifo_holdTick (k : Core) (a b : Stream) (n : Nat) : (k.setFifo a b n).holdTick = k.holdTick := rfl
@[simp] theorem Core.setFifo_task (k : Core) (a b : Stream) (n : Nat) : (k.setFifo a b n).task = k.task := rfl
@[simp] theorem Core.setFifo_fwRun (k : Core) (a b : Stream) (n : Nat) : (k.setFifo a b n).fwRun = k.fwRun := rfl
@[simp] theorem Core.setFifo_idleTick (k : Core) (a b : Stream) (n : Nat) : (k.setFifo a b n).idleTick = k.idleTick := rfl
@[simp] theorem Core.setFifo_halted (k : Core) (a b : Stream) (n : Nat) : (k.setFifo a b n).halted = k.halted := rfl
@[simp] theorem Core.setFifo_loading (k : Core) (a b : Stream) (n : Nat) : (k.setFifo a b n).loading = k.loading := rfl
@[simp] theorem Core.setFifo_startFault (k : Core) (a b : Stream) (n : Nat) : (k.setFifo a b n).startFault = k.startFault := rfl
@[simp] theorem Core.setFifo_jcount (k : Core) (a b : Stream) (n : Nat) : (k.setFifo a b n).jcount = k.jcount := rfl
@[simp] theorem Core.setFifo_ltq (k : Core) (a b : Stream) (n : Nat) : (k.setFifo a b n).ltq = k.ltq := rfl
@[simp] theorem Core.setFifo_childSerial (k : Core) (a b : Stream) (n : Nat) : (k.setFifo a b n).childSerial = k.childSerial := rfl
@[simp] theorem Core.setFifo_launching (k : Core) (a b : Stream) (n : Nat) : (k.setFifo a b n).launching = k.launching := rfl
@[simp] theorem Core.setFifo_cbl (k : Core) (a b : Stream) (n : Nat) : (k.setFifo a b n).cbl = k.cbl := rfl
@[simp] theorem Core.setFifo_evl (k : Core) (a b : Stream) (n : Nat) : (k.setFifo a b n).evl = k.evl := rfl
@[simp] theorem Core.setFifo_yielded (k : Core) (a b : Stream) (n : Nat) : (k.setFifo a b n).yielded = k.yielded := rfl
@[simp] theorem Core.setFifo_ctxOps (k : Core) (a b : Stream) (n : Nat) : (k.setFifo a b n).ctxOps = k.ctxOps := rfl
@[simp] theorem Core.setFifo_held (k : Core) (a b : Stream) (n : Nat) : (k.setFifo a b n).held = k.held := rfl
@[simp] theorem Core.setFifo_tlbWait (k : Core) (a b : Stream) (n : Nat) : (k.setFifo a b n).tlbWait = k.tlbWait := rfl
@[simp] theorem Core.setFifo_inh (k : Core) (a b : Stream) (n : Nat) : (k.setFifo a b n).inh = k.inh := rfl
@[simp] theorem Core.setFifo_warnHeld (k : Core) (a b : Stream) (n : Nat) : (k.setFifo a b n).warnHeld = k.warnHeld := rfl
@[simp] theorem Core.setFifo_warnDue (k : Core) (a b : Stream) (n : Nat) : (k.setFifo a b n).warnDue = k.warnDue := rfl
@[simp] theorem Core.setFifo_frame (k : Core) (a b : Stream) (n : Nat) : (k.setFifo a b n).frame = k.frame := rfl
@[simp] theorem Core.setFifo_ptroot (k : Core) (a b : Stream) (n : Nat) : (k.setFifo a b n).ptroot = k.ptroot := rfl
@[simp] theorem Core.setFifo_tvec (k : Core) (a b : Stream) (n : Nat) : (k.setFifo a b n).tvec = k.tvec := rfl
@[simp] theorem Core.setFifo_ctxptr (k : Core) (a b : Stream) (n : Nat) : (k.setFifo a b n).ctxptr = k.ctxptr := rfl
@[simp] theorem Core.setFifo_lease (k : Core) (a b : Stream) (n : Nat) : (k.setFifo a b n).lease = k.lease := rfl
@[simp] theorem Core.setFifo_leaseGone (k : Core) (a b : Stream) (n : Nat) : (k.setFifo a b n).leaseGone = k.leaseGone := rfl
@[simp] theorem Core.setFifo_caps (k : Core) (a b : Stream) (n : Nat) : (k.setFifo a b n).caps = k.caps := rfl
@[simp] theorem Core.setFifo_ballast (k : Core) (a b : Stream) (n : Nat) : (k.setFifo a b n).ballast = k.ballast := rfl
@[simp] theorem Core.setFifo_waitLine (k : Core) (a b : Stream) (n : Nat) : (k.setFifo a b n).waitLine = k.waitLine := rfl
@[simp] theorem Core.setFifo_parentWait (k : Core) (a b : Stream) (n : Nat) : (k.setFifo a b n).parentWait = k.parentWait := rfl

/-! ### Core.setAcc -/

@[simp] theorem Core.setAcc_st (k : Core) (n : Nat) (v : Tbl (BitVec 32)) : (k.setAcc n v).st = k.st := rfl
@[simp] theorem Core.setAcc_qmap (k : Core) (n : Nat) (v : Tbl (BitVec 32)) : (k.setAcc n v).qmap = k.qmap := rfl
@[simp] theorem Core.setAcc_fifo (k : Core) (n : Nat) (v : Tbl (BitVec 32)) : (k.setAcc n v).fifo = k.fifo := rfl
@[simp] theorem Core.setAcc_pushes (k : Core) (n : Nat) (v : Tbl (BitVec 32)) : (k.setAcc n v).pushes = k.pushes := rfl
@[simp] theorem Core.setAcc_queues (k : Core) (n : Nat) (v : Tbl (BitVec 32)) : (k.setAcc n v).queues = k.queues := rfl
@[simp] theorem Core.setAcc_hist (k : Core) (n : Nat) (v : Tbl (BitVec 32)) : (k.setAcc n v).hist = k.hist := rfl
@[simp] theorem Core.setAcc_pb0 (k : Core) (n : Nat) (v : Tbl (BitVec 32)) : (k.setAcc n v).pb0 = k.pb0 := rfl
@[simp] theorem Core.setAcc_pb1 (k : Core) (n : Nat) (v : Tbl (BitVec 32)) : (k.setAcc n v).pb1 = k.pb1 := rfl
@[simp] theorem Core.setAcc_pkind0 (k : Core) (n : Nat) (v : Tbl (BitVec 32)) : (k.setAcc n v).pkind0 = k.pkind0 := rfl
@[simp] theorem Core.setAcc_pkind1 (k : Core) (n : Nat) (v : Tbl (BitVec 32)) : (k.setAcc n v).pkind1 = k.pkind1 := rfl
@[simp] theorem Core.setAcc_pn0 (k : Core) (n : Nat) (v : Tbl (BitVec 32)) : (k.setAcc n v).pn0 = k.pn0 := rfl
@[simp] theorem Core.setAcc_pn1 (k : Core) (n : Nat) (v : Tbl (BitVec 32)) : (k.setAcc n v).pn1 = k.pn1 := rfl
@[simp] theorem Core.setAcc_ptag0 (k : Core) (n : Nat) (v : Tbl (BitVec 32)) : (k.setAcc n v).ptag0 = k.ptag0 := rfl
@[simp] theorem Core.setAcc_ptag1 (k : Core) (n : Nat) (v : Tbl (BitVec 32)) : (k.setAcc n v).ptag1 = k.ptag1 := rfl
@[simp] theorem Core.setAcc_sga (k : Core) (n : Nat) (v : Tbl (BitVec 32)) : (k.setAcc n v).sga = k.sga := rfl
@[simp] theorem Core.setAcc_sgb (k : Core) (n : Nat) (v : Tbl (BitVec 32)) : (k.setAcc n v).sgb = k.sgb := rfl
@[simp] theorem Core.setAcc_mflag (k : Core) (n : Nat) (v : Tbl (BitVec 32)) : (k.setAcc n v).mflag = k.mflag := rfl
@[simp] theorem Core.setAcc_mbase (k : Core) (n : Nat) (v : Tbl (BitVec 32)) : (k.setAcc n v).mbase = k.mbase := rfl
@[simp] theorem Core.setAcc_eparam (k : Core) (n : Nat) (v : Tbl (BitVec 32)) : (k.setAcc n v).eparam = k.eparam := rfl
@[simp] theorem Core.setAcc_emask (k : Core) (n : Nat) (v : Tbl (BitVec 32)) : (k.setAcc n v).emask = k.emask := rfl
@[simp] theorem Core.setAcc_eheap (k : Core) (n : Nat) (v : Tbl (BitVec 32)) : (k.setAcc n v).eheap = k.eheap := rfl
@[simp] theorem Core.setAcc_ehist (k : Core) (n : Nat) (v : Tbl (BitVec 32)) : (k.setAcc n v).ehist = k.ehist := rfl
@[simp] theorem Core.setAcc_arrayFree (k : Core) (n : Nat) (v : Tbl (BitVec 32)) : (k.setAcc n v).arrayFree = k.arrayFree := rfl
@[simp] theorem Core.setAcc_scacFree (k : Core) (n : Nat) (v : Tbl (BitVec 32)) : (k.setAcc n v).scacFree = k.scacFree := rfl
@[simp] theorem Core.setAcc_accFree (k : Core) (n : Nat) (v : Tbl (BitVec 32)) : (k.setAcc n v).accFree = k.accFree := rfl
@[simp] theorem Core.setAcc_epiFree (k : Core) (n : Nat) (v : Tbl (BitVec 32)) : (k.setAcc n v).epiFree = k.epiFree := rfl
@[simp] theorem Core.setAcc_vecFree (k : Core) (n : Nat) (v : Tbl (BitVec 32)) : (k.setAcc n v).vecFree = k.vecFree := rfl
@[simp] theorem Core.setAcc_sem (k : Core) (n : Nat) (v : Tbl (BitVec 32)) : (k.setAcc n v).sem = k.sem := rfl
@[simp] theorem Core.setAcc_swq (k : Core) (n : Nat) (v : Tbl (BitVec 32)) : (k.setAcc n v).swq = k.swq := rfl
@[simp] theorem Core.setAcc_semw (k : Core) (n : Nat) (v : Tbl (BitVec 32)) : (k.setAcc n v).semw = k.semw := rfl
@[simp] theorem Core.setAcc_bar (k : Core) (n : Nat) (v : Tbl (BitVec 32)) : (k.setAcc n v).bar = k.bar := rfl
@[simp] theorem Core.setAcc_mb (k : Core) (n : Nat) (v : Tbl (BitVec 32)) : (k.setAcc n v).mb = k.mb := rfl
@[simp] theorem Core.setAcc_mail (k : Core) (n : Nat) (v : Tbl (BitVec 32)) : (k.setAcc n v).mail = k.mail := rfl
@[simp] theorem Core.setAcc_mbsTo (k : Core) (n : Nat) (v : Tbl (BitVec 32)) : (k.setAcc n v).mbsTo = k.mbsTo := rfl
@[simp] theorem Core.setAcc_seq (k : Core) (n : Nat) (v : Tbl (BitVec 32)) : (k.setAcc n v).seq = k.seq := rfl
@[simp] theorem Core.setAcc_flight (k : Core) (n : Nat) (v : Tbl (BitVec 32)) : (k.setAcc n v).flight = k.flight := rfl
@[simp] theorem Core.setAcc_loads (k : Core) (n : Nat) (v : Tbl (BitVec 32)) : (k.setAcc n v).loads = k.loads := rfl
@[simp] theorem Core.setAcc_stores (k : Core) (n : Nat) (v : Tbl (BitVec 32)) : (k.setAcc n v).stores = k.stores := rfl
@[simp] theorem Core.setAcc_copies (k : Core) (n : Nat) (v : Tbl (BitVec 32)) : (k.setAcc n v).copies = k.copies := rfl
@[simp] theorem Core.setAcc_charts (k : Core) (n : Nat) (v : Tbl (BitVec 32)) : (k.setAcc n v).charts = k.charts := rfl
@[simp] theorem Core.setAcc_log (k : Core) (n : Nat) (v : Tbl (BitVec 32)) : (k.setAcc n v).log = k.log := rfl
@[simp] theorem Core.setAcc_requests (k : Core) (n : Nat) (v : Tbl (BitVec 32)) : (k.setAcc n v).requests = k.requests := rfl
@[simp] theorem Core.setAcc_widening (k : Core) (n : Nat) (v : Tbl (BitVec 32)) : (k.setAcc n v).widening = k.widening := rfl
@[simp] theorem Core.setAcc_wideBound (k : Core) (n : Nat) (v : Tbl (BitVec 32)) : (k.setAcc n v).wideBound = k.wideBound := rfl
@[simp] theorem Core.setAcc_dc (k : Core) (n : Nat) (v : Tbl (BitVec 32)) : (k.setAcc n v).dc = k.dc := rfl
@[simp] theorem Core.setAcc_dcFrom (k : Core) (n : Nat) (v : Tbl (BitVec 32)) : (k.setAcc n v).dcFrom = k.dcFrom := rfl
@[simp] theorem Core.setAcc_dcStores (k : Core) (n : Nat) (v : Tbl (BitVec 32)) : (k.setAcc n v).dcStores = k.dcStores := rfl
@[simp] theorem Core.setAcc_tlb (k : Core) (n : Nat) (v : Tbl (BitVec 32)) : (k.setAcc n v).tlb = k.tlb := rfl
@[simp] theorem Core.setAcc_hold (k : Core) (n : Nat) (v : Tbl (BitVec 32)) : (k.setAcc n v).hold = k.hold := rfl
@[simp] theorem Core.setAcc_badHold (k : Core) (n : Nat) (v : Tbl (BitVec 32)) : (k.setAcc n v).badHold = k.badHold := rfl
@[simp] theorem Core.setAcc_leaseGen (k : Core) (n : Nat) (v : Tbl (BitVec 32)) : (k.setAcc n v).leaseGen = k.leaseGen := rfl
@[simp] theorem Core.setAcc_claimant (k : Core) (n : Nat) (v : Tbl (BitVec 32)) : (k.setAcc n v).claimant = k.claimant := rfl
@[simp] theorem Core.setAcc_overrun (k : Core) (n : Nat) (v : Tbl (BitVec 32)) : (k.setAcc n v).overrun = k.overrun := rfl
@[simp] theorem Core.setAcc_prefetches (k : Core) (n : Nat) (v : Tbl (BitVec 32)) : (k.setAcc n v).prefetches = k.prefetches := rfl
@[simp] theorem Core.setAcc_berths (k : Core) (n : Nat) (v : Tbl (BitVec 32)) : (k.setAcc n v).berths = k.berths := rfl
@[simp] theorem Core.setAcc_parked (k : Core) (n : Nat) (v : Tbl (BitVec 32)) : (k.setAcc n v).parked = k.parked := rfl
@[simp] theorem Core.setAcc_holdTick (k : Core) (n : Nat) (v : Tbl (BitVec 32)) : (k.setAcc n v).holdTick = k.holdTick := rfl
@[simp] theorem Core.setAcc_task (k : Core) (n : Nat) (v : Tbl (BitVec 32)) : (k.setAcc n v).task = k.task := rfl
@[simp] theorem Core.setAcc_fwRun (k : Core) (n : Nat) (v : Tbl (BitVec 32)) : (k.setAcc n v).fwRun = k.fwRun := rfl
@[simp] theorem Core.setAcc_idleTick (k : Core) (n : Nat) (v : Tbl (BitVec 32)) : (k.setAcc n v).idleTick = k.idleTick := rfl
@[simp] theorem Core.setAcc_halted (k : Core) (n : Nat) (v : Tbl (BitVec 32)) : (k.setAcc n v).halted = k.halted := rfl
@[simp] theorem Core.setAcc_loading (k : Core) (n : Nat) (v : Tbl (BitVec 32)) : (k.setAcc n v).loading = k.loading := rfl
@[simp] theorem Core.setAcc_startFault (k : Core) (n : Nat) (v : Tbl (BitVec 32)) : (k.setAcc n v).startFault = k.startFault := rfl
@[simp] theorem Core.setAcc_jcount (k : Core) (n : Nat) (v : Tbl (BitVec 32)) : (k.setAcc n v).jcount = k.jcount := rfl
@[simp] theorem Core.setAcc_ltq (k : Core) (n : Nat) (v : Tbl (BitVec 32)) : (k.setAcc n v).ltq = k.ltq := rfl
@[simp] theorem Core.setAcc_childSerial (k : Core) (n : Nat) (v : Tbl (BitVec 32)) : (k.setAcc n v).childSerial = k.childSerial := rfl
@[simp] theorem Core.setAcc_launching (k : Core) (n : Nat) (v : Tbl (BitVec 32)) : (k.setAcc n v).launching = k.launching := rfl
@[simp] theorem Core.setAcc_cbl (k : Core) (n : Nat) (v : Tbl (BitVec 32)) : (k.setAcc n v).cbl = k.cbl := rfl
@[simp] theorem Core.setAcc_evl (k : Core) (n : Nat) (v : Tbl (BitVec 32)) : (k.setAcc n v).evl = k.evl := rfl
@[simp] theorem Core.setAcc_yielded (k : Core) (n : Nat) (v : Tbl (BitVec 32)) : (k.setAcc n v).yielded = k.yielded := rfl
@[simp] theorem Core.setAcc_ctxOps (k : Core) (n : Nat) (v : Tbl (BitVec 32)) : (k.setAcc n v).ctxOps = k.ctxOps := rfl
@[simp] theorem Core.setAcc_held (k : Core) (n : Nat) (v : Tbl (BitVec 32)) : (k.setAcc n v).held = k.held := rfl
@[simp] theorem Core.setAcc_tlbWait (k : Core) (n : Nat) (v : Tbl (BitVec 32)) : (k.setAcc n v).tlbWait = k.tlbWait := rfl
@[simp] theorem Core.setAcc_inh (k : Core) (n : Nat) (v : Tbl (BitVec 32)) : (k.setAcc n v).inh = k.inh := rfl
@[simp] theorem Core.setAcc_warnHeld (k : Core) (n : Nat) (v : Tbl (BitVec 32)) : (k.setAcc n v).warnHeld = k.warnHeld := rfl
@[simp] theorem Core.setAcc_warnDue (k : Core) (n : Nat) (v : Tbl (BitVec 32)) : (k.setAcc n v).warnDue = k.warnDue := rfl
@[simp] theorem Core.setAcc_frame (k : Core) (n : Nat) (v : Tbl (BitVec 32)) : (k.setAcc n v).frame = k.frame := rfl
@[simp] theorem Core.setAcc_ptroot (k : Core) (n : Nat) (v : Tbl (BitVec 32)) : (k.setAcc n v).ptroot = k.ptroot := rfl
@[simp] theorem Core.setAcc_tvec (k : Core) (n : Nat) (v : Tbl (BitVec 32)) : (k.setAcc n v).tvec = k.tvec := rfl
@[simp] theorem Core.setAcc_ctxptr (k : Core) (n : Nat) (v : Tbl (BitVec 32)) : (k.setAcc n v).ctxptr = k.ctxptr := rfl
@[simp] theorem Core.setAcc_lease (k : Core) (n : Nat) (v : Tbl (BitVec 32)) : (k.setAcc n v).lease = k.lease := rfl
@[simp] theorem Core.setAcc_leaseGone (k : Core) (n : Nat) (v : Tbl (BitVec 32)) : (k.setAcc n v).leaseGone = k.leaseGone := rfl
@[simp] theorem Core.setAcc_caps (k : Core) (n : Nat) (v : Tbl (BitVec 32)) : (k.setAcc n v).caps = k.caps := rfl
@[simp] theorem Core.setAcc_ballast (k : Core) (n : Nat) (v : Tbl (BitVec 32)) : (k.setAcc n v).ballast = k.ballast := rfl
@[simp] theorem Core.setAcc_waitLine (k : Core) (n : Nat) (v : Tbl (BitVec 32)) : (k.setAcc n v).waitLine = k.waitLine := rfl
@[simp] theorem Core.setAcc_parentWait (k : Core) (n : Nat) (v : Tbl (BitVec 32)) : (k.setAcc n v).parentWait = k.parentWait := rfl

/-! ### What was written is read back, and nothing else changes -/

@[simp] theorem State.core_setCore (s : State) (c : Nat) (k : Core) : (s.setCore c k).core c = k :=
  Tbl.get_set_same _ _ _ _

theorem State.core_setCore_other (s : State) {c d : Nat} (k : Core) (h : d ≠ c) :
    (s.setCore c k).core d = s.core d := Tbl.get_set_other _ _ _ h

theorem State.core_setCore_if (s : State) (c d : Nat) (k : Core) :
    (s.setCore c k).core d = if d = c then k else s.core d := Tbl.get_set _ _ _ _ _

@[simp] theorem State.core_modCore (s : State) (c : Nat) (g : Core → Core) :
    (s.modCore c g).core c = g (s.core c) := by simp [State.modCore]

theorem State.core_modCore_other (s : State) {c d : Nat} (g : Core → Core) (h : d ≠ c) :
    (s.modCore c g).core d = s.core d := State.core_setCore_other s _ h

theorem State.core_modCore_if (s : State) (c d : Nat) (g : Core → Core) :
    (s.modCore c g).core d = if d = c then g (s.core c) else s.core d := State.core_setCore_if s c d _

@[simp] theorem Four.get_set_same {α : Type} (f : Four α) (st : Stream) (v : α) :
    (f.set st v).get st = v := by cases st <;> rfl

theorem Four.get_set_other {α : Type} (f : Four α) {a b : Stream} (v : α) (h : b ≠ a) :
    (f.set a v).get b = f.get b := by cases a <;> cases b <;> first | rfl | exact absurd rfl h

theorem Four.get_set_if {α : Type} (f : Four α) (a b : Stream) (v : α) :
    (f.set a v).get b = if b = a then v else f.get b := by cases a <;> cases b <;> rfl

@[simp] theorem Core.stream_setStream (k : Core) (st : Stream) (t : StreamState) :
    (k.setStream st t).stream st = t := Four.get_set_same _ _ _

theorem Core.stream_setStream_if (k : Core) (a b : Stream) (t : StreamState) :
    (k.setStream a t).stream b = if b = a then t else k.stream b := Four.get_set_if _ _ _ _

@[simp] theorem Core.stream_modStream (k : Core) (st : Stream) (g : StreamState → StreamState) :
    (k.modStream st g).stream st = g (k.stream st) := Four.get_set_same _ _ _

theorem Core.stream_modStream_if (k : Core) (a b : Stream) (g : StreamState → StreamState) :
    (k.modStream a g).stream b = if b = a then g (k.stream a) else k.stream b := Four.get_set_if _ _ _ _

@[simp] theorem Core.queueReg_setQueueReg (k : Core) (q : Nat) (v : QueueReg) :
    (k.setQueueReg q v).queueReg q = v := Tbl.get_set_same _ _ _ _

theorem Core.queueReg_setQueueReg_if (k : Core) (q r : Nat) (v : QueueReg) :
    (k.setQueueReg q v).queueReg r = if r = q then v else k.queueReg r := Tbl.get_set _ _ _ _ _

@[simp] theorem State.island_setIsland (s : State) (i : Nat) (v : Island) :
    (s.setIsland i v).island i = v := Tbl.get_set_same _ _ _ _

theorem State.island_setIsland_if (s : State) (i j : Nat) (v : Island) :
    (s.setIsland i v).island j = if j = i then v else s.island j := Tbl.get_set _ _ _ _ _

@[simp] theorem State.die_setDie (s : State) (d : Nat) (v : Die) : (s.setDie d v).die d = v :=
  Tbl.get_set_same _ _ _ _

theorem State.die_setDie_if (s : State) (d e : Nat) (v : Die) :
    (s.setDie d v).die e = if e = d then v else s.die e := Tbl.get_set _ _ _ _ _

@[simp] theorem State.queue_setQueue (s : State) (q : Nat) (v : HostQueue) :
    (s.setQueue q v).queue q = v := Tbl.get_set_same _ _ _ _

theorem State.queue_setQueue_if (s : State) (q r : Nat) (v : HostQueue) :
    (s.setQueue q v).queue r = if r = q then v else s.queue r := Tbl.get_set _ _ _ _ _

@[simp] theorem State.slot_setSlot (s : State) (n : Nat) (v : DbbSlot) : (s.setSlot n v).slot n = v :=
  Tbl.get_set_same _ _ _ _

@[simp] theorem State.stream_modStream (s : State) (c : Nat) (st : Stream) (g : StreamState → StreamState) :
    (s.modStream c st g).stream c st = g (s.stream c st) := by
  simp [State.modStream, State.stream]

@[simp] theorem State.stream_setStream (s : State) (c : Nat) (st : Stream) (t : StreamState) :
    (s.setStream c st t).stream c st = t := by
  simp [State.setStream, State.stream]

/-! ### The parts that an update of another part leaves -/

@[simp] theorem State.island_setCore (s : State) (c : Nat) (k : Core) (x : Nat) : (s.setCore c k).island x = s.island x := rfl
@[simp] theorem State.die_setCore (s : State) (c : Nat) (k : Core) (x : Nat) : (s.setCore c k).die x = s.die x := rfl
@[simp] theorem State.queue_setCore (s : State) (c : Nat) (k : Core) (x : Nat) : (s.setCore c k).queue x = s.queue x := rfl
@[simp] theorem State.slot_setCore (s : State) (c : Nat) (k : Core) (x : Nat) : (s.setCore c k).slot x = s.slot x := rfl
@[simp] theorem State.core_setIsland (s : State) (i : Nat) (v : Island) (x : Nat) : (s.setIsland i v).core x = s.core x := rfl
@[simp] theorem State.die_setIsland (s : State) (i : Nat) (v : Island) (x : Nat) : (s.setIsland i v).die x = s.die x := rfl
@[simp] theorem State.queue_setIsland (s : State) (i : Nat) (v : Island) (x : Nat) : (s.setIsland i v).queue x = s.queue x := rfl
@[simp] theorem State.slot_setIsland (s : State) (i : Nat) (v : Island) (x : Nat) : (s.setIsland i v).slot x = s.slot x := rfl
@[simp] theorem State.core_setDie (s : State) (d : Nat) (v : Die) (x : Nat) : (s.setDie d v).core x = s.core x := rfl
@[simp] theorem State.island_setDie (s : State) (d : Nat) (v : Die) (x : Nat) : (s.setDie d v).island x = s.island x := rfl
@[simp] theorem State.queue_setDie (s : State) (d : Nat) (v : Die) (x : Nat) : (s.setDie d v).queue x = s.queue x := rfl
@[simp] theorem State.slot_setDie (s : State) (d : Nat) (v : Die) (x : Nat) : (s.setDie d v).slot x = s.slot x := rfl
@[simp] theorem State.core_setQueue (s : State) (q : Nat) (v : HostQueue) (x : Nat) : (s.setQueue q v).core x = s.core x := rfl
@[simp] theorem State.island_setQueue (s : State) (q : Nat) (v : HostQueue) (x : Nat) : (s.setQueue q v).island x = s.island x := rfl
@[simp] theorem State.die_setQueue (s : State) (q : Nat) (v : HostQueue) (x : Nat) : (s.setQueue q v).die x = s.die x := rfl
@[simp] theorem State.slot_setQueue (s : State) (q : Nat) (v : HostQueue) (x : Nat) : (s.setQueue q v).slot x = s.slot x := rfl
@[simp] theorem State.core_setSlot (s : State) (n : Nat) (v : DbbSlot) (x : Nat) : (s.setSlot n v).core x = s.core x := rfl
@[simp] theorem State.island_setSlot (s : State) (n : Nat) (v : DbbSlot) (x : Nat) : (s.setSlot n v).island x = s.island x := rfl
@[simp] theorem State.die_setSlot (s : State) (n : Nat) (v : DbbSlot) (x : Nat) : (s.setSlot n v).die x = s.die x := rfl
@[simp] theorem State.queue_setSlot (s : State) (n : Nat) (v : DbbSlot) (x : Nat) : (s.setSlot n v).queue x = s.queue x := rfl
@[simp] theorem State.island_modCore (s : State) (c : Nat) (g : Core → Core) (x : Nat) : (s.modCore c g).island x = s.island x := rfl
@[simp] theorem State.die_modCore (s : State) (c : Nat) (g : Core → Core) (x : Nat) : (s.modCore c g).die x = s.die x := rfl
@[simp] theorem State.queue_modCore (s : State) (c : Nat) (g : Core → Core) (x : Nat) : (s.modCore c g).queue x = s.queue x := rfl
@[simp] theorem State.slot_modCore (s : State) (c : Nat) (g : Core → Core) (x : Nat) : (s.modCore c g).slot x = s.slot x := rfl
@[simp] theorem State.island_setStream (s : State) (c : Nat) (st : Stream) (t : StreamState) (x : Nat) : (s.setStream c st t).island x = s.island x := rfl
@[simp] theorem State.die_setStream (s : State) (c : Nat) (st : Stream) (t : StreamState) (x : Nat) : (s.setStream c st t).die x = s.die x := rfl
@[simp] theorem State.queue_setStream (s : State) (c : Nat) (st : Stream) (t : StreamState) (x : Nat) : (s.setStream c st t).queue x = s.queue x := rfl
@[simp] theorem State.slot_setStream (s : State) (c : Nat) (st : Stream) (t : StreamState) (x : Nat) : (s.setStream c st t).slot x = s.slot x := rfl
@[simp] theorem State.island_modStream (s : State) (c : Nat) (st : Stream) (g : StreamState → StreamState) (x : Nat) : (s.modStream c st g).island x = s.island x := rfl
@[simp] theorem State.die_modStream (s : State) (c : Nat) (st : Stream) (g : StreamState → StreamState) (x : Nat) : (s.modStream c st g).die x = s.die x := rfl
@[simp] theorem State.queue_modStream (s : State) (c : Nat) (st : Stream) (g : StreamState → StreamState) (x : Nat) : (s.modStream c st g).queue x = s.queue x := rfl
@[simp] theorem State.slot_modStream (s : State) (c : Nat) (st : Stream) (g : StreamState → StreamState) (x : Nat) : (s.modStream c st g).slot x = s.slot x := rfl

@[simp] theorem State.tickOf_setCore (s : State) (c : Nat) (k : Core) (e : Nat) : (s.setCore c k).tickOf e = s.tickOf e := rfl
@[simp] theorem State.tickOf_setDie (s : State) (d : Nat) (v : Die) (e : Nat) : (s.setDie d v).tickOf e = s.tickOf e := rfl
@[simp] theorem State.tickOf_setQueue (s : State) (q : Nat) (v : HostQueue) (e : Nat) : (s.setQueue q v).tickOf e = s.tickOf e := rfl
@[simp] theorem State.tickOf_setSlot (s : State) (n : Nat) (v : DbbSlot) (e : Nat) : (s.setSlot n v).tickOf e = s.tickOf e := rfl
@[simp] theorem State.tickOf_modCore (s : State) (c : Nat) (g : Core → Core) (e : Nat) : (s.modCore c g).tickOf e = s.tickOf e := rfl
@[simp] theorem State.tickOf_setStream (s : State) (c : Nat) (st : Stream) (t : StreamState) (e : Nat) : (s.setStream c st t).tickOf e = s.tickOf e := rfl
@[simp] theorem State.tickOf_modStream (s : State) (c : Nat) (st : Stream) (g : StreamState → StreamState) (e : Nat) : (s.modStream c st g).tickOf e = s.tickOf e := rfl

/-! ### Note -/

@[simp] theorem State.noted_agenda (s : State) (n : Note) : (s.noted n).agenda = s.agenda := rfl
@[simp] theorem State.noted_fresh (s : State) (n : Note) : (s.noted n).fresh = s.fresh := rfl
@[simp] theorem State.noted_cur (s : State) (n : Note) : (s.noted n).cur = s.cur := rfl
@[simp] theorem State.noted_mem (s : State) (n : Note) : (s.noted n).mem = s.mem := rfl
@[simp] theorem State.noted_badLines (s : State) (n : Note) : (s.noted n).badLines = s.badLines := rfl
@[simp] theorem State.noted_unLog (s : State) (n : Note) : (s.noted n).unLog = s.unLog := rfl
@[simp] theorem State.noted_unPlaces (s : State) (n : Note) : (s.noted n).unPlaces = s.unPlaces := rfl
@[simp] theorem State.noted_lines (s : State) (n : Note) : (s.noted n).lines = s.lines := rfl
@[simp] theorem State.noted_flash (s : State) (n : Note) : (s.noted n).flash = s.flash := rfl
@[simp] theorem State.noted_cores (s : State) (n : Note) : (s.noted n).cores = s.cores := rfl
@[simp] theorem State.noted_islands (s : State) (n : Note) : (s.noted n).islands = s.islands := rfl
@[simp] theorem State.noted_dies (s : State) (n : Note) : (s.noted n).dies = s.dies := rfl
@[simp] theorem State.noted_queues (s : State) (n : Note) : (s.noted n).queues = s.queues := rfl
@[simp] theorem State.noted_dbb (s : State) (n : Note) : (s.noted n).dbb = s.dbb := rfl
@[simp] theorem State.noted_launches (s : State) (n : Note) : (s.noted n).launches = s.launches := rfl
@[simp] theorem State.noted_convoys (s : State) (n : Note) : (s.noted n).convoys = s.convoys := rfl
@[simp] theorem State.noted_saved (s : State) (n : Note) : (s.noted n).saved = s.saved := rfl
@[simp] theorem State.noted_launchSerial (s : State) (n : Note) : (s.noted n).launchSerial = s.launchSerial := rfl
@[simp] theorem State.noted_taskSerial (s : State) (n : Note) : (s.noted n).taskSerial = s.taskSerial := rfl
@[simp] theorem State.noted_refTime (s : State) (n : Note) : (s.noted n).refTime = s.refTime := rfl
@[simp] theorem State.noted_ioSkew (s : State) (n : Note) : (s.noted n).ioSkew = s.ioSkew := rfl
@[simp] theorem State.noted_ioSlew (s : State) (n : Note) : (s.noted n).ioSlew = s.ioSlew := rfl
@[simp] theorem State.noted_tide (s : State) (n : Note) : (s.noted n).tide = s.tide := rfl
@[simp] theorem State.noted_flen (s : State) (n : Note) : (s.noted n).flen = s.flen := rfl
@[simp] theorem State.noted_faultLog (s : State) (n : Note) : (s.noted n).faultLog = s.faultLog := rfl
@[simp] theorem State.noted_slipLog (s : State) (n : Note) : (s.noted n).slipLog = s.slipLog := rfl
@[simp] theorem State.noted_completions (s : State) (n : Note) : (s.noted n).completions = s.completions := rfl
@[simp] theorem State.noted_lfe (s : State) (n : Note) : (s.noted n).lfe = s.lfe := rfl
@[simp] theorem State.noted_pager (s : State) (n : Note) : (s.noted n).pager = s.pager := rfl
@[simp] theorem State.noted_pageWaits (s : State) (n : Note) : (s.noted n).pageWaits = s.pageWaits := rfl
@[simp] theorem State.noted_windows (s : State) (n : Note) : (s.noted n).windows = s.windows := rfl
@[simp] theorem State.noted_walrisHeld (s : State) (n : Note) : (s.noted n).walrisHeld = s.walrisHeld := rfl
@[simp] theorem State.noted_thermal (s : State) (n : Note) : (s.noted n).thermal = s.thermal := rfl
@[simp] theorem State.noted_moored (s : State) (n : Note) : (s.noted n).moored = s.moored := rfl
@[simp] theorem State.noted_moorCore (s : State) (n : Note) : (s.noted n).moorCore = s.moorCore := rfl
@[simp] theorem State.noted_moorFrom (s : State) (n : Note) : (s.noted n).moorFrom = s.moorFrom := rfl
@[simp] theorem State.noted_moorWake (s : State) (n : Note) : (s.noted n).moorWake = s.moorWake := rfl
@[simp] theorem State.noted_booted (s : State) (n : Note) : (s.noted n).booted = s.booted := rfl
@[simp] theorem State.noted_reports (s : State) (n : Note) : (s.noted n).reports = s.reports := rfl
@[simp] theorem State.noted_hostReads (s : State) (n : Note) : (s.noted n).hostReads = s.hostReads := rfl
@[simp] theorem State.noted_note (s : State) (n : Note) : (s.noted n).note = n := rfl
@[simp] theorem State.core_noted (s : State) (n : Note) (d : Nat) : (s.noted n).core d = s.core d := rfl
@[simp] theorem State.island_noted (s : State) (n : Note) (d : Nat) : (s.noted n).island d = s.island d := rfl
@[simp] theorem State.die_noted (s : State) (n : Note) (d : Nat) : (s.noted n).die d = s.die d := rfl
@[simp] theorem State.queue_noted (s : State) (n : Note) (d : Nat) : (s.noted n).queue d = s.queue d := rfl
@[simp] theorem State.slot_noted (s : State) (n : Note) (d : Nat) : (s.noted n).slot d = s.slot d := rfl
@[simp] theorem State.tickOf_noted (s : State) (n : Note) (d : Nat) : (s.noted n).tickOf d = s.tickOf d := rfl
@[simp] theorem State.stream_noted (s : State) (n : Note) (d : Nat) (st : Stream) : (s.noted n).stream d st = s.stream d st := rfl

end Sys2Proof.Machine
end

