-- ==== Sys2Proof/Laws/Issue.lean ====
section
/-!
SUPPORT. What the issue of a bundle does around its operation: one law for `issue`, and for `finish` all
that it leaves alone and all that it keeps.
-/

namespace Sys2Proof.Machine

/-! ### Erased parts -/

@[simp] theorem Core.apart_setStream (k : Core) (st : Stream) (t : StreamState) :
    (k.setStream st t).apart = k.apart := rfl
@[simp] theorem Core.apart_modStream (k : Core) (st : Stream) (g : StreamState → StreamState) :
    (k.modStream st g).apart = k.apart := rfl
@[simp] theorem Core.apart_setFifo (k : Core) (a b : Stream) (n : Nat) :
    (k.setFifo a b n).apart = k.apart := rfl

@[simp] theorem State.apart_setCore (s : State) (c : Nat) (k : Core) : (s.setCore c k).apart = s.apart := rfl
@[simp] theorem State.apart_modCore (s : State) (c : Nat) (g : Core → Core) :
    (s.modCore c g).apart = s.apart := rfl
@[simp] theorem State.apart_setStream (s : State) (c : Nat) (st : Stream) (t : StreamState) :
    (s.setStream c st t).apart = s.apart := rfl
@[simp] theorem State.apart_modStream (s : State) (c : Nat) (st : Stream) (g : StreamState → StreamState) :
    (s.modStream c st g).apart = s.apart := rfl
@[simp] theorem State.apart_setDie (s : State) (d : Nat) (v : Die) : (s.setDie d v).apart = s.apart := rfl
@[simp] theorem State.apart_setQueue (s : State) (q : Nat) (v : HostQueue) :
    (s.setQueue q v).apart = s.apart := rfl
@[simp] theorem State.apart_noted (s : State) (n : Note) : (s.noted n).apart = s.apart := rfl

/-- What a state's cores and the rest of the module have in common with another's, holds and sequencers
apart: `a` and `b` differ in nothing that `apart` keeps, and no result in flight of `a` is lost. -/
structure Near (a b : State) : Prop where
  state  : b.apart = a.apart
  core   : ∀ c, (b.core c).apart = (a.core c).apart
  flight : ∀ c, ∀ l ∈ (a.core c).flight, l ∈ (b.core c).flight

theorem Near.refl (a : State) : Near a a := ⟨rfl, fun _ => rfl, fun _ _ h => h⟩

theorem Near.trans {a b c : State} (h : Near a b) (g : Near b c) : Near a c :=
  ⟨g.state.trans h.state, fun d => (g.core d).trans (h.core d), fun d l hl => g.flight d l (h.flight d l hl)⟩

theorem Near.setCore (s : State) (c : Nat) (k : Core) (h : k.apart = (s.core c).apart)
    (hf : ∀ l ∈ (s.core c).flight, l ∈ k.flight) : Near s (s.setCore c k) := by
  refine ⟨rfl, fun d => ?_, fun d l hl => ?_⟩
  · rw [State.core_setCore_if]; split
    · rename_i e; subst e; exact h
    · rfl
  · rw [State.core_setCore_if]; split
    · rename_i e; subst e; exact hf l hl
    · exact hl

theorem Near.modCore (s : State) (c : Nat) (g : Core → Core) (h : (g (s.core c)).apart = (s.core c).apart)
    (hf : ∀ l ∈ (s.core c).flight, l ∈ (g (s.core c)).flight) : Near s (s.modCore c g) :=
  Near.setCore s c _ h hf

theorem Near.modStream (s : State) (c : Nat) (st : Stream) (g : StreamState → StreamState) :
    Near s (s.modStream c st g) := Near.setCore s c _ rfl (fun _ h => h)

theorem Near.setStream (s : State) (c : Nat) (st : Stream) (t : StreamState) :
    Near s (s.setStream c st t) := Near.setCore s c _ rfl (fun _ h => h)

theorem Near.of_cores (a b : State) (h : b.cores = a.cores) (hs : b.apart = a.apart) : Near a b := by
  refine ⟨hs, fun c => ?_, fun c l hl => ?_⟩
  · simp only [State.core, h]
  · simpa only [State.core, h] using hl

/-! ### Results in flight -/

theorem mem_insertLanding (l m : Landing) (fs : List Landing) :
    m ∈ insertLanding l fs ↔ m = l ∨ m ∈ fs := by
  induction fs with
  | nil => simp [insertLanding]
  | cons x t ih =>
    simp only [insertLanding]
    split
    · simp only [List.mem_cons, ih]; tauto
    · simp only [List.mem_cons]

theorem launchResult_near (s : State) (c : Nat) (st : Stream) (fl : Bool) (lat : Nat) (m : Bool) (n : Nat)
    (k : Bool) (es : List Effect) : Near s (s.launchResult c st fl lat m n k es) :=
  Near.setCore s c _ rfl (fun l h => (mem_insertLanding _ l _).mpr (.inr h))

/-- What a launched result adds. -/
theorem launchResult_lands (s : State) (c : Nat) (st : Stream) (fl : Bool) (lat : Nat) (m : Bool) (n : Nat)
    (k : Bool) (es : List Effect) :
    ∃ l ∈ ((s.launchResult c st fl lat m n k es).core c).flight, l.st = st ∧ l.effects = es ∧
      l.tick = (s.core c).landingTick fl (s.tickOf c) lat es ∧ l.matrix = m ∧ l.unit = n ∧ l.locked = k ∧
      l.seq = (s.core c).seq := by
  refine ⟨{ tick := (s.core c).landingTick fl (s.tickOf c) lat es, seq := (s.core c).seq, st, matrix := m,
            unit := n, locked := k, effects := es }, ?_, rfl, rfl, rfl, rfl, rfl, rfl, rfl⟩
  simp only [State.launchResult, State.core_setCore]
  exact (mem_insertLanding _ _ _).mpr (.inl rfl)

/-! ### Holds -/

theorem Near.setMem (s : State) (m : Memory) : Near s { s with mem := m } := Near.of_cores _ _ rfl rfl

theorem Near.setCoreMem (s : State) (m : Memory) (c : Nat) (k : Core) (h : k.apart = (s.core c).apart)
    (hf : ∀ l ∈ (s.core c).flight, l ∈ k.flight) : Near s (State.setCore { s with mem := m } c k) :=
  (Near.setMem s m).trans (Near.setCore _ c k h hf)

theorem claimBerth_near (s : State) (c n : Nat) : Near s (s.claimBerth c n) := by
  unfold State.claimBerth
  dsimp only
  split
  · exact Near.refl s
  · split
    · exact Near.setCore s c _ rfl (fun _ h => h)
    · split
      · exact Near.refl s
      · split
        · exact Near.setCore s c _ rfl (fun _ h => h)
        · exact Near.setCoreMem s _ c _ rfl (fun _ h => h)

theorem holdSetAll_near (l : List (Nat × Byte)) (s : State) (c : Nat) : Near s (s.holdSetAll c l) := by
  induction l generalizing s with
  | nil => exact Near.refl s
  | cons e l ih =>
    refine Near.trans ?_ (ih _)
    refine Near.trans (claimBerth_near s c (e.1 / 65536)) ?_
    split
    · exact Near.refl _
    · exact Near.setCore _ c _ rfl (fun _ h => h)

theorem holdStore_near (l : List Byte) (s : State) (c : Nat) (st : Stream) (off : Nat) :
    Near s (s.holdStore c st off l) := by
  induction l generalizing s off with
  | nil => exact Near.refl s
  | cons b l ih =>
    refine Near.trans ?_ (ih _ _)
    refine Near.trans (claimBerth_near s c (off / 65536)) ?_
    split
    · exact Near.refl _
    · split
      · exact Near.refl _
      · exact Near.setCore _ c _ rfl (fun _ h => h)

/-! ### Stores that a PUSH commits -/

theorem writeQueueRegister_cores (s : State) (q off : Nat) (v : Word) :
    (writeQueueRegister s q off v).cores = s.cores ∧ (writeQueueRegister s q off v).apart = s.apart ∧
      (writeQueueRegister s q off v).mem = s.mem := by
  unfold writeQueueRegister
  dsimp only
  split <;> exact ⟨rfl, rfl, rfl⟩

theorem homeEvents_cons (s : State) (store : Bool) (pas : List Nat) (q : Nat) (l : List Nat) :
    ∃ h, s.homeEvents store pas (q :: l) = (if h = s.queue q then s else s.setQueue q h).homeEvents store pas l :=
  ⟨_, rfl⟩

theorem homeEvents_cores (l : List Nat) (s : State) (store : Bool) (pas : List Nat) :
    (s.homeEvents store pas l).cores = s.cores ∧ (s.homeEvents store pas l).apart = s.apart ∧
      (s.homeEvents store pas l).mem = s.mem := by
  induction l generalizing s with
  | nil => exact ⟨rfl, rfl, rfl⟩
  | cons q l ih =>
    obtain ⟨h, e⟩ := homeEvents_cons s store pas q l
    rw [e]
    split
    · exact ih s
    · exact ih (s.setQueue q h)

theorem wakeLines_near (s : State) (pas : List Nat) : Near s (s.wakeLines pas) := by
  unfold State.wakeLines
  dsimp only
  split
  · refine ⟨rfl, fun c => ?_, fun c l hl => ?_⟩
    · simp only [State.core]
      refine Tbl.get_map_rel (R := fun (k k' : Core) => k.apart = k'.apart) Core.reset rfl _ ?_ ?_ s.cores c
      · intro e; split <;> rfl
      · intro e; split <;> rfl
    · revert hl
      simp only [State.core]
      refine Tbl.get_map_rel (R := fun (k k' : Core) => l ∈ k'.flight → l ∈ k.flight) Core.reset id _ ?_ ?_
        s.cores c
      · intro e; split <;> rfl
      · intro e; split <;> exact id
  · exact Near.refl s

@[simp] theorem wakeLines_mem (s : State) (pas : List Nat) : (s.wakeLines pas).mem = s.mem := by
  unfold State.wakeLines; dsimp only; split <;> rfl

theorem writeRegisters_cores (l : List Nat) (s : State) (bytes : List (Nat × Byte)) :
    (s.writeRegisters bytes l).cores = s.cores ∧ (s.writeRegisters bytes l).apart = s.apart ∧
      (s.writeRegisters bytes l).mem = s.mem := by
  induction l generalizing s with
  | nil => exact ⟨rfl, rfl, rfl⟩
  | cons r l ih =>
    have key : ∀ u : State, u.cores = s.cores → u.apart = s.apart → u.mem = s.mem →
        (u.writeRegisters bytes l).cores = s.cores ∧ (u.writeRegisters bytes l).apart = s.apart ∧
          (u.writeRegisters bytes l).mem = s.mem := fun u h1 h2 h3 =>
      ⟨(ih u).1.trans h1, (ih u).2.1.trans h2, (ih u).2.2.trans h3⟩
    simp only [State.writeRegisters]
    split
    · refine key _ ?_ ?_ ?_ <;> split
      · exact (writeQueueRegister_cores ..).1
      · rfl
      · exact (writeQueueRegister_cores ..).2.1
      · rfl
      · exact (writeQueueRegister_cores ..).2.2
      · rfl
    · exact key s rfl rfl rfl

/-- A store at the homes changes no core before it wakes the waiters of its lines, and memory by its bytes. -/
theorem storeHome_cores (s : State) (bytes : List (Nat × Byte)) :
    ∃ u : State, s.storeHome bytes = u.wakeLines (bytes.map (fun (e : Nat × Byte) => e.1)) ∧ u.cores = s.cores ∧
      u.apart = s.apart ∧ u.mem = s.mem.setAll (bytes.filter (fun e => !isDevice e.1)) := by
  have key : ∀ (v : State) (p l : List Nat), v.cores = s.cores → v.apart = s.apart →
      v.mem = s.mem.setAll (bytes.filter (fun e => !isDevice e.1)) →
      (v.homeEvents true p l).cores = s.cores ∧ (v.homeEvents true p l).apart = s.apart ∧
        (v.homeEvents true p l).mem = s.mem.setAll (bytes.filter (fun e => !isDevice e.1)) := by
    intro v p l h1 h2 h3
    obtain ⟨e1, e2, e3⟩ := homeEvents_cores l v true p
    exact ⟨e1.trans h1, e2.trans h2, e3.trans h3⟩
  refine ⟨_, rfl, key _ _ _ ?_ ?_ ?_⟩
  · exact (writeRegisters_cores _ _ _).1
  · exact (writeRegisters_cores _ _ _).2.1
  · exact (writeRegisters_cores _ _ _).2.2

theorem storeHome_near (s : State) (bytes : List (Nat × Byte)) : Near s (s.storeHome bytes) := by
  obtain ⟨u, e, h1, h2, _⟩ := storeHome_cores s bytes
  rw [e]
  exact (Near.of_cores s u h1 h2).trans (wakeLines_near _ _)

/-- The bytes of a store at the homes are what memory changes by. -/
theorem storeHome_mem (s : State) (bytes : List (Nat × Byte)) :
    (s.storeHome bytes).mem = s.mem.setAll (bytes.filter (fun e => !isDevice e.1)) := by
  obtain ⟨u, e, _, _, h⟩ := storeHome_cores s bytes
  rw [e, wakeLines_mem, h]

/-- `Near` holds of a fold of steps that each keep it. -/
theorem Near.foldl {α : Type} (g : State → α → State) (h : ∀ s a, Near s (g s a)) (l : List α) (s : State) :
    Near s (l.foldl g s) := by
  induction l generalizing s with
  | nil => exact Near.refl s
  | cons a l ih => exact (h s a).trans (ih (g s a))

theorem noteLine_near (s : State) (m : Option Meter) : Near s (s.noteLine m) := by
  cases m <;> exact Near.of_cores _ _ rfl rfl

theorem dropL2_near (s : State) (line : Nat) : Near s (s.dropL2 line) := by
  unfold State.dropL2
  dsimp only
  split
  · exact Near.refl s
  · refine Near.trans ?_ (noteLine_near _ _)
    exact Near.of_cores _ _ rfl rfl

theorem roomL2_near (s : State) (d : Nat) : Near s (s.roomL2 d) := by
  unfold State.roomL2
  split
  · exact Near.refl s
  · refine Near.trans ?_ (dropL2_near _ _)
    exact Near.of_cores _ _ rfl rfl

theorem touchLine_near (s : State) (line : Nat) (st : Bool) (m : Option Meter) : Near s (s.touchLine line st m) := by
  unfold State.touchLine
  dsimp only
  split
  · exact Near.refl s
  · split
    · split
      · exact Near.refl s
      · exact Near.of_cores _ _ rfl rfl
    · refine Near.trans ?_ (noteLine_near _ _)
      refine Near.trans (roomL2_near s (homeDie (line * 64))) ?_
      exact Near.of_cores _ _ rfl rfl

theorem storeFor_near (s : State) (m : Option Meter) (bytes : List (Nat × Byte)) : Near s (s.storeFor m bytes) :=
  (Near.foldl _ (fun s l => touchLine_near s l true m) _ s).trans (storeHome_near _ _)

theorem writeBackLine_near (s : State) (d : Nat) (l : RdcLine) (h : l.un = false) : Near s (s.writeBackLine d l) := by
  simp only [State.writeBackLine, h, Bool.false_eq_true, if_false]
  refine Near.trans ?_ (storeFor_near _ _ _)
  exact Near.of_cores _ _ rfl rfl

theorem writeBackList_near (l : List RdcLine) (s : State) (d : Nat) (h : ∀ x ∈ l, x.un = false) :
    Near s (s.writeBackList d l) := by
  induction l generalizing s with
  | nil => exact Near.refl s
  | cons a l ih =>
    exact (writeBackLine_near s d a (h a (by simp))).trans (ih _ (fun x hx => h x (by simp [hx])))

theorem dropLines_near (s : State) (d : Nat) (sel : RdcLine → Bool) (h : ∀ l, sel l = true → l.un = false) :
    Near s (s.dropLines d sel) := by
  unfold State.dropLines
  split
  · refine (writeBackList_near _ s d (fun x hx => h x ?_)).trans (Near.of_cores _ _ rfl rfl)
    simp only [List.mem_filter, Bool.and_eq_true] at hx
    exact hx.2.1
  · exact Near.refl s

theorem noteUncorr_near (s : State) (c : Nat) (st : Stream) (b : Bool) (o : Origin) (n : Nat) :
    Near s (s.noteUncorr c st b o n) := Near.modStream _ _ _ _

theorem tellError_near (s : State) (c : Nat) (e : DcOrigin) : Near s (s.tellError c e) := by
  unfold State.tellError
  dsimp only
  split
  · exact Near.refl s
  · split
    · refine Near.setCore s c _ ?_ (fun _ h => h)
      unfold Core.apart
      congr 1
      rw [List.map_map]
      exact List.map_congr_left (fun x _ => by simp only [Function.comp]; split <;> rfl)
    · exact noteUncorr_near s c e.st true e.origin e.bundle

theorem commitErrors_near (s : State) (c : Nat) (dc : Tbl Byte) (src : Tbl DcOrigin) :
    Near s (s.commitErrors c dc src) := by
  unfold State.commitErrors
  refine Near.trans ?_ (Near.foldl _ (fun s (e : DcOrigin) => tellError_near s c e) _ _)
  exact Near.foldl _ (fun s l => Near.of_cores s (s.logUncorr c (l * 64)) rfl rfl) _ s

theorem commitAll_near (s : State) (d : Nat) (bufs : List (Option Meter × Tbl Byte)) : Near s (s.commitAll d bufs) := by
  unfold State.commitAll
  refine Near.trans ?_ (storeHome_near _ _)
  refine Near.trans ?_ (Near.foldl _ (fun s (b : Option Meter × Tbl Byte) =>
    Near.foldl _ (fun s l => touchLine_near s l true b.1) _ s) _ _)
  exact dropLines_near s d _ (fun l h => by simp only [Bool.and_eq_true, Bool.not_eq_true'] at h; exact h.1)

theorem commitOwn_near (s : State) (c : Nat) : Near s (s.commitOwn c) := by
  unfold State.commitOwn
  dsimp only
  split
  · exact Near.refl s
  · refine Near.trans ?_ (commitErrors_near _ _ _ _)
    refine Near.trans ?_ (commitAll_near _ _ _)
    exact Near.setCore s c _ rfl (fun _ h => h)

theorem pushTokens_near (s : State) (c : Nat) (a b : Stream) (n : Nat) : Near s (s.pushTokens c a b n) :=
  Near.trans (commitOwn_near s c) (Near.setCore (s.commitOwn c) c _ rfl (fun _ h => h))

theorem pushBundle_near (s : State) (c : Nat) (st : Stream) (b : Bundle) : Near s (s.pushBundle c st b) := by
  unfold State.pushBundle
  split
  · exact pushTokens_near _ _ _ _ _
  · exact Near.refl s

/-! ### The side-op and the sequencer -/

theorem spillWrite_near (s : State) (c : Nat) (st : Stream) (n : Nat) (v : Word) :
    Near s (s.spillWrite c st n v) := by
  unfold State.spillWrite
  dsimp only
  split
  · exact Near.modCore s _ _ rfl (fun _ h => h)
  · exact holdSetAll_near _ _ _

theorem sideOp_near (x : Ctx) (s : State) : Near s (x.sideOp s) := by
  unfold Ctx.sideOp
  split
  · exact Near.refl s
  · exact spillWrite_near _ _ _ _ _
  · exact launchResult_near _ _ _ _ _ _ _ _ _

theorem result_near (x : Ctx) (s : State) (lat : Nat) (es : List Effect) : Near s (x.result s lat es) :=
  launchResult_near _ _ _ _ _ _ _ _ _

theorem setStream_result_near (x : Ctx) (s : State) (c : Nat) (st : Stream) (t : StreamState) (lat : Nat)
    (es : List Effect) : Near s (x.result (s.setStream c st t) lat es) :=
  (Near.setStream s c st t).trans (result_near x _ lat es)

theorem result_setStream_near (x : Ctx) (s : State) (c : Nat) (st : Stream) (t : StreamState) (lat : Nat)
    (es : List Effect) : Near s ((x.result s lat es).setStream c st t) :=
  (result_near x s lat es).trans (Near.setStream _ c st t)

theorem sequence_near (x : Ctx) (s : State) (flow : Flow) : Near s (x.sequence s flow) := by
  unfold Ctx.sequence
  dsimp only
  repeat' split
  all_goals first
    | exact Near.setStream _ _ _ _
    | exact setStream_result_near _ _ _ _ _ _ _
    | exact result_setStream_near _ _ _ _ _ _ _

theorem noted_near (s : State) (n : Note) : Near s (s.noted n) := Near.of_cores s _ rfl rfl

/-- Everything that follows an operation leaves the module alone but for what every bundle may change, and
loses no result in flight. -/
theorem finish_near (x : Ctx) (s : State) (flow : Flow) (ran : Bool) : Near s (x.finish s flow ran) := by
  unfold Ctx.finish
  dsimp only
  refine Near.trans ?_ (Near.modStream _ _ _ _)
  refine Near.trans ?_ (sequence_near _ _ _)
  refine Near.trans ?_ (pushBundle_near _ _ _ _)
  split
  · exact sideOp_near x s
  · exact Near.refl s

theorem finish_later (x : Ctx) (s : State) (flow : Flow) (ran : Bool) :
    x.now < ((x.finish s flow ran).stream x.c x.st).nextTick := by
  simp only [Ctx.finish, State.stream_modStream]
  omega

/-! ### Issue -/

/-- The issue of a bundle whose operation may act runs its body. -/
theorem issue_ready {x : Ctx} {s u : State} (h : x.ready s = some u) (body : Ctx → State → Res) :
    x.issue s body = x.conclude (body x u) := by
  unfold Ctx.ready at h
  split at h
  · rename_i v hd hp
    split at h
    · rename_i hc
      simp only [Bool.and_eq_true, Bool.not_eq_true'] at hc
      obtain ⟨⟨⟨⟨⟨⟨h1, h2⟩, h3⟩, h4⟩, h5⟩, h6⟩, h7⟩ := hc
      cases h
      simp only [Ctx.issue, hd, hp, h1, h2, Ctx.issueEnabled, h3, h4, h5, h6, h7, Bool.not_true, Bool.false_and,
        Bool.or_self, Bool.false_eq_true, if_false, if_true]
    · cases h
  · cases h

/-- An operation whose body is done answers what follows the state that its body left. -/
theorem acts_of_done {i : Bundle → Fields → Instr} {o : Op} {g : Ctx → State → Prop}
    {w : Ctx → State → State} (body : Ctx → State → Res)
    (hi : ∀ b f s, exec (i b f) s = issue o b f body s)
    (h : ∀ b f s u, (Ctx.of o b f s).ready s = some u → g (Ctx.of o b f s) u →
      body (Ctx.of o b f s) u = .done (w (Ctx.of o b f s) u) .seq) :
    Acts i o g w := by
  intro b f s u hr hg
  rw [hi]
  simp only [issue, issue_ready hr, h b f s u hr hg, Ctx.conclude, Ctx.after]

theorem exec_of_done {i : Bundle → Fields → Instr} {o : Op} (body : Ctx → State → Res)
    (hi : ∀ b f s, exec (i b f) s = issue o b f body s) {b : Bundle} {f : Fields} {s u v : State} {flow : Flow}
    (hr : (Ctx.of o b f s).ready s = some u) (h : body (Ctx.of o b f s) u = .done v flow) :
    exec (i b f) s = .next ((Ctx.of o b f s).after v flow) := by
  rw [hi]
  simp only [issue, issue_ready hr, h, Ctx.conclude, Ctx.after]

theorem answers_of_done {i : Bundle → Fields → Instr} {o : Op} {R : Ctx → State → State → Prop}
    (body : Ctx → State → Res) (hi : ∀ b f s, exec (i b f) s = issue o b f body s)
    (h : ∀ x u v, x.o = o → R x u v → body x u = .done v .seq) : Answers i o R :=
  fun _ _ _ _ _ hr hR => exec_of_done body hi hr (h _ _ _ rfl hR)

theorem steers_of_done {i : Bundle → Fields → Instr} {o : Op} {g : Ctx → State → Prop} {w : Ctx → State → State}
    {flow : Ctx → State → Flow} (body : Ctx → State → Res)
    (hi : ∀ b f s, exec (i b f) s = issue o b f body s)
    (h : ∀ x u, x.o = o → g x u → body x u = .done (w x u) (flow x u)) : Steers i o g w flow :=
  fun _ _ _ _ hr hg => exec_of_done body hi hr (h _ _ rfl hg)

theorem traps_of_trap {i : Bundle → Fields → Instr} {o : Op} {g : Ctx → State → Prop} {t : Ctx → State → TrapInfo}
    (body : Ctx → State → Res) (hi : ∀ b f s, exec (i b f) s = issue o b f body s)
    (h : ∀ x u, x.o = o → g x u → body x u = .trap u (t x u)) : Traps i o g t := by
  intro b f s u hr hg
  rw [hi]
  simp only [issue, issue_ready hr, h _ u rfl hg, Ctx.conclude]

theorem waits_of_wait {i : Bundle → Fields → Instr} {o : Op} {g : Ctx → State → Prop} {w : Ctx → State → Wait}
    (body : Ctx → State → Res) (hi : ∀ b f s, exec (i b f) s = issue o b f body s)
    (h : ∀ x u, x.o = o → g x u → body x u = .wait u (w x u)) : Waits i o g w := by
  intro b f s u hr hg
  rw [hi]
  simp only [issue, issue_ready hr, h _ u rfl hg, Ctx.conclude]

theorem holds_of_wait {i : Bundle → Fields → Instr} {o : Op} {R : Ctx → State → State → Prop}
    (body : Ctx → State → Res) (hi : ∀ b f s, exec (i b f) s = issue o b f body s)
    (h : ∀ x u v, x.o = o → R x u v → body x u = .wait v .other) : Holds i o R := by
  intro b f s u v hr hR
  rw [hi]
  simp only [issue, issue_ready hr, h _ u v rfl hR, Ctx.conclude]

theorem ends_of_final {i : Bundle → Fields → Instr} {o : Op} {R : Ctx → State → State → Prop}
    (body : Ctx → State → Res) (hi : ∀ b f s, exec (i b f) s = issue o b f body s)
    (h : ∀ x u v, x.o = o → R x u v → body x u = .final v) : Ends i o .issued R := by
  intro b f s u v hr hR
  rw [hi]
  simp only [issue, issue_ready hr, h _ u v rfl hR, Ctx.conclude]

/-- A bit read off MOD as a number. -/
theorem Ctx.bit_mod (x : Ctx) (n : Nat) : bit x.f.mod.toNat n = x.f.mod.getLsbD n := by
  simp [bit, BitVec.getLsbD, Nat.testBit, Nat.shiftRight_eq_div_pow]

/-- An operation that writes one value answers with that value on its way. -/
theorem computes_write {i : Bundle → Fields → Instr} {o : Op} {lat : Nat} {g v : Ctx → State → Word}
    (hi : ∀ b f s, exec (i b f) s = issue o b f (writeBody lat g) s)
    (h : ∀ b f s u, (Ctx.of o b f s).ready s = some u → g (Ctx.of o b f s) u = v (Ctx.of o b f s) u) :
    Computes i o lat v :=
  acts_of_done _ hi (fun b f s u hr _ => by simp only [writeBody, Ctx.writes, h b f s u hr])

/-- A result launched before `finish` is still in flight after it. -/
theorem lands_of_near {x : Ctx} {u v t : State} {lat : Nat} {es : List Effect} (h : Near v t)
    (hv : x.Lands u v lat es) : x.Lands u t lat es := by
  obtain ⟨l, hl, h1, h2, h3⟩ := hv
  exact ⟨l, h.flight _ _ hl, h1, h2, h3⟩

end Sys2Proof.Machine
end

