-- ==== Sys2Proof/Laws/Memory.lean ====
section
/-!
SUPPORT. Laws of byte stores: read after write, and that every operation keeps the canonical form.
-/

namespace Sys2Proof.Machine

/-! ### Reading -/

theorem Memory.get_of_wfAbove (m : Memory) (lo k : Nat) (h : Memory.wfAbove lo m = true) (hk : k < lo) :
    m.get k = Memory.blank := by
  induction m generalizing lo with
  | nil => rfl
  | cons e t ih =>
    obtain ⟨a, b⟩ := e
    simp only [Memory.wfAbove, Bool.and_eq_true, decide_eq_true_eq] at h
    simp only [Memory.get]
    rw [if_neg (by omega)]
    exact ih _ h.2 (by omega)

theorem Memory.wfAbove_weaken (m : Memory) {lo lo' : Nat} (h : Memory.wfAbove lo m = true)
    (hl : lo' ≤ lo) : Memory.wfAbove lo' m = true := by
  cases m with
  | nil => rfl
  | cons e t =>
    obtain ⟨a, b⟩ := e
    simp only [Memory.wfAbove, Bool.and_eq_true, decide_eq_true_eq] at h ⊢
    exact ⟨⟨by omega, h.1.2⟩, h.2⟩

/-- A byte reads back as written; every other byte reads as before. -/
theorem Memory.get_set_above (m : Memory) (lo k j : Nat) (v : Byte) (h : Memory.wfAbove lo m = true) :
    (m.set k v).get j = if j = k then v else m.get j := by
  induction m generalizing lo with
  | nil =>
    by_cases hv : v = Memory.blank
    · simp [Memory.set, hv, Memory.get]
    · by_cases hj : j = k
      · simp [Memory.set, hv, Memory.get, hj]
      · have : ¬k = j := fun h => hj h.symm
        simp [Memory.set, hv, Memory.get, hj, this]
  | cons e t ih =>
    obtain ⟨a, b⟩ := e
    simp only [Memory.wfAbove, Bool.and_eq_true, decide_eq_true_eq] at h
    simp only [Memory.set]
    by_cases hj : j = k
    · subst hj
      split
      · rename_i hlt
        split
        · rename_i hv
          simp only [Memory.get, if_true, hv]
          rw [if_neg (by omega)]
          exact Memory.get_of_wfAbove t _ _ h.2 (by omega)
        · simp [Memory.get]
      · split
        · split
          · rename_i he hv
            simp only [if_true, hv]
            exact Memory.get_of_wfAbove t _ _ h.2 (by omega)
          · simp [Memory.get]
        · rename_i hn
          simp only [Memory.get, if_true]
          rw [if_neg (Ne.symm hn), ih _ h.2, if_pos rfl]
    · have hk : ¬k = j := fun h => hj h.symm
      split
      · split <;> simp [Memory.get, hk]
      · split
        · rename_i he
          subst he
          split <;> simp [Memory.get, hk]
        · simp only [Memory.get, ih _ h.2, if_neg hj]

theorem Memory.get_set (m : Memory) (k j : Nat) (v : Byte) (h : m.wf = true) :
    (m.set k v).get j = if j = k then v else m.get j := Memory.get_set_above m 0 k j v h

/-! ### The canonical form -/

theorem Memory.set_wfAbove (m : Memory) (lo k : Nat) (v : Byte) (h : Memory.wfAbove lo m = true)
    (hk : lo ≤ k) : Memory.wfAbove lo (m.set k v) = true := by
  induction m generalizing lo with
  | nil =>
    simp only [Memory.set]
    split
    · rfl
    · rename_i hv
      simp [Memory.wfAbove, hk, hv]
  | cons e t ih =>
    obtain ⟨a, b⟩ := e
    have h' := h
    simp only [Memory.wfAbove, Bool.and_eq_true, decide_eq_true_eq] at h
    simp only [Memory.set]
    split
    · split
      · exact h'
      · rename_i hlt hv
        simp only [Memory.wfAbove, Bool.and_eq_true, decide_eq_true_eq]
        exact ⟨⟨hk, by simpa using hv⟩, ⟨by omega, h.1.2⟩, h.2⟩
    · split
      · rename_i he
        subst he
        split
        · exact Memory.wfAbove_weaken t h.2 (by omega)
        · rename_i hv
          simp only [Memory.wfAbove, Bool.and_eq_true, decide_eq_true_eq]
          exact ⟨⟨hk, by simpa using hv⟩, h.2⟩
      · simp only [Memory.wfAbove, Bool.and_eq_true, decide_eq_true_eq]
        exact ⟨h.1, ih _ h.2 (by omega)⟩

@[simp] theorem Memory.set_wf (m : Memory) (k : Nat) (v : Byte) (h : m.wf = true) : (m.set k v).wf = true :=
  Memory.set_wfAbove m 0 k v h (Nat.zero_le _)

@[simp] theorem Memory.nil_wf : Memory.wf [] = true := rfl

@[simp] theorem Memory.setBytes_wf (l : List Byte) (m : Memory) (a : Nat) (h : m.wf = true) :
    (m.setBytes a l).wf = true := by
  induction l generalizing m a with
  | nil => exact h
  | cons b l ih => exact ih _ _ (m.set_wf a b h)

@[simp] theorem Memory.setAll_wf (l : List (Nat × Byte)) (m : Memory) (h : m.wf = true) :
    (m.setAll l).wf = true := by
  induction l generalizing m with
  | nil => exact h
  | cons e l ih => exact ih _ (m.set_wf e.1 e.2 h)

@[simp] theorem Memory.write_wf (m : Memory) (a n v : Nat) (h : m.wf = true) :
    (m.write a n v).wf = true := m.setBytes_wf _ a h

theorem Memory.filter_wfAbove (m : Memory) (lo : Nat) (p : Host.Cell → Bool)
    (h : Memory.wfAbove lo m = true) : Memory.wfAbove lo (m.filter p) = true := by
  induction m generalizing lo with
  | nil => rfl
  | cons e t ih =>
    obtain ⟨a, b⟩ := e
    simp only [Memory.wfAbove, Bool.and_eq_true, decide_eq_true_eq] at h
    simp only [List.filter_cons]
    split
    · simp only [Memory.wfAbove, Bool.and_eq_true, decide_eq_true_eq]
      exact ⟨h.1, ih _ h.2⟩
    · exact ih lo (Memory.wfAbove_weaken t h.2 (by omega))

@[simp] theorem Memory.clear_wf (m : Memory) (a n : Nat) (h : m.wf = true) : (m.clear a n).wf = true :=
  m.filter_wfAbove 0 _ h

theorem Memory.shift_wfAbove (m : Memory) (lo a : Nat) (h : Memory.wfAbove lo m = true)
    (hm : ∀ e ∈ m, a ≤ e.1) : Memory.wfAbove (lo - a) (m.map (fun c => (c.1 - a, c.2))) = true := by
  induction m generalizing lo with
  | nil => rfl
  | cons e t ih =>
    obtain ⟨k, b⟩ := e
    simp only [Memory.wfAbove, Bool.and_eq_true, decide_eq_true_eq, List.map_cons] at h ⊢
    have hk : a ≤ k := hm (k, b) (by simp)
    refine ⟨⟨by omega, h.1.2⟩, ?_⟩
    exact Memory.wfAbove_weaken _ (ih (k + 1) h.2 (fun e he => hm e (by simp [he]))) (by omega)

@[simp] theorem Memory.window_wf (m : Memory) (a n : Nat) (h : m.wf = true) : (m.window a n).wf = true := by
  have h1 := m.filter_wfAbove 0 (fun c => a ≤ c.1 && c.1 < a + n) h
  have h2 := Memory.shift_wfAbove _ 0 a h1 (by
    intro e he
    have := (List.mem_filter.mp he).2
    simp only [Bool.and_eq_true, decide_eq_true_eq] at this
    exact this.1)
  simpa [Memory.wf, Memory.window] using h2

@[simp] theorem writeCells_wf (l : List (Nat × Nat × Nat)) (m : Memory) (base : Nat) (h : m.wf = true) :
    (writeCells m base l).wf = true := by
  induction l generalizing m with
  | nil => exact h
  | cons e l ih => exact ih _ (m.write_wf _ _ _ h)

@[simp] theorem saveBerth_wf (m : Memory) (k : Core) (area l p : Nat) (h : m.wf = true) :
    (saveBerth m k area l p).wf = true := by
  have h1 := Memory.setAll_wf ((k.hold.window (p * 65536) 65536).map (fun e =>
    (area + areaBerths + l * 65536 + e.1, e.2))) _ (m.clear_wf (area + areaBerths + l * 65536) 65536 h)
  exact Memory.write_wf _ _ _ _ (Memory.write_wf _ _ _ _ h1)

@[simp] theorem saveArea_wf (s : State) (c area : Nat) (fv : Bool) (h : s.mem.wf = true) :
    (saveArea s c area fv).wf = true := by
  unfold saveArea saveOverflow
  have h1 := writeCells_wf (areaCells s c fv) _ area (Memory.clear_wf s.mem area areaBerths h)
  split
  · exact h1
  · exact writeCells_wf _ _ _ (Memory.write_wf _ _ _ _ h1)

/-! ### What a list of bytes leaves -/

theorem Memory.get_setAll_other (l : List (Nat × Byte)) (m : Memory) (j : Nat) (h : m.wf = true)
    (hj : ∀ e ∈ l, e.1 ≠ j) : (m.setAll l).get j = m.get j := by
  induction l generalizing m with
  | nil => rfl
  | cons e l ih =>
    have h1 : (Memory.setAll (m.set e.1 e.2) l).get j = (m.set e.1 e.2).get j :=
      ih _ (m.set_wf _ _ h) (fun f hf => hj f (List.mem_cons_of_mem _ hf))
    have h2 : j ≠ e.1 := fun hh => hj e (by simp) hh.symm
    simpa [Memory.setAll, Memory.get_set m e.1 j e.2 h, h2] using h1

theorem Memory.get_setBytes (l : List Byte) (m : Memory) (a j : Nat) (h : m.wf = true) :
    (m.setBytes a l).get j =
      if a ≤ j ∧ j < a + l.length then (l[j - a]?).getD 0 else m.get j := by
  induction l generalizing m a with
  | nil => simp [Memory.setBytes]
  | cons b l ih =>
    simp only [Memory.setBytes, ih _ _ (m.set_wf a b h), Memory.get_set m a j b h, List.length_cons]
    by_cases h1 : a + 1 ≤ j ∧ j < a + 1 + l.length
    · rw [if_pos h1, if_pos (by omega)]
      obtain ⟨n, hn⟩ : ∃ n, j - a = n + 1 := ⟨j - a - 1, by omega⟩
      have : j - (a + 1) = n := by omega
      simp [hn, this]
    · rw [if_neg h1]
      by_cases h2 : j = a
      · subst h2; simp
      · rw [if_neg h2, if_neg (by omega)]

theorem Memory.get_setBytes_other (l : List Byte) (m : Memory) (a j : Nat) (h : m.wf = true)
    (hj : ¬(a ≤ j ∧ j < a + l.length)) : (m.setBytes a l).get j = m.get j := by
  rw [Memory.get_setBytes l m a j h, if_neg hj]

@[simp] theorem length_bytesOfNum (v n : Nat) : (bytesOfNum v n).length = n := by
  induction n generalizing v with
  | zero => rfl
  | succ n ih => simp [bytesOfNum, ih]

/-- Bytes written and read back make up the number written (R2). -/
theorem numOfBytes_bytesOfNum (v n : Nat) : numOfBytes (bytesOfNum v n) = v % 256 ^ n := by
  induction n generalizing v with
  | zero => simp [bytesOfNum, numOfBytes, Nat.mod_one]
  | succ n ih =>
    simp only [bytesOfNum, numOfBytes, ih, BitVec.toNat_ofNat]
    rw [show (256 : Nat) ^ (n + 1) = 256 * 256 ^ n from by rw [Nat.pow_succ, Nat.mul_comm], Nat.mod_mul]

theorem Memory.getBytes_setBytes (l : List Byte) (m : Memory) (a : Nat) (h : m.wf = true) :
    (m.setBytes a l).getBytes a l.length = l := by
  have key : ∀ (n i : Nat), i + n = l.length →
      (m.setBytes a l).getBytes (a + i) n = l.drop i := by
    intro n
    induction n with
    | zero => intro i hi; simp [Memory.getBytes, ← hi]
    | succ n ih =>
      intro i hi
      have hil : i < l.length := by omega
      simp only [Memory.getBytes, Memory.get_setBytes l m a _ h]
      rw [if_pos (by omega), Nat.add_sub_cancel_left, List.getElem?_eq_getElem hil, Nat.add_assoc,
        ih (i + 1) (by omega), Option.getD_some, List.getElem_cons_drop]
  simpa using key l.length 0 (by omega)

/-- A number written and read at the same address is the number, modulo the bytes written (R2). -/
theorem Memory.read_write (m : Memory) (a n v : Nat) (h : m.wf = true) :
    (m.write a n v).read a n = v % 256 ^ n := by
  have := Memory.getBytes_setBytes (bytesOfNum v n) m a h
  rw [length_bytesOfNum] at this
  simp [Memory.read, Memory.write, this, numOfBytes_bytesOfNum]

/-- Reset memory has the canonical form. -/
theorem State.reset_mem_wf : State.reset.mem.wf = true := rfl

end Sys2Proof.Machine
end

