-- ==== Sys2Proof/Laws/Vector.lean ====
section
/-!
SUPPORT. Lanes of entries: what a packed entry holds, what a lane-by-lane result holds, and the answer of a
vector instruction whose unit is free.
-/

namespace Sys2Proof.Machine

theorem packLanes_digit (w : Nat) (l : List Nat) (i : Nat) :
    packLanes w l / 2 ^ (w * i) % 2 ^ w = (l[i]?).getD 0 % 2 ^ w := by
  induction l generalizing i with
  | nil => simp [packLanes]
  | cons v l ih =>
    have hp : 0 < 2 ^ w := by positivity
    cases i with
    | zero => simp [packLanes]
    | succ i =>
      have : (v % 2 ^ w + 2 ^ w * packLanes w l) / 2 ^ w = packLanes w l := by
        rw [Nat.add_mul_div_left _ _ hp, Nat.div_eq_of_lt (Nat.mod_lt _ hp), Nat.zero_add]
      simp only [packLanes, Nat.mul_succ, Nat.pow_add, Nat.mul_comm (2 ^ (w * i)), ← Nat.div_div_eq_div_mul, this,
        ih, List.getElem?_cons_succ]

theorem laneOf_entryOf (w : Nat) (l : List Nat) (i : Nat) (h : i < 1024 / w) :
    laneOf (entryOf w l) w i = (l[i]?).getD 0 % 2 ^ w := by
  have hw : w * i + w ≤ 1024 := by
    have h1 : (i + 1) * w ≤ 1024 / w * w := Nat.mul_le_mul_right w h
    have h2 : 1024 / w * w ≤ 1024 := Nat.div_mul_le_self 1024 w
    nlinarith
  rw [← packLanes_digit]
  simp only [laneOf, entryOf, bits, BitVec.toNat_ofNat]
  apply Nat.eq_of_testBit_eq
  intro j
  simp only [Nat.testBit_mod_two_pow, Nat.testBit_div_two_pow]
  by_cases hj : j < w
  · have : j + w * i < 1024 := by omega
    simp [hj, this]
  · simp [hj]

theorem flags_fold (l : List (Nat × Flags)) (a : Flags) (n : Nat) :
    (l.foldl (fun fl e => fl ||| e.2) a).getLsbD n = true ↔
      a.getLsbD n = true ∨ ∃ e ∈ l, e.2.getLsbD n = true := by
  induction l generalizing a with
  | nil => simp
  | cons e l ih =>
    rw [List.foldl_cons, ih]
    simp [or_assoc]

theorem elements_fst (on : Nat → Bool) (g : Nat → Nat × Flags) (n i : Nat) (h : i < n) :
    ((elements on g n).1[i]?).getD 0 = if on i then (g i).1 else 0 := by
  simp only [elements, List.getElem?_map, List.getElem?_range h, Option.map_some, Option.getD_some]
  split <;> rfl

theorem elements_beyond (on : Nat → Bool) (g : Nat → Nat × Flags) (n i : Nat) (h : n ≤ i) :
    ((elements on g n).1[i]?).getD 0 = 0 := by
  have : (elements on g n).1[i]? = none := by
    simp only [elements, List.getElem?_eq_none_iff, List.length_map, List.length_range]; exact h
  rw [this]; rfl

theorem elements_flags (on : Nat → Bool) (g : Nat → Nat × Flags) (n k : Nat) :
    (elements on g n).2.getLsbD k = true ↔ ∃ i < n, on i = true ∧ (g i).2.getLsbD k = true := by
  simp only [elements, flags_fold, List.mem_map, List.mem_range]
  constructor
  · rintro (h | ⟨e, ⟨i, hi, rfl⟩, h⟩)
    · simp at h
    · refine ⟨i, hi, ?_⟩
      split at h
      · exact ⟨‹_›, h⟩
      · simp at h
  · rintro ⟨i, hi, ho, h⟩
    exact .inr ⟨_, ⟨i, hi, rfl⟩, by simp [ho, h]⟩

/-- A lane-by-lane result holds its values and flags. -/
theorem lanes_byLane (x : Ctx) (s : State) (g : Nat → Nat × Flags) :
    x.ByLane s x.f.typ.width g (x.lanes s g).1 (x.lanes s g).2 := by
  refine ⟨fun i hi => ?_, fun n => ?_⟩
  · simp only [Ctx.lanes, laneOf_entryOf _ _ _ hi, elements_fst _ _ _ _ hi]
    split <;> simp
  · exact elements_flags _ _ _ _

theorem byLane_congr {x : Ctx} {s : State} {w : Nat} {g g' : Nat → Nat × Flags} {e : Entry} {fl : Flags}
    (h : x.ByLane s w g e fl) (hg : ∀ i < 1024 / w, (g i).1 % 2 ^ w = (g' i).1 % 2 ^ w ∧ (g i).2 = (g' i).2) :
    x.ByLane s w g' e fl := by
  refine ⟨fun i hi => ?_, fun n => ?_⟩
  · rw [h.1 i hi, (hg i hi).1]
  · rw [h.2 n]
    constructor <;> rintro ⟨i, a, b, c⟩
    · exact ⟨i, a, b, by rw [← (hg i a).2]; exact c⟩
    · exact ⟨i, a, b, by rw [(hg i a).2]; exact c⟩

/-- A queue operation whose operands can be taken. -/
theorem queueBody_ok {lat : Nat} {g : Ctx → State → (Operand → Entry) → Entry × List Effect} {x : Ctx} {u : State}
    {k : Core} {es : List (Nat × Entry)}
    (h : x.takeQueues u (sourcePositions x.o x.f) (pushPosition x.o x.f) = .ok k es) :
    queueBody lat g x u = .done (match pushPosition x.o x.f with
      | some q => x.pushEntry (u.setCore x.c k) lat q (g x u (takenEntry es)).1 (g x u (takenEntry es)).2
      | none => x.result (u.setCore x.c k) lat (g x u (takenEntry es)).2) .seq := by
  unfold queueBody
  rw [h]
  dsimp only
  cases pushPosition x.o x.f <;> rfl

theorem vectorUnit_free {busy : Nat} {body : Ctx → State → Res} {x : Ctx} {u v : State} {flow : Flow}
    (h : x.unitFree u) (hb : body x u = .done v flow) :
    vectorUnit busy body x u = .done (x.unitTaken busy v) flow := by
  have : ¬ x.now < (u.core x.c).vecFree := by simpa [Ctx.unitFree] using h
  simp only [vectorUnit, this, if_false, hb, Ctx.unitTaken]

/-- A vector instruction over its queue operands. -/
theorem takesQueues_of {i : Bundle → Fields → Instr} {o : Op}
    {P : Ctx → State → State → (Operand → Entry) → State → Prop} (lat busy : Typ → Nat)
    (g : Ctx → State → (Operand → Entry) → Entry × List Effect)
    (hi : ∀ b f s, exec (i b f) s =
      issue o b f (fun x u => vectorUnit (busy x.f.typ) (queueBody (lat x.f.typ) g) x u) s)
    (h : ∀ x u v taken, x.o = o → P x u v taken (x.unitTaken (busy x.f.typ) (match pushPosition x.o x.f with
      | some q => x.pushEntry v (lat x.f.typ) q (g x u taken).1 (g x u taken).2
      | none => x.result v (lat x.f.typ) (g x u taken).2))) :
    TakesQueues i o Ctx.unitFree P := by
  intro b f s u hr hg k es hk
  refine ⟨_, exec_of_done _ hi hr (vectorUnit_free hg (queueBody_ok hk)), ?_⟩
  exact h (Ctx.of o b f s) u _ _ rfl

theorem mapsLanes_of {i : Bundle → Fields → Instr} {o : Op} {lat busy : Typ → Nat} {flagged : Typ → Bool}
    {g g' : Ctx → State → (Operand → Entry) → Nat → Nat × Flags}
    (hi : ∀ b f s, exec (i b f) s =
      issue o b f (fun x u => vectorUnit (busy x.f.typ) (queueBody (lat x.f.typ) (fun x u taken =>
        ((x.lanes u (g x u taken)).1,
          if flagged x.f.typ then [.flags x.st (x.lanes u (g x u taken)).2] else []))) x u) s)
    (h : ∀ x u taken, ∀ i < 1024 / x.f.typ.width, (g x u taken i).1 % 2 ^ x.f.typ.width = (g' x u taken i).1 % 2 ^ x.f.typ.width ∧
      (g x u taken i).2 = (g' x u taken i).2) :
    MapsLanes i o lat busy flagged g' := by
  refine takesQueues_of lat busy _ hi (fun x u v taken ho q hq => ?_)
  refine ⟨_, _, byLane_congr (lanes_byLane x u (g x u taken)) (h x u taken), ?_⟩
  rw [ho, hq]

end Sys2Proof.Machine
end

