-- ==== Sys2Proof/Tests/Slice0.lean ====
section
/-!
SUPPORT. The model's own tests: well-formedness, words written out from the encoding tables, single
instructions, and a state and operands that meet the hypotheses of each statement.
-/

namespace Sys2Proof.Tests

open Sys2Proof Sys2Proof.Machine

/-! ### Small states -/

/-- The literal bundle of five words without tokens. -/
def bun : Bundle := { push := .none, pop := .none, sync := false, words := 5 }

/-- The module after reset where a stream of a core issues from an FL = 0 page. -/
def on (c : Nat) (st : Stream) : State :=
  { State.reset with cur := { core := c, st, fl := false, bh := false } }

/-- Some registers of the issuing stream hold values. -/
def regs (l : List (Operand × Nat)) (s : State) : State :=
  l.foldl (fun s e => s.modStream s.cur.core s.cur.st (fun t => t.setReg e.1 (BitVec.ofNat 64 e.2))) s

/-- The issuing core is changed. -/
def core (g : Core → Core) (s : State) : State := s.modCore s.cur.core g

/-- Every queue has the issuing stream at both ends, and the first two hold one entry each. -/
def queued (v : Nat) (s : State) : State :=
  let r : QueueReg := { QueueReg.reset with slots := [(0, BitVec.ofNat 1024 v)], cnt := 1, rdy := [(0, true)] }
  core (fun k => { k with qmap := BitVec.ofNat 64 (0x5555555555555555 * s.cur.st.num), queues := [(0, r), (1, r)] }) s

/-- Virtual page 1 of the issuing core maps to the same physical page, with every permission. -/
def mapped (s : State) : State := core (fun k => { k with tlb := [placeEntry 0 1] }) s

/-- A result on its way. -/
def landing (st : Stream) (unit : Nat) (matrix : Bool) (es : List Effect) (s : State) : State :=
  core (fun k => { k with flight := [{ tick := 9, seq := 0, st, matrix, unit, locked := false, effects := es }] }) s

/-- The operation may act, and the state in which it does meets a condition. -/
def meets (o : Op) (f : Fields) (s : State) (g : Ctx → State → Bool) : Bool :=
  match (Ctx.of o bun f s).ready s with
  | some u => g (Ctx.of o bun f s) u
  | none => false

/-- Every operation may act with its fields. -/
def ready (s : State) (l : List (Op × Fields)) : Bool := l.all (fun e => meets e.1 e.2 s (fun _ _ => true))

/-- The queue operands can be taken together, with the unit free. -/
def takes (s : State) (l : List (Op × Fields)) : Bool :=
  l.all (fun e => meets e.1 e.2 s (fun x u => decide ((u.core x.c).vecFree ≤ x.now) &&
    match x.takeQueues u (sourcePositions e.1 e.2) (pushPosition e.1 e.2) with
    | .ok _ _ => true
    | _ => false))

/-- A destination and a type, the other fields zero. -/
def fields (d : Operand) (t : Typ) : Fields := { Fields.zero with dst := d, typ := t }

/-! ### Witnesses: scalar, vector and conversion statements -/

/-- A scalar operation of two sources: s5 from s6 and s7. -/
def two (t : Typ) : Fields := { fields (.s 5) t with sa := .s 6, sb := .s 7 }

theorem witness_AddSubMinMax : ready (on 0 .P)
    [(.add, two .i32), (.sub, two .n64), (.min, two .i8), (.max, two .i16), (.minn, two .n32), (.maxn, two .n8)] =
    true := by decide

theorem witness_Products : ready (on 0 .P) [(.mul, two .i64), (.mulh, two .i64), (.mulhn, two .n64)] = true := by decide

theorem witness_Divisions :
    (let l : List (Op × Fields) := [(.div, two .i32), (.divn, two .n32), (.rem, two .i64), (.remn, two .n64)]
     ready (on 0 .P) l && ready (landing .P 3 false [.reg .P (.s 9) 1] (on 0 .P)) l) = true := by decide

theorem witness_LogicWords : ready (on 0 .P) [(.and, two .untyped), (.or, two .untyped), (.xor, two .untyped),
    (.andn, { two .untyped with sb := .imm, imm := 0x80000000 })] = true := by decide

theorem witness_Shifts : ready (regs [(.s 7, 2 ^ 64 - 1)] (on 0 .P))
    [(.shl, two .n32), (.shr, two .n32), (.sra, two .i32), (.rot, two .n8)] = true := by decide

theorem witness_BitCounts : ready (on 0 .P) [(.clz, { two .i32 with sb := .s 0 }),
  (.popc, { two .n8 with sb := .s 0 })] =
    true := by decide

theorem witness_SelectLoadAddressFields : ready (on 0 .P)
    [(.sel, { two .untyped with sc := .p 1 }), (.ldi, fields (.s 5) .untyped),
      (.ldi, { fields (.s 5) .untyped with mod := 1 }),
     (.ldi, { fields (.s 5) .untyped with mod := 2 }), (.addr, { two .i32 with mod := 7 }),
     (.bfx, { two .n64 with sb := .s 0, imm := 0x3F00 }),
       (.bfi, { two .untyped with imm := 0x003F })] = true := by decide

theorem witness_PredicateResults : ready (on 0 .P)
    [(.cmp, { two .i32 with dst := .p 1 }), (.cmp, { two .n64 with dst := .p 15, mod := 23 }),
     (.plog, { fields (.p 1) .untyped with sa := .p 2, sb := .p 3, imm := 8 }),
     (.pmov, { fields (.p 1) .untyped with sa := .s 6 })] = true := by decide

/-- A queue operation of two sources: q1 from q0 and ^q1. -/
def lanes (t : Typ) : Fields := { fields (.q 1) t with sa := .q 0, sb := .peek 1 }

theorem witness_Conversions :
    (ready (on 0 .X) [(.cvt, { two .i32 with sb := .s 0, aux := 0x10 }), (.qtag, { two .f32 with sb := .s 0 }),
       (.fflag, { fields (.s 5) .untyped with mod := 1, imm := 31 }), (.fcls, { two .f32 with sb := .s 0 })] &&
     ready (landing .X 0 false [.flags .X 1] (on 0 .X)) [(.fflag, fields (.s 5) .untyped)] &&
     takes (queued 1 (on 0 .X))
       [(.cvtQ, { lanes .i32 with sb := .s 0, aux := 0x10 }), (.pack4, { lanes .f32 with sb := .s 7 }),
        (.pack8, { lanes .f16 with sb := .s 7 }), (.unpk4, { lanes .f32 with sb := .s 7, mod := 7 }),
        (.unpk8, { lanes .bf16 with sb := .s 7, mod := 1 }),
          (.qtag, { lanes .f32 with sb := .s 0 })]) = true := by decide

theorem witness_VectorArithmetic : takes (queued 5 (on 0 .X))
    [(.vadd, lanes .f32), (.vsub, lanes .i8), (.vmul, lanes .f16),
      (.vfma, { lanes .bf16 with sc := .s 7 })] = true := by decide

theorem witness_VectorMinMaxSign : takes (queued 5 (on 0 .X)) [(.vmin, lanes .f32), (.vmax, lanes .i8),
    (.vabs, { lanes .f16 with sb := .s 0 }), (.vneg, { lanes .i32 with sb := .s 0 })] = true := by decide

theorem witness_VectorLogicSelect : takes (queued 5 (on 0 .X))
    [(.vand, lanes .n32), (.vor, lanes .n8), (.vxor, lanes .n16), (.vshl, lanes .n32), (.vshr, lanes .n8),
     (.vsra, lanes .i16), (.vsel, { lanes .n8 with sc := .p 2 })] = true := by decide

theorem witness_VectorCompare : takes (queued 5 (on 0 .X))
    [(.vcmp, lanes .f32), (.vcmp, { lanes .n8 with dst := .p 3, mod := 23 })] = true := by decide

theorem witness_VectorElementary : takes (queued 5 (on 0 .X))
    [(.vexp2, { lanes .f32 with sb := .s 0 }), (.vlog2, { lanes .f16 with sb := .s 0 }),
      (.vrcp, { lanes .bf16 with sb := .s 0 }),
     (.vrsq, { lanes .f32 with sb := .s 0 }), (.vsqrt, { lanes .f32 with sb := .s 0 })] = true := by decide

theorem witness_VectorReductionsScans :
    (let one (d : Operand) (t : Typ) : Fields := { fields d t with sa := .q 0 }
     takes (queued 5 (on 0 .X))
      [(.vredSum, one (.s 5) .f32), (.vredSum, one (.q 1) .i8), (.vredMax, one (.s 5) .i32),
        (.vredMin, one (.q 1) .f16),
       (.vscanIncl, one (.q 1) .f32), (.vscanExcl, one (.q 1) .n8)]) = true := by decide

theorem witness_VectorMovesAndSelect :
    (let one (d : Operand) (t : Typ) : Fields := { fields d t with sa := .q 0 }
     let q := queued 5 (on 0 .X)
     takes q
      [(.vperm, lanes .n8), (.vbcast, { one (.q 1) .n8 with imm := 127 }), (.vmov, one (.q 1) .n32),
       (.viota, { fields (.q 1) .i32 with sa := .s 6 }), (.vkey, one (.q 1) .f32),
         (.vmovX, { one (.s 5) .n8 with imm := 127 }),
       (.vmovI, { lanes .n16 with sb := .s 7, imm := 63 }), (.vhist, { one (.s 0) .n32 with sb := .s 7, imm := 24 })] &&
     meets .vcut { two .untyped with sb := .s 0 } q (fun x u => (u.core x.c).vecFree ≤ x.now &&
       (u.core x.c).flight.isEmpty) &&
     [(Op.vadd, lanes .i32), (.vmov, one (.q 1) .n32), (.vcut, { two .untyped with sb := .s 0 })].all (fun e =>
       meets e.1 e.2 (core (fun k => { k with vecFree := 1 }) q) (fun x u => x.now < (u.core x.c).vecFree)) &&
     meets .vcut { two .untyped with sb := .s 0 } (landing .X 0 false [.hist false [3]] q) (fun x u =>
       !x.fl && (u.core x.c).flight.any (fun l =>
         l.effects.any (fun e => match e with | .hist _ _ => true | _ => false)))) =
    true := by decide

/-! ### Witnesses: memory and ordering statements -/

/-- The first hold offset that the frame area takes on a whole core. -/
def limit : Nat := 3129344

/-- The mapped bytes of an access meet a condition. -/
def maps (x : Ctx) (u : State) (k : AccessKind) (l : List Nat) (g : State → List Mapped → Bool) : Bool :=
  match x.mapBytes u k l with
  | .ok m ms => g m ms
  | _ => false

/-- The access is aligned, mapped and outside DC pages. -/
def plain (x : Ctx) (u : State) (k : AccessKind) (ea n : Nat) (g : State → List Mapped → Bool) : Bool :=
  match x.plainAccess u k ea n with
  | .ok m ms => g m ms
  | _ => false

/-- The taken entries of the operation meet a condition. -/
def taken (x : Ctx) (u : State) (g : Core → List (Nat × Entry) → Bool) : Bool :=
  match x.takeQueues u (sourcePositions x.o x.f) (pushPosition x.o x.f) with
  | .ok k es => g k es
  | _ => false

/-- No access of the issuing stream is pending. -/
def quiet (x : Ctx) (u : State) : Bool :=
  (u.core x.c).quiet x.st && (u.core x.c).settled x.st && !u.logStalls x.c x.st

/-- The last n bytes of the hold, from the base in s4, and of the mapped page. -/
def inHold (n : Nat) (s : State) : State := regs [(.s 4, limit - n)] s
def inPage (n : Nat) (s : State) : State := mapped (regs [(.s 4, 0x4000 - n)] s)

def load (t : Typ) (mod : BitVec 5) : Fields := { fields (.s 5) t with sa := .s 4, mod }
def store (t : Typ) (mod : BitVec 5) : Fields := { fields (.s 0) t with sa := .s 4, sb := .s 6, mod }

theorem witness_ScalarMemory :
    (let ok (x : Ctx) (u : State) : Bool := x.ea u % 4 = 0 && x.ea u + 4 ≤ (u.core x.c).holdLimit && quiet x u &&
       ((u.core x.c).badByte (addrsFrom (x.ea u) 4)).isNone
     meets .ld (load .i32 1) (inHold 4 (on 0 .P)) ok && meets .st (store .n32 1) (inHold 4 (on 0 .P)) ok &&
     meets .lds { load .i32 0 with sb := .s 7 } (regs [(.s 7, 3)] (inHold 4 (on 3 .P))) (fun x u =>
       ok x u && clusterBase x.c + (x.reg u x.f.sb).toNat = x.c) &&
     meets .ld (load .i32 0) (inPage 4 (on 0 .P)) (fun x u =>
       maps x u .load (addrsFrom (x.ea u) 4) (fun _ _ => true)) &&
     meets .st (store .n64 0) (inPage 8 (on 0 .P)) (fun x u => maps x u .store (addrsFrom (x.ea u) 8) (fun _ ms =>
       ms.all (fun p => p.kind != .dc))) &&
     let l (ea n : Nat) (d : LoadDest) : PLoad :=
       let parts := (List.range n).map (fun i => (i, ea + i, OrderKind.rc))
       { st := .L, seq := 1, parts, dest := d, acq := some .sys, origin := originOf ea n 0 (addrsFrom ea n), bundle := 0 }
     let s : State := { on 0 .L with mem := [(0x47, 0x80)] }
     let good (ea : Nat) (l : PLoad) (q : Nat × Nat) (last : Bool) : Bool := l.amo.isNone && l.err.isNone &&
       !(l.piece q true).parts.isEmpty && (l.piece q false).parts.isEmpty == last && l.parts.all (fun p => p.2.1 == ea + p.1) &&
       (l.piece q true).parts.all (fun p => p.2.2 == .rc && !isDevice p.2.1 && !s.rdcMayHold 0 p.2.1 .rc &&
         !s.badLines.contains (p.2.1 / 64))
     good 0x40 (l 0x40 8 (.reg (.s 31) true 8)) (0, 8) true && good 0x41 (l 0x41 8 (.reg (.s 31) true 8)) (0, 0x48) false &&
     (match (s.loadPiece 0 (l 0x40 8 (.reg (.s 31) true 8)) (0, 8)).stream 0 .L |>.reg (.s 31) with
      | v => v == 0x8000000000000000) &&
     isRegister (.s 31) && Operand.s 31 != .s 0 && Operand.s 31 != .p 0 && good 0x40 (l 0x40 8 (.entry 15 3 9)) (0, 8) true &&
     (let r : QueueReg := { QueueReg.reset with rdy := [(3, false)], rsv := [(3, 9)] }
      Tbl.get 0 r.rsv 3 = 9 && Tbl.get true r.rdy 3 = false)) = true := by decide

theorem witness_AccessTraps :
    ([(Op.ld, load .i32 1), (.st, store .n32 1)].all (fun e =>
       meets e.1 e.2 (inHold 3 (on 0 .P)) (fun x u => x.ea u % 4 != 0) &&
       meets e.1 e.2 (inHold 0 (on 0 .P)) (fun x u => x.ea u % 4 = 0 && (u.core x.c).holdLimit < x.ea u + 4)) &&
     [((Op.ld, load .i32 0), AccessKind.load), ((.st, store .n32 0), .store)].all (fun e =>
       meets e.1.1 e.1.2 (regs [(.s 4, 2 ^ 48)] (on 1 .P)) (fun x u =>
         match x.mapBytes u e.2 (addrsFrom (x.ea u) 4) with
         | .fault _ va => va = 2 ^ 48
         | _ => false))) = true := by decide

/-- A queue access at the base in s4, for the lanes of p1. -/
def spread (o d b c : Operand) (t : Typ) (mod : BitVec 5) : Fields :=
  { fields d t with sa := o, sb := b, sc := c, mod, pr := { inv := false, num := 1 } }

theorem witness_QueueMemory :
    (let hold (s : State) := regs [(.s 4, limit - 128), (.p 1, 2 ^ 31)] (queued 0 s)
     let page (s : State) := mapped (regs [(.s 4, 0x3F80), (.p 1, 2 ^ 31 + 1)] (queued 0 s))
     let both (x : Ctx) (u : State) := taken x u (fun _ _ => true) && quiet x u && x.ea u % 128 = 0
     meets .ldq (spread (.s 4) (.q 1) (.s 0) (.s 0) .n32 1) (hold (on 0 .L)) (fun x u =>
       both x u && x.laneOn u 32 31 && x.ea u + 124 + 4 ≤ (u.core x.c).holdLimit && (u.core x.c).badHold.isEmpty) &&
     meets .ldq (spread (.s 4) (.q 1) (.s 0) (.s 0) .n32 0) (page (on 0 .L)) (fun x u =>
       both x u && maps x u .load (addrsFrom (x.ea u) 4 ++ addrsFrom (x.ea u + 124) 4) (fun _ _ => true)) &&
     meets .ldgq (spread (.s 4) (.q 1) (.q 0) (.s 0) .n32 1) (hold (on 0 .L)) (fun x u =>
       both x u && x.ea u + 4 ≤ (u.core x.c).holdLimit && (u.core x.c).badHold.isEmpty) &&
     meets .ldgq (spread (.s 4) (.q 1) (.q 0) (.s 0) .n32 0) (page (on 0 .L)) (fun x u => both x u &&
       match x.checkLanes u .load [(0, x.ea u), (31, x.ea u)] with | .ok _ _ => true | _ => false) &&
     meets .stq (spread (.s 4) (.s 0) (.q 1) (.s 0) .n32 1) (hold (on 0 .S)) (fun x u =>
       both x u && x.ea u + 128 ≤ (u.core x.c).holdLimit) &&
     meets .stq (spread (.s 4) (.s 0) (.q 1) (.s 0) .n32 0) (page (on 0 .S)) (fun x u => both x u &&
       maps x u .store (addrsFrom (x.ea u) 4 ++ addrsFrom (x.ea u + 124) 4) (fun _ ms =>
         ms.all (fun p => p.kind != .dc))) &&
     meets .stsq (spread (.s 4) (.s 0) (.q 0) (.q 1) .n32 1) (hold (on 0 .S)) (fun x u =>
       both x u && x.ea u + 4 ≤ (u.core x.c).holdLimit) &&
     meets .stsq (spread (.s 4) (.s 0) (.q 0) (.q 1) .n32 0) (page (on 0 .S)) (fun x u => both x u &&
       match x.checkLanes u .store [(0, x.ea u), (31, x.ea u)] with
       | .ok _ l => l.all (fun e => e.ms.all (fun p => p.kind != .dc))
       | _ => false)) = true := by decide

/-- Die 0 has a leaf at 8, and a walk of the first page that has ended there, with what the fifth access of core 0 waits
for. -/
def walked (pte : Nat) (s : State) : State :=
  { s with mem := Memory.write [] 8 8 pte }.setDie 0 { Die.reset with
    walks := [{ asid := 0, page := 0, tbl := 0, lvl := 0, ended := some (.leaf pte 8 0), waiters := [(0, 4)] }] }

theorem witness_Prefetches :
    (let f : Fields := { load .untyped 0 with dst := .s 0 }
     let p (ahead : Bool) (va : Nat) : Prefetch := { who := 4, root := 0, va, ahead, meter := none, bundle := 0 }
     let found (va : Nat) (s : State) : Look := s.look 0 4 0 true .load va
     let entered (s : State) : State := { s.modCore 0 (fun k => { k with prefetches := [p true 0] }) with agenda := [.prefetch 0 4] }
     [(Op.pf, f), (.pfFr, f)].all (fun e => meets e.1 e.2 (on 0 .P) (fun x u => x.ea u = 0 && (u.core x.c).seq = 0) &&
       meets e.1 e.2 (inPage 1 (on 0 .P)) (fun x u => x.ea u = 0x3FFF)) &&
     (match found 0 (on 0 .P) with | .walk => true | _ => false) &&
     (match found (2 ^ 48) (on 0 .P) with | .fault e => e.cause != .memUncorr | _ => false) &&
     (match found 0x3FFF (inPage 1 (on 0 .P)) with | .ok _ none => true | _ => false) &&
     (match found 0 (walked 0x100F (on 0 .P)) with | .busy leaf => leaf = 8 | _ => false) &&
     (match found 0 (walked 0x80F (on 0 .P)) with | .away leaf => leaf = 8 | _ => false) &&
     (match found 0 ({ walked 0xF (on 0 .P) with mem := [] } : State) with | .stale => true | _ => false) &&
     (match found 0 (walked 0xF (on 0 .P)) with | .ok _ (some l) => l.addr = 8 | _ => false) &&
     (((entered (on 0 .P)).catchUp.core 0).prefetches.find? (fun q =>
       q.who == 4) == some (p true 0))) = true := by decide +kernel

theorem witness_Fences :
    ([Scope.core, .clus, .die, .dev, .sys].all (fun sc => meets (.fence sc) Fields.zero (on 0 .P) quiet &&
       meets (.fence sc) Fields.zero (core (fun k =>
         { k with stores := [{ st := .P, seq := 0, parts := [], rel := none, origin := [], bundle := 0 }] }) (on 0 .P))
         (fun x u => !(u.core x.c).quiet x.st))) = true := by decide

theorem witness_AcquireRelease :
    (let dcPage := core (fun k => { k with tlb := [{ placeEntry 0 1 with pte := (placeEntry 0 1).pte + 3 * 2 ^ 4 }] })
     let inDc (k : AccessKind) (x : Ctx) (u : State) : Bool := x.ea u % 8 = 0 &&
       maps x u k (addrsFrom (x.ea u) 8) (fun _ ms => ms.any (fun p => p.kind == .dc))
     [Scope.core, .clus, .die, .dev, .sys].all (fun sc =>
       meets (.acq sc) (load .n64 0) (inPage 8 (on 0 .P)) (fun x u => plain x u .load (x.ea u) 8 (fun _ _ => true)) &&
       meets (.rel sc) (store .n64 0) (inPage 8 (on 0 .P)) (fun x u =>
         plain x u .store (x.ea u) 8 (fun m _ => quiet x m)) &&
       meets (.acq sc) (load .n64 0) (inPage 1 (on 0 .P)) (fun x u => x.ea u % 8 != 0) &&
       meets (.rel sc) (store .n64 0) (inPage 1 (on 0 .P)) (fun x u => x.ea u % 8 != 0) &&
       meets (.acq sc) (load .n64 0) (dcPage (inPage 8 (on 0 .P)))
         (fun x u => inDc .load x u) &&
       meets (.rel sc) (store .n64 0) (dcPage (inPage 8 (on 0 .P))) (inDc .store)) &&
     meets .acqp { load .n64 0 with sb := .s 7 } (dcPage (inPage 8 (on 0 .P))) (fun x u => inDc .load x u &&
       (x.reg u x.f.sb).toNat ≤ 191) &&
     meets .acqp { load .n64 0 with sb := .s 7 } (inPage 1 (on 0 .P)) (fun x u => x.ea u % 8 != 0 &&
       (x.reg u x.f.sb).toNat ≤ 191) &&
     meets .acqp { load .n64 0 with sb := .s 7 } (regs [(.s 7, 191)] (inPage 8 (on 0 .P))) (fun x u =>
       (x.reg u x.f.sb).toNat ≤ 191 && plain x u .load (x.ea u) 8 (fun m _ => (m.core x.c).loads.isEmpty)) &&
     meets .acqp { load .n64 0 with sb := .s 7 } (regs [(.s 7, 192)] (inPage 8 (on 0 .P))) (fun x u =>
       191 < (x.reg u x.f.sb).toNat)) = true := by decide

/-- A task on the issuing core. -/
def task : Task :=
  { id := 1, launch := 7, index := 0, member := 0, convoy := 0, convoyId := none, eclass := 0, cls := 0, manifest := 0,
    handler := 0, needCaps := 0, parent := none, jctr := 0, mbytes := 0, mrem := 0, drec := 0, release := 0,
      budget := 0,
    period := 0, slips := 0, slipDone := false, twsExempt := false, dbbFirst := 0, dbbCnt := 0, started := 0, losses := 0 }

def tasked (t : Task) (s : State) : State := core (fun k => { k with task := some t }) s

/-- Two tasks of one convoy on cores 1 and 2; core 1 issues. -/
def pair (s : State) : State :=
  let t : Task := { task with convoyId := some 1 }
  let v : Convoy := { id := 1, launch := 7, size := 2, cores := [(0, 1), (1, 2)], gen := [], arrived := [], ended := [],
                      endedDc := [], endedFrom := [], endedMeter := [], saved := false, kept := [] }
  { (tasked t s).modCore 2 (fun k => { k with task := some { t with member := 1 } }) with convoys := [v] }

theorem witness_DualBackedBuffers :
    (let slot (b : Bool) (s : State) := (tasked task s).setSlot 63 { DbbSlot.reset with launch := some 7, bound := b }
     let f : Fields := { Fields.zero with imm := 63 }
     meets .dbb { f with sa := .s 4, sb := .s 5, sc := .s 6 }
       (regs [(.s 4, 2 ^ 48 - 2 ^ 31), (.s 5, 2 ^ 48 - 2 ^ 30), (.s 6, 2 ^ 30)] (slot false (on 0 .P)))
       (fun x u => (u.slot 63).launch = some 7 && !(u.slot 63).bound && !u.meetsSlots 0 (2 ^ 48 - 2 ^ 31) (2 ^ 30) &&
         !u.meetsSlots 0 (2 ^ 48 - 2 ^ 30) (2 ^ 30) && quiet x u) &&
     let turned (s : State) : State := s.setSlot 63 { s.slot 63 with sel := true }
     meets .dbbU { f with mod := 1 } (turned (slot true (on 0 .P))) (fun _ u => (u.slot 63).sel &&
       (u.slot 63).infl = 0) &&
     [(Op.dbbU, { f with mod := 1 }), (.publish, { f with dst := .s 5 })].all (fun e =>
       meets e.1 e.2 (slot true (on 0 .P)) (fun x u => (u.slot 63).bound &&
         (u.slot 63).asid = rootAsid (u.core x.c).ptroot &&
         (u.slot 63).infl = 0 && quiet x u))) = true := by decide

/-! ### Witnesses: copies and matrix statements -/

/-- A started copy of P on the issuing core with its mode bits, source, destination and bytes. -/
def copying (kind : CopyKind) (mod : BitVec 5) (sa sb n : Nat) (s : State) : Copy :=
  let x := Ctx.of .cpy1 bun { fields (.s 6) .untyped with mod := mod, imm := 0xF00 } s
  s.noteAims x.c { x.copyOf s kind [] with st := .P, started := true, sa := BitVec.ofNat 64 sa, sb := BitVec.ofNat 64 sb, sc := BitVec.ofNat 64 n }

/-- The bytes that a copy reads at its end, where it reads every one. -/
def bytesRead (s : State) (c : Nat) (cp : Copy) (l : List (Nat × Nat)) : Option (List Byte) :=
  ((s.orderCopy c cp).engineReads c cp l).2.mapM (fun b => match b with
    | .got b => some b
    | _ => none)

/-- Where the bytes of a copy go at its end. -/
def bytesGo (s : State) (c : Nat) (cp : Copy) (g : DestByte → Option (Nat × Nat)) : Option (List (List (Nat × Nat))) :=
  let u := ((s.orderCopy c cp).engineReads c cp cp.places).1
  (u.engineDests c cp (cp.dests cp.places.length)).2.mapM (fun l => l.mapM g)
def toHold : DestByte → Option (Nat × Nat)
  | .hold t a => some (t, a)
  | _ => none
def toMem : DestByte → Option (Nat × Nat)
  | .mem pa .rc va => some (pa, va)
  | _ => none

theorem witness_CopiesMove :
    (let f : Fields := { fields (.s 5) .untyped with sa := .s 4, sb := .s 6, sc := .s 7 }
     let free (x : Ctx) (u : State) (cp : Copy) : Bool := !x.enginesFull u cp
     meets .cpy1 f (regs [(.s 7, 2 ^ 31)] (on 0 .L)) (fun x u =>
       (x.copyTrap u (x.copyOf u (.linear 1) [])).isNone && free x u (x.copyOf u (.linear 1) [])) &&
     [(Op.cpy2, 2), (.cpy3, 3)].all (fun e => meets e.1 f (regs [(.s 7, limit - 32)] (on 0 .L)) (fun x u =>
       let block := (u.core x.c).shapeAt (limit - 32)
       let shape := if e.2 = 2 then block.set 2 1 else block
       (limit - 32) % 32 = 0 && !shapeBad (e.2 == 2) block && (u.core x.c).badHold.isEmpty &&
         (x.copyTrap u (x.copyOf u (.linear e.2) shape)).isNone && free x u (x.copyOf u (.linear e.2) shape))) &&
     meets .cpymc { f with mod := 2, imm := 0xF00 } (tasked task (regs [(.s 7, 0)] (on 1 .L))) (fun x u =>
       match x.copyTrap u (x.copyOf u .multicast []) with | none => true | some t => t.cause == .access) &&
     meets .cpymc { f with mod := 2, imm := 0x200 } (on 1 .L) (fun x u =>
       (x.copyTrap u (x.copyOf u .multicast [])).isNone && free x u (x.copyOf u .multicast [])) &&
     meets .cpyg { f with sb := .q 1 } (regs [(.s 4, limit - 4096 * 16), (.s 7, 4096)]
         (core (fun k => { k with qmap := 0x4444444444444444 }) (on 0 .L)))
       (fun x u => (x.reg u (.s 4)).toNat % 16 = 0 && !x.sourceDenied u (x.copyOf u .gather []) &&
         ((u.core x.c).gatherList (limit - 4096 * 16) 2).all (fun e => e.2 = 0 &&
           !(x.copyOf u .gather []).misaligned e.1))) =
    true ∧
    (let s : State := { pair (mapped (on 1 .P)) with mem := [(0x2101, 7)] }
     let held (k : Core) : Core := { k with hold := [(0x101, 9)], berths := [(0, 1)] }
     let s := (s.modCore 1 held).modCore 2 held
     let ends (cp : Copy) : Bool := cp.started && (s.core 1).copyOrdered cp && cp.queue.isNone && cp.failed.isNone &&
       cp.readList (s.core 1) (2 ^ 31) cp.sc.toNat == (cp, none) && (s.lostFail 1 cp).isNone && !s.sourceLost 1 cp
     let inside := copying (.linear 1) 3 0x100 0x20 2 s
     let outside := copying (.linear 1) 0 0x2100 0x2200 2 s
     let cast := copying .multicast 3 0x100 0x20 2 s
     let two : Copy := { copying (.linear 2) 3 0x100 0x20 0 s with shape := [2, 3, 1, 0, 8, 16] }
     let into : Copy := { copying (.linear 1) 1 0x100 0 128 s with queue := some 2 }
     ends inside = true ∧ bytesRead s 1 inside inside.places = some [0, 9] ∧
     bytesGo s 1 inside toHold = some [[(1, 0x20)], [(1, 0x21)]] ∧ 0x101 < (s.core 1).holdLimit ∧
     ends outside = true ∧ bytesRead s 1 outside outside.places = some [0, 7] ∧
     bytesGo s 1 outside toMem = some [[(0x2200, 0x2200)], [(0x2201, 0x2201)]] ∧
     [0x2101, 0x2200, 0x2201].all (fun a => !isDevice a && !s.rdcMayHold 0 a .rc && !s.badLines.contains (a / 64)) = true ∧
     ends cast = true ∧ cast.aims.length = 4 ∧
     (let few : Copy := { cast with aims := cast.aims.filter (fun a => a.core == 1 || a.core == 2) }
      ends few = true ∧ few.aims.all (fun a => !s.aimLost few a && s.aimRuns a && (a.core = 1 || s.sameConvoy 1 a.core)) = true ∧
      bytesRead s 1 few few.places = some [0, 9] ∧
      bytesGo s 1 few toHold = some [[(1, 0x20), (2, 0x20)], [(1, 0x21), (2, 0x21)]]) ∧
     [1, 2].all (fun t => (s.core t).hold.wf && Tbl.get 0 (s.core t).berths 0 != 0) = true ∧ s.mem.wf = true ∧
     two.dims = (2, 3, 1) ∧ two.sources = [0x100, 0x101, 0x108, 0x109, 0x110, 0x111] ∧
     two.dests 6 = [0x20, 0x21, 0x30, 0x31, 0x40, 0x41] ∧
     into.readList (s.core 1) (into.done + 127) into.sc.toNat = (into, none) ∧
     ((into.places.drop into.done).take 128).length = 128 ∧ (s.lostFail 1 into).isNone = true ∧
     (bytesRead s 1 into ((into.places.drop into.done).take 128)).isSome = true) := by decide +kernel

/-- A copy in flight of P with token 6. -/
def moving (started : Bool) (s : State) : State :=
  core (fun k => { k with copies := [{ (Ctx.of .cpy1 bun { fields (.s 6) .untyped with sa := .s 4 } s).copyOf s (.linear 1) []
    with st := .P, started := started }] }) s

theorem witness_CopyControl :
    (let named : Fields := { fields (.s 5) .untyped with imm := 24 }
     meets .cpyc { fields (.s 5) .untyped with mod := 1 } (moving false (on 0 .P)) (fun _ _ => true) &&
     [false, true].all (fun b => meets .cpyc named (moving b (on 0 .P)) (fun x u =>
       (u.core x.c).copies.any (fun c => c.st == .P && c.token == 6 && c.started == b))) &&
     meets .cpys named (moving true (on 0 .P)) (fun _ _ => true) && meets .cpys named (on 0 .P) (fun _ _ => true) &&
     meets .wait { Fields.zero with imm := 0xFF01FFFF } (moving true (on 0 .P)) (fun x u =>
       (u.core x.c).outstanding .P == [0, 0, 1, 0]) &&
     meets .wait { Fields.zero with imm := 0xFF00FFFF } (moving true (on 0 .P)) (fun x u =>
       (u.core x.c).outstanding .P == [0, 0, 1, 0])) =
    true := by decide

theorem witness_Q4PsumExact : tagE 8 ≠ 0 ∧ tagE 1016 ≠ 0 ∧ tagE 7 = 0 := by decide

/-- The hold of core 0 holds zeros without an error, so that no range of it is bad. -/
def blank (u : State) : Bool := (u.core 0).hold.isEmpty && (u.core 0).berths.isEmpty && (u.core 0).badHold.isEmpty

/-- An MMA of the hold's bytes from its start, with its columns in s6. -/
def mma (d : Operand) (t : Typ) : Fields := { fields d t with sa := .s 4, sb := .s 5, sc := .s 6, mod := 0 }

theorem witness_MatrixProducts :
    (let one (s : State) (g : Family → Ctx → State → Bool) : Bool :=
       [((Op.mmaQ4, mma (.pb 1) .q4), Family.q4), ((.mmaF8, mma (.pb 1) .f8), .f8), ((.mmaBf, mma (.acc 3) .bf16), .bf),
        ((.mmaH, mma (.acc 3) .f16), .h)].all (fun e => meets e.1.1 e.1.2 s (g e.2))
     let stamped (n t : Nat) : Bool := meets .mmaQ4 { mma (.pb 0) .q4 with mod := 2, aux := BitVec.ofNat 16 t }
       (regs [(.s 6, 16)] (({ on 0 .X with islands := [(0, { Island.reset with tick := n })] } : State)))
       (fun x u => x.stamp u = some t && x.now = n && x.stampKnown u && !x.mmaHeld u .q4 && blank u &&
         (x.rangesTrap u (x.mmaRanges u .q4 (x.mmaPlan u))).isNone)
     let unknown : Bool := meets .mmaQ4 { mma (.pb 0) .q4 with mod := 2 } (landing .X 1 true [.mbase 5] (on 0 .X))
       (fun x u => (x.stamp u).isSome && !x.stampKnown u)
     let free (fam : Family) (x : Ctx) (u : State) := (x.stamp u).isNone && !x.mmaHeld u fam
     one (regs [(.s 6, 16)] (on 0 .X)) (fun fam x u => free fam x u &&
       (x.rangesTrap u (x.mmaRanges u fam (x.mmaPlan u))).isNone && blank u) &&
     one (regs [(.s 6, 528)] (on 0 .X)) (fun fam x u => free fam x u && 512 < (x.mmaPlan u).n) &&
     one (on 0 .X) (fun fam x u => free fam x u && (x.mmaPlan u).n = 0) &&
     one (regs [(.s 6, 512), (.s 4, 8)] (on 0 .X)) (fun fam x u => free fam x u && (x.mmaPlan u).oa % 16 != 0) &&
     one (regs [(.s 6, 512), (.s 5, 8)] (on 0 .X)) (fun fam x u => free fam x u && (x.mmaPlan u).oa = 0 &&
       (x.mmaPlan u).ob % 16 != 0) &&
     stamped 5 5 && stamped 5 4 && stamped 5 6 && unknown) = true := by decide +kernel

theorem witness_AccumulatorOperations :
    (let ld : Fields := { fields (.acc 3) .f32 with sa := .s 4, sb := .s 6 }
     meets .scac { fields (.acc 3) .f32 with sa := .pb 1 } (on 0 .X) (fun x u => (u.core x.c).scacFree ≤ x.now &&
       !x.pending u 0 (Effect.onPb 1) && !x.pending u 2 (Effect.onAcc 3)) &&
     ready (on 0 .X) [(.accz, fields (.acc 3) .untyped), (.accz, fields (.pb 1) .untyped)] &&
     meets .accld ld (regs [(.s 4, limit - 64), (.s 6, 16)] (on 0 .X)) (fun x u =>
       let rows : List HoldRange := (List.range 64).map (fun _ => { core := some 0, off := limit - 64, size := 64 })
       (limit - 64) % 16 = 0 && (x.rangesTrap u rows).isNone && blank u && quiet x u)) = true := by decide +kernel

theorem witness_DrainAndEpilogue :
    (let free (x : Ctx) (u : State) : Bool := (u.core x.c).copies.isEmpty && (u.core x.c).epiFree ≤ x.now && quiet x u
     meets .drain { fields (.s 5) .f32 with sa := .s 4, sb := .s 6, sc := .acc 3 } (on 0 .S) (fun x u =>
       let cp : Copy := { x.copyOf u .drain [] with sc := 3 }
       (x.drainTrap u cp).isNone && !x.enginesFull u cp) &&
     meets .epi { Fields.zero with sa := .s 4 } (inHold 64 (on 0 .X)) (fun x u => free x u && x.ea u = limit - 64 &&
       limit ≤ (u.core x.c).holdLimit && blank u && eparamOk []) &&
     meets .maskld { Fields.zero with sa := .s 4 } (inHold 528 (on 0 .X)) (fun x u => free x u &&
       x.ea u = limit - 528 &&
       limit ≤ (u.core x.c).holdLimit && blank u && emaskOk []) &&
     let at' (heap hist : Nat) (s : State) : State := core (fun k =>
       { k with eparam := (Memory.write [] 0x10 8 heap).write 0x18 8 hist }) s
     let out (heap hist : Nat) (g : Nat → Nat → Nat → Bool) : Bool := meets .epiOut Fields.zero (at' heap hist (on 0 .X)) (fun x u =>
       free x u && !x.pending u 0 Effect.onEpi &&
         g ((u.core x.c).eparam.read 0x10 8 + 32768) ((u.core x.c).eparam.read 0x18 8 + 65536) (u.core x.c).holdLimit)
     out (limit - 32768) (limit - 65536) (fun a b l => a ≤ l && b ≤ l) &&
       out (2 ^ 22) 0 (fun a b l => l < a && b ≤ l) &&
     out 0 (2 ^ 22) (fun a b l => a ≤ l && l < b) &&
       out (2 ^ 22) (2 ^ 22) (fun a b l => l < a && l < b) &&
     let d : Copy := { (Ctx.of .drain bun { fields (.s 5) .f32 with sa := .s 4 } (on 0 .S)).copyOf (on 0 .S) .drain [] with sc := 3 }
     let s := core (fun k => { k with copies := [d] }) (on 0 .S)
     d.isDrain && !d.wsem && !d.epi && d.columns = 16 && d.elemBytes = 4 && (s.core 0).copies.any (fun q => q.id = d.id) &&
       (d.gotAt 0).isNone) = true := by decide +kernel

theorem witness_MatrixRegisters :
    (let sag : Fields := { fields .sgb .untyped with sa := .s 4, sb := .s 6, imm := 7 }
     let edge (a : Nat) (g : Nat → Bool) : Bool :=
       meets .sag sag (regs [(.s 4, a), (.s 6, 2 ^ 22 - 1)] (on 0 .X)) (fun x u => g (x.reg u (.s 4)).toNat)
     edge (2 ^ 22 - 2) (fun a => a % 2 = 0 && a < 2 ^ 22) && edge 1 (fun a => a % 2 = 1) &&
     edge (2 ^ 22) (fun a => a % 2 = 0 && 2 ^ 22 ≤ a) &&
     ready (on 0 .X) [(.sagRd, { fields (.s 5) .untyped with sa := .sga }),
       (.mstat, { fields (.s 5) .untyped with mod := 2, imm := 23 }),
       (.mstmp, { fields (.s 5) .untyped with sa := .imm }), (.mstmpAbs, { fields (.s 5) .untyped with sa := .s 6 })] &&
     meets .mstat (fields (.s 5) .untyped) (landing .X 1 true [.mflags 1] (on 0 .X)) (fun x u =>
       (u.core x.c).flight.any (fun l => l.st == x.st && l.matrix))) = true := by decide

/-! ### Witnesses: atomics, synchronisation, energy, charts and sampling -/

theorem witness_Atomics :
    (let f : Fields := { fields (.s 5) .i64 with sa := .s 4, sb := .s 6, mod := 18 }
     let n : Fields := { f with typ := .n64 }
     [(Op.amoAdd, f), (.amoAnd, f), (.amoOr, f), (.amoXor, f), (.amoMin, f), (.amoMax, f), (.amoMinn, n), (.amoMaxn, n),
       (.amoXchg, f), (.amoCas, { f with sc := .s 7 })].all (fun e =>
         meets e.1 e.2 (inPage 8 (on 0 .P)) (fun x u => plain x u .amo (x.ea u) 8 (fun m ms =>
           ms.all (fun p => isLpddr p.pa) && quiet x m)) &&
         meets e.1 e.2 (core (fun k =>
           { k with tlb := [{ placeEntry 0 1 with pte := 0x300000000000 + 2 ^ 56 + 2 ^ 9 + 2 ^ 8 + 0xF }] }) (inPage 8 (on 0 .P))) (fun x u =>
           plain x u .amo (x.ea u) 8 (fun _ ms => ms.any (fun p => !isLpddr p.pa)))) &&
     [4, 8].all (fun size =>
       let w : AmoWork := { fn := 9, size, signed := false, ser := false, b := 1, c := 0, rel := none }
       let parts := (List.range size).map (fun i => (i, 0x38 + i, OrderKind.rc))
       let origin := originOf 0x38 size 0 (addrsFrom 0x38 size)
       let l : PLoad :=
         { st := .P, seq := 1, parts, amo := some w, dest := .reg (.s 31) true size, acq := none, origin, bundle := 0 }
       (0x38 % size = 0) && (addrsFrom 0x38 size).all (fun a => !isDevice a) && !(on 0 .P).badLines.contains 0 &&
       (on 0 .P).dies.all (fun d => d.2.rdc.isEmpty) && Die.reset.rdc.isEmpty && (on 0 .P).mem.wf &&
       l.parts.map (fun p => p.2.1) == addrsFrom 0x38 size && l.origin.length = l.parts.length &&
       l.origin.all (fun o => (o.lane, o.piece) == (0, 7)) && !l.hasSo)) = true := by decide +kernel

theorem witness_Semaphores :
    (let f : Fields := { fields (.s 5) .untyped with sa := .s 4 }
     let few (n : Nat) (mod : BitVec 5) (g : Nat → Nat → Bool) : Bool :=
       meets .semw { f with mod, aux := 255 } (regs [(.s 4, n)] (core (fun k =>
         { k with sem := [(255, 65535)] }) (on 0 .P)))
         (fun x u => (u.core x.c).semw.isNone && (u.core x.c).swq.isEmpty &&
           g (x.rawZ u x.f.sa).toNat (Tbl.get 0 (u.core x.c).sem 255))
     let short (mod : BitVec 5) : Bool := meets .semw { f with mod } (regs [(.s 4, 65535)] (on 0 .P))
         (fun x u => Tbl.get 0 (u.core x.c).sem 0 < 65535)
     let lined (n : Nat) (mod : BitVec 5) (q : List Waiter) (g : Nat → Bool) : Bool :=
       meets .semw { f with mod, aux := 255 } (regs [(.s 4, n)] (core (fun k => { k with sem := [(255, 3)], swq := q }) (on 0 .P)))
         (fun x u => (u.core x.c).semw.isNone && (u.core x.c).swq.length = 2 &&
           (u.core x.c).swq.all (fun w => !(u.core x.c).sameTick x.now w) &&
           g ((u.core x.c).swq.filter (fun w => w.sem = 255)).length)
     let others : List Waiter := [.copy 3 9, .copy 254 11]
     let before : List Waiter := [.copy 255 9, .copy 3 11]
     meets .semi { f with sb := .s 6, aux := 255 } (regs [(.s 6, 6)] (pair (on 1 .P))) (fun x u =>
       x.selected u = some 2 && quiet x u) &&
     meets .semi { f with sb := .s 6 } (regs [(.s 6, 3)] (on 1 .P)) (fun x u => (x.selected u).isNone) &&
     few 65535 0 (fun n c => n ≤ c) && lined 3 0 others (fun n => n = 0) && lined 0 0 before (fun n => n = 1) &&
       lined 1 0 before (fun n => n = 1) && lined 1 8 before (fun n => n = 1) && lined 0 8 before (fun n => n = 1) &&
     few 65536 0 (fun n _ => 65535 < n) && short 8 && short 0 &&
     ready (on 0 .P) [(.sems, { f with aux := 255 }), (.semsR, fields (.s 5) .untyped)]) = true := by decide

/-- The instruction answers a next state in which its bundle has issued. -/
def issues (o : Op) (f : Fields) (s : State) : Bool :=
  match exec (o.instr bun f) s with
  | .next t => t.note == .issued
  | _ => false

theorem witness_BarriersAndMailboxes :
    (let b : Fields := { fields (.s 5) .untyped with mod := 1, aux := 15 }
     let arrive (m : Nat) : State := { pair (on 1 .P) with convoys := (pair (on 1 .P)).convoys.map (fun v => { v with ended := [m] }) }
     let may (x : Ctx) (u : State) : Bool := (u.convoyOn x.c).isSome && (u.core x.c).bar.isNone && quiet x u
     let full (k : Core) : Core := { k with mb := [(7, { slots := [], head := 0, cnt := 4 })] }
     let s : Fields := { fields (.s 0) .untyped with sa := .s 4, sb := .s 6, aux := 7 }
     let r : Fields := { fields (.s 5) .untyped with aux := 7 }
     let sent (u : State) : Option Nat := (u.core 1).mbsTo
     let under (g : List Nat) (s : State) : State :=
       { core (fun k => { k with mbsTo := some 1 }) s with convoys := s.convoys.map (fun v => { v with ended := g }) }
     let posted (s : State) : State := s.modCore 2 (fun k => { k with mail := [{ box := 7, value := 1, sender := 1, held := { b := bun, f := Fields.zero, a := 0, fl := false, bh := false } }] })
     meets .mbs s (posted (under [0] (regs [(.s 6, 6)] (pair (on 1 .P))))) (fun x u => sent u = some 1 &&
       (u.convoyOn x.c).any (fun g => !g.ended.contains 1) && u.cores.any (fun e => e.2.mail.any (fun q => q.sender = x.c))) &&
     meets .mbs s (posted (under [1] (regs [(.s 6, 6)] (pair (on 1 .P))))) (fun x u => sent u = some 1 &&
       (u.convoyOn x.c).any (fun g => g.ended.contains 1)) &&
     meets .mbs s (under [] (regs [(.s 6, 2)] (on 1 .P))) (fun x u => sent u = some 1 && (u.convoyOn x.c).isNone &&
       x.selected u = none) &&
     meets .mbs s (on 1 .P) (fun x u => sent u = none && x.selected u = some x.c && ((u.core x.c).mailbox 7).cnt = 0) &&
     meets .mbs s (core full (on 1 .P)) (fun x u => sent u = none && x.selected u = some x.c &&
       4 ≤ ((u.core x.c).mailbox 7).cnt) &&
     meets .bar b (on 0 .P) (fun x u => (u.convoyOn x.c).isNone) &&
     meets .bar b (pair (on 1 .P)) may && !issues .bar b (pair (on 1 .P)) && meets .bar b (arrive 1) may &&
       issues .bar b (arrive 1) &&
     meets .mbs s (on 1 .P) (fun x u => x.selected u = some x.c && ((u.core x.c).mailbox 7).cnt < 4 && quiet x u) &&
     meets .mbs { s with dst := .s 5, mod := 1 } (core full (on 1 .P)) (fun x u => x.selected u = some x.c &&
       4 ≤ ((u.core x.c).mailbox 7).cnt) &&
     meets .mbs s (regs [(.s 6, 6)] (pair (on 1 .P))) (fun x u => x.selected u = some 2 && (u.core 2).mail.isEmpty) &&
     meets .mbr r (core full (on 1 .P)) (fun x u => 0 < ((u.core x.c).mailbox 7).cnt) &&
     meets .mbr { r with mod := 1, sc := .p 1 } (on 1 .P) (fun x u => ((u.core x.c).mailbox 7).cnt = 0) &&
     meets .mbr r (on 1 .P) (fun x u => ((u.core x.c).mailbox 7).cnt = 0)) = true := by decide

theorem witness_EnergyInstructions :
    (let f : Fields := { fields (.s 5) .untyped with sa := .s 4 }
     let w : Fields := { f with sb := .s 6 }
     let self (c : Nat) (o : Op) (f : Fields) : Bool := meets o f (on c .P) (fun x u => x.reg u (.s 4) = 0)
     let write (o : Op) (imm : BitVec 32) (v : Nat) : Bool := meets o { w with imm } (regs [(.s 4, 87),
       (.s 6, v)] (on 0 .P))
       (fun x u => isFirmware x.c && (x.reg u (.s 4)).toNat = 87 && (x.reg u (.s 6)).toNat = v)
     self 1 .ebud f && self 1 .ejrdI f && self 1 .ecls f && self 1 .ethr f &&
     write .ebudW 1 16383 && write .ebudW 2 0 && write .ebudW 6 16 && write .ebudW 6 30 &&
       write .ebudW 7 4294967295 && write .ebudW 5 0 &&
     write .eclsW 15 16777215 && write .eclsW 15 16777216 && write .ethrW 0 13 && write .ethrW 0 14 &&
       write .ethrW 0 16 &&
     write .ebudW 1 16384 && write .ebudW 6 15 && write .ebudW 6 31 && write .ebudW 7 4294967296 &&
     meets .ebudW { w with imm := 2 } (regs [(.s 6, 2 ^ 40)] (on 0 .P)) (fun x u => x.reg u (.s 4) = 0 &&
       (let d := (((u.catchTides 0).island 0).seenBy x.c); d.pgrant.getD d.grant < 2 ^ 40)) &&
     ready (tasked task (on 1 .P)) [(.evar, fields (.s 5) .untyped), (.ejrd, fields (.s 5) .untyped),
       (.ejrdB, fields (.s 5) .untyped)] &&
     [Op.ebud, .ejrdI, .ecls, .ethr].all (fun o =>
       meets o f (regs [(.s 4, 64)] (on 1 .P)) (fun x u => !isFirmware x.c && x.reg u (.s 4) != 0)) &&
     [(Op.ebud, f), (.ebudW, { w with imm := 1 }), (.ejrdI, f), (.ecls, f), (.eclsW, w), (.ethr, f),
       (.ethrW, w)].all (fun e =>
       [63, 88].all (fun i =>
         meets e.1 e.2 (regs [(.s 4, i)] (on 0 .P)) (fun x _ => isFirmware x.c)))) = true := by decide

/-- Die 0 with slot 511 open under generation 1, and its handle in s4. -/
def charted (s : State) : State :=
  (regs [(.s 4, 65536 + 511)] s).setDie 0 { Die.reset with charts := [(511, { ChartSlot.reset with opn := true, gen := 1, log2c := 10 })] }

theorem witness_ChartInstructions :
    (let f : Fields := { fields (.s 5) .untyped with sa := .s 4 }
     let usable (x : Ctx) (u : State) : Bool := (x.handleDetail u (x.reg u x.f.sa)).isNone &&
       (u.chartOf (x.reg u x.f.sa)).moves.isEmpty && quiet x u
     [10, 20].all (fun e => meets .chtOpen { f with mod := 1 } (regs [(.s 4, e)] (on 0 .P)) (fun x u =>
       (u.core x.c).cbl.length < 8 && !((u.die 0).chart 0).opn && (u.die 0).openPositions + 2 ^ e ≤ 2 ^ 26 &&
         quiet x u)) &&
     meets .chtAppend { f with sb := .s 6, sc := .s 7 } (regs [(.s 6, limit - 4),
       (.s 7, 1)] (charted (on 0 .P))) (fun x u =>
       usable x u && (x.holdCheck u (limit - 4) 4 4 false).isNone && (u.core x.c).badHold.isEmpty) &&
     meets .chtClose f (charted (on 0 .P)) usable &&
     [(Op.chtProp, 80), (.chtPropt, 288)].all (fun e =>
       meets e.1 { f with dst := .ml 1, sb := .s 6, imm := 0x00104040 } (regs [(.s 6,
         limit - e.2)] (charted (on 0 .P))) (fun x u =>
         usable x u && (x.holdCheck u (limit - e.2) e.2 16 true).isNone)) &&
     [Op.chtSave, .chtLoad].all (fun o => meets o { f with sb := .s 6 } (charted (on 0 .P)) (fun x u =>
       (x.reg u (.s 6)).toNat % 64 = 0 && (x.handleDetail u (x.reg u (.s 4))).isNone)) &&
     (let line (k : Nat) (s : State) : State := s.setChart 0 511 { s.chartOf (65536 + 511) with
        moves := [{ save := true, core := k, token := 3, image := 0, slot := 511, asid := 0, seq := 0 }] }
      let behind (x : Ctx) (u : State) : Bool := (x.handleDetail u (x.reg u x.f.sa)).isNone && quiet x u &&
        (u.chartOf (x.reg u x.f.sa)).moves.length = 1 && (u.chartOf (x.reg u x.f.sa)).moves.all (fun m => !m.ofCore x.c)
      meets .chtClose f (line 5 (charted (on 0 .P))) behind &&
      meets .chtAppend { f with sb := .s 6, sc := .s 7 } (regs [(.s 7, 65536)] (line 5 (charted (on 0 .P)))) (fun x u =>
        (x.holdCheck u 0 (4 * 65536) 4 false).isNone && behind x u) &&
      [(Op.chtProp, 80), (.chtPropt, 288)].all (fun e =>
        meets e.1 { f with dst := .ml 1, sb := .s 6, imm := 0x00104040 } (line 5 (charted (on 0 .P))) (fun x u =>
          (x.holdCheck u 0 e.2 16 true).isNone && behind x u))) &&
     meets .chtClose f (on 0 .P) (fun x u => (x.handleDetail u (x.reg u (.s 4))).isSome) &&
     (let t : ChartSlot := { ChartSlot.reset with n := 6, log2c := 10, win := [(0, 5), (1, 6), (2, 7), (3, 6), (4, 5), (5, 6)] }
      let x := Ctx.of .chtPropt bun { f with imm := 0x00C44001 } (on 0 .P)
      let none' : ChartSlot := { t with n := 1 }
      (x.draftBlock t).2 = 2 && (x.draftBlock t).1.take 24 == [4, 0, 0, 0, 2, 0, 0, 0, 6, 0, 0, 0, 0, 0, 0, 0, 7, 0, 0, 0, 6, 0, 0, 0] &&
      (x.branchBlock t).2 = 2 && (x.branchBlock t).1.take 4 == [1, 0, 0, 0] && (x.draftBlock none').2 = 0)) = true := by decide +kernel

theorem witness_SamplingInstructions :
    (let f : Fields := { fields (.s 5) .untyped with sa := .s 4, sb := .s 6, sc := .s 7 }
     let row (x : Ctx) (u : State) (n a : Nat) (store : Bool) : Bool := (x.holdCheck u (limit - n) n a store).isNone && quiet x u &&
       (u.core x.c).badHold.isEmpty
     let one : Memory := Memory.write (Memory.write [] 0 4 1) 4 4 0x3F800000
     let weight (s : State) : State := core (fun k =>
       { k with hold := Memory.write one 8 8 0xFFFFFFFF, berths := [(0, 1)] }) s
     ready (on 0 .P) [(.rng, { f with mod := 3 })] &&
     meets .smpTemp { f with sb := .s 0, sc := .s 0 } (regs [(.s 4, 0x7F800000)] (on 0 .P)) (fun x u =>
       (modeWord (x.rawZ u (.s 4)).toNat).isSome) &&
     meets .smpTemp { f with sb := .s 0, sc := .s 0 } (regs [(.s 4, 0x80000001)] (on 0 .P)) (fun x u =>
       (modeWord (x.rawZ u (.s 4)).toNat).isNone) &&
     meets .smpFilt { f with imm := 64 } (regs [(.s 6, 0x3F800000), (.s 7, 2 * 2 ^ 32)] (weight (on 0 .P))) (fun x u =>
       row x u 512 8 true && !topPBad 0x3F800000 && ((u.core x.c).rowAt 0).all (fun e => !isNan32 (keyValue e.1))) &&
     meets .smpPick { f with sc := .s 0 } (regs [(.s 6, 0x3F7FFFFF)] (weight (on 0 .P))) (fun x u =>
       row x u 512 8 false && (tableDetail ((u.core x.c).rowAt 0) [0x3F7FFFFF]).isNone) &&
     meets .smpVer f (weight (on 0 .P)) (fun x u => row x u 512 8 false &&
       (tableDetail ((u.core x.c).rowAt 0) [0, 0]).isNone) &&
     meets .smpStop { f with sc := .s 0 } (regs [(.s 4, limit - 832)] (on 0 .P)) (fun x u => row x u 832 64 true &&
       !stopBad 0 0 0 ((u.core x.c).stopStrings (limit - 832) 0)) &&
     (let tab := [(0x3F800000, 7), (0x40000000, 9)]
      let ts : List StopString := [{ len := 2, start := 0, toks := [5, 6] }, { len := 1, start := 9, toks := [8] }]
      (modeWord 0x7FC00000).isNone && (modeWord 0xFF800000).isNone && (modeWord 0xBF800000).isNone &&
      modeWord 0x80000000 == some (0x3F800000 + 4294967296) && modeWord 0x7F800000 == some (0x3F800000 + 8589934592) &&
      modeWord 0x3F800000 == some 0x3FB8AA3B && drawToken tab 0 = 7 && drawToken tab 0x3F7FFFFF = 9 &&
      verifyDraft tab 9 0x3F000000 0 = 4294967296 + 9 && verifyDraft tab 7 0x3F000000 0 = 9 &&
      (filterRow [(0xBF800000, 3), (0xC0000000, 4)] 0x3F800000 0 1).length = 1 &&
      stopMatch ts [1, 5, 6] 0 == some (1, 0) && stopMatch ts [1, 8, 5] 0 == none && stopRelease ts [1, 8, 5] 0 = 2 &&
      stopMatch ts [8] 9 == some (0, 1))) = true ∧
    (Typ.f32.format.decode 0xBF800000).rat ≠ 0 ∧ (Typ.f32.format.decode 0x80000000).rat = 0 ∧
    (FVal.fin false 1 0).lt (Typ.f32.format.decode 0x40000000) = true := by
  refine ⟨by decide +kernel, ?_, ?_, by decide⟩
  · rw [show Typ.f32.format.decode 0xBF800000 = .fin true 8388608 (-23) by decide]; norm_num [FVal.rat]
  · rw [show Typ.f32.format.decode 0x80000000 = .fin true 0 (-149) by decide]; norm_num [FVal.rat]

/-! ### Witnesses: task and system statements -/

/-- Free values do not matter where there is one core to choose. -/
theorem pickSome_one (c n : Nat) : pickSome 1 [c] n = [c] := by simp [pickSome, Nat.mod_one]

/-- A launch of one T1 task, numbered n. -/
def launched (n cls : Nat) : Launch :=
  let m : Manifest := { parseManifest 0 [] with cls, count := 1 }
  { number := n, man := m, variant := none, asid := 0, root := 0, die := 0, source := none, srcSeq := 0, nextUnit := 0,
    ended := 0, slips := 0, variants := 0, energy := 0, cause := 0, failed := false, firstStart := some 0, passed := [],
    aged := [], completion := 0, granted := true }

/-- Core 1 runs a T2 task, the other cores of its island lack berths, and a T1 launch waits. -/
def crowded : State :=
  let t := { task with cls := 2 }
  let s := [2, 3, 4, 5, 6, 7].foldl (fun (s : State) c =>
    s.modCore c (fun k => { k with caps := 0 })) (tasked t (on 1 .P))
  { s with launches := [{ launched 7 2 with nextUnit := 1 }, launched 8 1] }

theorem crowded_mustYield : crowded.mustYield 1 = true := by
  have ranks : crowded.ranksAbove 0 { task with cls := 2 } = [(launched 8 1, .fresh 0)] := by decide
  have none' : (crowded.planFor 0 (launched 8 1) (.fresh 0) [] [1]).isSome = false := by decide
  have only : (islandCores 0).filter (crowded.coreFits [1] (launched 8 1).man) = [1] := by decide
  have unit : crowded.unitSpan 1 = [1] := by decide
  have shape : crowded.shape 0 1 (crowded.coreFits [1] (launched 8 1).man) = some [1] := by
    simp [State.shape, only, pickSome_one]
  have plan : crowded.planFor 0 (launched 8 1) (.fresh 0) [1] [] =
      crowded.fundPlan (launched 8 1) (.fresh 0) [1] [1] := by
    have size : (Head.fresh 0).size crowded (launched 8 1) = 1 := by decide
    have man : (launched 8 1).manifest (Head.fresh 0).ranVariant = (launched 8 1).man := rfl
    simp only [State.planFor, State.coresFor, size, man, shape]
  have fund : (crowded.fundPlan (launched 8 1) (.fresh 0) [1] [1]).isSome = true := by decide
  have t1 : (crowded.core 1).task = some { task with cls := 2 } := by decide
  have i1 : islandOf 1 = 0 := by decide
  simp [State.mustYield, t1, i1, ranks, unit, State.needsCores, plan, none', fund]

/-- At a slot of island 0 a T1 launch finds core 1 and no other core with the berths that it needs. -/
def slotted : State :=
  let s := [2, 3, 4, 5, 6, 7].foldl (fun (s : State) c => s.modCore c (fun k => { k with caps := 0 })) (on 1 .P)
  let w := ({ s with launches := [launched 8 1] } : State).catchTides 0
  let w := w.setIsland 0 { w.island 0 with slotTick := some 0, acted := true }
  w.launches.foldl State.grantSlots w

theorem slotted_chooses : ∃ p, slotted.chooseReady 0 193 = (slotted, some (launched 8 1, .fresh 0, p)) := by
  have ranks : slotted.ranked 0 = [(launched 8 1, .fresh 0)] := by decide
  have only : (islandCores 0).filter (slotted.coreFits [] (launched 8 1).man) = [1] := by decide
  have shape : slotted.shape 0 1 (slotted.coreFits [] (launched 8 1).man) = some [1] := by
    simp [State.shape, only, pickSome_one]
  have plan : slotted.planFor 0 (launched 8 1) (.fresh 0) [] [] = slotted.fundPlan (launched 8 1) (.fresh 0) [1] [] := by
    have size : (Head.fresh 0).size slotted (launched 8 1) = 1 := by decide
    have man : (launched 8 1).manifest (Head.fresh 0).ranVariant = (launched 8 1).man := rfl
    simp only [State.planFor, State.coresFor, size, man, shape]
  have fund : slotted.fundPlan (launched 8 1) (.fresh 0) [1] [] =
      some { cores := [1], kept := [], var := false, victims := [], ballast := [] } := by decide
  have chosen : slotted.chooseUnit 0 [(launched 8 1, .fresh 0)] false =
      some (launched 8 1, .fresh 0, { cores := [1], kept := [], var := false, victims := [], ballast := [] }) := by
    rw [State.chooseUnit, plan, fund]; rfl
  refine ⟨{ cores := [1], kept := [], var := false, victims := [], ballast := [] }, ?_⟩
  rw [show (193 : Nat) = 192 + 1 from rfl, State.chooseReady, ranks, chosen]
  rfl

/-- A manifest of one T1 task at 0x2000. -/
def manifest : Memory :=
  (((Memory.write [] 0x2000 4 0x00020000).write 0x2004 4 1).write 0x2008 4 1).write 0x2010 8 4

theorem witness_TaskInstructions :
    (let f : Fields := { fields (.s 5) .untyped with sa := .s 4 }
     let r := fields (.s 5) .untyped
     let record (s : State) : State := core (fun k => { k with hold := Memory.write [] 0 8 4, berths := [(0, 1)] }) s
     let good (x : Ctx) (u : State) : Bool := (x.holdCheck u 0 64 64 false).isNone && quiet x u &&
       (u.core x.c).badHold.isEmpty &&
       !((u.core x.c).taskRecord 0 0).bad
     let due (n : Nat) (s : State) : State := tasked { task with period := n } s
     let wait (mod : BitVec 5) (b : Nat) (k : Core → Core) : Bool := meets .waitb { f with typ := .n64, sb := .s 6, mod, imm := 4 }
       (core k (regs [(.s 6, b)] (inPage 8 (on 0 .P)))) (fun x u =>
         ((u.core x.c).waitLine.isNone || 4 ≤ x.now - (u.stream x.c x.st).waitStart.getD x.now) &&
           plain x u .load 0x3FF8 8 (fun m ms =>
         (m.core x.c).loadReady (x.waitLoad m 0x3FF8 ms) && m.badLines.isEmpty &&
           waitHolds (mod.toNat % 8) 64 0 b 0))
     meets .spawn f (record (on 1 .P)) (fun x u => good x u && (u.core x.c).ltq.length < 64 &&
       (u.core x.c).jcount != 65535) &&
     meets .spawn f (core (fun k => { k with jcount := 65535 }) (record (on 1 .P))) (fun x u => good x u &&
       (u.core x.c).jcount = 65535) &&
     meets .joinw { r with imm := 65535 } (core (fun k => { k with jcount := 65535 }) (on 1 .P)) (fun x u =>
       (u.core x.c).jcount ≤ 65535) &&
     meets .joinw r (core (fun k => { k with jcount := 1 }) (on 1 .P)) (fun x u => 0 < (u.core x.c).jcount) &&
     meets .launch f { mapped (regs [(.s 4, 0x2000)] (on 0 .P)) with mem := manifest } (fun x u => quiet x u &&
       match u.readManifest 0 0 0 true 0x2000 { count := none, cls := none, arg := none, completion := none } with
       | .ok w _ _ => w.freeEntries 0 != 0 && !w.logStalls x.c x.st
       | _ => false) &&
     (let man : Manifest := { parseManifest 0 [] with count := 1 }
      let held (s : State) : State := core (fun k => { k with launching := some (man, none) }) s
      meets .launch f (held (on 0 .P)) (fun x u => (u.core x.c).launching == some (man, none) &&
        u.freeEntries 0 != 0 && !u.logStalls x.c x.st) &&
      meets .launch f ({ mapped (regs [(.s 4, 0x2000)] (on 0 .P)) with mem := manifest, launches := List.replicate 1024 (launched 8 1) } : State) (fun x u => (u.core x.c).launching.isNone &&
       match u.readManifest 0 0 0 true 0x2000 { count := none, cls := none, arg := none, completion := none } with
       | .ok w _ _ => w.freeEntries 0 = 0
       | _ => false)) &&
     meets .yield r (on 1 .P) (fun x u => !u.mustYield x.c) && meets .yield r crowded (fun _ _ => true) &&
     meets .ttrel r (due 0 (on 1 .P)) (fun x u => (u.core x.c).task.any (fun t => t.cls = 0 && t.period = 0)) &&
     meets .ttrel r { due 10 (on 1 .P) with refTime := 10 * 10000 } (fun x u => (u.core x.c).task.any (fun t =>
       t.cls = 0 && t.period = 10 && (t.release + t.period == u.frameOf x.c))) &&
     meets .ttrel r (tasked { task with cls := 1 } (on 1 .P)) (fun x u =>
       (u.core x.c).task.all (fun t => t.cls != 0)) &&
     wait 0 0 id && wait 3 1 id && wait 2 (2 ^ 63 + 1) id) = true := by decide +kernel

theorem witness_SystemInstructions :
    (let r := fields (.s 5) .untyped
     let f : Fields := { r with sa := .s 4, sb := .s 6 }
     let sw (n : Fin 26) (v : Nat) (g : Bool) : Bool :=
       meets .swreg { Fields.zero with dst := .special n, sa := .s 4 } (regs [(.s 4, v)] (on 0 .P)) (fun _ _ => g)
     let busy := (on 0 .P).modCore 191 (fun k => { k with task := some task })
     ready (on 0 .P) [(.trap, { Fields.zero with imm := 0xFFFF }), (.trapFw, { Fields.zero with imm := 1 }),
       (.eret, Fields.zero),
       (.sreg, { r with sa := .special 25 })] &&
     [(Op.trap, false), (.trapFw, true)].all (fun e =>
       let brk : TrapInfo := { cause := .brk, code := 1, svc := e.2, async := true }
       let f : Fields := { Fields.zero with imm := 1 }
       let l : PLoad := { st := .P, seq := 1, parts := [(0, 0, .rc)], dest := .reg (.s 5) false 1, acq := some .dev, origin := originOf 0 1 0 [0], bundle := 0 }
       let asks (s : State) : State := (core (fun k => { k with loads := [l] }) s).modCore 7 (fun k =>
         { k with requests := [{ source := 1, seq := 1, covers := none }] })
       meets e.1 f (tasked task (on 1 .P)) (fun x u => !u.mustDefer x.c brk) &&
       meets e.1 f (asks (tasked task (on 1 .P))) (fun x u => u.mustDefer x.c brk)) &&
     sw 17 4 true && sw 22 1 true && sw 6 20 true && sw 6 1000 true && sw 14 2 true &&
     meets .tlbi Fields.zero (on 0 .P) (fun x u => (u.core x.c).tlbWait.isNone) &&
     meets .ctxs f (regs [(.s 4, 65536), (.s 6, 191)] busy) (fun _ u => !isFirmware 191 && (u.core 191).task.isSome) &&
     meets .ctxl f (regs [(.s 4, 65536), (.s 6, 191)] (on 0 .P)) (fun _ u => (u.core 191).task.isNone &&
       !u.claimed 191 &&
       u.areaFits 65536 191 && u.chartsFit 65536 191) &&
     meets .ctxl { f with mod := 1 } (regs [(.s 4, 65536), (.s 6, 191)] (on 0 .P)) (fun _ u =>
       (u.placeFrom 65536 191).isSome) &&
     meets .idle r (core (fun k => { k with evl := 8 }) (on 0 .P)) (fun x u =>
       idleReason (u.core x.c).evl false == some 5) &&
     meets .idle r (on 0 .P) (fun x u => idleReason (u.core x.c).evl false == none) &&
     meets .idleM r busy (fun x u => !u.mayMoor x.c) &&
       meets .idleM r (on 0 .P) (fun x u => u.mayMoor x.c)) = true := by decide +kernel

/-! ### Witnesses: control and event statements -/

/-- The module where the issuing page has BH = 1. -/
def branchy (s : State) : State := { s with cur := { s.cur with bh := true } }

/-- The issuing stream is at an address. -/
def placed (a : Nat) (s : State) : State := s.modStream s.cur.core s.cur.st (fun t =>
  { t with pc := BitVec.ofNat 48 a })

theorem witness_Transfers :
    (let near (o : Op) (mod : BitVec 5) (imm : BitVec 32) (v : Nat) (bh : Bool) : Bool :=
       let s := regs [(.s 4, v)] (on 0 .P)
       meets o { (if o = .jal ∨ o = .jalr then fields (.s 5) .untyped else Fields.zero) with
                 sa := if o = .br ∨ o = .jal then .s 0 else .s 4, mod,
                   imm } (if bh then branchy s else s) (fun _ _ => true)
     let native (o : Op) : Bool := meets o { fields (.s 5) .untyped with sa := if o = .jal then .s 0 else .s 4 } (placed 0x2000 (mapped (on 0 .P)))
       (fun x u => match x.nativeLink u with | .known _ a => a = 0x201C | _ => false)
     [(Op.jal, true), (.jalr, false)].all (fun e =>
       meets e.1 { fields (.s 5) .untyped with sa := if e.2 then .s 0 else .s 4 }
       (placed 0x2000 (core (fun k =>
         { k with tlb := [{ placeEntry 0 1 with pte := (placeEntry 0 1).pte - 8 }] }) (on 0 .P))) (fun x u =>
           match x.nativeLink u with | .later => true | _ => false)) &&
     near .br 0 4 0 true && near .br 0 2 0 true && near .brz 0 4 0 true && near .brz 2 4 1 true &&
       near .brz 0 4 1 true &&
     near .brz 0 1 0 true && near .jmp 0 0 (2 ^ 48 - 4) true && near .jmp 0 1 0 true && near .jal 0 4 0 true &&
       near .jal 0 1 0 true &&
     near .jalr 0 0 8 true && near .jalr 0 1 0 true && native .jal && native .jalr) = true := by decide

theorem witness_Sequencer :
    (let x := Ctx.of .nop bun Fields.zero (placed 0 (on 0 .P))
     let looped (n : Nat) (s : State) : State := s.modStream 0 .P (fun t =>
       { t with lact := [(3, true)], lexit := [(3, 20)], lc := [(3, BitVec.ofNat 64 n)] })
     let slot (n : Nat) (s : State) : State := s.modStream 0 .P (fun t =>
       { t with pend := BitVec.ofNat 2 n, link := some (.s 5) })
     (on 0 .P).tickOf 0 = x.now && ((on 0 .P).stream 0 .P).pend = 0 && ((slot 1 (on 0 .P)).stream 0 .P).pend = 1 &&
     ((slot 1 (on 0 .P)).stream 0 .P).link == some (.s 5) && ((slot 2 (on 0 .P)).stream 0 .P).pend = 2 && x.next = 20 &&
     (let t := (looped 1 (on 0 .P)).stream 0 .P
      (List.range 4).all (fun k =>
        !(Tbl.get false t.lact k && (Tbl.get 0 t.lexit k).toNat == x.next) || (Tbl.get 0 t.lc k).toNat ≤ 1) &&
      (Tbl.get false t.lact 3 && (Tbl.get 0 t.lexit 3).toNat == x.next)) &&
     (let t := (looped 2 (on 0 .P)).stream 0 .P
      Tbl.get false t.lact 3 && (Tbl.get 0 t.lexit 3).toNat = x.next && !(Tbl.get false t.lact 2) &&
        (Tbl.get 0 t.lc 3).toNat = 2)) = true := by decide

theorem witness_StreamControl :
    (let lp (aux : BitVec 16) (imm : BitVec 32) (sa : Operand) : Bool :=
       meets .loop { fields (.lc 3) .untyped with mod := if sa = .s 0 then 1 else 0, sa, aux, imm } (on 0 .P) (fun _ _ => true)
     let idle (x : Ctx) (u : State) : Bool := [Stream.L, .X, .S].all (fun st => !(u.core x.c |>.stream st).run) &&
       (u.core x.c).loads.isEmpty && (u.core x.c).stores.isEmpty && (u.core x.c).flight.isEmpty &&
         (u.core x.c).copies.isEmpty
     let fb : Memory := (Memory.write [] 0 8 4).write 24 8 0xAAAAAAAA
     let tok (o : Op) (mod : BitVec 5) (imm : BitVec 32) (s : State) (g : Ctx → State → Bool) : Bool :=
       meets o { (if o = .tokw then fields (.s 5) .untyped else Fields.zero) with mod, imm, aux := 1 } s g
     let sent (n : Nat) (s : State) : State := core (fun k => k.setFifo .L .P n) s
     ready (on 0 .P) [(.nop, Fields.zero)] && lp 0xFFFF 24 (.s 0) && lp 0 1048576 (.s 4) && lp 0 24 (.s 0) &&
     meets .fork { Fields.zero with sa := .s 4 } (core (fun k =>
       { k with hold := fb, berths := [(0, 1)] }) (on 0 .P)) (fun x u =>
       (x.holdTrap u 0 32 8).isNone && forkEntries ((u.core x.c).holdRead 0 32) == [(.L, 4)] &&
         (u.core x.c).argsFree false .L &&
       (u.core x.c).argsFree x.fl .P &&
         (List.range 16).all (fun q => !(u.core x.c).rebindBreaks q (0xAAAAAAAA / 16 ^ q % 16))) &&
     meets .qbind { fields (.q 15) .untyped with aux := 5 } (on 0 .P) (fun x u => !(u.core x.c).rebindBreaks 15 5) &&
     meets .join Fields.zero (on 0 .P) (fun x u => idle x u && (u.core x.c).queues.isEmpty) &&
     meets .join Fields.zero (queued 1 (on 0 .P)) (fun x u => idle x u && ((u.core x.c).queueReg 1).cnt != 0) &&
     meets .join Fields.zero ((on 0 .P).modStream 0 .S (fun t => { t with run := true })) (fun x u => !idle x u) &&
     meets .joinD Fields.zero (queued 1 (on 0 .P)) idle && ready (on 0 .X) [(.halt, Fields.zero)] &&
     meets .halt Fields.zero (on 0 .P) (fun x u => idle x u && quiet x u && (u.core x.c).charts.isEmpty &&
       (u.core x.c).jcount = 0) &&
     tok .tokp 0 15 (on 0 .P) (fun x u => (u.core x.c).fifoCount .P .L + 15 ≤ 15) &&
     tok .tokp 0 1 (core (fun k => k.setFifo .P .L 15) (on 0 .P)) (fun x u => 15 < (u.core x.c).fifoCount .P .L + 1) &&
     (let s := core (fun k => k.setFifo .P .L 10) (on 0 .P)
      let f : Fields := { Fields.zero with imm := 5, aux := 1 }
      let x := Ctx.of .tokp { bun with push := .next } f s
      namedStream .P .next == some .L && (match x.ready s with
      | some u => 15 < (u.core x.c).fifoCount .P .L + 5 + 1
      | none => false)) &&
     tok .tokw 0 15 (sent 15 (on 0 .P)) (fun x u => 15 ≤ (u.core x.c).fifoVisible x.now .L .P) &&
     tok .tokw 1 1 (sent 1 (on 0 .P)) (fun x u => 1 ≤ (u.core x.c).fifoVisible x.now .L .P) &&
       tok .tokw 2 0 (on 0 .P) (fun _ _ => true) &&
     tok .tokw 0 15 (sent 14 (on 0 .P)) (fun x u => (u.core x.c).fifoVisible x.now .L .P < 15) &&
     meets .tmpl { Fields.zero with sa := .s 4, aux := 62 } (inHold 16 (on 0 .P)) (fun x u =>
       (x.holdTrap u (x.ea u) 16 16).isNone &&
       (u.core x.c).badHold.isEmpty)) = true := by decide

/-- A bundle of P that waits beyond its issue. -/
def held (imm : BitVec 32) : HeldBundle := { b := bun, f := { Fields.zero with imm }, a := 0, fl := false, bh := false }

theorem witness_CoreEvents :
    (let at0 : List Origin := originOf 0 1 0 [0]
     let l : PLoad := { st := .P, seq := 1, parts := [(0, 0, .rc)], dest := .reg (.s 5) false 1, acq := none, origin := at0, bundle := 0 }
     let k : Core := { Core.reset with
       loads := [l, { l with seq := 3, parts := [], got := [(0, 7)], origin := [] }],
       stores := [{ st := .L, seq := 2, parts := [(0, 1, .rc)], rel := none, origin := at0, bundle := 0 }],
       log := [{ st := .X, seq := 0 }, { st := .L, seq := 2 }], widening := some (1, 0),
         requests := [{ source := 0, seq := 9, covers := none }],
       mail := [{ box := 0, value := 1, sender := 2, held := held 0 }] }
     let s : State := { on 191 .P with refTime := 2000 }.setCore 191 k
     let waiting (o : Op) : State := core (fun k => { k with held := some (o, held 0) }) (on 1 .P)
     let stuck := ((on 1 .P).modStream 1 .X (fun t =>
       { t with run := true, wait := .sync, atSync := true })).modStream 1 .P (fun t =>
         { t with run := true, wait := .pop .X })
     let warned (inh : Bool) : Core := { k with warnDue := true, inh := inh }
     let drain : Copy := { (Ctx.of .drain bun Fields.zero (on 1 .S)).copyOf (on 1 .S) .drain [] with sc := 1 }
     let copied (started : Bool) : State := { moving started (on 1 .P) with islands := [(0, { Island.reset with tick := 4 })] }
     (stuck.core 1).running.length = 2 &&
       (stuck.core 1).running.all (fun st => (stuck.core 1).blocked st ((stuck.core 1).stream st).wait) &&
     !stuck.mustDefer 1 { cause := .crewDeadlock, async := true } &&
     k.loads.all (fun m => !s.promotionOpen 191 m.seq &&
       (if m.parts.isEmpty then s.loadReady 191 m else !(s.loadPieces 191 m).isEmpty)) &&
     k.stores.all (fun y => !(k.storePieces y).isEmpty) &&
       [true, false].all (fun b => (warned b).loading.isNone && (warned b).warnDue && (warned b).inh == b) &&
     (k.log.take 1).all k.released && (k.log.take 2).any (fun e => !k.released e) && 0 + 2000 ≤ s.timeOf 191 &&
       k.requests.any (fun r => r.covers.isNone) &&
     k.mail.all (s.mailReady 191) && !s.gated &&
     ((copied true).core 1).copies.all (fun cp => !cp.wsem && cp.token = 6 && cp.started) &&
     ((copied false).core 1).copies.all (fun cp => !cp.isDrain && (copied false).copyMayStart 1 cp) &&
     drain.isDrain && { copied false with cores := [(1, { Core.reset with copies := [drain] })] }.copyMayStart 1 drain &&
     ((copied true).core 1).copies.all (fun cp =>
       let q : Copy := { cp with queue := some 0, sc := 128 }
       ({ copied true with cores := [(1, { Core.reset with copies := [q] })] } : State).mayDeliver 1 q 0) &&
     [Op.idle, .ttrel, .waitb].all (fun o => (waiting o).waitsIn 1 o) &&
     (held 0).f.imm.toNat ≤ (waiting .waitb).tickOf 1 - ((waiting .waitb).stream 1 .P).waitStart.getD ((waiting .waitb).tickOf 1)) = true := by decide

theorem witness_TaskAndQueueEvents :
    (let l := { launched 7 1 with man := { (launched 7 1).man with deadline := 1 } }
     let r : SpawnRecord := { entry := 4, args := [], sp := 0, parent := 1, seq := 0 }
     let p := core (fun k => { k with ltq := [r], parentWait := some 0 }) (tasked task (on 1 .P))
     let s : State := { p with launches := [l], refTime := 10000 }
     let w : State := { on 0 .P with launches := [launched 8 1, launched 9 1] }
     let op : CtxOp := { save := true, area := 65536, token := 5, convoy := false, targets := [1], tasks := [1] }
     let gone (s : State) : State := s.modCore 1 (fun k => { k with yielded := true, halted := true })
     ((gone p).core 1).halted && ((gone p).core 1).yielded && (gone p).unitCores 1 == [1] && (gone p).strikeReady 1 &&
       op.targets.all p.strikeReady &&
     ({ HostQueue.reset with bells := [5] } : HostQueue).bells.head? == some 5 &&
     s.deadlineDue l && (s.launch? 7 == some l) &&
     (let w := s.catchTides 0
      match w.overdueRecord 1 with
      | some (l, r, t) => (w.fundPlan l (.record 1 r t) [1] (w.unitSpan 1)).any w.planReady && !w.gated
      | none => false) &&
     (((State.reset.catchTides 0).chooseUnit 0 ((State.reset.catchTides 0).ranked 0) false).isNone) &&
     ((w.catchTides 0).ranked 0).length = 2 &&
     ((core (fun k => { k with ctxOps := [op] }) (on 0 .P)).openOp 1 true == some (0, op)) &&
     (s.island 23).tick % 16 = 0 && (s.island 23).slotTick != some 0 && !(s.island 23).stop && !s.thermal &&
       !s.moored) = true := by decide

theorem witness_ModuleEvents :
    (let s : State := { on 0 .P with
       pager := [{ leaf := 8, pageIn := true, ahead := none }, { leaf := 16, pageIn := false, ahead := none }],
         mem := Memory.write [] 8 8 (0x2000 + 15),
       thermal := true, moored := true, moorWake := some 0, windows := [(3, { base := 0, size := 64 })], booted := true,
       islands := [(23, { Island.reset with tick := 4096, tws := true })] }
     let e := s.mem.read 8 8
     s.gated && s.lfe.isNone &&
     s.pager.any (fun j => j.leaf == 8 && j.pageIn) && s.pager.any (fun j => j.leaf == 16 && !j.pageIn) &&
     s.pager.all (fun j => j.leaf != 8 || j.pageIn) && [0, 1].all s.strikeReady &&
     (pteV e && !ptePointer e && !pteReserved e 0 && !pteFr e && !ptePb e && isLpddr (pteFrame e) &&
       !s.pageBusy (pteFrame e)) &&
     (s.island 23).tws && (s.island 23).tstep ≤ s.islandTime 23 &&
       (s.island 23).windows * 4096 + 4096 ≤ (s.island 23).tick &&
     (({ s.die 3 with charts := [(511, { ChartSlot.reset with moves := [{ save := true, core := 0, token := 3, image := 0, slot := 511, asid := 0, seq := 0 }] })] } : Die).chart 511).moves.length = 1 && 0 ≤ s.timeOf s.moorCore &&
     (let awake : State := { s with moored := false }
      !awake.moored && awake.windows.find? (fun w => w.1 == 3) == some (3, { base := 0, size := 64 }) && 60 + 4 ≤ 64) && isLpddr 0xBFFFFFFFFF && !isLpddr 0xC000000000) = true := by decide

/-! ### Witnesses: encoding, step, frames and exceptions -/

theorem witness_DecodeEncode :
    (let i : Instr := .vfma { bun with push := .next, pop := .previous, words := 3 }
       { lanes .f32 with sc := .imm, pr := { inv := true, num := 15 }, mod := 7, imm := 0xFFFFFFFF, side := .fill 31 511 }
     i.wf && !isEvent i && (Instr.nopTix0 { bun with words := 1, sync := true }).wf) = true := by decide

/-- The literal words of a number. -/
def literal (w : Nat) : State := State.reset.withFetchWord 160 w

/-- The literal bundle of ADD.I32 s5, s6, s7. -/
def addWord : Nat := 0xFC000000 + 0x07000003 * 2 ^ 96 + 0x10000506 * 2 ^ 128

theorem witness_StepRunsInstruction :
    (let s := literal addWord
     let s' : State := ({ s with agenda := [] } : State).catchUp
     let e : Issued := { o := .nop, held := held 0, s := [], p := [], lc := [], ml := [], ln := 0 }
     let k' : State := (({ s with agenda := [] } : State).modStream 0 .P (fun t => { t with kept := some e })).catchUp
     (k'.stream 0 .P).kept = some e ∧ k'.mayIssue 0 .P = true ∧
     (match exec (e.o.instr e.held.b e.held.f) { k' with cur := { core := 0, st := .P, fl := false, bh := false } } with
      | .next t => t.note == .issued
      | _ => false) = true ∧ (s'.stream 0 .P).kept = none ∧
     s.agenda = [.issue 0 .P] ∧ s'.mayIssue 0 .P = true ∧ (s.stream 0 .P).uncorr = [] ∧ (s.core 0).warnDue = false ∧
     (s.core 0).warnHeld = false ∧
     (match s'.fetchBundle 0 .P with
      | .ok w ws fl bh =>
        ((w.core 0).drainFor .P fl).isNone && !(w.core 0).templatePending .P ws &&
        (match decode (w.stream 0 .P).template (some .P) ws with
         | .ok (i, _) => i == .add bun (two .i32) &&
           (match exec i { w with cur := { core := 0, st := .P, fl, bh } } with
            | .next t => t.note == .issued
            | _ => false)
         | .error _ => false)
      | _ => false) = true) := by decide +kernel

theorem witness_StepKeepsMemory :
    State.reset.mem.wf = true ∧ (match step { State.reset with agenda := [.time 1] } with
     | .next t => t.refTime == 1 && t.mem.wf
     | _ => false) = true := by decide +kernel

theorem witness_ScalarFrames :
    State.reset.mem.wf = true ∧
    ([(Op.add, two .i32), (.sub, two .i32), (.min, two .i32), (.minn, two .n32), (.max, two .i32), (.maxn, two .n32),
      (.mul, two .i32),
      (.mulh, two .i32), (.mulhn, two .n32), (.div, two .i32), (.divn, two .n32), (.rem, two .i32), (.remn, two .n32),
      (.and, two .untyped), (.or, two .untyped), (.xor, two .untyped), (.andn, two .untyped), (.shl, two .n32),
      (.shr, two .n32), (.sra, two .n32), (.rot, two .n32), (.clz, { two .n32 with sb := .s 0 }),
        (.popc, { two .n32 with sb := .s 0 }),
      (.sel, { two .untyped with sc := .p 1 }), (.ldi, fields (.s 5) .untyped), (.addr, two .i32),
      (.bfx, { two .n64 with sb := .s 0, imm := 0x3F00 }),
        (.bfi, { two .untyped with imm := 0x003F, side := .spill 7 5 }),
      (.cmp, { two .i32 with dst := .p 1 }), (.plog, { fields (.p 1) .untyped with sa := .p 2, sb := .p 3, imm := 8 }),
      (.pmov, { fields (.p 1) .untyped with sa := .s 6 }), (.fcls, { two .f32 with sb := .s 0 }),
      (.sreg, { fields (.s 5) .untyped with sa := .special 4 }), (.rng, { two .untyped with sc := .s 8 }),
      (.cvt, { two .i32 with sb := .s 0, aux := 0x10 }), (.nop, Fields.zero),
        (.fflag, { fields (.s 5) .untyped with mod := 1, imm := 31 }),
      (.fflag, { fields (.s 5) .untyped with mod := 2, imm := 31 })].all (fun e => issues e.1 e.2 (on 0 .P))) ∧
    issues .qtag { two .f32 with sb := .s 0 } (on 0 .X) = true := by decide +kernel

theorem witness_DisabledOperations :
    (let f : Fields := { two .i32 with pr := { inv := true, num := 0 } }
     let x := Ctx.of .add bun f (on 0 .P)
     (Instr.add bun f).parts = some (.add, bun, f) ∧ (x.decodeTrap (on 0 .P)).isNone ∧
     (match x.takePop (on 0 .P) with
      | some u => x.predReady u && !laneEnabled .add f && !x.enabled u && x.loopsReady u && !x.mustSync u &&
        !x.pushFull u
      | none => false) = true) := by decide

theorem witness_Landings : isRegister (.s 31) = true ∧ Operand.s 31 ≠ .s 0 ∧ Operand.s 31 ≠ .p 0 ∧
  isRegister (.p 1) = true ∧
    canonReg (.s 30) ≠ canonReg .sp ∧ Stream.L ≠ .P ∧
    (let r : QueueReg := { QueueReg.reset with cnt := 4, rsv := [(3, 9)], rdy := [(3, false)] }
     Tbl.get 0 r.rsv 3 = 9 ∧ Tbl.get true r.rdy 3 = false ∧ Tbl.get 0 r.rsv 2 ≠ 9) ∧
    (let vals : List (Nat × BitVec 32) := [(32767, 5), (0, 1), (7, 2), (7, 3)]
     (32767, 5) ∈ vals ∧ (vals.filter (fun e => e.1 = 32767)).length = 1 ∧ (vals.filter (fun e => e.1 = 1)).length = 0) ∧
    (let l : Landing := { tick := 9, seq := 0, st := .P, matrix := false, unit := 0, locked := false, effects := [.special 25 4] }
     l.effects = [.special 25 4] ∧ l.isEpiOut = false) := by decide

/-- A rational of the model's finite values. -/
theorem rat_one : (FVal.fin false 8388608 (-23)).rat = ((1 : Int) : ℚ) := by norm_num [FVal.rat]

theorem witness_RoundedValues :
    Typ.f32.format.decode 0xFF7FFFFF = .fin true 16777215 104 ∧ Typ.e2m1.format.decode 1 = .fin false 1 (-1) ∧
    (∃ b, Typ.e5m2.format.decode 0x7D = .nan b) ∧ Typ.f16.format.decode 0xFC00 = .inf true ∧
    Typ.f32.format.decode 0x3F800000 = .fin false 8388608 (-23) ∧
    (∃ n : Int, (FVal.fin false 8388608 (-23)).rat = (n : ℚ)) ∧ ((8388608 : Nat) : ℚ) * 2 ^ (-23 : Int) = (2 : ℚ) ^ (0 : Int) ∧
    (let tag : Nat → ℚ := fun c => ((8 + c % 8 : Nat) : ℚ) * 2 ^ (((c / 8 : Nat) : ℤ) - 66)
     ((1 : Nat) : ℚ) * 2 ^ (-63 : Int) < tag 8 ∧ tag 8 ≤ ((1 : Nat) : ℚ) * 2 ^ (-62 : Int) ∧
     ((1 : Nat) : ℚ) * 2 ^ (-62 : Int) < tag 9) ∧
    (let step : Nat → ℚ := fun i => (q4Int 1 i : ℚ)
     let x : Int → ℚ := fun e => ((1 : Nat) : ℚ) * 2 ^ (e + (q4Shift 1 : ℤ))
     step 7 ≤ x 9 ∧ step 0 ≤ x (-9) ∧ x (-9) < step 1) := by
  refine ⟨by decide, by decide, ⟨true, by decide⟩, by decide, by decide, ⟨1, rat_one⟩, by norm_num, ?_, ?_⟩ <;>
    norm_num [q4Int, q4Shift, bits, bit]

theorem witness_StoresPerformed :
    (let parts : List (Nat × Byte × OrderKind) := [(0x100, 1, .rc), (0x101, 2, .rc)]
     let y : PStore := { st := .P, seq := 1, parts, rel := none, origin := originOf 0x100 2 0 [0x100, 0x101], bundle := 0 }
     let s := State.reset.modCore 0 (fun k => { k with stores := [y] })
     s.mem.wf = true ∧ y.release = none ∧ (s.core 0).stores.find? (fun z => z.seq == y.seq) = some y ∧
     y.origin.length = y.parts.length ∧ (y.parts.map (fun p => p.1)).Nodup ∧
     ∀ p ∈ y.parts, isDevice p.1 = false ∧ s.rdcMayHold (dieOf 0) p.1 p.2.2 = false) := by decide

theorem witness_ExceptionEntry :
    (let t : TrapInfo := { cause := .qund }
     let s := tasked { task with handler := 0x2001 } (on 1 .P)
     let n := tasked task (on 1 .P)
     let handled (s : State) : Bool := (((s.stopStreams 1).landAll 1).dropPageWaits 1 0 |>.core 1).task.any (fun u =>
       u.handler == 0x2001)
     isFirmware 1 = false ∧ handled s = true ∧ toHandler t.cause = true ∧ t.svc = false ∧ (s.core 1).inh = false ∧
     isFirmware 0 = true ∧ (State.reset.core 0).inh = false ∧
     (let d := core (fun k => { k with inh := true }) (on 0 .P)
      (((d.stopStreams 0).landAll 0).dropPageWaits 0 0 |>.core 0).inh = true) ∧
     (((n.stopStreams 1).landAll 1).dropPageWaits 1 0 |>.core 1).task.any (fun u => u.handler == 0) = true ∧
     (n.core 1).inh = false ∧ toHandler .brk = true ∧ t.cause ≠ .throttleWarn) := by decide

theorem witness_PrivilegeTraps :
    (let f : Fields := { fields (.s 5) .untyped with sa := .s 4 }
     [(Op.ebudW, { f with sb := .s 6, imm := 1 }), (.eclsW, { f with sb := .s 6 }), (.ethrW, { f with sb := .s 6 }),
       (.tlbi, Fields.zero),
      (.ctxs, { f with sb := .s 6 }), (.ctxl, { f with sb := .s 6 }), (.idleM, fields (.s 5) .untyped),
      (.sreg, { fields (.s 5) .untyped with sa := .special 22 }),
        (.sreg, { fields (.s 5) .untyped with sa := .special 24 }),
      (.swreg, { Fields.zero with dst := .special 14, sa := .s 4 }),
        (.swreg, { Fields.zero with dst := .special 25, sa := .s 4 }),
      (.eret, Fields.zero)].all (fun e =>
        let x := Ctx.of e.1 bun e.2 (on 1 .P)
        !isFirmware x.c && decide (x.st ∈ e.1.row.streams) && e.1.legal e.2 &&
          ((on 1 .P).core x.c).bindingsOk e.1 e.2 x.st &&
          !x.slotTrap (on 1 .P) && !((on 1 .P).core x.c).inh)) = true := by decide

/-- The vector instructions and queue conversions that take queue 0 and those that fill queue 1, with fields. -/
def takers : List (Op × Fields) :=
  let one (t : Typ) : Fields := { fields (.q 1) t with sa := .q 0 }
  [(.vadd, lanes .f32), (.vsub, lanes .f32), (.vmul, lanes .f32), (.vfma, { lanes .f32 with sc := .s 7 }),
    (.vmin, lanes .f32),
    (.vmax, lanes .f32), (.vabs, one .f16), (.vneg, one .i32), (.vand, lanes .n32), (.vor, lanes .n32),
      (.vxor, lanes .n32),
    (.vshl, lanes .n32), (.vshr, lanes .n8), (.vsra, lanes .i16), (.vsel, { lanes .n32 with sc := .p 1 }),
      (.vcmp, lanes .f32),
    (.vexp2, one .f32), (.vlog2, one .f16), (.vrcp, one .bf16), (.vrsq, one .f32), (.vsqrt, one .f32),
      (.vredSum, one .i8),
    (.vredMax, one .i32), (.vredMin, one .f16), (.vscanIncl, one .f32), (.vscanExcl, one .n8), (.vperm, lanes .n8),
    (.vbcast, { one .n8 with imm := 127 }), (.vmov, one .n32), (.vmovI, { lanes .n16 with sb := .s 7, imm := 63 }),
      (.vkey, one .f32),
    (.cvtQ, { one .i32 with aux := 0x10 }), (.pack4, { lanes .f32 with sb := .s 7 }),
      (.pack8, { lanes .f16 with sb := .s 7 }),
    (.unpk4, { lanes .f32 with sb := .s 7, mod := 7 }), (.unpk8, { lanes .bf16 with sb := .s 7, mod := 1 }),
      (.qtag, one .f32)]

/-- A source queue of the stream's own is empty; none is and the destination queue is full. -/
def lacks (x : Ctx) (u : State) : Bool := (queuesOf (sourcePositions x.o x.f)).any (fun q =>
  decide ((u.core x.c).producer q = x.st) && ((u.core x.c).queueReg q).cnt = 0)
def spills (x : Ctx) (u : State) : Bool := !lacks x u && (pushPosition x.o x.f).any (fun q =>
  decide ((u.core x.c).consumer q = x.st) &&
    4 ≤ ((u.core x.c).queueReg q).cnt - (if (popsOf (sourcePositions x.o x.f)).contains q then 1 else 0))

theorem witness_QueueTraps :
    (let full (s : State) : State := core (fun k =>
      { k with queues := (1, { QueueReg.reset with cnt := 4 }) :: k.queues }) s
     let dry (s : State) : State := core (fun k => { k with queues := [] }) s
     let free (x : Ctx) (u : State) : Bool := (u.core x.c).vecFree ≤ x.now
     let one (d : Operand) (t : Typ) : Fields := { fields d t with sa := .q 0 }
     let mem (d b c : Operand) (m : BitVec 5) : Fields := spread (.s 4) d b c .n32 m
     (takers ++ [(Op.vmovX, { one (.s 5) .n8 with imm := 127 }),
       (.vhist, { one (.s 0) .n32 with sb := .s 7, imm := 24 })]).all (fun e =>
       meets e.1 e.2 (dry (queued 0 (on 0 .X))) (fun x u => free x u && lacks x u)) &&
     (takers ++ [(Op.viota, { fields (.q 1) .i32 with sa := .s 6 })]).all (fun e =>
       meets e.1 e.2 (full (queued 0 (on 0 .X))) (fun x u => free x u && spills x u)) &&
     [0, 1].all (fun m =>
       meets .ldq (mem (.q 1) (.s 0) (.s 0) m) (full (queued 0 (on 0 .L))) spills &&
       meets .ldgq (mem (.q 1) (.q 0) (.s 0) m) (dry (queued 0 (on 0 .L))) lacks &&
       meets .ldgq (mem (.q 1) (.q 0) (.s 0) m) (full (queued 0 (on 0 .L))) spills &&
       meets .stq (mem (.s 0) (.q 1) (.s 0) m) (dry (queued 0 (on 0 .S))) lacks &&
       meets .stsq (mem (.s 0) (.q 0) (.q 1) m) (dry (queued 0 (on 0 .S))) lacks)) = true := by decide +kernel

/-! ### Words written out from the encoding tables (Tables 2.1 to 2.11) -/

/-- The instruction that words with nothing after them stand for, under a template table. -/
def read (tpl : Nat → WideBits) (ws : List W32) : Option Instr :=
  match decode tpl none ws with
  | .ok (i, []) => some i
  | _ => none

/-- The reason why words are no instruction in a stream. -/
def refused (st : Stream) (ws : List W32) : Option DecodeError :=
  match decode (fun _ => 0) (some st) ws with
  | .error e => some e
  | .ok _ => none

/-- LOOP lc1, s5 with an end 0x40 on: OPC 06, DST 81 (kind 100, number 1). -/
theorem test_decode_control : read (fun _ => 0) [0xFC000000, 0x00000000, 0x00000040, 0x00000000, 0x06008105] =
    some (.loop bun { Fields.zero with dst := .lc 1, sa := .s 5, imm := 0x40 }) := by decide

/-- The first example of the chapter: template 5 amended in DST, SA and SB, PUSH 01. -/
theorem test_decode_template :
    read (fun n => if n = 5 then 0x10000000000000040000000000000000 else 0) [0x144000D1, 0xD0004050] =
      some (.add { bun with push := .next, words := 2 } { fields (.s 3) .i64 with sa := .s 4, sb := .s 5 }) ∧
    read (fun n => if n = 7 then 0x50004040400000100000000000000000 else 0) [0x1C40109D, 0x30000411, 0x50000020] =
      some (.vadd { bun with push := .next, pop := .previous, words := 3 }
        { fields (.q 2) .f32 with sa := .q 0, sb := .q 1, pr := { inv := false, num := 2 } }) := by decide

/-- ADD.I64 s3, s4, s5 as a literal with a spill of s7 to slot 5 (AUX2 0x4E05) and a push. -/
theorem test_decode_spill : read (fun _ => 0) [0xFC000010, 0x00004E05, 0x00000000, 0x05000004, 0x10000304] =
    some (.add { bun with push := .next } { fields (.s 3) .i64 with sa := .s 4, sb := .s 5, side := .spill 7 5 }) := by decide

/-- CVT.F16.F32.RTZ s3, s4: MOD 1, TYP 11, the source type 10 in AUX. -/
theorem test_decode_conversion : read (fun _ => 0) [0xFC000000, 0x00100000, 0x00000000, 0x00000051, 0x20000304] =
    some (.cvt bun { fields (.s 3) .f16 with sa := .s 4, mod := 1, aux := 0x10 }) := by decide

/-- CMP.LT.I32 p3, s4, s5 under !p2: PR 12, MOD 2. -/
theorem test_decode_predicate : read (fun _ => 0) [0xFC000000, 0x00000000, 0x00000000, 0x05009083, 0x28002304] =
    some (.cmp bun { fields (.p 3) .i32 with sa := .s 4, sb := .s 5, mod := 2, pr := { inv := true, num := 2 } }) := by decide

/-- STSQ.N32 [s4], q1, a peek of q2. -/
theorem test_decode_memory : read (fun _ => 0) [0xFC000000, 0x00000000, 0x00000000, 0x41520007, 0x35000004] =
    some (.stsq bun { fields (.s 0) .n32 with sa := .s 4, sb := .q 1, sc := .peek 2 }) := by decide

/-- The example ACQP s5, s9, [s4+0], and FENCE.DEV. -/
theorem test_decode_ordering :
    read (fun _ => 0) [0xFC000000, 0x00000000, 0x00000000, 0x09000007, 0x43000504] =
      some (.acqp bun { fields (.s 5) .n32 with sa := .s 4, sb := .s 9 }) ∧
    read (fun _ => 0) [0xFC000000, 0x00000000, 0x00000000, 0x00000000,
      0x40030000] = some (.fence .dev bun Fields.zero) := by decide

/-- VRED.MAX.F32 s5, q4. -/
theorem test_decode_vector : read (fun _ => 0) [0xFC000000, 0x00000000, 0x00000000, 0x00000010, 0x65010544] =
    some (.vredMax bun { fields (.s 5) .f32 with sa := .q 4 }) := by decide

/-- ACCZ acc2 and SAG.RD s3, sgb. -/
theorem test_decode_matrix :
    read (fun _ => 0) [0xFC000000, 0x00000000, 0x00000000, 0x00000000,
      0x72006200] = some (.accz bun (fields (.acc 2) .untyped)) ∧
    read (fun _ => 0) [0xFC000000, 0x00000000, 0x00000000, 0x00000000, 0x760103C1] =
      some (.sagRd bun { fields (.s 3) .untyped with sa := .sgb }) := by decide

/-- AMO.CAS.N32 s5, [s4+4], s6, s7. -/
theorem test_decode_atomic : read (fun _ => 0) [0xFC000000, 0x00000000, 0x00000004, 0x06070007, 0x80090504] =
    some (.amoCas bun { fields (.s 5) .n32 with sa := .s 4, sb := .s 6, sc := .s 7, imm := 4 }) := by decide

/-- JOINW s5, 3. -/
theorem test_decode_task : read (fun _ => 0) [0xFC000000, 0x00000000, 0x00000003, 0x00000000, 0x91000500] =
    some (.joinw bun { fields (.s 5) .untyped with imm := 3 }) := by decide

/-- The example EBUD s5, s0, RBAL. -/
theorem test_decode_energy : read (fun _ => 0) [0xFC000000, 0x00000000, 0x00000003, 0x00000000, 0x98000500] =
    some (.ebud bun { fields (.s 5) .untyped with imm := 3 }) := by decide

/-- SMP.FILT s5, hold[s4], s6, s7, 16. -/
theorem test_decode_sampling : read (fun _ => 0) [0xFC000000, 0x00000000, 0x00000010, 0x06070000, 0xA9000504] =
    some (.smpFilt bun { fields (.s 5) .untyped with sa := .s 4, sb := .s 6, sc := .s 7, imm := 16 }) := by decide

/-- SWREG FPCP, s4 and TRAP.FW 7. -/
theorem test_decode_system :
    read (fun _ => 0) [0xFC000000, 0x00000000, 0x00000000, 0x00000000, 0xB300AE04] =
      some (.swreg bun { Fields.zero with dst := .special 14, sa := .s 4 }) ∧
    read (fun _ => 0) [0xFC000000, 0x00000000, 0x00000007, 0x00000000, 0xB0010000] =
      some (.trapFw bun { Fields.zero with imm := 7 }) := by decide

/-- Table 2.12: unassigned OPC or FN, a stream that may not issue the operation, and a push named by a peek. -/
theorem test_refused_encodings :
    refused .P [0xFC000000, 0, 0, 0, 0x0E000000] = some .illop ∧
      refused .P [0xFC000000, 0, 0, 0, 0xFF000000] = some .illop ∧
    refused .P [0xFC000000, 0, 0, 3, 0x10060506] = some .illop ∧
      refused .P [0xFC000000, 0, 0, 0x10, 0x50004340] = some .illop ∧
    refused .X [0xFC000000, 0, 0, 0x10, 0x50005340] = some .illfield ∧
    refused .P [0xFC000000, 0xC000, 0, 3, 0x10000506] = some .illfield ∧
      refused .P [0xFC000000, 1, 0, 3, 0x10000506] = some .illfield ∧
    refused .P [0xFC000000, 0, 0, 9, 0x10000506] = some .illfield ∧
      refused .P [0xFC000000, 0, 0, 3, 0x10003106] = some .illfield ∧
    refused .P [0xFC000001, 0, 0, 3, 0x10000506] = some .format ∧ refused .P [0x00000040] = some .format ∧
    refused .P [0x04000001, 0x00000008] = some .format ∧ refused .P [0x05000800] = some .illfield ∧
    refused .P [0x05400800] = some .format ∧ refused .P [0xFC000000, 0] = some .truncated := by decide

/-! ### Well-formedness refuses an ill-formed term of each kind -/

theorem test_wf_bundle : ((Instr.add { bun with words := 0 } (two .i32)).wf || (Instr.add { bun with words := 6 } (two .i32)).wf ||
    (Instr.nopTix0 bun).wf) = false ∧ (Instr.add bun (two .i32)).wf = true := by decide

theorem test_wf_fields :
    ([Instr.add bun { two .i32 with dst := .imm }, .add bun { two .i32 with sa := .q 0 },
      .add bun { two .i32 with sb := .p 1 },
      .add bun { two .i32 with sc := .s 1 }, .add bun (two .f32), .add bun { two .i32 with mod := 1 },
        .add bun { two .i32 with imm := 1 },
      .add bun { two .i32 with aux := 1 }, .trap bun { Fields.zero with imm := 0x10000 },
      .dbb bun { Fields.zero with mod := 1 },
        .dbbU bun { Fields.zero with mod := 0 }].any Instr.wf) = false := by decide

theorem test_wf_limits :
    ([Instr.tokp bun Fields.zero, .ldi bun { fields (.s 5) .untyped with mod := 3 },
      .bfx bun { two .n64 with sb := .s 0, imm := 0x3F01 },
      .cvt bun { two .i32 with sb := .s 0, aux := 0x18 },
        .cvtQ bun { lanes .f16 with sb := .s 0, aux := 0x10, mod := 8 },
      .unpk4 bun { lanes .bf16 with sb := .s 7, mod := 4 }, .unpk8 bun { lanes .bf16 with sb := .s 7, mod := 2 },
      .qtag bun { two .f32 with dst := .q 1, sb := .s 0 }, .fflag bun { fields (.s 5) .untyped with imm := 1 },
      .fcls bun { two .f32 with sb := .s 0, imm := 1 }, .cmp bun { two .i32 with dst := .p 1, mod := 24 },
      .pmov bun { fields (.s 5) .untyped with sa := .s 6 }, .ld bun (load .i32 3),
      .stsq bun { fields (.s 0) .n32 with sa := .s 4, sb := .q 1, sc := .peek 1 },
      .cpymc bun { Fields.zero with mod := 2 }, .cpyc bun Fields.zero, .cpys bun Fields.zero,
        .vadd bun { lanes .i32 with mod := 1 },
      .vabs bun { lanes .f32 with sb := .s 0, mod := 4 }, .vcmp bun { lanes .f32 with mod := 6 },
      .vbcast bun { fields (.q 1) .n32 with sa := .q 0, imm := 32 },
        .vhist bun { fields (.s 0) .n8 with sa := .q 0, sb := .s 4, imm := 1 },
      .mmaQ4 bun { mma (.pb 0) .q4 with aux := 1 },
        .sag bun { fields .sga .untyped with sa := .s 4, sb := .s 5, imm := 3 },
      .drain bun { fields (.s 5) .f32 with sa := .s 4, sb := .s 6, sc := .acc 0, imm := 5 },
      .amoAdd bun { two .i32 with mod := 5 }, .semi bun { two .untyped with mod := 2 },
        .bar bun (fields (.s 5) .untyped),
      .mbs bun (two .untyped), .mbr bun { fields (.s 5) .untyped with mod := 1 },
        .launch bun { two .untyped with sc := .s 8 },
      .waitb bun { two .n32 with sc := .s 8 }, .chtProp bun { Fields.zero with dst := .ml 1, imm := 0x041000 },
      .smpFilt bun { two .untyped with sc := .s 8, imm := 65 },
        .tlbi bun { Fields.zero with sa := .s 1 }].any Instr.wf) = false := by decide

theorem test_wf_events :
    ([Instr.taskEnd 192, .dispatchSlot 24, .doorbellFold 64, .tideBoundary 4, .chartTransferEnd 0 512,
      .hostQueueReservedWrite 0 0x1000 0,
      .timeCorrection 29 0].any Instr.wf) = false ∧
    ([Instr.taskEnd 191, .dispatchSlot 23, .doorbellFold 63, .tideBoundary 3, .chartTransferEnd 3 511,
      .hostQueueReservedWrite 63 0xFFF 0,
      .timeCorrection 28 0].all Instr.wf) = true := by decide

/-! ### Single instructions, with the results the specification states -/

/-- The value that an instruction sends to its destination. -/
def sent (o : Op) (f : Fields) (s : State) : Option Word :=
  match exec (o.instr bun f) s with
  | .next t => (t.core s.cur.core).flight.findSome? (fun l => l.effects.findSome? (fun e => match e with
    | .reg _ d v => if d = f.dst then some v else none
    | _ => none))
  | _ => none

/-- The flags that an instruction raises. -/
def raised (o : Op) (f : Fields) (s : State) : List Flags :=
  match exec (o.instr bun f) s with
  | .next t => (t.core s.cur.core).flight.flatMap (fun l => l.effects.filterMap (fun e => match e with
    | .flags _ v => some v
    | _ => none))
  | _ => []

/-- The example of R98: s6 = 0xFFFFFFFF7FFFFFC0 plus 100, with and without SAT. -/
theorem test_add_saturates :
    (let s := regs [(.s 6, 0xFFFFFFFF7FFFFFC0)] (on 0 .P)
     let f : Fields := { two .i32 with sb := .imm, imm := 100 }
     sent .add { f with mod := 4 } s = some 0x7FFFFFFF ∧ sent .add f s = some 0xFFFFFFFF80000024) := by decide

/-- Table 4.3. -/
theorem test_division :
    (let q (o : Op) (t : Typ) (a b : Nat) := sent o (two t) (regs [(.s 6, a), (.s 7, b)] (on 0 .P))
     q .div .i32 0xFFFFFFF9 2 = some 0xFFFFFFFFFFFFFFFD ∧ q .rem .i32 0xFFFFFFF9 2 = some 0xFFFFFFFFFFFFFFFF ∧
     q .div .i32 0x80000000 0xFFFFFFFF = some 0xFFFFFFFF80000000 ∧ q .rem .i32 5 0 = some 5 ∧
     q .divn .n8 200 0 = some 0xFF ∧ q .divn .n32 0xFFFFFFF9 2 = some 0x7FFFFFFC) := by decide

/-- Table 4.4. -/
theorem test_shifts :
    (let q (o : Op) (t : Typ) (a b : Nat) := sent o (two t) (regs [(.s 6, a), (.s 7, b)] (on 0 .P))
     q .shl .i32 1 32 = some 0 ∧ q .shl .i8 0x41 1 = some 0xFFFFFFFFFFFFFF82 ∧
       q .shr .i32 0x80000000 4 = some 0x08000000 ∧
     q .sra .i32 0x80000000 40 = some 0xFFFFFFFFFFFFFFFF ∧ q .rot .n16 0x8001 17 = some 3) := by decide

/-- Table 4.6: PLOG.ANDN. -/
theorem test_plog : sent .plog { fields (.p 3) .untyped with sa := .p 4, sb := .p 5, imm := 4 }
    (regs [(.p 4, 0xC), (.p 5, 0xA)] (on 0 .P)) = some 0x4 := by decide

/-- Table 5.9: values and flags of CVT to and from FP32. -/
theorem test_cvt :
    (let q (d s : Typ) (m : BitVec 5) (a : Nat) : Option Word × List Flags :=
       let f : Fields := { two d with sb := .s 0, mod := m, aux := BitVec.ofNat 16 s.code }
       (sent .cvt f (regs [(.s 6, a)] (on 0 .P)), raised .cvt f (regs [(.s 6, a)] (on 0 .P)))
     q .e4m3 .f32 0 0x43E80000 = (some 0x7E, [1]) ∧ q .e4m3 .f32 0 0x43EB0000 = (some 0x7F, [5]) ∧
     q .e4m3 .f32 4 0x43EB0000 = (some 0x7E, [5]) ∧ q .e5m2 .f32 0 0x47700000 = (some 0x7C, [5]) ∧
     q .f16 .f32 0 0x33000000 = (some 0, [3]) ∧ q .bf16 .f32 0 0x3F808000 = (some 0x3F80, [1]) ∧
     q .e2m1 .f32 0 0x7FC00000 = (some 7, [16]) ∧ q .e3m2 .f32 0 0xFF800000 = (some 0x3F, [4]) ∧
     q .i32 .f32 0 0x4F32D05E = (some 0x7FFFFFFF, [16]) ∧ (q .i8 .i32 4 300).1 = some 0x7F) := by decide +kernel

/-- The examples of R132: 0.75, and 0.7 upwards and to nearest. -/
theorem test_qtag :
    (let q (m : BitVec 5) (a : Nat) := sent .qtag { two .f32 with sb := .s 0, imm := 1, mod := m } (regs [(.s 6,
      a)] (on 0 .X))
     q 0 0x3F400000 = some 0x5F4 ∧ q 3 0x3F333333 = some 0x5F4 ∧ q 0 0x3F333333 = some 0x5F3) := by decide +kernel

/-- R105: LDI.HI keeps the low half, so its destination is read; the plain form reads nothing. -/
theorem test_ldi : sent .ldi { fields (.s 5) .untyped with mod := 2, imm := 0x80000000 } (regs [(.s 5,
  0x123)] (on 0 .P)) =
    some 0x8000000000000123 := by decide

/-- R379: TRAP 7 of a task on core 1 with a handler: FCAUSE, the bundle after it in FPC, and P at the handler. -/
theorem test_trap :
    (let s := tasked { task with handler := 0x2000 } (placed 0x100 (on 1 .P))
     match exec (.trap bun { Fields.zero with imm := 7 }) s with
     | .next t => (t.core 1).frame.fcause.toNat / 65536 == 7 && (t.core 1).frame.fpc.get .P == 0x114 &&
         (t.stream 1 .P).pc == 0x2000 && (t.core 1).inh
     | _ => false) = true := by decide

/-- The step after placing a table word runs it and the PC passes its words. -/
theorem test_step_places :
    (match step (State.reset.withFetchWord 32 0) with
     | .next t => t.note == .issued && (t.stream 0 .P).pc == 4
     | _ => false) = true ∧
    (match step (literal addWord) with
     | .next t => t.note == .issued && (t.stream 0 .P).pc == 20
     | _ => false) = true := by decide +kernel

/-- The example of R279: the serial maximum, and the plain one. -/
theorem test_amo_serial :
    (let w (ser : Bool) (b : Nat) : AmoWork := { fn := 7, size := 4, signed := false, ser, b, c := 0, rel := none }
     (w true 4).new 0xFFFFFFF0 = some 4 ∧ ((w true 0xFFFFFFE0).new 4).getD 4 = 4 ∧
       ((w false 4).new 0xFFFFFFF0).getD 0xFFFFFFF0 = 0xFFFFFFF0) := by decide

end Sys2Proof.Tests
end

/-! Energy instructions (R341 to R346). -/

section

namespace Sys2Proof.Machine

/-! ### Fields of IMM and of a word -/

theorem bit_eq_testBit (v n : Nat) : bit v n = v.testBit n := by
  simp [bit, Nat.testBit, Nat.shiftRight_eq_div_pow]

@[simp] theorem Ctx.budgetField_eq (x : Ctx) : x.budgetField = x.f.imm.toNat % 8 := by
  simp [Ctx.budgetField, bits]

@[simp] theorem Ctx.energyClass_eq (x : Ctx) : x.energyClass = x.f.imm.toNat % 16 := by
  simp [Ctx.energyClass, bits]

/-! ### Selectors (R341) -/

/-- A selector register names an island: 0 the issuing one, and on a Duwen core 64 + i any. -/
def Ctx.Names (x : Ctx) (u : State) (i : Nat) : Prop :=
  (x.reg u x.f.sa = 0 ∧ i = islandOf x.c) ∨
    (isFirmware x.c = true ∧ i < 24 ∧ x.reg u x.f.sa = BitVec.ofNat 64 (64 + i))

theorem Ctx.withIsland_of_names {x : Ctx} {u : State} {i : Nat} (h : x.Names u i) (go : State → Nat → Res) :
    x.withIsland u go = go (u.catchTides (i / 6)) i := by
  obtain ⟨hz, rfl⟩ | ⟨hf, hi, hr⟩ := h
  · simp [Ctx.withIsland, Ctx.islandNamed, hz]
  · have hn : (x.reg u x.f.sa).toNat = 64 + i := by simp only [hr, BitVec.toNat_ofNat]; omega
    have hs : x.islandNamed (64 + i) = some i := by
      simp [Ctx.islandNamed, islandCount]
      omega
    simp [Ctx.withIsland, hn, hs, hf]

/-- A task that names another island takes PRIV, whatever the operation. -/
theorem Ctx.withIsland_priv {x : Ctx} {u : State} (h : x.reg u x.f.sa ≠ 0) (hf : isFirmware x.c = false)
    (go : State → Nat → Res) : x.withIsland u go = .trap u { cause := .priv } := by
  have hn : (x.reg u x.f.sa).toNat ≠ 0 := fun e => h (BitVec.eq_of_toNat_eq e)
  simp [Ctx.withIsland, hn, hf, Res.plain]

/-- A selector of Duwen that names no island takes ACCESS, whatever the operation. -/
theorem Ctx.withIsland_access {x : Ctx} {u : State} (h : x.reg u x.f.sa ≠ 0) (hf : isFirmware x.c = true)
    (hr : (x.reg u x.f.sa).toNat < 64 ∨ 88 ≤ (x.reg u x.f.sa).toNat) (go : State → Nat → Res) :
    x.withIsland u go = .trap u { cause := .access, addr0 := (x.reg u x.f.sa).toNat, fdet := 7 } := by
  have hn : (x.reg u x.f.sa).toNat ≠ 0 := fun e => h (BitVec.eq_of_toNat_eq e)
  have hs : x.islandNamed (x.reg u x.f.sa).toNat = none := by
    simp only [Ctx.islandNamed, islandCount, if_neg hn]
    exact if_neg (by omega)
  simp only [Ctx.withIsland, hf, hs, Bool.not_true, Bool.false_eq_true, and_false, if_false]
  rfl

/-! ### Results (R341) -/

/-- The state in which an energy operation's result of an island is on its way. -/
def Ctx.energyState (x : Ctx) (w : State) (i : Nat) (v : Word) : State :=
  if i = islandOf x.c then x.locked w 4 [.reg x.st x.f.dst v]
  else x.locked { w with fresh := w.fresh + 1 } (10 + Config.freePick w.fresh) [.reg x.st x.f.dst v]

theorem Ctx.energyResult_eq (x : Ctx) (w : State) (i : Nat) (v : Word) :
    x.energyResult w i v = .done (x.energyState w i v) .seq := by
  unfold Ctx.energyResult Ctx.energyState
  split <;> rfl

theorem Ctx.taskValue_some {x : Ctx} {w : State} {t : Task} (h : (w.core x.c).task = some t) (g : Task → Word) :
    x.taskValue w g = .done (x.locked w 4 [.reg x.st x.f.dst (g t)]) .seq := by
  simp only [Ctx.taskValue, h, Ctx.writes]

/-! ### Operations that begin with a selector -/

section
variable {i : Bundle → Fields → Instr} {o : Op}

theorem Answers.mono {R R' : Ctx → State → State → Prop} (h : Answers i o R) (hR : ∀ x u v, R' x u v → R x u v) :
    Answers i o R' := fun b f s u v hr hv => h b f s u v hr (hR _ _ _ hv)

theorem Traps.mono {g g' : Ctx → State → Prop} {t : Ctx → State → TrapInfo} (h : Traps i o g t)
    (hg : ∀ x u, g' x u → g x u) : Traps i o g' t := fun b f s u hr hu => h b f s u hr (hg _ _ hu)

/-- The operation goes on with the island that its selector names. -/
def Selects (i : Bundle → Fields → Instr) (o : Op) : Prop :=
  ∃ go : Ctx → State → State → Nat → Res,
    ∀ b f s, exec (i b f) s = issue o b f (fun x u => x.withIsland u (go x u)) s

/-- The operation gives a value of the named island. -/
def ReadsIsland (i : Bundle → Fields → Instr) (o : Op) (g : Ctx → State → Nat → Word) : Prop :=
  ∀ b f s, exec (i b f) s =
    issue o b f (fun x u => x.withIsland u (fun w n => x.energyResult w n (g x w n))) s

/-- The operation sends a write to the named island and gives the old value, or traps where the value is a bad one. -/
def WritesIsland (i : Bundle → Fields → Instr) (o : Op) (bad : Ctx → State → State → Nat → Prop)
    [∀ x u w n, Decidable (bad x u w n)] (wr : Ctx → State → Nat → IslandWrite) (g : Ctx → State → Nat → Word) : Prop :=
  ∀ b f s, exec (i b f) s = issue o b f (fun x u => x.withIsland u (fun w n =>
    if bad x u w n then .plain u .illfield
    else x.energyResult (w.sendWrite x.c n (wr x u n)) n (g x w n))) s

theorem Selects.traps_priv (h : Selects i o) :
    Traps i o (fun x u => x.reg u x.f.sa ≠ 0 ∧ isFirmware x.c = false) (fun _ _ => { cause := .priv }) := by
  obtain ⟨go, hi⟩ := h
  exact traps_of_trap _ hi (fun x u _ hg => x.withIsland_priv hg.1 hg.2 _)

theorem Selects.traps_access (h : Selects i o) :
    Traps i o (fun x u => x.reg u x.f.sa ≠ 0 ∧ isFirmware x.c = true ∧
        ((x.reg u x.f.sa).toNat < 64 ∨ 88 ≤ (x.reg u x.f.sa).toNat))
      (fun x u => { cause := .access, addr0 := (x.reg u x.f.sa).toNat, fdet := 7 }) := by
  obtain ⟨go, hi⟩ := h
  exact traps_of_trap _ hi (fun x u _ hg => x.withIsland_access hg.1 hg.2.1 hg.2.2 _)

section
variable {g : Ctx → State → Nat → Word}

theorem ReadsIsland.selects (h : ReadsIsland i o g) : Selects i o := ⟨_, h⟩

theorem ReadsIsland.answers (h : ReadsIsland i o g) :
    Answers i o (fun x u v => ∃ n, x.Names u n ∧
      v = x.energyState (u.catchTides (n / 6)) n (g x (u.catchTides (n / 6)) n)) := by
  refine answers_of_done _ h ?_
  rintro x u v - ⟨n, hn, rfl⟩
  rw [x.withIsland_of_names hn, x.energyResult_eq]

variable {bad : Ctx → State → State → Nat → Prop} [∀ x u w n, Decidable (bad x u w n)]
  {wr : Ctx → State → Nat → IslandWrite}

theorem WritesIsland.selects (h : WritesIsland i o bad wr g) : Selects i o := ⟨_, h⟩

theorem WritesIsland.answers (h : WritesIsland i o bad wr g) :
    Answers i o (fun x u v => ∃ n, x.Names u n ∧ ¬ bad x u (u.catchTides (n / 6)) n ∧
      v = x.energyState ((u.catchTides (n / 6)).sendWrite x.c n (wr x u n)) n (g x (u.catchTides (n / 6)) n)) := by
  refine answers_of_done _ h ?_
  rintro x u v - ⟨n, hn, hb, rfl⟩
  rw [x.withIsland_of_names hn, if_neg hb, x.energyResult_eq]

theorem WritesIsland.traps (h : WritesIsland i o bad wr g) :
    Traps i o (fun x u => ∃ n, x.Names u n ∧ bad x u (u.catchTides (n / 6)) n)
      (fun _ _ => { cause := .illfield }) := by
  refine traps_of_trap _ h ?_
  rintro x u - ⟨n, hn, hb⟩
  rw [x.withIsland_of_names hn, if_pos hb]
  rfl

end

end

theorem ebud_readsIsland : ReadsIsland .ebud .ebud (fun x w n => (x.seen w n).field x.budgetField) :=
  fun _ _ _ => rfl

theorem ejrdI_readsIsland : ReadsIsland .ejrdI .ejrdI (fun _ w n => BitVec.ofNat 64 (w.island n).emeas) :=
  fun _ _ _ => rfl

theorem ecls_readsIsland : ReadsIsland .ecls .ecls (fun x w n => (x.seen w n).classWord x.energyClass) :=
  fun _ _ _ => rfl

theorem ethr_readsIsland : ReadsIsland .ethr .ethr (fun x w n => (x.seen w n).status) := fun _ _ _ => rfl

/-- The value that a write operation has in SB. -/
def Ctx.newValue (x : Ctx) (u : State) : Nat := (x.reg u x.f.sb).toNat

theorem ebudW_writesIsland : WritesIsland .ebudW .ebudW
    (fun x u w n => ((x.seen w n).writeField x.budgetField (x.newValue u)).isNone = true)
    (fun x u _ => .field x.budgetField (x.newValue u)) (fun x w n => (x.seen w n).field x.budgetField) :=
  fun _ _ _ => rfl

theorem eclsW_writesIsland : WritesIsland .eclsW .eclsW (fun x u _ _ => 2 ^ 24 ≤ x.newValue u)
    (fun x u _ => .cls x.energyClass (x.newValue u)) (fun x w n => (x.seen w n).classWord x.energyClass) :=
  fun _ _ _ => rfl

theorem ethrW_writesIsland : WritesIsland .ethrW .ethrW
    (fun x u _ _ => 16 ≤ x.newValue u ∨ 5 < bits (x.newValue u) 0 3)
    (fun x u _ => .limit (bits (x.newValue u) 0 3) (bit (x.newValue u) 3)) (fun x w n => (x.seen w n).status) :=
  fun _ _ _ => rfl

/-! ### What an island makes of a write (R342, R345, R346) -/

/-- A value that a field of Table 13.7 may take. -/
def Island.Takes (d : Island) (n v : Nat) : Prop :=
  n = 1 ∧ v ≤ 16383 ∨ n = 2 ∧ v ≤ d.pgrant.getD d.grant ∨ n = 6 ∧ 16 ≤ v ∧ v ≤ 30 ∨ n = 7 ∧ v < 4294967296

theorem Island.not_takes {d : Island} {n v : Nat}
    (h : n = 1 ∧ 16383 < v ∨ n = 2 ∧ d.pgrant.getD d.grant < v ∨ n = 6 ∧ (v < 16 ∨ 30 < v) ∨
      n = 7 ∧ 4294967296 ≤ v) : ¬ d.Takes n v := by
  unfold Island.Takes
  omega

theorem Island.writeField_isNone (d : Island) (n v : Nat) : (d.writeField n v).isNone = true ↔ ¬ d.Takes n v := by
  unfold Island.writeField Island.Takes
  split
  case h_5 h1 h2 h6 h7 =>
    simp only [imp_false] at h1 h2 h6 h7
    simp only [Option.isNone_none, true_iff]
    omega
  all_goals split <;> simp_all

theorem Island.write_grant {v : Nat} (d : Island) (h : v ≤ 16383) :
    d.write (.field 1 v) =
      { d with pgrant := some v, pres := if v < d.pres.getD d.res then some v else d.pres } := by
  simp [Island.write, Island.writeField, h]

theorem Island.write_reserve {v : Nat} (d : Island) (h : v ≤ d.pgrant.getD d.grant) :
    d.write (.field 2 v) = { d with pres := some v } := by
  simp [Island.write, Island.writeField, h]

theorem Island.write_mrate {v : Nat} (d : Island) (h1 : 16 ≤ v) (h2 : v ≤ 30) :
    d.write (.field 6 v) = { d with pmrate := some v } := by
  simp [Island.write, Island.writeField, h1, h2]

theorem Island.write_ballast {v : Nat} (d : Island) (h : v < 4294967296) :
    d.write (.field 7 v) = { d with pballast := some v } := by
  simp [Island.write, Island.writeField, h]

theorem Island.write_cls {v : Nat} (d : Island) (n : Nat) (h : v < 16777216) :
    d.write (.cls n v) =
      { d with pcost := Tbl.set d.pcost n (v % 65536), pweight := Tbl.set d.pweight n (v / 65536) } := by
  have hw : bits v 16 8 = v / 65536 := by unfold bits; omega
  have hc : bits v 0 16 = v % 65536 := by simp [bits]
  simp only [Island.write, hw, hc]

/-! ### When a write is performed (R17, R341) -/

theorem foldl_max_ge (l : List Crossing) (a : Nat) :
    a ≤ l.foldl (fun n e => max n e.tick) a ∧ ∀ e ∈ l, e.tick ≤ l.foldl (fun n e => max n e.tick) a := by
  induction l generalizing a with
  | nil => simp
  | cons e l ih =>
    obtain ⟨h1, h2⟩ := ih (max a e.tick)
    simp only [List.foldl_cons, List.mem_cons, forall_eq_or_imp]
    exact ⟨by omega, by omega, h2⟩

theorem State.sendWrite_own (s : State) (c : Nat) (w : IslandWrite) :
    s.sendWrite c (islandOf c) w =
      s.setIsland (islandOf c) ({ s.island (islandOf c) with acted := true }.write w) := by
  simp [State.sendWrite]

theorem State.sendWrite_other (s : State) {c i : Nat} (w : IslandWrite) (h : i ≠ islandOf c) :
    ∃ tick, (s.island i).tick + 6 ≤ tick ∧ (∀ e ∈ (s.island i).inbox, e.sender = c → e.tick ≤ tick) ∧
      s.sendWrite c i w = ({ s with fresh := s.fresh + 1 } : State).setIsland i { s.island i with
        inbox := (s.island i).inbox ++ [{ tick := tick, sender := c, write := w }] } := by
  have hlast := (foldl_max_ge ((s.island i).inbox.filter (fun e => e.sender == c)) 0).2
  refine ⟨_, ?_, fun e he hc => ?_, if_neg h⟩
  · omega
  · have := hlast e (List.mem_filter.2 ⟨he, by simp [hc]⟩)
    omega

/-! ### The statement -/

/-- An operation that gives a counter of the issuing task, in a state that it may first bring up to date. -/
theorem answers_taskValue {i : Bundle → Fields → Instr} {o : Op} (g : Task → Word) (w : State → State)
    (hi : ∀ b f s, exec (i b f) s = issue o b f (fun x u => x.taskValue (w u) g) s) :
    Answers i o (fun x u v => ∃ t, ((w u).core x.c).task = some t ∧
      v = x.locked (w u) 4 [.reg x.st x.f.dst (g t)]) := by
  refine answers_of_done _ hi ?_
  rintro x u v - ⟨t, ht, rfl⟩
  exact Ctx.taskValue_some ht g

/-- Settles O35: each operation is a read or a write of the island that its selector names, or a counter of its task. -/
theorem energyInstructions : Obligations.EnergyInstructions := by
  unfold Obligations.EnergyInstructions
  intro names gives field classWord new now seen
  have hb (x : Ctx) := x.budgetField_eq
  have hc (x : Ctx) := x.energyClass_eq
  have hl (v : Nat) : bits v 0 3 = v % 8 := by simp [bits]
  refine ⟨?_, ?_, fun d v => ?_, fun s c i w => ?_, ?_, ?_, ?_, ?_, ?_, ?_, ?_, ?_, ?_, ?_, ?_, ?_, ?_, ?_⟩
  · exact ebud_readsIsland.answers.mono (fun x u v ⟨i, hn, hv⟩ => ⟨i, hn, by rw [hb]; exact hv⟩)
  · refine ebudW_writesIsland.answers.mono (fun x u v ⟨i, hn, ht, hv⟩ => ⟨i, hn, ?_, by rw [hb]; exact hv⟩)
    rw [hb, Island.writeField_isNone, not_not]
    exact ht
  · exact ⟨d.write_grant, d.write_reserve, d.write_mrate, d.write_ballast, fun n _ h => d.write_cls n h,
      fun _ _ => rfl⟩
  · refine ⟨?_, s.sendWrite_other w⟩
    rintro rfl
    exact s.sendWrite_own c w
  · refine ebudW_writesIsland.traps.mono (fun x u ⟨⟨i, hn⟩, hf⟩ => ⟨i, hn, ?_⟩)
    rw [hb, Island.writeField_isNone, Island.Takes]
    simp only [List.mem_cons, List.not_mem_nil, or_false] at hf
    omega
  · refine ebudW_writesIsland.traps.mono (fun x u ⟨i, hn, hf⟩ => ⟨i, hn, ?_⟩)
    rw [hb, Island.writeField_isNone]
    exact Island.not_takes hf
  · exact answers_taskValue (fun t => t.drec) id (fun _ _ _ => rfl)
  · exact answers_taskValue (fun t => t.jctr) State.meterLines (fun _ _ _ => rfl)
  · exact answers_taskValue (fun t => t.mbytes) State.meterLines (fun _ _ _ => rfl)
  · exact ejrdI_readsIsland.answers
  · exact ecls_readsIsland.answers.mono (fun x u v ⟨i, hn, hv⟩ => ⟨i, hn, by rw [hc]; exact hv⟩)
  · exact eclsW_writesIsland.answers.mono (fun x u v ⟨i, hn, ht, hv⟩ =>
      ⟨i, hn, Nat.not_le.2 ht, by rw [hc]; exact hv⟩)
  · exact eclsW_writesIsland.traps.mono (fun x u ⟨⟨i, hn⟩, hf⟩ => ⟨i, hn, hf⟩)
  · exact ethr_readsIsland.answers
  · refine ethrW_writesIsland.answers.mono (fun x u v ⟨i, hn, ht, hf, hv⟩ =>
      ⟨i, hn, ?_, by rw [hl, bit_eq_testBit]; exact hv⟩)
    rw [hl]
    exact not_or.2 ⟨Nat.not_le.2 ht, Nat.not_lt.2 hf⟩
  · refine ethrW_writesIsland.traps.mono (fun x u ⟨⟨i, hn⟩, hf⟩ => ⟨i, hn, ?_⟩)
    rw [hl]
    exact hf
  · intro p hp
    simp only [List.mem_cons, List.not_mem_nil, or_false] at hp
    obtain rfl | rfl | rfl | rfl := hp
    · exact ebud_readsIsland.selects.traps_priv
    · exact ejrdI_readsIsland.selects.traps_priv
    · exact ecls_readsIsland.selects.traps_priv
    · exact ethr_readsIsland.selects.traps_priv
  · intro p hp
    simp only [List.mem_cons, List.not_mem_nil, or_false] at hp
    obtain rfl | rfl | rfl | rfl | rfl | rfl | rfl := hp
    · exact ebud_readsIsland.selects.traps_access
    · exact ebudW_writesIsland.selects.traps_access
    · exact ejrdI_readsIsland.selects.traps_access
    · exact ecls_readsIsland.selects.traps_access
    · exact eclsW_writesIsland.selects.traps_access
    · exact ethr_readsIsland.selects.traps_access
    · exact ethrW_writesIsland.selects.traps_access

end Sys2Proof.Machine

end

/-! What accesses to memory leave alone: the pager, the waits for pages and the charts (R150, R348). -/

section

namespace Sys2Proof.Machine

/-- The pager's work, the waits for pages and the charts of each die. -/
def State.aside (s : State) : List PagerJob × List PageWait × (Nat → Tbl ChartSlot) :=
  (s.pager, s.pageWaits, fun d => (s.die d).charts)

/-- The charts of each die. -/
def State.charts (s : State) (d : Nat) : Tbl ChartSlot := (s.die d).charts

theorem pager_of_aside {s t : State} (h : t.aside = s.aside) : t.pager = s.pager := congrArg Prod.fst h

theorem pageWaits_of_aside {s t : State} (h : t.aside = s.aside) : t.pageWaits = s.pageWaits :=
  congrArg (fun e => e.2.1) h

theorem charts_of_aside {s t : State} (h : t.aside = s.aside) : t.charts = s.charts :=
  congrArg (fun e => e.2.2) h

/-- A fold of steps that each leave a part of the state alone leaves it alone. -/
theorem foldl_leaves {α β : Type} (p : State → β) (g : State → α → State) (h : ∀ s a, p (g s a) = p s) (l : List α)
    (s : State) : p (l.foldl g s) = p s := by
  induction l generalizing s with
  | nil => rfl
  | cons a l ih => exact (ih (g s a)).trans (h s a)

/-! ### Updates of the state -/

@[simp] theorem State.setCore_aside (s : State) (c : Nat) (k : Core) : (s.setCore c k).aside = s.aside := rfl
@[simp] theorem State.modCore_aside (s : State) (c : Nat) (g : Core → Core) : (s.modCore c g).aside = s.aside := rfl
@[simp] theorem State.modStream_aside (s : State) (c : Nat) (st : Stream) (g : StreamState → StreamState) :
    (s.modStream c st g).aside = s.aside := rfl
@[simp] theorem State.setMem_aside (s : State) (m : Memory) : ({ s with mem := m } : State).aside = s.aside := rfl
@[simp] theorem State.setQueue_aside (s : State) (q : Nat) (v : HostQueue) : (s.setQueue q v).aside = s.aside := rfl

@[simp] theorem State.setDie_charts (s : State) (d : Nat) (v : Die) (h : v.charts = (s.die d).charts) :
    (s.setDie d v).charts = s.charts := by
  funext e
  unfold State.charts
  rw [State.die_setDie_if]
  split
  · rename_i he
    rw [h, he]
  · rfl

@[simp] theorem State.setDie_aside (s : State) (d : Nat) (v : Die) (h : v.charts = (s.die d).charts) :
    (s.setDie d v).aside = s.aside :=
  congrArg (fun e => (s.pager, s.pageWaits, e)) (State.setDie_charts s d v h)

/-! ### Lines and stores at the home -/

@[simp] theorem State.noteLine_aside (s : State) (m : Option Meter) : (s.noteLine m).aside = s.aside := by
  cases m <;> rfl

@[simp] theorem State.dropL2_aside (s : State) (line : Nat) : (s.dropL2 line).aside = s.aside := by
  unfold State.dropL2
  dsimp only
  split
  · rfl
  · simp

@[simp] theorem State.roomL2_aside (s : State) (d : Nat) : (s.roomL2 d).aside = s.aside := by
  unfold State.roomL2
  split
  · rfl
  · exact State.dropL2_aside _ _

@[simp] theorem State.touchLine_aside (s : State) (line : Nat) (st : Bool) (m : Option Meter) :
    (s.touchLine line st m).aside = s.aside := by
  unfold State.touchLine
  dsimp only
  split
  · rfl
  · split
    · split
      · rfl
      · exact State.setDie_aside _ _ _ rfl
    · simp

@[simp] theorem writeQueueRegister_aside (s : State) (q off : Nat) (v : Word) :
    (writeQueueRegister s q off v).aside = s.aside := by
  unfold writeQueueRegister
  dsimp only
  split <;> rfl

@[simp] theorem State.writeRegisters_aside (l : List Nat) (s : State) (bytes : List (Nat × Byte)) :
    (s.writeRegisters bytes l).aside = s.aside := by
  induction l generalizing s with
  | nil => rfl
  | cons r l ih =>
    simp only [State.writeRegisters, ih]
    split
    · split
      · exact writeQueueRegister_aside _ _ _ _
      · rfl
    · rfl

@[simp] theorem State.homeEvents_aside (l : List Nat) (s : State) (store : Bool) (pas : List Nat) :
    (s.homeEvents store pas l).aside = s.aside := by
  induction l generalizing s with
  | nil => rfl
  | cons q l ih =>
    obtain ⟨h, e⟩ := homeEvents_cons s store pas q l
    rw [e, ih]
    split <;> rfl

@[simp] theorem State.wakeLines_aside (s : State) (pas : List Nat) : (s.wakeLines pas).aside = s.aside := by
  unfold State.wakeLines
  dsimp only
  split <;> rfl

@[simp] theorem State.storeHome_aside (s : State) (bytes : List (Nat × Byte)) :
    (s.storeHome bytes).aside = s.aside := by
  simp only [State.storeHome, State.wakeLines_aside, State.homeEvents_aside, State.writeRegisters_aside]
  rfl

@[simp] theorem touchLines_aside (l : List Nat) (s : State) (m : Option Meter) :
    (l.foldl (fun s n => s.touchLine n true m) s).aside = s.aside :=
  foldl_leaves State.aside _ (fun s n => State.touchLine_aside s n true m) l s

@[simp] theorem State.storeFor_aside (s : State) (m : Option Meter) (bytes : List (Nat × Byte)) :
    (s.storeFor m bytes).aside = s.aside := by
  rw [State.storeFor, State.storeHome_aside, touchLines_aside]

/-! ### The remote-data caches -/

@[simp] theorem State.setLine_aside (s : State) (d : Nat) (l : RdcLine) :
    (s.setDie d ((s.die d).setLine l)).aside = s.aside := State.setDie_aside _ _ _ rfl

@[simp] theorem State.reachHome_aside (s : State) (d : Nat) (pas : List Nat) :
    (s.reachHome d pas).aside = s.aside := by
  unfold State.reachHome
  split <;> rfl

@[simp] theorem State.writeBackLine_aside (s : State) (d : Nat) (l : RdcLine) :
    (s.writeBackLine d l).aside = s.aside := by
  unfold State.writeBackLine
  split <;> simp

@[simp] theorem State.writeBackList_aside (l : List RdcLine) (s : State) (d : Nat) :
    (s.writeBackList d l).aside = s.aside := by
  induction l generalizing s with
  | nil => rfl
  | cons a l ih => exact (ih _).trans (State.writeBackLine_aside s d a)

@[simp] theorem State.dropLines_aside (s : State) (d : Nat) (sel : RdcLine → Bool) :
    (s.dropLines d sel).aside = s.aside := by
  unfold State.dropLines State.writeBackIf
  split
  · simp
  · rfl

@[simp] theorem State.releaseRdc_aside (s : State) (c : Nat) (sc : Scope) : (s.releaseRdc c sc).aside = s.aside := by
  unfold State.releaseRdc
  split
  · exact State.writeBackList_aside _ _ _
  · exact State.writeBackList_aside _ _ _
  · rfl

@[simp] theorem State.acquireRdc_aside (s : State) (c : Nat) (sc : Scope) : (s.acquireRdc c sc).aside = s.aside := by
  unfold State.acquireRdc
  split
  · exact State.setDie_aside _ _ _ rfl
  · exact State.setDie_aside _ _ _ rfl
  · rfl

@[simp] theorem State.leaveRdcs_aside (s : State) (pa : Nat) : (s.leaveRdcs pa).aside = s.aside :=
  foldl_leaves State.aside _ (fun s d => State.dropLines_aside s d _) _ s

/-! ### Atomics at the home, and pages -/

@[simp] theorem State.syncWord_aside (s : State) (pa : Nat) : (s.syncWord pa).aside = s.aside := by
  unfold State.syncWord
  dsimp only
  split
  · rfl
  · exact State.setDie_aside _ _ _ rfl

@[simp] theorem State.atomic_aside (s : State) (m : Option Meter) (pa : Nat) (w : AmoWork) :
    (s.atomic m pa w).1.aside = s.aside := by
  unfold State.atomic
  dsimp only
  split <;> simp

@[simp] theorem State.markEntry_aside (s : State) (m : Option Meter) (addr set clear : Nat) :
    (s.markEntry m addr set clear).aside = s.aside := State.atomic_aside _ _ _ _

@[simp] theorem State.dropPage_aside (s : State) (page : Nat) : (s.dropPage page).aside = s.aside :=
  foldl_leaves State.aside _ (fun s d => State.dropLines_aside s d _) _ s

@[simp] theorem State.forgetUn_aside (s : State) (page : Nat) : (s.forgetUn page).aside = s.aside := by
  unfold State.forgetUn
  dsimp only
  split <;> rfl

/-! ### Bytes that a core or an engine reads -/

@[simp] theorem State.roomRdc_aside (s : State) (d : Nat) : (s.roomRdc d).aside = s.aside := by
  unfold State.roomRdc
  split
  · rfl
  · exact State.dropLines_aside _ _ _

@[simp] theorem State.rdcOpen_aside (s : State) (c pa : Nat) (un : Bool) : (s.rdcOpen c pa un).1.aside = s.aside := by
  unfold State.rdcOpen
  dsimp only
  split
  · split
    · exact State.writeBackLine_aside _ _ _
    · rfl
  · exact State.roomRdc_aside _ _

@[simp] theorem State.rdcFetchFor_aside (s : State) (m : Option Meter) (c pa : Nat) (kind : OrderKind) :
    (s.rdcFetchFor m c pa kind).1.aside = s.aside := by
  unfold State.rdcFetchFor
  dsimp only
  split <;> simp

@[simp] theorem State.readByteFor_aside (s : State) (m : Option Meter) (c pa : Nat) (kind : OrderKind) :
    (s.readByteFor m c pa kind).1.aside = s.aside := by
  unfold State.readByteFor
  split
  · exact State.rdcFetchFor_aside _ _ _ _ _
  · dsimp only
    rw [State.touchLine_aside]
    split
    · exact State.dropLines_aside _ _ _
    · rfl

@[simp] theorem State.seeUn_aside (s : State) (c : Nat) (st : Stream) (u : UnStore) (pa : Nat) :
    (s.seeUn c st u pa).aside = s.aside := by
  unfold State.seeUn
  dsimp only
  split
  · rfl
  · split
    · rfl
    · split <;> rfl

@[simp] theorem State.renewUn_aside (s : State) (c pa n : Nat) : (s.renewUn c pa n).aside = s.aside := by
  unfold State.renewUn
  split
  · split
    · exact State.dropLines_aside _ _ _
    · rfl
  · rfl

@[simp] theorem State.unView_aside (s : State) (c : Nat) (st : Stream) (pas : List Nat) :
    (s.unView c st pas).1.aside = s.aside := by
  unfold State.unView
  split
  · rfl
  · split
    · rfl
    · dsimp only
      split
      · rfl
      · exact foldl_leaves State.aside _ (fun s e => by
          rw [State.renewUn_aside, State.seeUn_aside]) _ _

@[simp] theorem State.readUn_aside (s : State) (m : Option Meter) (c : Nat) (st : Stream) (pa : Nat) :
    (s.readUn m c st pa).1.aside = s.aside := by
  have hd (b : Bool) (t : State) (sel : RdcLine → Bool) :
      (if b = true then t.dropLines (dieOf c) sel else t).aside = t.aside := by
    split
    · exact State.dropLines_aside _ _ _
    · rfl
  unfold State.readUn
  dsimp only
  split
  · rw [State.seeUn_aside, State.readByteFor_aside, hd]
  · rw [State.readByteFor_aside, hd]

@[simp] theorem State.readWith_aside (s : State) (m : Option Meter) (c : Nat) (st : Stream) (pa : Nat) (kind : OrderKind)
    (view : List (Nat × Byte)) : (s.readWith m c st pa kind view).1.aside = s.aside := by
  unfold State.readWith
  split
  · split
    · exact State.readByteFor_aside _ _ _ _ _
    · exact State.readUn_aside _ _ _ _ _
  · exact State.readByteFor_aside _ _ _ _ _

@[simp] theorem State.readFor_aside (s : State) (m : Option Meter) (c : Nat) (st : Stream) (pa : Nat) (kind : OrderKind) :
    (s.readFor m c st pa kind).1.aside = s.aside := by
  unfold State.readFor
  rw [State.readWith_aside, State.unView_aside]

/-! ### Bytes that a core or an engine writes -/

@[simp] theorem State.writeByte_aside (s : State) (c pa : Nat) (b : Byte) (kind : OrderKind) :
    (s.writeByte c pa b kind).1.aside = s.aside := by
  unfold State.writeByte
  split
  · dsimp only
    simp [State.rdcFetch]
  · dsimp only
    split
    · exact State.dropLines_aside _ _ _
    · rfl

@[simp] theorem State.writeParts_aside (l : List (Nat × Byte × OrderKind)) (s : State) (c : Nat) :
    (s.writeParts c l).1.aside = s.aside := by
  induction l generalizing s with
  | nil => rfl
  | cons e l ih =>
    obtain ⟨pa, b, kind⟩ := e
    exact (ih _).trans (State.writeByte_aside s c pa b kind)

@[simp] theorem State.logUn_aside (s : State) (c : Nat) (st : Stream) (l : List (Nat × Byte)) :
    (s.logUn c st l).aside = s.aside := rfl

@[simp] theorem State.writeBytes_aside (s : State) (c : Nat) (st : Stream) (parts : List (Nat × Byte × OrderKind)) :
    (s.writeBytes c st parts).aside = s.aside := by
  unfold State.writeBytes
  dsimp only
  split <;> simp

@[simp] theorem State.logUncorr_aside (s : State) (c pa : Nat) : (s.logUncorr c pa).aside = s.aside := rfl

@[simp] theorem State.tellError_aside (s : State) (c : Nat) (e : DcOrigin) : (s.tellError c e).aside = s.aside := by
  unfold State.tellError
  dsimp only
  split
  · rfl
  · split <;> rfl

@[simp] theorem State.commitErrors_aside (s : State) (c : Nat) (dc : Tbl Byte) (src : Tbl DcOrigin) :
    (s.commitErrors c dc src).aside = s.aside := by
  unfold State.commitErrors
  dsimp only
  rw [foldl_leaves State.aside _ (fun s e => State.tellError_aside s c e),
    foldl_leaves State.aside _ (fun s l => State.logUncorr_aside s c (l * 64))]

@[simp] theorem State.commitAll_aside (s : State) (d : Nat) (bufs : List (Option Meter × Tbl Byte)) :
    (s.commitAll d bufs).aside = s.aside := by
  unfold State.commitAll
  dsimp only
  rw [State.storeHome_aside, foldl_leaves State.aside _ (fun s (b : Option Meter × Tbl Byte) =>
    touchLines_aside _ s b.1), State.dropLines_aside]

@[simp] theorem State.commitOwn_aside (s : State) (c : Nat) : (s.commitOwn c).aside = s.aside := by
  unfold State.commitOwn
  dsimp only
  split
  · rfl
  · rw [State.commitErrors_aside, State.commitAll_aside, State.setCore_aside]

/-! ### Holds -/

@[simp] theorem State.claimBerth_aside (s : State) (c n : Nat) : (s.claimBerth c n).aside = s.aside := by
  unfold State.claimBerth
  dsimp only
  split
  · rfl
  · split
    · rfl
    · split
      · rfl
      · split
        · exact State.setCore_aside _ _ _
        · exact (State.setCore_aside _ _ _).trans (State.setMem_aside s _)

@[simp] theorem State.holdSetAll_aside (l : List (Nat × Byte)) (s : State) (c : Nat) :
    (s.holdSetAll c l).aside = s.aside := by
  induction l generalizing s with
  | nil => rfl
  | cons e l ih =>
    obtain ⟨off, b⟩ := e
    simp only [State.holdSetAll, ih]
    split <;> simp

@[simp] theorem State.aimWrite_aside (s : State) (a : Aim) (off : Nat) (b : Byte) :
    (s.aimWrite a off b).aside = s.aside := by
  unfold State.aimWrite
  split
  · exact State.holdSetAll_aside _ _ _
  · split
    · unfold State.savedHoldWrite
      dsimp only
      split <;> rfl
    · rfl

end Sys2Proof.Machine

end

/-! What translations and engines leave of the charts, and how a chart transfer ends (R150, R358). -/

section

namespace Sys2Proof.Machine

/-! ### Translation -/

@[simp] theorem State.setCore_charts (s : State) (c : Nat) (k : Core) : (s.setCore c k).charts = s.charts := rfl
@[simp] theorem State.modCore_charts (s : State) (c : Nat) (g : Core → Core) : (s.modCore c g).charts = s.charts := rfl
@[simp] theorem State.setPager_charts (s : State) (p : List PagerJob) :
    ({ s with pager := p } : State).charts = s.charts := rfl
@[simp] theorem State.setFresh_charts (s : State) (n : Nat) : ({ s with fresh := n } : State).charts = s.charts := rfl
@[simp] theorem State.modStream_charts (s : State) (c : Nat) (st : Stream) (g : StreamState → StreamState) :
    (s.modStream c st g).charts = s.charts := rfl

@[simp] theorem State.joinWalk_charts (s : State) (c who : Nat) (root : Word) (va : Nat) :
    (s.joinWalk c who root va).charts = s.charts := by
  unfold State.joinWalk
  dsimp only
  split
  · exact State.setDie_charts _ _ _ rfl
  · split
    · exact State.setDie_charts _ _ _ rfl
    · rfl

@[simp] theorem State.leaveWalksIf_charts (s : State) (c who : Nat) (sel : Walk → Bool) :
    (s.leaveWalksIf c who sel).charts = s.charts := by
  unfold State.leaveWalksIf
  dsimp only
  split
  · exact State.setDie_charts _ _ _ rfl
  · rfl

@[simp] theorem State.leavePages_charts (s : State) (c who asid : Nat) (vas : List Nat) :
    (s.leavePages c who asid vas).charts = s.charts := by
  unfold State.leavePages
  split
  · rfl
  · exact State.leaveWalksIf_charts _ _ _ _

@[simp] theorem State.dropPageWaits_charts (s : State) (c who : Nat) : (s.dropPageWaits c who).charts = s.charts :=
  State.leaveWalksIf_charts _ _ _ _

@[simp] theorem State.waitPage_charts (s : State) (c who leaf page : Nat) :
    (s.waitPage c who leaf page).charts = s.charts := by
  unfold State.waitPage
  split <;> rfl

@[simp] theorem State.startPageIn_charts (s : State) (m : Option Meter) (leaf : Nat) (ahead : Option Nat) :
    (s.startPageIn m leaf ahead).charts = s.charts :=
  (State.setPager_charts _ _).trans (charts_of_aside (State.markEntry_aside s m leaf (2 ^ 12) 0))

@[simp] theorem State.cachePage_charts (s : State) (c : Nat) (e : TlbEntry) : (s.cachePage c e).charts = s.charts :=
  State.setDie_charts _ _ _ rfl

@[simp] theorem State.markLeaf_charts (s : State) (c : Nat) (root : Word) (k : AccessKind) (va : Nat) (l : Leaf) :
    (s.markLeaf c root k va l).charts = s.charts := by
  unfold State.markLeaf
  dsimp only
  rw [State.cachePage_charts]
  exact charts_of_aside (State.markEntry_aside _ _ _ _ _)

@[simp] theorem State.await_charts (s : State) (c who : Nat) (root : Word) (va : Nat) (l : Look) :
    (s.await c who root va l).charts = s.charts := by
  cases l <;> simp [State.await]

@[simp] theorem State.markLeaves_charts (ms : List (Nat × Mapped × Option Leaf)) (s : State) (c : Nat) (root : Word)
    (k : AccessKind) : (s.markLeaves c root k ms).charts = s.charts := by
  induction ms generalizing s with
  | nil => rfl
  | cons e ms ih =>
    obtain ⟨va, m, l⟩ := e
    cases l with
    | none => exact ih s
    | some l =>
      simp only [State.markLeaves, ih]
      split
      · rfl
      · exact State.markLeaf_charts _ _ _ _ _ _

/-- The state in which a translation of several bytes ends. -/
def TransAll.state (s : State) : TransAll → State
  | .ok t _ => t
  | .fault _ _ => s
  | .wait t => t

/-- The state in which a translation ends. -/
def Trans.state (s : State) : Trans → State
  | .ok t _ => t
  | .fault _ => s
  | .wait t => t

@[simp] theorem State.translateList_charts (s : State) (c who : Nat) (root : Word) (fw : Bool) (k : AccessKind)
    (shadow : Bool) (vas : List Nat) :
    ((s.translateList c who root fw k shadow vas).state s).charts = s.charts := by
  unfold State.translateList
  dsimp only
  split
  · rfl
  · exact State.await_charts _ _ _ _ _ _
  · simp [TransAll.state]

@[simp] theorem State.translateAs_charts (s : State) (c who : Nat) (root : Word) (fw : Bool) (k : AccessKind)
    (shadow : Bool) (va : Nat) :
    ((s.translateAs c who root fw k shadow va).state s).charts = s.charts := by
  have h := State.translateList_charts s c who root fw k shadow [va]
  unfold State.translateAs
  split <;> rename_i heq <;> rw [heq] at h <;> exact h

theorem translateAs_ok_charts {s t : State} {c who : Nat} {root : Word} {fw : Bool} {k : AccessKind} {shadow : Bool}
    {va : Nat} {m : Mapped} (h : s.translateAs c who root fw k shadow va = .ok t m) : t.charts = s.charts := by
  simpa only [h, Trans.state] using State.translateAs_charts s c who root fw k shadow va

theorem translateAs_wait_charts {s t : State} {c who : Nat} {root : Word} {fw : Bool} {k : AccessKind} {shadow : Bool}
    {va : Nat} (h : s.translateAs c who root fw k shadow va = .wait t) : t.charts = s.charts := by
  simpa only [h, Trans.state] using State.translateAs_charts s c who root fw k shadow va

/-! ### Engines -/

theorem acquireSo_aside (s : State) (c : Nat) (kind : OrderKind) :
    (if kind = .so then s.acquireRdc c .sys else s).aside = s.aside := by
  split
  · exact State.acquireRdc_aside _ _ _
  · rfl

theorem noteNewLine_aside (s : State) (c id line : Nat) (again : Bool) :
    (if again = true then s else s.noteCopyLine c id line).aside = s.aside := by
  split <;> rfl

@[simp] theorem State.engineRead_charts (s : State) (c : Nat) (cp : Copy) (a : Nat) :
    (s.engineRead c cp a).1.charts = s.charts := by
  unfold State.engineRead State.translate
  split
  · dsimp only
    split
    · rfl
    · split <;> rfl
  · split
    case h_1 t h => exact translateAs_wait_charts h
    case h_2 => rfl
    case h_3 t m h =>
      split
      · exact translateAs_ok_charts h
      · refine Eq.trans (charts_of_aside ?_) (translateAs_ok_charts h)
        dsimp only
        rw [acquireSo_aside, noteNewLine_aside, State.readFor_aside, acquireSo_aside]

@[simp] theorem State.sourceByte_charts (s : State) (c : Nat) (cp : Copy) (e : Nat × Nat) :
    (s.sourceByte c cp e).1.charts = s.charts := by
  unfold State.sourceByte
  split
  · rfl
  · split
    · rfl
    · exact State.engineRead_charts _ _ _ _

@[simp] theorem State.engineReads_charts (l : List (Nat × Nat)) (s : State) (c : Nat) (cp : Copy) :
    (s.engineReads c cp l).1.charts = s.charts := by
  induction l generalizing s with
  | nil => rfl
  | cons e l ih => exact (ih _).trans (State.sourceByte_charts s c cp e)

@[simp] theorem State.engineDestMem_charts (s : State) (c : Nat) (cp : Copy) (a : Nat) :
    (s.engineDestMem c cp a).1.charts = s.charts := by
  unfold State.engineDestMem
  dsimp only
  split
  · rfl
  · split
    case h_1 t h => exact translateAs_wait_charts h
    case h_2 => rfl
    case h_3 t m h => exact translateAs_ok_charts h

@[simp] theorem State.engineDests_charts (l : List Nat) (s : State) (c : Nat) (cp : Copy) :
    (s.engineDests c cp l).1.charts = s.charts := by
  induction l generalizing s with
  | nil => rfl
  | cons a l ih =>
    simp only [State.engineDests, ih]
    split
    · rfl
    · split
      · rfl
      · exact State.engineDestMem_charts _ _ _ _

@[simp] theorem State.engineRelease_aside (s : State) (c : Nat) (kind : OrderKind) :
    (s.engineRelease c kind).aside = s.aside := by
  unfold State.engineRelease
  split
  · simp
  · rfl

@[simp] theorem State.engineWrite_aside (s : State) (c : Nat) (cp : Copy) (d : DestByte) (b : Byte) :
    (s.engineWrite c cp d b).aside = s.aside := by
  unfold State.engineWrite
  split <;> simp

@[simp] theorem State.tryWrite_aside (s : State) (c : Nat) (cp : Copy) (failing : Bool) (d : DestByte) (b : Byte) :
    (s.tryWrite c cp failing d b).aside = s.aside := by
  unfold State.tryWrite
  split
  · dsimp only
    split
    · exact State.engineWrite_aside _ _ _ _ _
    · rfl
  · exact State.engineWrite_aside _ _ _ _ _

@[simp] theorem State.engineWrites_aside (l : List (SourceByte × List DestByte)) (s : State) (c : Nat) (cp : Copy)
    (failing : Bool) : (s.engineWrites c cp failing l).aside = s.aside := by
  induction l generalizing s with
  | nil => rfl
  | cons e l ih =>
    obtain ⟨b, ds⟩ := e
    cases b with
    | got b =>
      exact (ih _).trans (foldl_leaves State.aside _ (fun s d => State.tryWrite_aside s c cp failing d b) ds s)
    | failed f => exact ih s
    | waiting => exact ih s

@[simp] theorem State.logWrites_aside (s : State) (c : Nat) (ds : List DestByte) :
    (s.logWrites c ds).aside = s.aside :=
  foldl_leaves State.aside _ (fun s l => State.logUncorr_aside s c (l * 64)) _ s

/-! ### The end of a chart transfer (R358) -/

@[simp] theorem State.logFailure_charts (s : State) (c : Nat) (cause : Cause) (addr : Nat) :
    (s.logFailure c cause addr).charts = s.charts := rfl

@[simp] theorem State.chartToken_charts (s : State) (m : ChartMove) (v : Word) :
    (s.chartToken m v).charts = s.charts := by
  unfold State.chartToken State.writeToken
  split
  · rfl
  · exact State.modStream_charts _ _ _ _

theorem State.closeTransfer_charts (s : State) (die : Nat) (m : ChartMove) (slot : ChartSlot) (fail : Option EngineFail)
    (addr : Nat) : (s.closeTransfer die m slot fail addr).charts die = Tbl.set (s.charts die) m.slot slot.endMove := by
  have hset : (s.setDie die { s.die die with charts := Tbl.set (s.die die).charts m.slot slot.endMove }).charts die =
      Tbl.set (s.charts die) m.slot slot.endMove := by
    simp [State.charts]
  have hrest (c : Nat) (u : State) : ((u.commitOwn c).releaseRdc c .dev).charts = u.charts :=
    charts_of_aside (by simp)
  unfold State.closeTransfer
  split <;> simp [hrest, hset]

/-- What a transfer on a slot makes of the charts of its die: it leaves them alone, or takes itself from the head of
the slot's line. -/
def State.Transfers (s : State) (die : Nat) (m : ChartMove) (t : State) : Prop :=
  t.charts = s.charts ∨ ∃ slot : ChartSlot, slot.moves = ((s.die die).chart m.slot).moves ∧
    t.charts die = Tbl.set (s.charts die) m.slot slot.endMove

theorem State.Transfers.close {s u : State} {die : Nat} {m : ChartMove} {slot : ChartSlot} {fail : Option EngineFail}
    {addr : Nat} (hu : u.charts = s.charts) (hm : slot.moves = ((s.die die).chart m.slot).moves) :
    s.Transfers die m (u.closeTransfer die m slot fail addr) :=
  .inr ⟨slot, hm, by rw [State.closeTransfer_charts, hu]⟩

theorem State.endTransfer_transfers (s : State) (die : Nat) (m : ChartMove) :
    s.Transfers die m (s.endTransfer die m) := by
  have hrel : (s.releaseRdc m.core .dev).charts = s.charts := charts_of_aside (State.releaseRdc_aside _ _ _)
  have hdone (t : State) (b : Bool) (l : List (SourceByte × List DestByte)) (ds : List DestByte) :
      ((t.engineWrites m.core (m.asCopy die) b l).logWrites m.core ds).charts = t.charts :=
    charts_of_aside (by simp)
  unfold State.endTransfer
  dsimp only
  split
  · exact .inl rfl
  · split
    · split
      · exact .inl (by simp [hrel])
      · exact .close (by simp [hrel, hdone]) rfl
    · split
      · exact .inl (by simp [hrel])
      · split
        · exact .close (by simp [hrel]) rfl
        · split
          · exact .close (by simp [hrel]) rfl
          · split
            · exact .inl (by simp [hrel])
            · split
              · exact .close (by simp [hrel]) rfl
              · exact .close (by simp [hrel]) rfl

/-- A transfer at the head of its slot's line stays there or leaves it. -/
theorem State.endTransfer_moves {s : State} {die : Nat} {m : ChartMove} {rest : List ChartMove}
    (h : ((s.die die).chart m.slot).moves = m :: rest) :
    (((s.endTransfer die m).die die).chart m.slot).moves = m :: rest ∨
      (((s.endTransfer die m).die die).chart m.slot).moves = rest := by
  obtain hc | ⟨slot, hm, hc⟩ := s.endTransfer_transfers die m
  · left
    rw [Die.chart, show ((s.endTransfer die m).die die).charts = (s.die die).charts from congrFun hc die]
    exact h
  · right
    rw [Die.chart, show ((s.endTransfer die m).die die).charts = _ from hc, Tbl.get_set_same, ChartSlot.endMove, hm, h]
    rfl

end Sys2Proof.Machine

end

/-! The events of the module (R17, R150, R310, R326, R331, R334, R335, R339, R340, R358, R387 to R390). -/

section

namespace Sys2Proof.Machine

/-! ### The pager (R150) -/

@[simp] theorem State.markEntry_pager (s : State) (m : Option Meter) (addr set clear : Nat) :
    (s.markEntry m addr set clear).pager = s.pager := pager_of_aside (State.markEntry_aside _ _ _ _ _)

@[simp] theorem State.forgetUn_pager (s : State) (page : Nat) : (s.forgetUn page).pager = s.pager :=
  pager_of_aside (State.forgetUn_aside _ _)

@[simp] theorem State.dropPage_pager (s : State) (page : Nat) : (s.dropPage page).pager = s.pager :=
  pager_of_aside (State.dropPage_aside _ _)

theorem State.endPageIn_pager (s : State) (leaf : Nat) (ok : Bool) :
    (s.endPageIn leaf ok).pager = s.pager.filter (fun j => !(j.leaf == leaf && j.pageIn)) := by
  cases ok <;> simp [State.endPageIn]

/-- After a page-in no access waits for the leaf: its wait is over, or will fault. -/
theorem State.endPageIn_pageWaits {s : State} {leaf : Nat} {ok : Bool} {w : PageWait}
    (h : w ∈ (s.endPageIn leaf ok).pageWaits) (hl : w.leaf = leaf) : w.failed = true := by
  cases ok
  · obtain ⟨v, -, rfl⟩ := List.mem_map.1 h
    split at hl
    · rw [if_pos ‹_›]
    · exact absurd hl ‹_›
  · have := (List.mem_filter.1 h).2
    simpa [hl] using this

theorem pageIn_ends {s : State} {leaf : Nat} (ok : Bool) (h : ∃ j ∈ s.pager, j.leaf = leaf ∧ j.pageIn = true) :
    exec (.pageIn leaf ok) s = .next (s.endPageIn leaf ok) := by
  obtain ⟨j, hj, hl, hp⟩ := h
  have : s.pager.any (fun j => j.leaf == leaf && j.pageIn) = true :=
    List.any_eq_true.2 ⟨j, hj, by simp [hl, hp]⟩
  show execPageIn leaf ok s = _
  rw [execPageIn, if_pos this]

theorem pageOut_goesOn {s : State} {leaf : Nat} (h : ∃ j ∈ s.pager, j.leaf = leaf ∧ j.pageIn = false) :
    exec (.pageOut leaf) s = .next (s.tryPageOut leaf) := by
  obtain ⟨j, hj, hl, hp⟩ := h
  have : s.pager.any (fun j => j.leaf == leaf && !j.pageIn) = true :=
    List.any_eq_true.2 ⟨j, hj, by simp [hl, hp]⟩
  show execPageOut leaf s = _
  simp only [execPageOut, this, if_true]

theorem pageOut_begins {s : State} {leaf : Nat} (ha : leaf % 8 = 0) (hl : isLpddr leaf = true)
    (hv : pteV (s.homeNumber leaf 8) = true) (hp : ptePointer (s.homeNumber leaf 8) = false)
    (hr : pteReserved (s.homeNumber leaf 8) 0 = false) (hf : pteFr (s.homeNumber leaf 8) = false)
    (hb : ptePb (s.homeNumber leaf 8) = false) (hm : isLpddr (pteFrame (s.homeNumber leaf 8)) = true)
    (h : ∀ j ∈ s.pager, j.leaf = leaf → j.pageIn = true) :
    exec (.pageOut leaf) s = .next (s.startPageOut leaf) := by
  have : s.pager.any (fun j => j.leaf == leaf && !j.pageIn) = false := by
    simpa using h
  show execPageOut leaf s = _
  simp [execPageOut, this, ha, hl, hv, hp, hr, hf, hb, hm]

theorem State.startPageOut_pager (s : State) (leaf : Nat) :
    (s.startPageOut leaf).pager = s.pager ++ [{ leaf := leaf, pageIn := false, ahead := none }] := by
  simp [State.startPageOut, State.dropLeaf]

theorem State.startPageOut_coreTlb {s : State} {leaf : Nat} {k : Nat × Core} (hk : k ∈ (s.startPageOut leaf).cores)
    {e : TlbEntry} (he : e ∈ k.2.tlb) : e.leaf ≠ leaf := by
  obtain ⟨v, -, rfl⟩ := List.mem_map.1 hk
  simpa using (List.mem_filter.1 he).2

theorem State.startPageOut_dieTlb {s : State} {leaf : Nat} {d : Nat × Die} (hd : d ∈ (s.startPageOut leaf).dies)
    {e : TlbEntry} (he : e ∈ d.2.tlb) : e.leaf ≠ leaf := by
  obtain ⟨v, -, rfl⟩ := List.mem_map.1 hd
  simpa using (List.mem_filter.1 he).2

/-! ### The starts of a cycle (R310) -/

theorem lfeCycle_begins {s : State} (h : s.lfe = none) :
    exec .lfeCycle s = (let w := s.closeLaunches.applyCompletions.examineHeads
      .next (if w.gated = true then w else w.runStarts s.firstPackets (w.waitingPackets.map (fun e => e.2.age)))) := by
  show execLfeCycle s = _
  rw [execLfeCycle, h]

theorem lfeCycle_goesOn {s : State} {e : LfeCycle} (h : s.lfe = some e) :
    exec .lfeCycle s = .next (if s.gated = true then s else s.runStarts e.first e.left) := by
  show execLfeCycle s = _
  rw [execLfeCycle, h]

section
variable {s w : State} {n q : Nat} {p : Packet} {first : List Nat} (rest : List Nat)

theorem State.runStarts_gone (h : s.packetAged n = none) :
    s.runStarts first (n :: rest) = s.runStarts first rest := by
  rw [State.runStarts, h]

theorem State.runStarts_done (h : s.packetAged n = some (q, p)) (hs : s.startPacket q p first = (true, w)) :
    s.runStarts first (n :: rest) = w.runStarts first rest := by
  simp only [State.runStarts, h, hs]

theorem State.runStarts_waits (h : s.packetAged n = some (q, p)) (hs : s.startPacket q p first = (false, w)) :
    s.runStarts first (n :: rest) = { w with lfe := some { first := first, left := n :: rest } } := by
  simp only [State.runStarts, h, hs]

theorem State.startPacket_unready (hs : s.startable p = false) (hp : p.age ∉ first) :
    s.startPacket q p first = (true, s) := by
  simp [State.startPacket, hs, hp]

end

/-! ### Boundaries, steps and windows (R326, R331, R334, R335, R340) -/

theorem State.stepNow_eq (s : State) (i : Nat) : s.stepNow i =
    if (s.island i).tws = true ∧ (s.island i).tstep ≤ s.islandTime i ∧ s.thermal = false then
      s.setIsland i (s.island i).throttleStep else s := by
  simp [State.stepNow, State.stepDue, and_assoc]

theorem State.nextTide_eq (s : State) (d : Nat) : s.nextTide d = if s.tideDue d = true then
    (let w := (List.range 6).foldl (fun w k =>
      if (w.island (d * 6 + k)).tstep < (s.die d).tideNo * (1000 * s.tide) then w.stepNow (d * 6 + k) else w) s
    (List.range 6).foldl (fun w k => w.tideIsland (d * 6 + k))
      (w.setDie d { w.die d with tideNo := (w.die d).tideNo + 1 })) else s := by
  simp only [State.nextTide, dieIslands, List.foldl_map]

theorem tideBoundary_eq (s : State) {d : Nat} (h : d < 4) : exec (.tideBoundary d) s = .next (s.nextTide d) :=
  if_pos h

theorem throttleStep_eq (s : State) {i : Nat} (h : i < 24) :
    exec (.throttleStep i) s = .next ((s.catchTides (i / 6)).stepNow i) := if_pos h

theorem thermalResume_eq {s : State} (h : s.thermal = true) :
    exec .thermalResume s = .next ((List.range 24).foldl State.stepNow { s with thermal := false }) := if_pos h

theorem boostWindowEnd_eq (s : State) {i : Nat} (h : i < 24) :
    exec (.boostWindowEnd i) s = .next ((s.catchTides (i / 6)).closeWindow i) := if_pos h

theorem State.closeWindow_eq (s : State) (i : Nat) : s.closeWindow i =
    if (s.island i).windows * 4096 + 4096 ≤ (s.island i).tick then s.setIsland i (s.island i).endWindow else s := by
  simp [State.closeWindow, Island.windowDue]

theorem powerLimitStretch_eq (s : State) {i : Nat} (h : i < 24) :
    exec (.powerLimitStretch i) s = .next (s.setIsland i { s.island i with stretch := true }) := if_pos h

/-! ### Corrections of TIME (R339) -/

theorem State.corrected_within {s : State} {v : Nat} (skew : Int) (h1 : (v : Int) - s.refTime ≤ 10)
    (h2 : -10 ≤ (v : Int) - s.refTime) :
    s.corrected skew v = some (max skew ((v : Int) - s.refTime), (v : Int) - s.refTime) := by
  simp [State.corrected, h1, h2]

section
variable {s : State} {v : Nat} (h1 : (v : Int) - s.refTime ≤ 10) (h2 : -10 ≤ (v : Int) - s.refTime)
include h1 h2

theorem timeCorrection_island {i : Nat} (h : i < 24) :
    exec (.timeCorrection i v) s = .next (s.setIsland i { s.island i with
      skew := max (s.island i).skew ((v : Int) - s.refTime), slew := (v : Int) - s.refTime }) := by
  show execTimeCorrection i v s = _
  rw [execTimeCorrection, if_pos h, State.corrected_within _ h1 h2]

theorem timeCorrection_die {n : Nat} (h : n < 4) :
    exec (.timeCorrection (24 + n) v) s = .next (s.setDie n { s.die n with
      skew := max (s.die n).skew ((v : Int) - s.refTime), slew := (v : Int) - s.refTime }) := by
  show execTimeCorrection (24 + n) v s = _
  rw [execTimeCorrection, if_neg (by omega), if_pos (by omega), State.corrected_within _ h1 h2, Nat.add_sub_cancel_left]

theorem timeCorrection_io :
    exec (.timeCorrection 28 v) s = .next { s with
      ioSkew := max s.ioSkew ((v : Int) - s.refTime), ioSlew := (v : Int) - s.refTime } := by
  show execTimeCorrection 28 v s = _
  rw [execTimeCorrection, if_neg (by omega), if_neg (by omega), if_pos rfl, State.corrected_within _ h1 h2]

end

/-! ### Charts, the mooring, links and starts (R358, R387 to R390) -/

theorem chartTransferEnd_eq {s : State} {d n : Nat} {m : ChartMove} {rest : List ChartMove} (hd : d < 4) (hn : n < 512)
    (h : ((s.die d).chart n).moves = m :: rest) :
    exec (.chartTransferEnd d n) s = .next (if m.sync = true then s else s.endTransfer d m) := by
  show execChartTransferEnd d n s = _
  rw [execChartTransferEnd, if_pos ⟨hd, hn⟩, h]

theorem moorWake_event {cause : WakeCause} (s : State) (h : cause ≠ .armedWake) :
    exec (.moorWake cause) s = .next s.endMooring := by
  cases cause
  case armedWake => exact absurd rfl h
  all_goals rfl

theorem moorWake_armed {s : State} {t : Nat} (h : s.moorWake = some t) (ht : t ≤ s.timeOf s.moorCore) :
    exec (.moorWake .armedWake) s = .next s.endMooring := by
  show execMoorWake .armedWake s = _
  simp only [execMoorWake, h, if_pos ht]

theorem walrisPeerWrite_awake {s : State} {w off : Nat} {v : WalrisWindow} {data : List Byte}
    (h : s.windows.find? (fun e => e.1 == w) = some (w, v)) (hm : s.moored = false) (hs : off + data.length ≤ v.size) :
    exec (.walrisPeerWrite w off data) s =
      .next (s.storeFor none (data.mapIdx (fun i b => (v.base + off + i, b)))) := by
  have : s.windows.any (fun e => e.1 == w) = true :=
    List.any_eq_true.2 ⟨_, List.mem_of_find?_eq_some h, by simp⟩
  show execWalrisPeerWrite w off data s = _
  simp [execWalrisPeerWrite, this, hm, State.peerWrite, h, hs]

/-- An address that the host port reaches has fewer than 64 bits. -/
theorem lt_of_reached {a : Nat} (h : isLpddr a = true ∨ (queuePage a).isSome = true) : a < 2 ^ 64 := by
  obtain h | h := h
  · simp only [isLpddr, lpddrTop] at h
    have := of_decide_eq_true h
    omega
  · unfold queuePage at h
    split at h
    · simp only [deviceBase] at *
      omega
    · simp at h

theorem portReaches_of {a n : Nat} (h : ∀ i < n, isLpddr (a + i) = true ∨ (queuePage (a + i)).isSome = true) :
    portReaches a n = true := by
  simpa [portReaches] using h

theorem addrsFrom_of_lt {a n : Nat} (h : ∀ i < n, a + i < 2 ^ 64) :
    addrsFrom a n = (List.range n).map (fun i => a + i) :=
  List.map_congr_left (fun i hi => Nat.mod_eq_of_lt (h i (List.mem_range.1 hi)))

theorem hostPortAccess_write (s : State) {a : Nat} {data : List Byte}
    (h : ∀ i < data.length, isLpddr (a + i) = true ∨ (queuePage (a + i)).isSome = true) :
    exec (.hostPortAccess a (.write data)) s =
      .next (s.endMooring.storeFor none (data.mapIdx (fun i b => (a + i, b)))) := if_pos (portReaches_of h)

theorem hostPortAccess_read (s : State) {a n : Nat}
    (h : ∀ i < n, isLpddr (a + i) = true ∨ (queuePage (a + i)).isSome = true) :
    exec (.hostPortAccess a (.read n)) s = .next (
      let w := (withoutRuns ((List.range n).map (fun i => (a + i) / 64))).foldl (fun w l => w.touchLine l false none)
        s.endMooring
      { w with
        hostReads := ((List.range n).map (fun i => w.homeByte (a + i))) :: w.hostReads, fresh := w.fresh + 1 }) := by
  show execHostPortAccess a (.read n) s = _
  simp only [execHostPortAccess, portReaches_of h, if_true, addrsFrom_of_lt (fun i hi => lt_of_reached (h i hi)),
    List.map_map]
  rfl

theorem coldStart_refused {a b : Bool} (s : State) (h : (a && b) = false) :
    exec (.coldStart a b) s = .next { State.reset with
      agenda := s.agenda, fresh := s.fresh, flash := s.flash, badLines := s.badLines } :=
  if_neg (by simpa using h)

theorem warmStart_orderly {s : State} (hb : s.booted = true) (h : ∀ e ∈ s.cores, s.strikeReady e.1 = true) :
    exec (.warmStart true) s = .next s.saveAll.resetDies := by
  have : (s.cores.map (fun e => e.1)).all s.strikeReady = true := by simpa using h
  show execWarmStart true s = _
  simp only [execWarmStart, hb, this, Bool.not_true, Bool.false_eq_true, if_false, if_true]

theorem warmStart_abrupt {s : State} (hb : s.booted = true) :
    exec (.warmStart false) s = .next s.dropLaunches.resetDies.closeLaunches := by
  show execWarmStart false s = _
  simp only [execWarmStart, hb, Bool.not_true, Bool.false_eq_true, if_false]

theorem attestationRequest_eq {s : State} (hb : s.booted = true) (nonce : BitVec 256) :
    exec (.attestationRequest nonce) s =
      .next (let w := s.endMooring; { w with reports := attestation nonce :: w.reports }) := if_pos hb

/-- Settles O45: each event is the model's own function of its row, and what the pager and a transfer leave of the
pager's work, the waits and the charts follows from what accesses leave aside. -/
theorem moduleEvents : Obligations.ModuleEvents := by
  unfold Obligations.ModuleEvents
  intro s fresh
  refine ⟨fun leaf ok h => ⟨pageIn_ends ok h, ?_, fun w => State.endPageIn_pageWaits⟩, ?_,
    fun leaf => pageOut_goesOn, lfeCycle_begins, fun e => lfeCycle_goesOn, ?_, ?_, ?_,
    fun i => powerLimitStretch_eq s, rfl, ?_, ?_, fun cause => moorWake_event s, fun t => moorWake_armed,
    fun w v off data => walrisPeerWrite_awake, fun a data => hostPortAccess_write s, fun a n => hostPortAccess_read s,
    rfl, fun a b => coldStart_refused s, fun hb => ⟨warmStart_orderly hb, warmStart_abrupt hb⟩,
    fun nonce hb => attestationRequest_eq hb nonce⟩
  case refine_1 =>
    intro j hj hl
    rw [State.endPageIn_pager] at hj
    simpa [hl] using (List.mem_filter.1 hj).2
  case refine_2 =>
    intro leaf ha hl e t hv hp hr hf hb hm h
    exact ⟨pageOut_begins ha hl hv hp hr hf hb hm h, s.startPageOut_pager leaf,
      fun k hk e => State.startPageOut_coreTlb hk, fun d hd e => State.startPageOut_dieTlb hd⟩
  case refine_3 =>
    intro first n rest
    refine ⟨rfl, State.runStarts_gone rest, fun q p h => ⟨fun hs hp => ?_, fun w => State.runStarts_done rest h,
      fun w => State.runStarts_waits rest h⟩⟩
    exact State.runStarts_done rest h (State.startPacket_unready hs hp)
  case refine_4 =>
    intro step
    have hstep : step = State.stepNow := funext fun w => funext fun i => (w.stepNow_eq i).symm
    rw [hstep]
    refine ⟨fun d hd => ?_, fun i => throttleStep_eq s, thermalResume_eq⟩
    rw [tideBoundary_eq s hd, State.nextTide_eq]
  case refine_5 =>
    intro i hi
    rw [boostWindowEnd_eq s hi, State.closeWindow_eq]
  case refine_6 =>
    intro v d h1 h2
    exact ⟨fun i => timeCorrection_island h1 h2, fun n => timeCorrection_die h1 h2, timeCorrection_io h1 h2⟩
  case refine_7 =>
    intro d hd n hn m rest h t
    refine ⟨chartTransferEnd_eq hd hn h, fun hm => ?_⟩
    subst hm
    by_cases hs : m.sync = true
    · exact .inl (by simpa only [t, if_pos hs] using h)
    · simpa only [t, if_neg hs] using State.endTransfer_moves h

end Sys2Proof.Machine

end

/-! The encoder and the decoder (R26 to R40, R55 to R57). -/

section

namespace Sys2Proof

/-! ### Fields (R34, R36, R38, R39) -/

@[simp] theorem Operand.ofCode_code (o : Operand) : Operand.ofCode o.code = some o := by
  cases o with
  | s n => revert n; decide
  | p n => revert n; decide
  | q n => revert n; decide
  | peek n => revert n; decide
  | acc n => revert n; decide
  | pb n => revert n; decide
  | lc n => revert n; decide
  | ml n => revert n; decide
  | special n => revert n; decide
  | ln | sp | sga | sgb | imm => rfl

theorem Operand.code_lt (o : Operand) : o.code < 256 := by
  cases o <;> simp only [Operand.code] <;> omega

@[simp] theorem Typ.ofCode_code (t : Typ) : Typ.ofCode t.code = some t := by cases t <;> rfl

theorem Typ.code_lt (t : Typ) : t.code < 64 := by cases t <;> decide

@[simp] theorem Pred.ofBits_code (p : Pred) : Pred.ofBits p.code = p := by
  obtain ⟨inv, num⟩ := p
  revert inv num
  decide

theorem Pred.code_lt (p : Pred) : p.code < 32 := by
  simp only [Pred.code]
  split <;> omega

@[simp] theorem TokenCode.ofBits_code (c : TokenCode) : TokenCode.ofBits c.code = c := by cases c <;> rfl

theorem TokenCode.code_lt (c : TokenCode) : c.code < 4 := by cases c <;> decide

theorem SideOp.code_lt (p : SideOp) : p.code < 65536 := by
  cases p <;> simp only [SideOp.code] <;> omega

@[simp] theorem SideOp.ofBits_code (p : SideOp) : SideOp.ofBits p.code = some p := by
  have reg (k : Nat) (r : Fin 32) (n : Fin 512) : Fin.ofNat 32 ((k * 2 ^ 14 + r.val * 2 ^ 9 + n.val) / 2 ^ 9) = r :=
    Fin.ext (by simp only [Fin.ofNat]; omega)
  have slot (k : Nat) (r : Fin 32) (n : Fin 512) : Fin.ofNat 512 (k * 2 ^ 14 + r.val * 2 ^ 9 + n.val) = n :=
    Fin.ext (by simp only [Fin.ofNat]; omega)
  have kind (k : Nat) (h : k < 4) (r : Fin 32) (n : Fin 512) :
      (k * 2 ^ 14 + r.val * 2 ^ 9 + n.val) / 2 ^ 14 % 4 = k := by omega
  cases p with
  | none => rfl
  | spill r n => simp only [SideOp.code, SideOp.ofBits, reg, slot, kind 1 (by decide)]
  | fill r n => simp only [SideOp.code, SideOp.ofBits, reg, slot, kind 2 (by decide)]

/-! ### The stored operation (Table 2.4) -/

@[simp] theorem Wide.ofBits_toBits (w : Wide) : Wide.ofBits w.toBits = w := by
  obtain ⟨opc, fn, dst, sa, sb, sc, pr, mod, typ, imm, aux, aux2⟩ := w
  simp only [Wide.ofBits, Wide.toBits, BitVec.toNat_ofNat, Wide.mk.injEq]
  refine ⟨?_, ?_, ?_, ?_, ?_, ?_, ?_, ?_, ?_, ?_, ?_, ?_⟩ <;>
    exact BitVec.eq_of_toNat_eq (by simp only [BitVec.toNat_ofNat]; omega)

theorem wideOfLiteral_words (v : WideBits) :
    wideOfLiteral (BitVec.ofNat 32 v.toNat) (BitVec.ofNat 32 (v.toNat / 2 ^ 32)) (BitVec.ofNat 32 (v.toNat / 2 ^ 64))
      (BitVec.ofNat 32 (v.toNat / 2 ^ 96)) = Wide.ofBits v := by
  refine congrArg Wide.ofBits (BitVec.eq_of_toNat_eq ?_)
  simp only [BitVec.toNat_ofNat]
  omega

@[simp] theorem fieldsOfWide_wideOfFields (o : Op) (f : Fields) : fieldsOfWide (wideOfFields o f) = some f := by
  have operand (p : Operand) : p.code % 2 ^ 8 = p.code := Nat.mod_eq_of_lt p.code_lt
  have pred : f.pr.code % 2 ^ 5 = f.pr.code := Nat.mod_eq_of_lt f.pr.code_lt
  have typ : f.typ.code % 2 ^ 6 = f.typ.code := Nat.mod_eq_of_lt f.typ.code_lt
  have side : f.side.code % 2 ^ 16 = f.side.code := Nat.mod_eq_of_lt f.side.code_lt
  simp only [fieldsOfWide, wideOfFields, BitVec.toNat_ofNat, operand, pred, typ, side, Operand.ofCode_code,
    Typ.ofCode_code, SideOp.ofBits_code, Pred.ofBits_code]

/-! ### Operation codes (Table 2.11) -/

theorem Op.mem_all (o : Op) : o ∈ Op.all := by
  cases o with
  | fence sc => cases sc <;> decide
  | acq sc => cases sc <;> decide
  | rel sc => cases sc <;> decide
  | _ => decide

/-- A row takes a value of MOD[0] (R179). -/
def Row.takes (r : Row) (v : Bool) : Bool := r.modSel.all (fun w => w == v)

/-- Of the rows of Table 2.11 no two share OPC and FN, but for DBB and DBB.U, which take the two values of MOD[0]. -/
theorem Op.find?_row : ∀ v : Bool, ∀ o ∈ Op.all, o.row.takes v = true →
    Op.all.find? (fun p => p.row.opc == o.row.opc && p.row.fn == o.row.fn && p.row.takes v) = some o := by
  decide +kernel

theorem Op.row_code_lt : ∀ o ∈ Op.all, o.row.opc < 256 ∧ o.row.fn < 256 := by decide +kernel

theorem Op.ofCode_row {o : Op} {mod : Nat} (h : o.row.takes (bit mod 0) = true) :
    Op.ofCode o.row.opc o.row.fn mod = some o := by
  rw [← Op.find?_row (bit mod 0) o o.mem_all h, Op.ofCode]
  congr 1
  funext p
  unfold Row.takes
  cases p.row.modSel <;> rfl

theorem Op.takes_of_legal {o : Op} {f : Fields} (h : o.legal f = true) : o.row.takes (bit f.mod.toNat 0) = true := by
  simp only [Op.legal, Bool.and_eq_true] at h
  obtain ⟨⟨-, hsel⟩, -⟩ := h
  unfold Row.takes
  revert hsel
  cases o.row.modSel <;> exact id

/-! ### A wide operation and its instruction -/

theorem Op.instr_of_parts {i : Instr} {o : Op} {b : Bundle} {f : Fields} (h : i.parts = some (o, b, f)) :
    o.instr b f = i := by
  cases i <;> cases h <;> rfl

/-- The stream of a decoding, where one is given, may issue the operation (R55). -/
def Op.allowedIn (o : Op) (st : Option Stream) : Prop := ∀ x, st = some x → x ∈ o.row.streams

theorem decodeWide_wideOfFields {o : Op} {f : Fields} {st : Option Stream} (b : Bundle) (hl : o.legal f = true)
    (hs : o.allowedIn st) : decodeWide st b (wideOfFields o f) = .ok (o.instr b f) := by
  obtain ⟨hopc, hfn⟩ := Op.row_code_lt o o.mem_all
  have hop : Op.ofCode (wideOfFields o f).opc.toNat (wideOfFields o f).fn.toNat (wideOfFields o f).mod.toNat = some o := by
    simp only [wideOfFields, BitVec.toNat_ofNat]
    rw [Nat.mod_eq_of_lt hopc, Nat.mod_eq_of_lt hfn]
    exact Op.ofCode_row (Op.takes_of_legal hl)
  have hst (x : Stream) (h : st = some x) : o.row.streams.contains x = true := List.contains_iff_mem.2 (hs x h)
  unfold decodeWide
  cases st with
  | none => simp only [hop, fieldsOfWide_wideOfFields, hl, if_true]
  | some x => simp only [hop, hst x rfl, fieldsOfWide_wideOfFields, hl, if_true]

/-! ### Patch and extension words (R26 to R29) -/

/-- The number of a patch word that amends nothing. -/
def patchNumber (tix : Nat) (b : Bundle) (cont : Bool) : Nat :=
  tix * 2 ^ 26 + b.push.code * 2 ^ 4 + b.pop.code * 2 ^ 2 + (if b.sync then 2 else 0) + (if cont then 1 else 0)

section
variable {tix : Nat} (b : Bundle) (cont : Bool)

theorem patchWord_toNat (h : tix < 64) : (patchWord tix b cont).toNat = patchNumber tix b cont := by
  have hp := b.push.code_lt
  have hq := b.pop.code_lt
  have hlt : patchNumber tix b cont < 2 ^ 32 := by
    unfold patchNumber
    split <;> split <;> omega
  rw [patchWord, BitVec.toNat_ofNat]
  exact Nat.mod_eq_of_lt hlt

theorem patchTix_patchWord (h : tix < 64) : patchTix (patchWord tix b cont) = tix := by
  have hp := b.push.code_lt
  have hq := b.pop.code_lt
  rw [patchTix, patchWord_toNat b cont h, bits, patchNumber]
  split <;> split <;> omega

theorem wordCont_patchWord (h : tix < 64) : wordCont (patchWord tix b cont) = cont := by
  rw [wordCont, patchWord_toNat b cont h, bit, patchNumber]
  cases cont <;> simp <;> split <;> omega

theorem patchWord_amends_nothing (h : tix < 64) : bits (patchWord tix b cont).toNat 6 20 = 0 := by
  have hp := b.push.code_lt
  have hq := b.pop.code_lt
  rw [patchWord_toNat b cont h, bits, patchNumber]
  split <;> split <;> omega

theorem bundleOfPatch_patchWord (h : tix < 64) : bundleOfPatch (patchWord tix b cont) b.words = b := by
  have hp := b.push.code_lt
  have hq := b.pop.code_lt
  have hpush : bits (patchNumber tix b cont) 4 2 = b.push.code := by
    unfold bits patchNumber
    split <;> split <;> omega
  have hpop : bits (patchNumber tix b cont) 2 2 = b.pop.code := by
    unfold bits patchNumber
    split <;> split <;> omega
  have hsync : bit (patchNumber tix b cont) 1 = b.sync := by
    unfold bit patchNumber
    cases b.sync <;> simp <;> split <;> omega
  rw [bundleOfPatch, patchWord_toNat b cont h, hpush, hpop, hsync, TokenCode.ofBits_code, TokenCode.ofBits_code]

end

/-! ### Bundles (R26 to R32) -/

theorem formBundle_tix0 (tpl : Nat → WideBits) {b : Bundle} (rest : List W32) (h : b.words = 1) :
    formBundle tpl (patchWord 0 b false :: rest) = .ok (b, .tix0, rest) := by
  have hplain : patchPlain (patchWord 0 b false) = true := by
    simp [patchPlain, patchWord_amends_nothing, wordCont_patchWord]
  have hb := bundleOfPatch_patchWord (tix := 0) b false (by decide)
  rw [h] at hb
  simp only [formBundle, patchTix_patchWord b false (show 0 < 64 by decide), hplain, hb, if_true]

theorem formBundle_literal (tpl : Nat → WideBits) {b : Bundle} (w1 w2 w3 w4 : W32) (rest : List W32) (h : b.words = 5) :
    formBundle tpl (patchWord 63 b false :: w1 :: w2 :: w3 :: w4 :: rest) =
      .ok (b, .wide (wideOfLiteral w1 w2 w3 w4), rest) := by
  have hplain : patchPlain (patchWord 63 b false) = true := by
    simp [patchPlain, patchWord_amends_nothing, wordCont_patchWord]
  have hb := bundleOfPatch_patchWord (tix := 63) b false (by decide)
  rw [h] at hb
  simp only [formBundle, patchTix_patchWord b false (show 63 < 64 by decide), hplain, hb, if_true]
  rfl

@[simp] theorem Wide.amend_zero (w : Wide) (width : Nat) : w.amend 0 0 width = some w := rfl

@[simp] theorem plainExts_length (n : Nat) : (plainExts n).length = n := by
  induction n with
  | zero => rfl
  | succ n ih => rw [plainExts, List.length_cons, ih]

/-- The number of extension words that a patch word and the words after it announce. -/
def extCount (w : W32) (rest : List W32) : Nat :=
  if !wordCont w then 0
  else match rest with
    | a :: b :: _ => if !wordCont a then 1 else if !wordCont b then 2 else 3
    | [a] => if !wordCont a then 1 else 2
    | [] => 1

theorem extCount_plainExts (b : Bundle) (n : Nat) (rest : List W32) (h : n < 4) :
    extCount (patchWord 1 b (n + 1 != 1)) (plainExts n ++ rest) = n := by
  have hc := wordCont_patchWord (tix := 1) b (n + 1 != 1) (by decide)
  unfold extCount
  rw [hc]
  match n, h with
  | 0, _ => rfl
  | 1, _ => cases rest <;> rfl
  | 2, _ => rfl
  | 3, _ => rfl

@[simp] theorem applyExts_plainExts (w : Wide) (n : Nat) : applyExts w (plainExts n) = some w := by
  induction n with
  | zero => rfl
  | succ n ih =>
    cases n with
    | zero => rfl
    | succ n => simpa [plainExts, applyExts, wordCont, bit, bits] using ih

/-- A template bundle is its entry, amended by its patch word and its extension words. -/
theorem formBundle_exts {tpl : Nat → WideBits} {w : W32} {op op' : Wide} {exts : List W32} (rest : List W32)
    (htix : patchTix w = 1) (hn : extCount w (exts ++ rest) = exts.length)
    (hamend : (Wide.ofBits (tpl 1)).amend (bits w.toNat 22 4) (bits w.toNat 6 16) 16 = some op)
    (hexts : applyExts op exts = some op') :
    formBundle tpl (w :: (exts ++ rest)) = .ok (bundleOfPatch w (exts.length + 1), .wide op', rest) := by
  have htake : (exts ++ rest).take exts.length = exts := List.take_left' rfl
  have hdrop : (exts ++ rest).drop exts.length = rest := List.drop_left' rfl
  unfold extCount at hn
  simp only [formBundle.eq_def, htix, hamend]
  erw [hn]
  simp [htake, hdrop, hexts]

theorem formBundle_template (tpl : Nat → WideBits) {b : Bundle} (rest : List W32) (h0 : b.words ≠ 0) (h : b.words < 5) :
    formBundle tpl (patchWord 1 b (b.words != 1) :: (plainExts (b.words - 1) ++ rest)) =
      .ok (b, .wide (Wide.ofBits (tpl 1)), rest) := by
  obtain ⟨n, hn⟩ : ∃ n, b.words = n + 1 := ⟨b.words - 1, by omega⟩
  have hb := bundleOfPatch_patchWord (tix := 1) b (n + 1 != 1) (by decide)
  rw [hn] at hb
  have hcount := extCount_plainExts b n rest (by omega)
  have hzero := patchWord_amends_nothing (tix := 1) b (n + 1 != 1) (by decide)
  have hfsel : bits (patchWord 1 b (n + 1 != 1)).toNat 22 4 = 0 := by unfold bits at *; omega
  have hval : bits (patchWord 1 b (n + 1 != 1)).toNat 6 16 = 0 := by unfold bits at *; omega
  rw [hn, Nat.add_sub_cancel]
  rw [formBundle_exts rest (patchTix_patchWord b _ (by decide)) (by rw [hcount, plainExts_length])
    (by rw [hfsel, hval, Wide.amend_zero]) (applyExts_plainExts _ n), plainExts_length, hb]

/-! ### Whole instructions -/

theorem encode_of_parts {i : Instr} {o : Op} {b : Bundle} {f : Fields} (h : i.parts = some (o, b, f)) :
    encode i = if b.words = 5 then
        let n := (wideOfFields o f).toBits.toNat
        [patchWord 63 b false, BitVec.ofNat 32 n, BitVec.ofNat 32 (n / 2 ^ 32),
         BitVec.ofNat 32 (n / 2 ^ 64), BitVec.ofNat 32 (n / 2 ^ 96)]
      else patchWord 1 b (b.words != 1) :: plainExts (b.words - 1) := by
  unfold encode
  split
  · cases h
  · rw [h]

theorem encodeTemplate_of_parts {i : Instr} {o : Op} {b : Bundle} {f : Fields} (h : i.parts = some (o, b, f)) :
    encodeTemplate i = (wideOfFields o f).toBits := by rw [encodeTemplate, h]

/-- The bundle that an encoded instruction's words form. -/
theorem formBundle_encode {i : Instr} {o : Op} {b : Bundle} {f : Fields} (tpl : Nat → WideBits) (rest : List W32)
    (h : i.parts = some (o, b, f)) (hb : b.wf = true) (ht : tpl 1 = encodeTemplate i) :
    formBundle tpl (encode i ++ rest) = .ok (b, .wide (wideOfFields o f), rest) := by
  simp only [Bundle.wf, Bool.and_eq_true, decide_eq_true_eq] at hb
  rw [encode_of_parts h]
  split
  · rename_i h5
    exact (formBundle_literal tpl _ _ _ _ rest h5).trans (by rw [wideOfLiteral_words, Wide.ofBits_toBits])
  · rename_i h5
    refine (formBundle_template tpl rest (by omega) (by omega)).trans ?_
    rw [ht, encodeTemplate_of_parts h, Wide.ofBits_toBits]

/-- Decoding inverts encoding, for a stream that may issue the operation or for none. -/
theorem decode_encode {i : Instr} {o : Op} {b : Bundle} {f : Fields} {tpl : Nat → WideBits} {st : Option Stream}
    (rest : List W32) (h : i.parts = some (o, b, f)) (hb : b.wf = true) (hl : o.legal f = true)
    (ht : tpl 1 = encodeTemplate i) (hs : o.allowedIn st) : decode tpl st (encode i ++ rest) = .ok (i, rest) := by
  simp only [decode, formBundle_encode tpl rest h hb ht, decodeWide_wideOfFields b hl hs, Op.instr_of_parts h]

theorem decode_encode_nopTix0 {b : Bundle} (tpl : Nat → WideBits) (st : Option Stream) (rest : List W32)
    (h : b.words = 1) : decode tpl st (encode (.nopTix0 b) ++ rest) = .ok (.nopTix0 b, rest) := by
  simp only [decode, show encode (.nopTix0 b) ++ rest = patchWord 0 b false :: rest from rfl, formBundle_tix0 tpl rest h]

theorem Machine.eq_nopTix0_of_parts {i : Instr} (h : i.parts = none) (he : isEvent i = false) : ∃ b, i = .nopTix0 b := by
  unfold isEvent at he
  split at he
  · exact ⟨_, rfl⟩
  · simp [h] at he

end Sys2Proof

namespace Sys2Proof.Machine

/-- Settles O46: the words of an instruction form its bundle again, from the literal or from template entry 1, and the
operation and the fields of the wide operation are those that were encoded. -/
theorem decodeEncode : Obligations.DecodeEncode := by
  unfold Obligations.DecodeEncode
  intro i rest hw he tpl
  cases hp : i.parts with
  | none =>
    obtain ⟨b, rfl⟩ := eq_nopTix0_of_parts hp he
    have hb : b.words = 1 := by simpa [Instr.wf, Instr.parts] using hw
    exact ⟨decode_encode_nopTix0 _ _ _ hb, fun st _ => decode_encode_nopTix0 _ _ _ hb⟩
  | some p =>
    obtain ⟨o, b, f⟩ := p
    obtain ⟨hb, hl⟩ : b.wf = true ∧ o.legal f = true := by simpa [Instr.wf, hp] using hw
    refine ⟨decode_encode rest hp hb hl rfl (fun _ h => nomatch h), fun st hs => ?_⟩
    refine decode_encode rest hp hb hl rfl (fun x hx => ?_)
    cases hx
    exact hs o b f rfl

end Sys2Proof.Machine

end

/-! What every encoded instruction does: it is an issue, whose checks are one for all (R38, R42, R58, R370). -/

section

namespace Sys2Proof.Machine

/-- The meaning of an encoded instruction is the issue of its operation with a body of its own. -/
theorem exec_of_parts {i : Instr} {o : Op} {b : Bundle} {f : Fields} (h : i.parts = some (o, b, f)) :
    ∃ body, ∀ s, exec i s = issue o b f body s := by
  cases i <;> cases h <;> exact ⟨_, fun _ => rfl⟩

theorem Op.parts_instr (o : Op) (b : Bundle) (f : Fields) : (o.instr b f).parts = some (o, b, f) := by
  cases o <;> rfl

/-! ### Disabled operations (R38) -/

section
variable {x : Ctx} {s u : State} {body : Ctx → State → Res}

/-- A bundle whose checks pass and whose predicate may be read, but does not enable its operation. -/
theorem Ctx.issue_disabled (hd : x.decodeTrap s = none) (hp : x.takePop s = some u) (hq : x.predReady u = true)
    (hr : x.runs u = false) : x.issue s body = x.issueDisabled u := by
  simp only [Ctx.issue, hd, hp, hq, hr, Bool.not_true, Bool.false_eq_true, if_false]

theorem Ctx.issueDisabled_finish (hl : x.loopsReady u = true) (hm : x.mustSync u = false)
    (hf : x.pushFull u = false) : x.issueDisabled u = (x.finish u .seq false).noted .issued := by
  simp only [Ctx.issueDisabled, hl, hm, hf, Bool.not_true, Bool.false_eq_true, if_false]

theorem Ctx.runs_eq_false (hl : laneEnabled x.o x.f = false) (he : x.enabled u = false) : x.runs u = false := by
  rw [Ctx.runs, hl, he]
  rfl

/-- A bundle that a check of decode refuses traps. -/
theorem Ctx.issue_decodeTrap {c : Cause} (h : x.decodeTrap s = some c) : x.issue s body = x.traps s { cause := c } := by
  simp only [Ctx.issue, h]

end

/-- Settles O53: a disabled operation issues without its body, after the checks that every bundle passes. -/
theorem disabledOperations : Obligations.DisabledOperations := by
  unfold Obligations.DisabledOperations
  intro i o b f s u hi x hd hp hq hl he hloops hsync hpush
  obtain ⟨body, hexec⟩ := exec_of_parts hi
  rw [hexec, issue, Ctx.issue_disabled hd hp hq (Ctx.runs_eq_false hl he), Ctx.issueDisabled_finish hloops hsync hpush]

/-! ### Privilege (R370, R371, R380) -/

/-- What is privileged where the core is not at firmware privilege (Table 15.1). -/
theorem specialAllowed_task_read {s : State} {c n : Nat} (hc : isFirmware c = false) (h1 : 22 ≤ n) (h2 : n ≤ 24) :
    specialAllowed s c false n = false := by
  simp [specialAllowed, hc, h1, h2]

theorem specialAllowed_task_write {s : State} {c n : Nat} (hc : isFirmware c = false)
    (h : ¬ (14 ≤ n ∧ n ≤ 17 ∧ (s.core c).inh = true)) : specialAllowed s c true n = false := by
  unfold specialAllowed
  simp only [hc, if_true]
  split
  · rfl
  · split
    · rfl
    · split
      · rename_i hn
        simp only [Bool.and_eq_true, decide_eq_true_eq] at hn
        rw [Bool.false_or, Bool.eq_false_iff]
        exact fun hi => h ⟨hn.1, hn.2, hi⟩
      · rfl

theorem Ctx.privTrap_firmware {x : Ctx} (s : State) (hc : isFirmware x.c = false) (h : x.o.row.firmware = true) :
    x.privTrap s = true := by
  simp [Ctx.privTrap, hc, h]

theorem firmware_rows : ∀ o ∈ [Op.ebudW, .eclsW, .ethrW, .tlbi, .ctxs, .ctxl, .idleM], o.row.firmware = true := by
  decide

/-- Of the checks of R58 only that of privilege fails. -/
theorem Ctx.decodeTrap_priv {x : Ctx} {s : State} (hst : x.st ∈ x.o.row.streams) (hl : x.o.legal x.f = true)
    (hb : (s.core x.c).bindingsOk x.o x.f x.st = true) (hs : x.slotTrap s = false) (hp : x.privTrap s = true) :
    x.decodeTrap s = some .priv := by
  simp [Ctx.decodeTrap, hst, hl, hb, hs, hp]

/-- Settles O58: at task privilege each of these operations fails the check of privilege, the last of those at decode. -/
theorem privilegeTraps : Obligations.PrivilegeTraps := by
  unfold Obligations.PrivilegeTraps
  intro o b f s x hc hst hl hb hs h
  obtain ⟨body, hexec⟩ := exec_of_parts (Op.parts_instr o b f)
  have hp : x.privTrap s = true := by
    obtain ho | ⟨rfl, n, hn, h1, h2⟩ | ⟨rfl, n, hn, hw⟩ | ⟨rfl, hi⟩ := h
    · exact Ctx.privTrap_firmware s hc (firmware_rows o ho)
    · have hx : x.f.sa = .special n := hn
      have ho : x.o = .sreg := rfl
      simp [Ctx.privTrap, ho, hx, specialAllowed_task_read hc h1 h2]
    · have hx : x.f.dst = .special n := hn
      have ho : x.o = .swreg := rfl
      simp [Ctx.privTrap, ho, hx, specialAllowed_task_write hc hw]
    · have ho : x.o = .eret := rfl
      simp [Ctx.privTrap, ho, hc, hi]
  rw [hexec, issue, Ctx.issue_decodeTrap (Ctx.decodeTrap_priv hst hl hb hs hp)]

end Sys2Proof.Machine

end

/-! What steps and turns answer: none stops, and a turn of a stream runs the instruction at its PC (R42, R46, R57, R58). -/

section

namespace Sys2Proof.Machine

/-! ### Outcomes that are states -/

/-- The outcome is a state: no fault, and no refusal. -/
def Answered (r : Host.Outcome State Fault Refusal) : Prop := ∃ t, r = .next t

@[simp] theorem answered_next (t : State) : Answered (.next t) := ⟨t, rfl⟩

theorem answered_ite {c : Prop} [Decidable c] {a b : Host.Outcome State Fault Refusal} (ha : Answered a)
    (hb : Answered b) : Answered (if c then a else b) := by
  split
  · exact ha
  · exact hb

/-- An event of an agent that exists is answered where its meaning is. -/
theorem answered_agent {c : Prop} [Decidable c] {a b : Host.Outcome State Fault Refusal} (hc : c) (ha : Answered a) :
    Answered (if c then a else b) := by rwa [if_pos hc]

/-! ### Instructions and events -/

theorem exec_answered_of_parts {i : Instr} {p : Op × Bundle × Fields} (h : i.parts = some p) (s : State) :
    Answered (exec i s) := by
  obtain ⟨o, b, f⟩ := p
  obtain ⟨body, hexec⟩ := exec_of_parts h
  exact ⟨_, hexec s⟩

theorem onCopy_answered {c : Nat} (id : Nat) (s : State) (go : Copy → State) (h : c < coreCount) :
    Answered (onCopy c id s go) := by
  refine answered_agent h ?_
  split <;> exact ⟨_, rfl⟩

theorem timeCorrection_answered {r : Nat} (v : Nat) (s : State) (h : r < 29) : Answered (execTimeCorrection r v s) := by
  unfold execTimeCorrection
  split
  · split <;> exact ⟨_, rfl⟩
  · split
    · split <;> exact ⟨_, rfl⟩
    · refine answered_agent (by omega) ?_
      split <;> exact ⟨_, rfl⟩

theorem exec_answered_of_wf {i : Instr} (hp : i.parts = none) (hw : i.wf = true) (s : State) :
    Answered (exec i s) := by
  have agent (a b : Nat) (h : decide (a < b) = true) : a < b := of_decide_eq_true h
  cases i with
  | nopTix0 b => exact ⟨_, rfl⟩
  | crewDeadlock c => exact answered_agent (agent _ _ hw) ⟨_, rfl⟩
  | pageIn leaf ok => exact ⟨_, rfl⟩
  | pageOut leaf => exact ⟨_, rfl⟩
  | loadDataLanding c st n =>
    refine answered_agent (agent _ _ hw) ?_
    split
    · exact ⟨_, rfl⟩
    · refine answered_ite ⟨_, rfl⟩ (answered_ite ⟨_, rfl⟩ ?_)
      split <;> exact ⟨_, rfl⟩
  | memUncorr c st =>
    refine answered_agent (agent _ _ hw) ?_
    split
    · exact ⟨_, rfl⟩
    · exact answered_ite ⟨_, rfl⟩ ⟨_, rfl⟩
  | meteredLine c e => exact answered_agent (agent _ _ hw) (answered_ite ⟨_, rfl⟩ ⟨_, rfl⟩)
  | promotionRequest c =>
    refine answered_agent (agent _ _ hw) ?_
    dsimp only
    split
    · exact answered_ite ⟨_, rfl⟩ (answered_ite ⟨_, rfl⟩ ⟨_, rfl⟩)
    · exact answered_ite ⟨_, rfl⟩ ⟨_, rfl⟩
  | wideningWaitBound c =>
    refine answered_agent (agent _ _ hw) ?_
    split
    · exact answered_ite ⟨_, rfl⟩ ⟨_, rfl⟩
    · exact ⟨_, rfl⟩
  | copyStart c id => exact onCopy_answered id s _ (agent _ _ hw)
  | copyEntryDelivery c id => exact onCopy_answered id s _ (agent _ _ hw)
  | copyEnd c id => exact onCopy_answered id s _ (agent _ _ hw)
  | resultLanding c => exact answered_agent (agent _ _ hw) ⟨_, rfl⟩
  | matrixLanding c => exact answered_agent (agent _ _ hw) ⟨_, rfl⟩
  | drainStart c id => exact onCopy_answered id s _ (agent _ _ hw)
  | mailboxArrival c =>
    refine answered_ite ⟨_, rfl⟩ (answered_agent (agent _ _ hw) ?_)
    dsimp only
    split <;> exact ⟨_, rfl⟩
  | waitbExpiry c =>
    refine answered_agent (agent _ _ hw) ?_
    split
    · exact answered_ite ⟨_, rfl⟩ ⟨_, rfl⟩
    · exact ⟨_, rfl⟩
  | dispatchSlot n => exact answered_agent (agent _ _ hw) (answered_ite ⟨_, rfl⟩ ⟨_, rfl⟩)
  | parentPreemptTimeout c =>
    refine answered_agent (agent _ _ hw) ?_
    dsimp only
    split
    · exact ⟨_, rfl⟩
    · split <;> exact ⟨_, rfl⟩
  | taskEnd c =>
    refine answered_agent (agent _ _ hw) (answered_ite ⟨_, rfl⟩ (answered_ite ⟨_, rfl⟩ ?_))
    split <;> exact ⟨_, rfl⟩
  | launchDeadline n =>
    show Answered (execLaunchDeadline n s)
    unfold execLaunchDeadline
    split <;> exact ⟨_, rfl⟩
  | kick q v => exact answered_agent (agent _ _ hw) ⟨_, rfl⟩
  | doorbellFold q =>
    refine answered_agent (agent _ _ hw) ?_
    split <;> exact ⟨_, rfl⟩
  | tokset q v => exact answered_agent (agent _ _ hw) ⟨_, rfl⟩
  | tokclr q v => exact answered_agent (agent _ _ hw) ⟨_, rfl⟩
  | hostQueueReservedWrite q off v =>
    simp only [Instr.wf, Instr.parts, Bool.and_eq_true, decide_eq_true_eq] at hw
    exact answered_agent hw.1 ⟨_, rfl⟩
  | lfeCycle =>
    show Answered (execLfeCycle s)
    unfold execLfeCycle
    split <;> exact ⟨_, rfl⟩
  | tideBoundary d => exact answered_agent (agent _ _ hw) ⟨_, rfl⟩
  | throttleWarn c =>
    exact answered_agent (agent _ _ hw)
      (answered_ite ⟨_, rfl⟩ (answered_ite ⟨_, rfl⟩ (answered_ite ⟨_, rfl⟩ ⟨_, rfl⟩)))
  | throttleStep n => exact answered_agent (agent _ _ hw) ⟨_, rfl⟩
  | boostWindowEnd n => exact answered_agent (agent _ _ hw) ⟨_, rfl⟩
  | powerLimitStretch n => exact answered_agent (agent _ _ hw) ⟨_, rfl⟩
  | thermalTrip => exact ⟨_, rfl⟩
  | thermalResume => exact answered_ite ⟨_, rfl⟩ ⟨_, rfl⟩
  | timeCorrection r v => exact timeCorrection_answered v s (agent _ _ hw)
  | chartTransferEnd d n =>
    simp only [Instr.wf, Instr.parts, Bool.and_eq_true, decide_eq_true_eq] at hw
    refine answered_agent hw ?_
    split <;> exact ⟨_, rfl⟩
  | preemption c =>
    refine answered_agent (agent _ _ hw) (answered_ite ⟨_, rfl⟩ (answered_ite ⟨_, rfl⟩ ?_))
    split <;> exact ⟨_, rfl⟩
  | moorWake cause =>
    show Answered (execMoorWake cause s)
    unfold execMoorWake
    split
    · split <;> exact ⟨_, rfl⟩
    · exact ⟨_, rfl⟩
  | walrisPeerWrite w off data => exact answered_ite (answered_ite ⟨_, rfl⟩ ⟨_, rfl⟩) ⟨_, rfl⟩
  | coldStart a b => exact answered_ite ⟨_, rfl⟩ ⟨_, rfl⟩
  | warmStart orderly => exact answered_ite ⟨_, rfl⟩ (answered_ite ⟨_, rfl⟩ ⟨_, rfl⟩)
  | attestationRequest nonce => exact answered_ite ⟨_, rfl⟩ ⟨_, rfl⟩
  | idleTickLimit c => exact answered_agent (agent _ _ hw) ⟨_, rfl⟩
  | nextRelease c => exact answered_agent (agent _ _ hw) ⟨_, rfl⟩
  | storePerformed c st n =>
    refine answered_agent (agent _ _ hw) ?_
    split
    · exact ⟨_, rfl⟩
    · split <;> exact ⟨_, rfl⟩
  | hostPortAccess a acc => cases acc <;> exact answered_ite ⟨_, rfl⟩ ⟨_, rfl⟩
  | _ => nomatch hp

/-! ### The turn of a stream -/

theorem ok_of_ite {ε α : Type} {c : Prop} [Decidable c] {a : Except ε α} {e : ε} {v : α}
    (h : (if c then a else .error e) = .ok v) : a = .ok v := by
  by_cases hc : c
  · rwa [if_pos hc] at h
  · rw [if_neg hc] at h
    cases h

theorem decodeWide_parts {st : Option Stream} {b : Bundle} {w : Wide} {i : Instr} (h : decodeWide st b w = .ok i) :
    ∃ p, i.parts = some p := by
  unfold decodeWide at h
  cases ho : Op.ofCode w.opc.toNat w.fn.toNat w.mod.toNat with
  | none =>
    rw [ho] at h
    cases h
  | some o =>
    rw [ho] at h
    have hfields := ok_of_ite h
    cases hf : fieldsOfWide w with
    | none =>
      rw [hf] at hfields
      cases hfields
    | some f =>
      rw [hf] at hfields
      cases ok_of_ite hfields
      exact ⟨_, Op.parts_instr o b f⟩

/-- What the decoder answers is no event. -/
theorem decode_answered {tpl : Nat → WideBits} {st : Option Stream} {ws rest : List W32} {i : Instr}
    (h : decode tpl st ws = .ok (i, rest)) (s : State) : Answered (exec i s) := by
  unfold decode at h
  split at h
  · cases h
  · cases h
    exact ⟨_, rfl⟩
  · split at h
    · rename_i hw
      cases h
      obtain ⟨p, hp⟩ := decodeWide_parts hw
      exact exec_answered_of_parts hp s
    · cases h

section
variable (s : State) (c : Nat) (st : Stream)

theorem State.fetchAndRun_answered : Answered (s.fetchAndRun c st) := by
  unfold State.fetchAndRun
  split
  · exact ⟨_, rfl⟩
  · exact ⟨_, rfl⟩
  · dsimp only
    split
    · exact ⟨_, rfl⟩
    · refine answered_ite ⟨_, rfl⟩ ?_
      split
      · exact ⟨_, rfl⟩
      · exact ⟨_, rfl⟩
      · rename_i hd
        exact decode_answered hd _

theorem State.attempt_answered : Answered (s.attempt c st) := by
  unfold State.attempt
  split
  · exact exec_answered_of_parts (Op.parts_instr _ _ _) _
  · exact s.fetchAndRun_answered c st

theorem State.tryBundle_answered : Answered (s.tryBundle c st) := by
  unfold State.tryBundle
  split
  · exact ⟨_, rfl⟩
  · exact s.attempt_answered c st

theorem State.issueBundle_answered : Answered (s.issueBundle c st) := by
  obtain ⟨t, ht⟩ := s.tryBundle_answered c st
  simp only [State.issueBundle, ht]
  exact answered_ite ⟨_, rfl⟩ ⟨_, rfl⟩

theorem State.issueFirst_answered : Answered (s.issueFirst c st) := by
  obtain ⟨t, ht⟩ := s.issueBundle_answered c st
  simp only [State.issueFirst, ht]
  refine answered_ite ?_ ⟨_, rfl⟩
  split
  · exact s.issueBundle_answered c _
  · exact ⟨_, rfl⟩

theorem State.issueTurn_answered : Answered (s.issueTurn c st) := by
  unfold State.issueTurn
  refine answered_ite ⟨_, rfl⟩ (answered_ite ?_ (answered_ite ?_ (s.issueFirst_answered c st)))
  · exact State.issueFirst_answered _ c st
  · split
    · exact State.issueBundle_answered _ c _
    · exact ⟨_, rfl⟩

end

/-! ### Turns -/

theorem State.warnTurn_answered {s : State} {i : Instr} (c : Nat) (h : ∀ u, Answered (exec i u)) :
    Answered (s.warnTurn c i) := by
  unfold State.warnTurn
  refine answered_ite ?_ (h s)
  split
  · exact s.issueTurn_answered c _
  · exact h s

theorem State.uncorrTurn_answered {s : State} {i : Instr} (c : Nat) (st : Stream) (h : ∀ u, Answered (exec i u)) :
    Answered (s.uncorrTurn c st i) := by
  unfold State.uncorrTurn
  split
  · exact answered_ite (h s) (s.issueBundle_answered c _)
  · exact h s

theorem State.runTurn_answered (s : State) (t : Turn) : Answered (s.runTurn t) := by
  cases t with
  | issue c st => exact State.issueTurn_answered _ c st
  | event i =>
    by_cases h : (isEvent i && i.wf) = true
    · obtain ⟨he, hw⟩ := Bool.and_eq_true_iff.1 h
      have hp : i.parts = none := by
        unfold isEvent at he
        split at he
        · rfl
        · exact Option.isNone_iff_eq_none.1 he
      have hexec := exec_answered_of_wf hp hw
      simp only [State.runTurn, h, if_true]
      split
      · exact hexec _
      · exact State.warnTurn_answered _ hexec
      · exact State.uncorrTurn_answered _ _ hexec
      · exact hexec _
      · exact hexec _
      · exact hexec _
    · simp only [State.runTurn, h]
      exact ⟨_, rfl⟩
  | _ => exact ⟨_, rfl⟩

/-- Settles O49: every turn is answered, an event that names no agent by doing nothing. -/
theorem stepsNeverStop : Obligations.StepsNeverStop := by
  unfold Obligations.StepsNeverStop
  exact fun s => State.runTurn_answered _ _

/-! ### The turn that runs an instruction -/

/-- The state of a turn after its attempt, the rendezvous of its bundle formed where it waits for that. -/
def State.formed (t : State) (c : Nat) (st : Stream) : State :=
  if t.note = .waited ∧ (t.stream c st).atSync = true then t.rendezvous c else t

theorem State.attempt_kept {s : State} {c : Nat} {st : Stream} {e : Issued} (h : (s.stream c st).kept = some e) :
    s.attempt c st =
      exec (e.o.instr e.held.b e.held.f) { s with cur := { core := c, st := st, fl := e.held.fl, bh := e.held.bh } } := by
  simp only [State.attempt, h]

/-- A bundle that is fetched whole, needs no drain and no template still to land, and decodes. -/
theorem State.attempt_fetched {s w : State} {c : Nat} {st : Stream} {ws rest : List W32} {fl bh : Bool} {i : Instr}
    (hk : (s.stream c st).kept = none) (hf : s.fetchBundle c st = .ok w ws fl bh)
    (hd : ∀ n, (w.core c).drainFor st fl ≠ some (n, true)) (ht : fl = true ∨ (w.core c).templatePending st ws = false)
    (hi : decode (w.stream c st).template (some st) ws = .ok (i, rest)) :
    s.attempt c st = exec i { w with cur := { core := c, st := st, fl := fl, bh := bh } } := by
  have hnot : (!fl && (w.core c).templatePending st ws) = false := by
    obtain h | h := ht <;> simp [h]
  have hi' : decode ((w.core c).stream st).template (some st) ws = .ok (i, rest) := hi
  have hrun : s.fetchAndRun c st = exec i { w with cur := { core := c, st := st, fl := fl, bh := bh } } := by
    cases hdr : (w.core c).drainFor st fl with
    | none => simp only [State.fetchAndRun, hf, hdr, hnot, Bool.false_eq_true, if_false, hi']
    | some p =>
      obtain ⟨n, b⟩ := p
      cases b with
      | true => exact absurd hdr (hd n)
      | false => simp only [State.fetchAndRun, hf, hdr, hnot, Bool.false_eq_true, if_false, hi']
  simp only [State.attempt, hk, hrun]

theorem State.issueBundle_of_attempt {s t : State} {c : Nat} {st : Stream} (hu : (s.stream c st).uncorr = [])
    (h : s.attempt c st = .next t) : s.issueBundle c st = .next (t.formed c st) := by
  simp only [State.issueBundle, State.tryBundle, hu, h, State.formed]
  split <;> rfl

theorem State.issueFirst_of_issueBundle {s r : State} {c : Nat} {st : Stream} (h : s.issueBundle c st = .next r) :
    s.issueFirst c st = match (if r.note.fails then s.faultsBefore c st else none) with
      | some u => s.issueBundle c u
      | none => .next r := by
  simp only [State.issueFirst, h]
  split <;> rfl

theorem State.issueTurn_quiet {s : State} {c : Nat} {st : Stream} (hm : s.mayIssue c st = true)
    (hd : (s.core c).warnDue = false) (hh : (s.core c).warnHeld = false) :
    s.issueTurn c st = s.issueFirst c st := by
  simp [State.issueTurn, Core.warnReady, hm, hd, hh]

theorem step_issue {s : State} {c : Nat} {st : Stream} {turns : List Turn} (h : s.agenda = .issue c st :: turns) :
    step s = (({ s with agenda := turns } : State).catchUp).issueTurn c st := by
  simp only [step, State.nextTurn, h, State.runTurn]

/-- Settles O48: the turn attempts the bundle that the stream has kept or fetched, and forms its rendezvous. -/
theorem stepRunsInstruction : Obligations.StepRunsInstruction := by
  unfold Obligations.StepRunsInstruction
  intro s t c st turns ha s' r runs hm hu hd hh
  have run (h : s'.attempt c st = .next t) : runs := by
    show step s = _
    rw [step_issue ha, State.issueTurn_quiet hm hd hh]
    exact State.issueFirst_of_issueBundle (State.issueBundle_of_attempt hu h)
  exact ⟨fun w ws rest fl bh i hk hf hdr ht hi hx => run ((State.attempt_fetched hk hf hdr ht hi).trans hx),
    fun e hk hx => run ((State.attempt_kept hk).trans hx)⟩

end Sys2Proof.Machine

end

/-! The words that the specification writes out, and the return from an exception (R28 to R36, R45, R74, R380). -/

section

namespace Sys2Proof.Machine

/-- Settles O47: each word list is decoded. -/
theorem decodedWords : Obligations.DecodedWords := by
  unfold Obligations.DecodedWords
  intro b read
  exact ⟨rfl, rfl, rfl, rfl, rfl, rfl, rfl, rfl, rfl, rfl, rfl⟩

/-! ### ERET (R380) -/

/-- What a return from an exception makes of a stream: its PC comes back from the frame, and it does not issue within
2 ticks. -/
def StreamState.returned (t : StreamState) (pc : Word) (now : Nat) : StreamState :=
  { t with pc := pcOf pc.toNat, nextTick := max t.nextTick (now + 2) }

/-- What P has back besides. -/
def StreamState.resumed (t : StreamState) (fr : Frame) : StreamState :=
  { t with
    lact := (List.range 4).map (fun i => (i, bit fr.flact.toNat i)),
    pend := BitVec.ofNat 2 (bits fr.flact.toNat 4 2), ptarget := pcOf fr.fptg.toNat, link := fr.flink,
    syncDone := fr.fsync, slotsLeft := max fr.fslots (bits fr.flact.toNat 4 2) }

theorem State.eret_core (s : State) (c : Nat) :
    (s.eret c).core c =
      { s.core c with
        inh := false,
        st := { p := ((s.stream c .P).returned (s.core c).frame.fpc.p (s.tickOf c)).resumed (s.core c).frame,
                l := (s.stream c .L).returned (s.core c).frame.fpc.l (s.tickOf c),
                x := (s.stream c .X).returned (s.core c).frame.fpc.x (s.tickOf c),
                s := (s.stream c .S).returned (s.core c).frame.fpc.s (s.tickOf c) } } :=
  State.core_modCore _ _ _

/-- A stream after the return, P's with what comes back besides. -/
theorem State.eret_stream (s : State) (c : Nat) (st : Stream) :
    ((s.eret c).core c).stream st =
      (let t := (s.stream c st).returned ((s.core c).frame.fpc.get st) (s.tickOf c)
       if st = .P then t.resumed (s.core c).frame else t) := by
  rw [State.eret_core]
  cases st <;> rfl

theorem Tbl.get_range_four {α : Type} (d : α) (g : Nat → α) {i : Nat} (h : i < 4) :
    Tbl.get d ((List.range 4).map (fun k => (k, g k))) i = g i := by
  match i, h with
  | 0, _ | 1, _ | 2, _ | 3, _ => rfl

/-- Settles O57: ERET puts back what the frame holds and touches only the streams and INH of its core. -/
theorem exceptionReturn : Obligations.ExceptionReturn := by
  unfold Obligations.ExceptionReturn
  intro s c k s' k'
  have stream (st : Stream) : k'.stream st = _ := s.eret_stream c st
  have hp : k'.stream .P = ((k.stream .P).returned k.frame.fpc.p (s.tickOf c)).resumed k.frame := stream .P
  refine ⟨by rw [show k' = _ from s.eret_core c], fun st => ?_, fun n hn => ?_, ?_, ?_, ?_, ?_, fun st hst => ?_, ?_,
    rfl, fun d hd => State.core_modCore_other s _ hd⟩
  · rw [stream st]
    cases st <;> exact ⟨rfl, Nat.le_max_right _ _, rfl, rfl⟩
  · rw [hp]
    exact (Tbl.get_range_four false _ hn).trans (bit_eq_testBit _ _)
  · rw [hp]
    exact (BitVec.toNat_ofNat _ _).trans (by unfold bits; omega)
  · rw [hp]
    rfl
  · rw [hp]
    rfl
  · rw [hp]
    rfl
  · rw [stream st, if_neg hst]
    exact ⟨rfl, rfl⟩
  · rw [show k' = _ from s.eret_core c]

end Sys2Proof.Machine

end

/-! What a landing writes (R37, R49, R125, R212, R239, R251, R254, R260, R371, R380). -/

section

namespace Sys2Proof.Machine

/-! ### Registers (R37, R93) -/

theorem StreamState.reg_canonReg (t : StreamState) (o : Operand) : t.reg (canonReg o) = t.reg o := by
  cases o <;> rfl

theorem StreamState.reg_setReg_same (t : StreamState) {o : Operand} (v : Word) (hr : isRegister o = true)
    (hs : o ≠ .s 0) (hp : o ≠ .p 0) : (t.setReg o v).reg o = v := by
  cases o with
  | s n =>
    have hn : n.val ≠ 0 := fun h => hs (by rw [show n = 0 from Fin.ext h])
    simp [StreamState.setReg, StreamState.reg, hn]
  | p n =>
    have hn : n.val ≠ 0 := fun h => hp (by rw [show n = 0 from Fin.ext h])
    simp [StreamState.setReg, StreamState.reg, hn]
  | lc n | sp | ml n => simp [StreamState.setReg, StreamState.reg]
  | ln => rfl
  | _ => simp [isRegister] at hr

@[simp] theorem StreamState.setReg_canonReg (t : StreamState) (o : Operand) (v : Word) :
    t.setReg (canonReg o) v = t.setReg o v := by
  cases o <;> rfl

theorem StreamState.reg_setReg_ne (t : StreamState) {o o' : Operand} (v : Word) (ho : o ≠ .sp) (ho' : o' ≠ .sp)
    (h : o' ≠ o) : (t.setReg o v).reg o' = t.reg o' := by
  cases o with
  | s n =>
    by_cases hn : n.val = 0
    · simp only [StreamState.setReg, hn, if_true]
    · cases o' with
      | s m =>
        have hm : m.val ≠ n.val := fun e => h (congrArg Operand.s (Fin.ext e))
        simp only [StreamState.setReg, StreamState.reg, if_neg hn, Tbl.get_set_other 0 t.s v hm]
      | sp => exact absurd rfl ho'
      | _ => simp only [StreamState.setReg, StreamState.reg, if_neg hn]
  | p n =>
    by_cases hn : n.val = 0
    · simp only [StreamState.setReg, hn, if_true]
    · cases o' with
      | p m =>
        have hm : m.val ≠ n.val := fun e => h (congrArg Operand.p (Fin.ext e))
        simp only [StreamState.setReg, StreamState.reg, if_neg hn, Tbl.get_set_other 0 t.p v hm]
      | _ => simp only [StreamState.setReg, StreamState.reg, if_neg hn]
  | lc n =>
    cases o' with
    | lc m => exact Tbl.get_set_other 0 t.lc v (fun e => h (congrArg Operand.lc (Fin.ext e)))
    | _ => rfl
  | ln =>
    cases o' with
    | ln => exact absurd rfl h
    | _ => rfl
  | ml n =>
    cases o' with
    | ml m => exact Tbl.get_set_other 0 t.ml v (fun e => h (congrArg Operand.ml (Fin.ext e)))
    | _ => rfl
  | sp => exact absurd rfl ho
  | _ => rfl

theorem canonReg_ne_sp (o : Operand) : canonReg o ≠ .sp := by cases o <;> simp [canonReg]

/-- A register that a write does not name keeps its value; sp is s31. -/
theorem StreamState.reg_setReg_other (t : StreamState) {o o' : Operand} (v : Word) (h : canonReg o' ≠ canonReg o) :
    (t.setReg o v).reg o' = t.reg o' := by
  have := t.reg_setReg_ne v (canonReg_ne_sp o) (canonReg_ne_sp o') h
  rwa [StreamState.setReg_canonReg, StreamState.reg_canonReg, StreamState.reg_canonReg] at this

theorem StreamState.setReg_keeps (t : StreamState) (o : Operand) (v : Word) :
    (t.setReg o v).pc = t.pc ∧ (t.setReg o v).fstat = t.fstat := by
  cases o with
  | s n | p n =>
    simp only [StreamState.setReg]
    split <;> exact ⟨rfl, rfl⟩
  | _ => exact ⟨rfl, rfl⟩

/-! ### Tables that take a list (R248, R251) -/

section
variable {α : Type} (d : α)

theorem Tbl.get_setAll_other {l : List (Nat × α)} {i : Nat} (t : Tbl α) (h : ∀ v, (i, v) ∉ l) :
    Tbl.get d (Tbl.setAll t l) i = Tbl.get d t i := by
  induction l generalizing t with
  | nil => rfl
  | cons e l ih =>
    obtain ⟨k, w⟩ := e
    have hi : i ≠ k := fun hik => h w (by rw [hik]; exact List.mem_cons_self)
    rw [Tbl.setAll, ih _ (fun v hv => h v (List.mem_cons_of_mem _ hv)), Tbl.get_set_other d t w hi]

theorem Tbl.get_setAll_mem {l : List (Nat × α)} {i : Nat} {v : α} (t : Tbl α) (hm : (i, v) ∈ l)
    (hu : ∀ w, (i, w) ∈ l → w = v) : Tbl.get d (Tbl.setAll t l) i = v := by
  induction l generalizing t with
  | nil => cases hm
  | cons e l ih =>
    obtain ⟨k, w⟩ := e
    rw [Tbl.setAll]
    by_cases hl : (i, v) ∈ l
    · exact ih _ hl (fun w hw => hu w (List.mem_cons_of_mem _ hw))
    · obtain ⟨rfl, rfl⟩ : i = k ∧ v = w := by
        obtain h | h := List.mem_cons.1 hm
        · exact Prod.mk.inj h
        · exact absurd h hl
      rw [Tbl.get_setAll_other d _ (fun w hw => hl (hu w (List.mem_cons_of_mem _ hw) ▸ hw)), Tbl.get_set_same]

end

/-! ### Histogram bins (R239) -/

theorem get_bumpBin (h : Tbl (BitVec 32)) (a b : Nat) :
    (Tbl.get 0 (bumpBin h a) b).toNat = min ((Tbl.get 0 h b).toNat + if b = a then 1 else 0) (2 ^ 32 - 1) := by
  have hlt := (Tbl.get 0 h b).isLt
  unfold bumpBin
  rw [Tbl.get_set]
  split
  · rename_i hba
    rw [hba, BitVec.toNat_ofNat]
    omega
  · omega

theorem get_foldl_bumpBin (digits : List Nat) (h : Tbl (BitVec 32)) (b : Nat) :
    (Tbl.get 0 (digits.foldl bumpBin h) b).toNat = min ((Tbl.get 0 h b).toNat + digits.count b) (2 ^ 32 - 1) := by
  induction digits generalizing h with
  | nil =>
    have hlt := (Tbl.get 0 h b).isLt
    simp only [List.foldl_nil, List.count_nil]
    omega
  | cons a l ih =>
    rw [List.foldl_cons, ih, get_bumpBin, List.count_cons]
    simp only [beq_iff_eq, eq_comm (a := a)]
    omega

/-! ### Special registers (R371, R380) -/

theorem State.landOne_special {s : State} {c : Nat} {l : Landing} {n : Nat} {v : Word} (h : l.effects = [.special n v]) :
    s.landOne c l = (s.applyLength (.special n v)).modCore c (fun k => k.setSpecial n v) := by
  have hb : l.holdBytes = [] := by rw [Landing.holdBytes, h]; rfl
  have he : l.isEpiOut = false := by rw [Landing.isEpiOut, h]; rfl
  simp only [State.landOne, hb, he, h, List.foldl_nil, List.foldl_cons, Bool.false_eq_true, if_false]
  rfl

@[simp] theorem State.applyLength_cores (s : State) (e : Effect) : (s.applyLength e).cores = s.cores := by
  unfold State.applyLength
  split <;> rfl

theorem State.applyLength_core (s : State) (e : Effect) (d : Nat) : (s.applyLength e).core d = s.core d := by
  rw [State.core, State.applyLength_cores]
  rfl

/-- The landing of a result with no image of EPI.OUT applies its effects to its core in turn. -/
theorem State.landOne_core {s : State} {c : Nat} {l : Landing} (h : l.isEpiOut = false) :
    (s.landOne c l).core c = l.effects.foldl (fun k e => k.apply l.tick e) (s.core c) := by
  have hb : l.holdBytes = [] := by
    unfold Landing.isEpiOut at h
    rw [Landing.holdBytes, List.flatMap_eq_nil_iff]
    intro e he
    have hne := List.any_eq_false.1 h e he
    cases e with
    | epiOut => exact absurd rfl hne
    | _ => rfl
  have hc : (l.effects.foldl State.applyLength s).core c = s.core c :=
    foldl_leaves (fun s => s.core c) _ (fun s e => s.applyLength_core e c) l.effects s
  simp only [State.landOne, hb, h, List.foldl_nil, Bool.false_eq_true, if_false, State.core_modCore, hc]

theorem State.landList_eq (l : List Landing) (s : State) (c : Nat) :
    s.landList c l = l.foldl (fun w e => w.landOne c e) s := by
  induction l generalizing s with
  | nil => rfl
  | cons e l ih => exact ih _

end Sys2Proof.Machine

end

/-! The special registers (R371), and what each effect of a landing writes. -/

section

namespace Sys2Proof.Machine

/-- Two cores hold the same in their special registers, but for the one with a number (Table 15.1). -/
structure Core.SpecialsBut (n : Nat) (k k' : Core) : Prop where
  caps   : k'.caps = k.caps
  ptroot : n ≠ 8 → k'.ptroot = k.ptroot
  fcause : n ≠ 10 → k'.frame.fcause = k.frame.fcause
  faddr0 : n ≠ 11 → k'.frame.faddr0 = k.frame.faddr0
  faddr1 : n ≠ 12 → k'.frame.faddr1 = k.frame.faddr1
  fdet   : n ≠ 13 → k'.frame.fdet = k.frame.fdet
  fpcP   : n ≠ 14 → k'.frame.fpc.p = k.frame.fpc.p
  fpcL   : n ≠ 15 → k'.frame.fpc.l = k.frame.fpc.l
  fpcX   : n ≠ 16 → k'.frame.fpc.x = k.frame.fpc.x
  fpcS   : n ≠ 17 → k'.frame.fpc.s = k.frame.fpc.s
  wxtag  : n ≠ 18 → k'.frame.wxtag = k.frame.wxtag
  wxval  : n ≠ 19 → k'.frame.wxval = k.frame.wxval
  wxcmp  : n ≠ 20 → k'.frame.wxcmp = k.frame.wxcmp
  flact  : n ≠ 21 → k'.frame.flact = k.frame.flact
  tvec   : n ≠ 22 → k'.tvec = k.tvec
  ctxptr : n ≠ 23 → k'.ctxptr = k.ctxptr
  lease  : n ≠ 24 → k'.lease = k.lease
  fptg   : n ≠ 25 → k'.frame.fptg = k.frame.fptg

theorem Core.setSpecial_but (k : Core) (n : Nat) (v : Word) : k.SpecialsBut n (k.setSpecial n v) := by
  unfold Core.setSpecial
  split <;> constructor <;> simp [Four.set]

/-- The registers of a core that the module holds, TIDE and FLEN, are all that the landing of a write changes outside
its core. -/
theorem State.applyLength_special (s : State) (n : Nat) (v : Word) :
    (s.applyLength (.special n v)).islands = s.islands ∧ (s.applyLength (.special n v)).refTime = s.refTime ∧
      (s.applyLength (.special n v)).fresh = s.fresh ∧ (n ≠ 6 → (s.applyLength (.special n v)).tide = s.tide) ∧
      (n ≠ 7 → (s.applyLength (.special n v)).flen = s.flen) := by
  unfold State.applyLength
  split
  · rename_i h
    cases h
    simp
  · rename_i h
    cases h
    simp
  · simp

/-- What the time counters of a core are read from. -/
theorem State.tickOf_congr {s t : State} (c : Nat) (hi : t.islands = s.islands) : t.tickOf c = s.tickOf c := by
  simp only [State.tickOf, State.island, hi]

theorem State.timeOf_congr {s t : State} (c : Nat) (hi : t.islands = s.islands) (hr : t.refTime = s.refTime) :
    t.timeOf c = s.timeOf c := by
  simp only [State.timeOf, State.islandTime, State.timeWith, State.island, hi, hr]

theorem State.frameOf_congr {s t : State} (c : Nat) (hi : t.islands = s.islands) (hr : t.refTime = s.refTime)
    (hf : t.fresh = s.fresh) (hl : t.flen = s.flen) : t.frameOf c = s.frameOf c := by
  simp only [State.frameOf, State.islandFrame, State.islandTime, State.timeWith, State.island, hi, hr, hf, hl]

/-- Every special register but the one written reads as before; FRAME depends on FLEN (R324). -/
theorem State.special_landOne_other {s : State} {c : Nat} {l : Landing} {n m : Nat} {v : Word}
    (h : l.effects = [.special n v]) (hm : m ≠ n) (hf : ¬ (m = 5 ∧ n = 7)) :
    (s.landOne c l).special c m = s.special c m := by
  obtain ⟨hi, ht, hfresh, htide, hflen⟩ := s.applyLength_special n v
  have hk := (s.core c).setSpecial_but n v
  have hcore : ((s.applyLength (.special n v)).modCore c (fun k => k.setSpecial n v)).core c =
      (s.core c).setSpecial n v := by
    rw [State.core_modCore, State.applyLength_core]
  rw [State.landOne_special h]
  unfold State.special
  rw [hcore]
  have hn := hm.symm
  split
  case h_1 | h_2 | h_10 => rfl
  case h_3 => exact congrArg (BitVec.zeroExtend 64) hk.caps
  case h_4 => exact congrArg (BitVec.ofNat 64) (State.tickOf_congr c hi)
  case h_5 => exact congrArg (BitVec.ofNat 64) (State.timeOf_congr c hi ht)
  case h_6 => exact congrArg (BitVec.ofNat 64) (State.frameOf_congr c hi ht hfresh (hflen (fun e => hf ⟨rfl, e⟩)))
  case h_7 => exact congrArg (BitVec.ofNat 64) (htide hn)
  case h_8 => exact congrArg (BitVec.ofNat 64) (hflen hn)
  case h_9 => exact hk.ptroot hn
  case h_11 => exact hk.fcause hn
  case h_12 => exact hk.faddr0 hn
  case h_13 => exact hk.faddr1 hn
  case h_14 => exact hk.fdet hn
  case h_15 => exact hk.fpcP hn
  case h_16 => exact hk.fpcL hn
  case h_17 => exact hk.fpcX hn
  case h_18 => exact hk.fpcS hn
  case h_19 => exact hk.wxtag hn
  case h_20 => exact hk.wxval hn
  case h_21 => exact hk.wxcmp hn
  case h_22 => exact hk.flact hn
  case h_23 => exact hk.tvec hn
  case h_24 => exact hk.ctxptr hn
  case h_25 => exact congrArg (fun b : Bool => if b = true then (1 : Word) else 0) (hk.lease hn)
  case h_26 => exact hk.fptg hn
  case h_27 => rfl

/-- A bit read as a number, of a word. -/
theorem toNat_and_one (v : Word) : (if (v.toNat % 2 == 1) = true then 1 else 0 : Word) = v &&& 1 := by
  refine BitVec.eq_of_toNat_eq ?_
  rw [BitVec.toNat_and]
  have h : v.toNat &&& (1 : Word).toNat = v.toNat % 2 := Nat.and_one_is_mod _
  rw [h]
  split <;> simp_all

/-- A special register reads as written, reserved bits 0 (Tables 6.5, 6.7, 15.1 and 15.4). -/
theorem State.special_landOne_same {s : State} {c : Nat} {l : Landing} {n : Nat} {v : Word}
    (h : l.effects = [.special n v]) :
    (n ∈ [6, 7, 11, 12, 14, 15, 16, 17, 18, 19, 20, 22, 23, 25] → (s.landOne c l).special c n = v) ∧
    (n = 8 → (s.landOne c l).special c n = v &&& 0xFFFF3FFFFFFFE000) ∧
    (n = 10 → (s.landOne c l).special c n = v &&& 0xFFFF0FFF) ∧ (n = 13 → (s.landOne c l).special c n = v &&& 0xFFFF) ∧
    (n = 21 → (s.landOne c l).special c n = v &&& 0x3F) ∧ (n = 24 → (s.landOne c l).special c n = v &&& 1) := by
  rw [State.landOne_special h]
  refine ⟨fun hn => ?_, ?_, ?_, ?_, ?_, ?_⟩
  · simp only [List.mem_cons, List.not_mem_nil, or_false] at hn
    obtain rfl | rfl | rfl | rfl | rfl | rfl | rfl | rfl | rfl | rfl | rfl | rfl | rfl | rfl := hn <;>
      simp [State.special, Core.setSpecial, State.applyLength, Four.set]
  · rintro rfl
    simp [State.special, Core.setSpecial, ptrootMask]
  · rintro rfl
    simp [State.special, Core.setSpecial, fcauseMask]
  · rintro rfl
    simp [State.special, Core.setSpecial, fdetMask]
  · rintro rfl
    simp [State.special, Core.setSpecial]
  · rintro rfl
    rw [← toNat_and_one]
    simp [State.special, Core.setSpecial]

theorem State.landOne_special_elsewhere {s : State} {c d : Nat} {l : Landing} {n : Nat} {v : Word}
    (h : l.effects = [.special n v]) (hd : d ≠ c) : (s.landOne c l).core d = s.core d := by
  rw [State.landOne_special h, State.core_modCore_other _ _ hd, State.applyLength_core]

/-! ### Each effect -/

section
variable (k : Core) (tick : Nat)

/-- The landing of a register write (R37, R49). -/
theorem Core.apply_reg (st st' : Stream) (o o' : Operand) (v : Word) :
    let k' := k.apply tick (.reg st o v)
    (k'.stream st).reg (.s 0) = 0 ∧ (k'.stream st).reg (.p 0) = BitVec.allOnes 64 ∧
    (k'.stream st).reg .sp = (k'.stream st).reg (.s 31) ∧
    (isRegister o = true → o ≠ .s 0 → o ≠ .p 0 → (k'.stream st).reg o = v) ∧
    (canonReg o' ≠ canonReg o → (k'.stream st).reg o' = (k.stream st).reg o') ∧
    (st' ≠ st → k'.stream st' = k.stream st') ∧ { k' with st := k.st } = k ∧
    (k'.stream st).pc = (k.stream st).pc ∧ (k'.stream st).fstat = (k.stream st).fstat := by
  intro k'
  have hst : k'.stream st = (k.stream st).setReg o v := Core.stream_modStream _ _ _
  rw [hst]
  exact ⟨rfl, rfl, rfl, (k.stream st).reg_setReg_same v, (k.stream st).reg_setReg_other v,
    fun h => (Core.stream_modStream_if _ _ _ _).trans (if_neg h), rfl, (k.stream st).setReg_keeps o v⟩

theorem Core.apply_template (st : Stream) (n : Nat) (v : WideBits) :
    let k' := k.apply tick (.template st n v)
    Tbl.get 0 (k'.stream st).templates n = v ∧
    (∀ m, m ≠ n → Tbl.get 0 (k'.stream st).templates m = Tbl.get 0 (k.stream st).templates m) ∧
    { k'.stream st with templates := (k.stream st).templates } = k.stream st ∧
    (∀ u, u ≠ st → k'.stream u = k.stream u) ∧ { k' with st := k.st } = k := by
  intro k'
  have hst : k'.stream st = { k.stream st with templates := Tbl.set (k.stream st).templates n v } :=
    Core.stream_modStream _ _ _
  rw [hst]
  exact ⟨Tbl.get_set_same _ _ _ _, fun m hm => Tbl.get_set_other _ _ _ hm, rfl,
    fun u hu => (Core.stream_modStream_if _ _ _ _).trans (if_neg hu), rfl⟩

theorem Core.apply_hist (clear : Bool) (digits : List Nat) (b : Nat) :
    let k' := k.apply tick (.hist clear digits)
    (Tbl.get 0 k'.hist b).toNat =
      min ((if clear then 0 else (Tbl.get 0 k.hist b).toNat) + digits.count b) (2 ^ 32 - 1) ∧
    { k' with hist := k.hist } = k := by
  refine ⟨(get_foldl_bumpBin _ _ _).trans ?_, rfl⟩
  cases clear <;> rfl

theorem Stream.ofNum_ne : ∀ m < 4, ∀ n < 4, m ≠ n → Stream.ofNum m ≠ Stream.ofNum n := by
  decide

theorem Core.apply_acc (n : Nat) (hn : n < 4) (vals : Tbl (BitVec 32)) :
    let k' := k.apply tick (.acc n vals)
    (∀ i w, (i, w) ∈ vals → (∀ w', (i, w') ∈ vals → w' = w) → Tbl.get 0 (k'.accOf n) i = w) ∧
    (∀ i, (∀ w, (i, w) ∉ vals) → Tbl.get 0 (k'.accOf n) i = Tbl.get 0 (k.accOf n) i) ∧
    (∀ m < 4, m ≠ n → k'.accOf m = k.accOf m) ∧ { k' with acc := k.acc } = k := by
  intro k'
  have hacc : k'.accOf n = (k.accOf n).setAll vals := Four.get_set_same _ _ _
  rw [hacc]
  exact ⟨fun i w h hu => Tbl.get_setAll_mem 0 _ h hu, fun i h => Tbl.get_setAll_other 0 _ h,
    fun m hm hne => Four.get_set_other _ _ (Stream.ofNum_ne m hm n hn hne), rfl⟩

theorem Core.apply_pb (n : Nat) (hn : n < 2) (vals : Tbl (BitVec 32)) (kind : BitVec 2) (pn : Nat)
    (tags : Tbl (BitVec 16)) :
    let k' := k.apply tick (.pb n vals kind pn tags)
    (∀ i w, (i, w) ∈ vals → (∀ w', (i, w') ∈ vals → w' = w) → Tbl.get 0 (k'.pbOf n) i = w) ∧
    (∀ i, (∀ w, (i, w) ∉ vals) → Tbl.get 0 (k'.pbOf n) i = Tbl.get 0 (k.pbOf n) i) ∧
    k'.pkindOf n = kind ∧ k'.pnOf n = pn ∧ k'.ptagOf n = tags ∧ k'.pbOf (1 - n) = k.pbOf (1 - n) ∧
    k'.pkindOf (1 - n) = k.pkindOf (1 - n) ∧ k'.pnOf (1 - n) = k.pnOf (1 - n) ∧ k'.ptagOf (1 - n) = k.ptagOf (1 - n) ∧
    { k' with pb0 := k.pb0, pb1 := k.pb1, pkind0 := k.pkind0, pkind1 := k.pkind1, pn0 := k.pn0, pn1 := k.pn1,
              ptag0 := k.ptag0, ptag1 := k.ptag1 } = k := by
  match n, hn with
  | 0, _ | 1, _ =>
    exact ⟨fun i w h hu => Tbl.get_setAll_mem 0 _ h hu, fun i h => Tbl.get_setAll_other 0 _ h,
      rfl, rfl, rfl, rfl, rfl, rfl, rfl, rfl⟩

theorem QueueReg.land_reserved (r : QueueReg) {slot rid : Nat} (v : Entry) (hr : Tbl.get 0 r.rsv slot = rid)
    (hd : Tbl.get true r.rdy slot = false) :
    Tbl.get 0 (r.land slot rid tick v).slots slot = v ∧ Tbl.get true (r.land slot rid tick v).rdy slot = true ∧
    (r.land slot rid tick v).head = r.head ∧ (r.land slot rid tick v).cnt = r.cnt ∧
    ∀ m, m ≠ slot → Tbl.get 0 (r.land slot rid tick v).slots m = Tbl.get 0 r.slots m ∧
      Tbl.get true (r.land slot rid tick v).rdy m = Tbl.get true r.rdy m := by
  rw [QueueReg.land, if_pos ⟨hr, hd⟩]
  exact ⟨Tbl.get_set_same _ _ _ _, Tbl.get_set_same _ _ _ _, rfl, rfl,
    fun m hm => ⟨Tbl.get_set_other _ _ _ hm, Tbl.get_set_other _ _ _ hm⟩⟩

theorem QueueReg.land_stale (r : QueueReg) {slot rid : Nat} (v : Entry)
    (h : Tbl.get 0 r.rsv slot ≠ rid ∨ Tbl.get true r.rdy slot = true) : r.land slot rid tick v = r := by
  refine if_neg ?_
  rintro ⟨hr, hd⟩
  obtain h | h := h
  · exact h hr
  · rw [hd] at h
    cases h

theorem Core.apply_entry (q slot rid : Nat) (v : Entry) :
    let k' := k.apply tick (.entry q slot rid v); let r := k.queueReg q; let r' := k'.queueReg q
    (Tbl.get 0 r.rsv slot = rid → Tbl.get true r.rdy slot = false →
      Tbl.get 0 r'.slots slot = v ∧ Tbl.get true r'.rdy slot = true ∧ r'.head = r.head ∧ r'.cnt = r.cnt ∧
      ∀ m, m ≠ slot → Tbl.get 0 r'.slots m = Tbl.get 0 r.slots m ∧ Tbl.get true r'.rdy m = Tbl.get true r.rdy m) ∧
    (Tbl.get 0 r.rsv slot ≠ rid ∨ Tbl.get true r.rdy slot = true → r' = r) ∧
    (∀ p, p ≠ q → k'.queueReg p = k.queueReg p) ∧ { k' with queues := k.queues } = k := by
  intro k' r r'
  have hr : r' = r.land slot rid tick v := Core.queueReg_setQueueReg _ _ _
  rw [hr]
  exact ⟨r.land_reserved tick v, r.land_stale tick v,
    fun p hp => (Core.queueReg_setQueueReg_if _ _ _ _).trans (if_neg hp), rfl⟩

theorem Core.apply_framePc {st : Stream} (h : st ≠ .P) :
    let k' := k.apply tick (.framePc st)
    (k'.stream st).pend = 0 ∧ (∀ u, u ≠ st → k'.stream u = k.stream u) ∧ { k' with st := k.st } = k := by
  cases st with
  | P => exact absurd rfl h
  | L | X | S => exact ⟨rfl, fun u hu => (Core.stream_modStream_if _ _ _ _).trans (if_neg hu), rfl⟩

end

/-- Settles O54: each effect writes what it names, and what is due lands in order. -/
theorem landings : Obligations.Landings := by
  unfold Obligations.Landings
  refine ⟨fun k tick => k.apply_reg tick, fun k tick => ⟨fun st fl => rfl, fun fl => rfl, fun v => ⟨rfl, rfl, rfl⟩,
    k.apply_template tick, k.apply_hist tick, k.apply_acc tick, k.apply_pb tick, k.apply_entry tick, ⟨rfl, rfl⟩,
    fun st => k.apply_framePc tick⟩, fun s c l n v h => ?_, fun s c due => ⟨?_, fun l => State.landOne_core⟩⟩
  · obtain ⟨h1, h2, h3, h4, h5, h6⟩ := State.special_landOne_same (s := s) (c := c) h
    exact ⟨h1, h2, h3, h4, h5, h6, fun m hm hf => State.special_landOne_other h hm hf,
      fun d hd => State.landOne_special_elsewhere h hd⟩
  · exact State.landList_eq _ _ _

end Sys2Proof.Machine

end

/-! What the issue of a bundle leaves alone (R35, R42, R85, R177, R383): the relation of the states that its steps
connect. -/

section

namespace Sys2Proof.Machine

/-! ### What may pass -/

/-- What other cores keep of themselves beside their streams. -/
def Core.aloof (k : Core) : List Landing × Tbl Nat × Memory × Tbl Nat := (k.flight, k.fifo, k.hold, k.berths)

/-- What only a spill changes. -/
def Core.berthing (k : Core) : Memory × Tbl Nat × Tbl (BitVec 32) × Tbl Nat × Tbl Nat :=
  (k.hold, k.berths, k.pb1, k.claimant, k.overrun)

/-- What only a commit of stores changes. -/
def State.homes (s : State) :
    Nat × List FaultEntry × List Meter × Tbl HostQueue × (Nat → List PStore) × (Nat → Stream → List (Nat × Nat × Nat)) :=
  (s.fresh, s.faultLog, s.lines, s.queues, fun c => (s.core c).stores, fun c st => (s.stream c st).uncorr)

/-- The registers of a stream but FSTAT. -/
def StreamState.file (t : StreamState) : StreamRegs := { t.registers with fstat := 0 }

/-- What a step of the issue of a bundle may change, where results in flight may gain those with effects `own`; with
`flags`, FSTAT is not its to change. -/
structure Ctx.Passes (x : Ctx) (own : List Effect → Prop) (flags : Prop) (s t : State) : Prop where
  near : Near s t
  streams : ∀ c st, c ≠ x.c ∨ st ≠ x.st → (t.stream c st).told = (s.stream c st).told
  file : (t.stream x.c x.st).file = (s.stream x.c x.st).file
  fstat : flags → (t.stream x.c x.st).fstat = (s.stream x.c x.st).fstat
  link : ∀ o, (t.stream x.c x.st).link = some o → (s.stream x.c x.st).link = some o
  elsewhere : ∀ c, c ≠ x.c → (t.core c).aloof = (s.core c).aloof
  landings : ∀ l ∈ (t.core x.c).flight, l ∈ (s.core x.c).flight ∨ l.st = x.st ∧ own l.effects
  holds : (∀ r n, x.f.side ≠ .spill r n) → ∀ c, (t.core c).berthing = (s.core c).berthing
  commits : x.CommitsNone s → x.CommitsNone t ∧ t.homes = s.homes
  caches : x.CommitsNone s → (s.stream x.c x.st).tokenAcq = [] →
    (t.stream x.c x.st).tokenAcq = [] ∧ t.dies = s.dies

section
variable {x : Ctx} {own : List Effect → Prop} {flags : Prop} {s t u : State}

theorem Ctx.Passes.refl (s : State) : x.Passes own flags s s where
  near := Near.refl s
  streams _ _ _ := rfl
  file := rfl
  fstat _ := rfl
  link _ h := h
  elsewhere _ _ := rfl
  landings _ h := .inl h
  holds _ _ := rfl
  commits h := ⟨h, rfl⟩
  caches _ h := ⟨h, rfl⟩

theorem Ctx.Passes.trans (h : x.Passes own flags s u) (g : x.Passes own flags u t) : x.Passes own flags s t where
  near := h.near.trans g.near
  streams c st hne := (g.streams c st hne).trans (h.streams c st hne)
  file := g.file.trans h.file
  fstat hf := (g.fstat hf).trans (h.fstat hf)
  link o ho := h.link o (g.link o ho)
  elsewhere c hc := (g.elsewhere c hc).trans (h.elsewhere c hc)
  landings l hl := (g.landings l hl).elim (h.landings l) .inr
  holds hs c := (g.holds hs c).trans (h.holds hs c)
  commits hn :=
    have hu := h.commits hn
    have ht := g.commits hu.1
    ⟨ht.1, ht.2.trans hu.2⟩
  caches hn ha :=
    have hu := h.caches hn ha
    have ht := g.caches (h.commits hn).1 hu.1
    ⟨ht.1, ht.2.trans hu.2⟩

theorem Ctx.Passes.weaken {own' : List Effect → Prop} {flags' : Prop} (h : x.Passes own flags s t)
    (ho : ∀ es, own es → own' es) (hf : flags' → flags) : x.Passes own' flags' s t :=
  { h with
    fstat := fun h' => h.fstat (hf h')
    landings := fun l hl => (h.landings l hl).imp_right (And.imp_right (ho _)) }

end

/-! ### Steps of the issuing stream -/

/-- A core without what the steps of a bundle's own stream change: its sequencers, results in flight and token
counts. -/
def Core.unsequenced (k : Core) : Core :=
  { k with st := Four.all StreamState.reset, flight := [], seq := 0, fifo := [], pushes := [] }

/-- What a stream keeps of itself as its bundle issues. -/
structure StreamState.Keeps (flags : Prop) (t t' : StreamState) : Prop where
  file : t'.file = t.file
  fstat : flags → t'.fstat = t.fstat
  uncorr : t'.uncorr = t.uncorr
  link : ∀ o, t'.link = some o → t.link = some o
  tokenAcq : t.tokenAcq = [] → t'.tokenAcq = []

theorem StreamState.Keeps.refl {flags : Prop} (t : StreamState) : t.Keeps flags t :=
  ⟨rfl, fun _ => rfl, rfl, fun _ h => h, fun h => h⟩

@[simp] theorem State.stream_setCore (s : State) (c : Nat) (k : Core) (st : Stream) :
    (s.setCore c k).stream c st = k.stream st := by
  rw [State.stream, State.core_setCore]

theorem State.stream_setCore_other (s : State) {c d : Nat} (k : Core) (st : Stream) (h : d ≠ c) :
    (s.setCore c k).stream d st = s.stream d st := by
  rw [State.stream, State.core_setCore_other _ _ h]
  rfl

section
variable {x : Ctx} {own : List Effect → Prop} {flags : Prop} {s : State} {k : Core}

/-- A core takes the place of another; what holds of it and of the others. -/
theorem State.forall_core_setCore {p : Nat → Core → Prop} {c : Nat} (hc : p c k) (h : ∀ d, d ≠ c → p d (s.core d)) :
    ∀ d, p d ((s.setCore c k).core d) := by
  intro d
  rw [State.core_setCore_if]
  split
  · rename_i hd
    exact hd ▸ hc
  · exact h d ‹_›

theorem Ctx.passes_setCore (hseq : k.unsequenced = (s.core x.c).unsequenced)
    (hother : ∀ st, st ≠ x.st → k.stream st = s.stream x.c st)
    (hown : (s.stream x.c x.st).Keeps flags (k.stream x.st))
    (hflight : ∀ l ∈ (s.core x.c).flight, l ∈ k.flight)
    (hland : ∀ l ∈ k.flight, l ∈ (s.core x.c).flight ∨ l.st = x.st ∧ own l.effects) :
    x.Passes own flags s (s.setCore x.c k) where
  near := Near.setCore s x.c k (congrArg Core.apart hseq :) hflight
  streams c st hne := by
    by_cases hc : c = x.c
    · subst hc
      rw [State.stream_setCore, hother st (hne.resolve_left (fun h => h rfl))]
    · rw [State.stream_setCore_other _ _ _ hc]
  file := by rw [State.stream_setCore, hown.file]
  fstat hf := by rw [State.stream_setCore, hown.fstat hf]
  link o ho := hown.link o (by rwa [State.stream_setCore] at ho)
  elsewhere c hc := by rw [State.core_setCore_other _ _ hc]
  landings l hl := hland l (by rwa [State.core_setCore] at hl)
  holds _ := State.forall_core_setCore (p := fun d k => k.berthing = (s.core d).berthing)
    (congrArg Core.berthing hseq :) (fun _ _ => rfl)
  commits hn := by
    have hstores : (fun d => ((s.setCore x.c k).core d).stores) = fun d => (s.core d).stores :=
      funext (State.forall_core_setCore (p := fun d k => k.stores = (s.core d).stores)
        (congrArg Core.stores hseq :) (fun _ _ => rfl))
    have huncorr : (fun d st => ((s.setCore x.c k).stream d st).uncorr) = fun d st => (s.stream d st).uncorr := by
      refine funext (State.forall_core_setCore
        (p := fun d k => (fun st => (k.stream st).uncorr) = fun st => (s.stream d st).uncorr) ?_ (fun _ _ => rfl))
      funext st
      by_cases hst : st = x.st
      · rw [hst, hown.uncorr]
      · rw [hother st hst]
    refine ⟨hn.imp_right (fun h => ?_), ?_⟩
    · rw [State.core_setCore]
      exact (congrArg Core.dc hseq).trans h
    · unfold State.homes
      rw [hstores, huncorr]
      rfl
  caches _ ha := ⟨by rw [State.stream_setCore]; exact hown.tokenAcq ha, rfl⟩

/-- A step that changes nothing but what its own stream may. -/
theorem Ctx.passes_setStream {t : StreamState} (h : (s.stream x.c x.st).Keeps flags t) :
    x.Passes own flags s (s.setStream x.c x.st t) := by
  refine Ctx.passes_setCore rfl (fun st hst => ?_) ?_ (fun _ hl => hl) (fun _ hl => .inl hl)
  · rw [Core.stream_setStream_if, if_neg hst]
    rfl
  · rw [Core.stream_setStream]
    exact h

theorem Ctx.passes_modStream {g : StreamState → StreamState} (h : (s.stream x.c x.st).Keeps flags (g (s.stream x.c x.st))) :
    x.Passes own flags s (s.modStream x.c x.st g) := Ctx.passes_setStream h

theorem Ctx.passes_launchResult {lat unit : Nat} {matrix locked : Bool} {es : List Effect} (h : own es) :
    x.Passes own flags s (s.launchResult x.c x.st x.fl lat matrix unit locked es) := by
  refine Ctx.passes_setCore rfl (fun st _ => rfl) (StreamState.Keeps.refl _)
    (fun l hl => (mem_insertLanding _ _ _).2 (.inr hl)) (fun l hl => ?_)
  obtain rfl | hl := (mem_insertLanding _ _ _).1 hl
  · exact .inr ⟨rfl, h⟩
  · exact .inl hl

theorem Ctx.passes_noted (n : Note) : x.Passes own flags s (s.noted n) :=
  { Ctx.Passes.refl s with near := noted_near s n }

theorem Ctx.Passes.keep_fstat {t : State} (h : x.Passes own False s t) :
    x.Passes own True s (t.modStream x.c x.st (fun u => { u with fstat := (s.stream x.c x.st).fstat })) :=
  { h.trans (Ctx.passes_modStream (g := fun u => { u with fstat := (s.stream x.c x.st).fstat })
      ⟨rfl, False.elim, rfl, fun _ h => h, fun h => h⟩) with
    fstat := fun _ => by rw [State.stream_modStream] }

end

end Sys2Proof.Machine

end

/-! What a spill and a commit leave alone (R177, R383). -/

section

namespace Sys2Proof.Machine

/-! ### Memory -/

/-- The bytes that a step may change. -/
def State.StoresIn (p : Nat → Prop) (s t : State) : Prop :=
  s.MemoryWf → t.MemoryWf ∧ ∀ a, ¬ p a → t.mem.get a = s.mem.get a

section
variable {p q : Nat → Prop} {s t u : State}

theorem State.StoresIn.of_mem (h : t.mem = s.mem) : State.StoresIn p s t := by
  unfold State.StoresIn State.MemoryWf
  rw [h]
  exact fun hs => ⟨hs, fun _ _ => rfl⟩

theorem State.StoresIn.setMem {m : Memory} (hw : s.mem.wf = true → m.wf = true)
    (hg : s.mem.wf = true → ∀ a, ¬ p a → m.get a = s.mem.get a) : State.StoresIn p s { s with mem := m } :=
  fun hs => ⟨hw hs, hg hs⟩

theorem State.StoresIn.trans (h : State.StoresIn p s u) (g : State.StoresIn p u t) : State.StoresIn p s t := by
  intro hs
  obtain ⟨hu, hg⟩ := h hs
  obtain ⟨ht, hg'⟩ := g hu
  exact ⟨ht, fun a ha => (hg' a ha).trans (hg a ha)⟩

theorem State.StoresIn.mono (h : State.StoresIn p s t) (hpq : ∀ a, p a → q a) : State.StoresIn q s t := by
  intro hs
  obtain ⟨ht, hg⟩ := h hs
  exact ⟨ht, fun a ha => hg a (fun hp => ha (hpq a hp))⟩

end

theorem Memory.get_filter (m : Memory) (f : Host.Cell → Bool) (a : Nat) (h : ∀ b, f (a, b) = true) :
    Memory.get (m.filter f) a = m.get a := by
  induction m with
  | nil => rfl
  | cons e m ih =>
    obtain ⟨i, b⟩ := e
    rw [List.filter_cons]
    by_cases hi : i = a
    · rw [hi, if_pos (h b)]
      simp [Memory.get]
    · split
      · simp only [Memory.get, if_neg hi, ih]
      · simp only [Memory.get, if_neg hi, ih]

theorem Memory.get_clear_other (m : Memory) {base n a : Nat} (h : ¬ (base ≤ a ∧ a < base + n)) :
    (m.clear base n).get a = m.get a :=
  m.get_filter _ a (fun _ => by simp only [Bool.or_eq_true, decide_eq_true_eq]; omega)

theorem Memory.get_write_other (m : Memory) {base n a : Nat} (v : Nat) (hw : m.wf = true)
    (h : ¬ (base ≤ a ∧ a < base + n)) : (m.write base n v).get a = m.get a :=
  Memory.get_setBytes_other _ m base a hw (by rwa [length_bytesOfNum])

theorem Memory.lt_of_mem_window {m : Memory} {a n : Nat} {e : Host.Cell} (h : e ∈ m.window a n) : e.1 < n := by
  unfold Memory.window at h
  obtain ⟨c, hc, rfl⟩ := List.mem_map.1 h
  have := (List.mem_filter.1 hc).2
  simp only [Bool.and_eq_true, decide_eq_true_eq] at this
  simp only
  omega

/-- A berth saved to a context's area changes its own 65536 bytes there and the two words that say which berths are
saved. -/
theorem get_saveBerth_other (m : Memory) (k : Core) {area logical phys a : Nat} (hw : m.wf = true)
    (hberth : ¬ (area + areaBerths + logical * 65536 ≤ a ∧ a < area + areaBerths + (logical + 1) * 65536))
    (hmap : ¬ (area + areaBerthMap ≤ a ∧ a < area + areaBerthMap + 16)) :
    (saveBerth m k area logical phys).get a = m.get a := by
  unfold areaBerthMap at hmap
  have hc := m.clear_wf (area + areaBerths + logical * 65536) 65536 hw
  unfold saveBerth areaBerthMap areaBerthLive
  dsimp only
  rw [Memory.get_write_other _ _ (Memory.write_wf _ _ _ _ (Memory.setAll_wf _ _ hc)) (by omega),
    Memory.get_write_other _ _ (Memory.setAll_wf _ _ hc) (by omega), Memory.get_setAll_other _ _ _ hc,
    Memory.get_clear_other _ (by omega)]
  intro e he
  obtain ⟨c, hcell, rfl⟩ := List.mem_map.1 he
  have := Memory.lt_of_mem_window hcell
  dsimp only
  omega

/-! ### Spills -/

/-- A part of every core that a change of one leaves alone. -/
theorem State.leaves_modCore {β : Sort*} {s : State} {c : Nat} {g : Core → Core} (p : Core → β)
    (h : p (g (s.core c)) = p (s.core c)) : ∀ d, p ((s.modCore c g).core d) = p (s.core d) :=
  State.forall_core_setCore (p := fun d k => p k = p (s.core d)) h (fun _ _ => rfl)

/-- A core without what a spill changes. -/
def Core.unheld (k : Core) : Core :=
  { k with hold := [], berths := [], claimant := [], overrun := [], parked := [], pb1 := [] }

/-- The module without its cores and memory. -/
def State.shell (s : State) : State := { s with cores := [], mem := [] }

/-- The bytes of the areas of a core's parked contexts that moving out a berth may store. -/
def Core.ParkedAt (k : Core) (a : Nat) : Prop :=
  ∃ v ∈ k.parked, (v.area + areaBerthMap ≤ a ∧ a < v.area + areaBerthMap + 16) ∨
    ∃ e ∈ v.map, v.area + areaBerths + e.1 * 65536 ≤ a ∧ a < v.area + areaBerths + (e.1 + 1) * 65536

/-- What a store in a core's hold may change. -/
structure State.HoldsIn (c : Nat) (s t : State) : Prop where
  shell : t.shell = s.shell
  cores : ∀ d, (t.core d).unheld = (s.core d).unheld
  elsewhere : ∀ d, d ≠ c → (t.core d).aloof = (s.core d).aloof
  parked : ∀ a, (t.core c).ParkedAt a → (s.core c).ParkedAt a
  mem : State.StoresIn (s.core c).ParkedAt s t

section
variable {c : Nat} {s t u : State} {k : Core}

theorem State.HoldsIn.refl (s : State) : State.HoldsIn c s s :=
  ⟨rfl, fun _ => rfl, fun _ _ => rfl, fun _ h => h, State.StoresIn.of_mem rfl⟩

theorem State.HoldsIn.trans (h : State.HoldsIn c s u) (g : State.HoldsIn c u t) : State.HoldsIn c s t :=
  ⟨g.shell.trans h.shell, fun d => (g.cores d).trans (h.cores d),
    fun d hd => (g.elsewhere d hd).trans (h.elsewhere d hd), fun a ha => h.parked a (g.parked a ha),
    h.mem.trans (g.mem.mono h.parked)⟩

theorem State.HoldsIn.setCore {m : Memory} (hk : k.unheld = (s.core c).unheld)
    (hp : ∀ a, k.ParkedAt a → (s.core c).ParkedAt a) (hm : State.StoresIn (s.core c).ParkedAt s { s with mem := m }) :
    State.HoldsIn c s (({ s with mem := m } : State).setCore c k) where
  shell := rfl
  cores := State.forall_core_setCore (s := { s with mem := m }) (p := fun d k => k.unheld = (s.core d).unheld) hk
    (fun _ _ => rfl)
  elsewhere d hd := by
    rw [State.core_setCore_other _ _ hd]
    rfl
  parked a ha := hp a (by rwa [State.core_setCore] at ha)
  mem := hm

end

theorem mem_of_lowestBerth {l : Tbl Nat} {e : Nat × Nat} (h : lowestBerth l = some e) : e ∈ l := by
  induction l generalizing e with
  | nil => cases h
  | cons a l ih =>
    unfold lowestBerth at h
    split at h
    · cases h
      exact List.mem_cons_self
    · rename_i f hf
      split at h <;> cases h
      · exact List.mem_cons_of_mem _ (ih hf)
      · exact List.mem_cons_self

theorem Tbl.mem_of_mem_erase {α : Type} {e : Nat × α} {t : Tbl α} {i : Nat} (h : e ∈ Tbl.erase t i) : e ∈ t := by
  induction t with
  | nil => cases h
  | cons a t ih =>
    obtain ⟨j, v⟩ := a
    unfold Tbl.erase at h
    split at h
    · exact List.mem_cons_of_mem _ h
    · obtain rfl | h := List.mem_cons.1 h
      · exact List.mem_cons_self
      · exact List.mem_cons_of_mem _ (ih h)

/-- The first parked context gives up one of its berths, and goes when that was its last. -/
theorem parked_after_move {k : Core} {v : Parked} {rest : List Parked} {logical : Nat} (hk : k.parked = v :: rest) {a : Nat}
    {k' : Core} (hk' : k'.parked = if (Tbl.erase v.map logical).isEmpty then rest
      else { v with map := Tbl.erase v.map logical } :: rest) (h : k'.ParkedAt a) : k.ParkedAt a := by
  obtain ⟨w, hw, ha⟩ := h
  have hrest (hw : w ∈ rest) : k.ParkedAt a := ⟨w, hk ▸ List.mem_cons_of_mem _ hw, ha⟩
  rw [hk'] at hw
  split at hw
  · exact hrest hw
  · obtain rfl | hw := List.mem_cons.1 hw
    · refine ⟨v, hk ▸ List.mem_cons_self, ha.imp_right ?_⟩
      rintro ⟨e, he, hr⟩
      exact ⟨e, Tbl.mem_of_mem_erase he, hr⟩
    · exact hrest hw

theorem saveBerth_storesIn (s : State) (c : Nat) {v : Parked} {e : Nat × Nat} (phys : Nat) (hv : v ∈ (s.core c).parked)
    (he : e ∈ v.map) :
    State.StoresIn (s.core c).ParkedAt s { s with mem := saveBerth s.mem (s.core c) v.area e.1 phys } := by
  refine State.StoresIn.setMem (fun hs => saveBerth_wf _ _ _ _ _ hs) (fun hs a ha => ?_)
  refine get_saveBerth_other s.mem (s.core c) (area := v.area) (logical := e.1) hs ?_ ?_
  · exact fun hb => ha ⟨v, hv, .inr ⟨e, he, hb⟩⟩
  · exact fun hb => ha ⟨v, hv, .inl hb⟩

theorem claimBerth_holdsIn (s : State) (c n : Nat) : State.HoldsIn c s (s.claimBerth c n) := by
  unfold State.claimBerth
  dsimp only
  split
  · exact State.HoldsIn.refl s
  · split
    · exact State.HoldsIn.setCore rfl (fun _ h => h) (State.StoresIn.of_mem rfl)
    · split
      · exact State.HoldsIn.refl s
      · rename_i v rest hk
        split
        · refine State.HoldsIn.setCore rfl (fun a h => ?_) (State.StoresIn.of_mem rfl)
          obtain ⟨w, hw, ha⟩ := h
          exact ⟨w, hk ▸ List.mem_cons_of_mem _ hw, ha⟩
        · rename_i logical m hl
          exact State.HoldsIn.setCore rfl (fun a h => parked_after_move hk rfl h)
            (saveBerth_storesIn s c (e := (logical, m)) (m - 1) (hk ▸ List.mem_cons_self) (mem_of_lowestBerth hl))

theorem holdSetAll_holdsIn (l : List (Nat × Byte)) (s : State) (c : Nat) : State.HoldsIn c s (s.holdSetAll c l) := by
  induction l generalizing s with
  | nil => exact State.HoldsIn.refl s
  | cons e l ih =>
    refine State.HoldsIn.trans (claimBerth_holdsIn s c (e.1 / 65536)) (State.HoldsIn.trans ?_ (ih _))
    split
    · exact State.HoldsIn.refl _
    · exact State.HoldsIn.setCore rfl (fun _ h => h) (State.StoresIn.of_mem rfl)

/-- A spill while a lease is held goes to the lease holder's psum buffer, and stores nothing in memory. -/
theorem spillWrite_holdsIn (s : State) (c : Nat) (st : Stream) (n : Nat) (v : Word) :
    State.HoldsIn c s (s.spillWrite c st n v) ∧ ((s.core c).lease = true → (s.spillWrite c st n v).mem = s.mem) := by
  unfold State.spillWrite
  dsimp only
  split
  · exact ⟨⟨rfl, State.leaves_modCore Core.unheld rfl, fun d _ => State.leaves_modCore Core.aloof rfl d,
      fun a h => by rwa [State.leaves_modCore (fun k => k.ParkedAt a) rfl c] at h,
      State.StoresIn.of_mem rfl⟩, fun _ => rfl⟩
  · rename_i hl
    exact ⟨holdSetAll_holdsIn _ _ _, fun h => absurd h hl⟩

/-- A spill passes. -/
theorem Ctx.passes_of_holdsIn {x : Ctx} {own : List Effect → Prop} {flags : Prop} {s t : State} (hn : Near s t)
    (h : State.HoldsIn x.c s t) (hs : ∃ r n, x.f.side = .spill r n) : x.Passes own flags s t := by
  have hstream (c : Nat) (st : Stream) : t.stream c st = s.stream c st := (congrArg (fun k => k.stream st) (h.cores c) :)
  have hflight (c : Nat) : (t.core c).flight = (s.core c).flight :=
    (congrArg Core.flight (h.cores c) :)
  have hdc : (t.core x.c).dc = (s.core x.c).dc := (congrArg Core.dc (h.cores x.c) :)
  have hstores : (fun c => (t.core c).stores) = fun c => (s.core c).stores :=
    funext (fun c => (congrArg Core.stores (h.cores c) :))
  refine ⟨hn, fun c st _ => ?_, ?_, fun _ => ?_, fun o ho => ?_, h.elsewhere, fun l hl => .inl ?_, fun hno => ?_,
    fun hc => ⟨?_, ?_⟩, fun _ ha => ⟨?_, (congrArg State.dies h.shell :)⟩⟩
  · rw [hstream]
  · rw [hstream]
  · rw [hstream]
  · rwa [hstream] at ho
  · rwa [hflight] at hl
  · obtain ⟨r, n, hside⟩ := hs
    exact absurd hside (hno r n)
  · rwa [Ctx.CommitsNone, hdc]
  · unfold State.homes
    rw [hstores, show (fun c st => (t.stream c st).uncorr) = fun c st => (s.stream c st).uncorr from
      funext (fun c => funext (fun st => by rw [hstream]))]
    exact (congrArg (fun u : State => (u.fresh, u.faultLog, u.lines, u.queues, fun c => (s.core c).stores,
      fun c st => (s.stream c st).uncorr)) h.shell :)
  · rwa [hstream]

end Sys2Proof.Machine

end

/-! What a commit of the DC buffer leaves alone (R85, R177). -/

section

namespace Sys2Proof.Machine

/-! ### The cores -/

/-- A core without what a commit of stores changes. -/
def Core.uncommitted (k : Core) : Core :=
  { k with st := { p := k.st.p.told, l := k.st.l.told, x := k.st.x.told, s := k.st.s.told }, dc := [], dcFrom := [],
           dcStores := [], stores := [], waitLine := none }

/-- The cores of the module without what a commit of stores changes. -/
def State.uncommitted (s : State) (c : Nat) : Core := (s.core c).uncommitted

theorem told_of_uncommitted {k k' : Core} (h : k'.uncommitted = k.uncommitted) (st : Stream) :
    (k'.stream st).told = (k.stream st).told := by
  have := (congrArg (fun k => k.stream st) h :)
  cases st <;> exact this

theorem uncommitted_of_cores {s t : State} (h : t.cores = s.cores) : t.uncommitted = s.uncommitted :=
  funext (fun c => by rw [State.uncommitted, State.core, h]; rfl)

theorem State.setCore_uncommitted {s : State} {c : Nat} {k : Core} (h : k.uncommitted = (s.core c).uncommitted) :
    (s.setCore c k).uncommitted = s.uncommitted :=
  funext (State.forall_core_setCore (p := fun d k => k.uncommitted = (s.core d).uncommitted) h (fun _ _ => rfl))

/-- What stores at the homes have in common: they reach the cores only to wake those that wait for their lines. -/
theorem wakeLines_uncommitted (s : State) (pas : List Nat) : (s.wakeLines pas).uncommitted = s.uncommitted := by
  unfold State.wakeLines
  dsimp only
  split
  · refine funext (fun c => Tbl.get_map_rel (R := fun k k' => k.uncommitted = k'.uncommitted) Core.reset rfl _ ?_ ?_
      s.cores c)
    · intro e
      split <;> rfl
    · intro e
      split <;> rfl
  · rfl

theorem storeHome_uncommitted (s : State) (bytes : List (Nat × Byte)) :
    (s.storeHome bytes).uncommitted = s.uncommitted := by
  obtain ⟨u, hu, hcores, _, _⟩ := storeHome_cores s bytes
  rw [hu, wakeLines_uncommitted, uncommitted_of_cores hcores]

/-! ### Lines that are touched and written back -/

/-- The cores and the memory. -/
def State.kernel (s : State) : Tbl Core × Memory := (s.cores, s.mem)

theorem noteLine_kernel (s : State) (m : Option Meter) : (s.noteLine m).kernel = s.kernel := by
  cases m <;> rfl

theorem dropL2_kernel (s : State) (line : Nat) : (s.dropL2 line).kernel = s.kernel := by
  unfold State.dropL2
  dsimp only
  split
  · rfl
  · rw [noteLine_kernel]
    rfl

theorem roomL2_kernel (s : State) (d : Nat) : (s.roomL2 d).kernel = s.kernel := by
  unfold State.roomL2
  split
  · rfl
  · rw [dropL2_kernel]
    rfl

theorem touchLine_kernel (s : State) (line : Nat) (store : Bool) (m : Option Meter) :
    (s.touchLine line store m).kernel = s.kernel := by
  unfold State.touchLine
  dsimp only
  split
  · rfl
  · split
    · split <;> rfl
    · rw [noteLine_kernel]
      exact roomL2_kernel s _

theorem touchLines_kernel (l : List Nat) (s : State) (m : Option Meter) :
    (l.foldl (fun s n => s.touchLine n true m) s).kernel = s.kernel :=
  foldl_leaves State.kernel _ (fun s n => touchLine_kernel s n true m) l s

theorem storeHome_storesIn (s : State) (bytes : List (Nat × Byte)) :
    State.StoresIn (fun a => ∃ e ∈ bytes, e.1 = a) s (s.storeHome bytes) := by
  intro hs
  unfold State.MemoryWf
  rw [storeHome_mem]
  refine ⟨Memory.setAll_wf _ _ hs, fun a ha => Memory.get_setAll_other _ _ a hs (fun e he hea => ha ⟨e, ?_, hea⟩)⟩
  exact (List.mem_filter.1 he).1

theorem storeFor_commits (s : State) (m : Option Meter) (bytes : List (Nat × Byte)) :
    (s.storeFor m bytes).uncommitted = s.uncommitted ∧
      State.StoresIn (fun a => ∃ e ∈ bytes, e.1 = a) s (s.storeFor m bytes) := by
  have hk := touchLines_kernel (withoutRuns (bytes.map (fun e => e.1 / 64))) s m
  exact ⟨(storeHome_uncommitted _ _).trans (uncommitted_of_cores (congrArg Prod.fst hk)),
    State.StoresIn.trans (State.StoresIn.of_mem (congrArg Prod.snd hk)) (storeHome_storesIn _ _)⟩

/-- A write-back of an RC or DC line, and what it stores. -/
theorem writeBackLine_commits {s : State} {d : Nat} {l : RdcLine} (hl : l.un = false) :
    (s.writeBackLine d l).uncommitted = s.uncommitted ∧
      State.StoresIn (fun a => ∃ o ∈ l.dirty, a = l.line * 64 + o) s (s.writeBackLine d l) := by
  rw [State.writeBackLine, if_neg (by rw [hl]; exact Bool.false_ne_true)]
  obtain ⟨hc, hm⟩ := storeFor_commits
    (s.setDie d ((s.die d).setLine { l with dirty := [], owner := none, meter := none })) l.meter l.dirtyBytes
  refine ⟨hc, State.StoresIn.trans (State.StoresIn.of_mem (State.setDie_mem _ _ _)) (hm.mono ?_)⟩
  rintro a ⟨e, he, rfl⟩
  obtain ⟨o, ho, rfl⟩ := List.mem_map.1 he
  exact ⟨o, ho, rfl⟩

theorem writeBackList_commits {l : List RdcLine} (s : State) (d : Nat) (hl : ∀ e ∈ l, e.un = false) :
    (s.writeBackList d l).uncommitted = s.uncommitted ∧
      State.StoresIn (fun a => ∃ e ∈ l, ∃ o ∈ e.dirty, a = e.line * 64 + o) s (s.writeBackList d l) := by
  induction l generalizing s with
  | nil => exact ⟨rfl, State.StoresIn.of_mem rfl⟩
  | cons e l ih =>
    obtain ⟨hc, hm⟩ := writeBackLine_commits (s := s) (d := d) (hl e List.mem_cons_self)
    obtain ⟨hc', hm'⟩ := ih (s.writeBackLine d e) (fun f hf => hl f (List.mem_cons_of_mem _ hf))
    exact ⟨hc'.trans hc, (hm.mono (fun _ ha => ⟨e, List.mem_cons_self, ha⟩)).trans
      (hm'.mono (fun _ ⟨f, hf, ha⟩ => ⟨f, List.mem_cons_of_mem _ hf, ha⟩))⟩

theorem dropLines_commits {s : State} {d : Nat} {sel : RdcLine → Bool} (hsel : ∀ l, sel l = true → l.un = false) :
    (s.dropLines d sel).uncommitted = s.uncommitted ∧
      State.StoresIn (fun a => ∃ l ∈ (s.die d).rdc, sel l = true ∧ ∃ o ∈ l.dirty, a = l.line * 64 + o) s
        (s.dropLines d sel) := by
  unfold State.dropLines State.writeBackIf
  split
  · have hin {l : RdcLine} (h : l ∈ (s.die d).rdc.filter (fun l => sel l && !l.dirty.isEmpty)) :
        l ∈ (s.die d).rdc ∧ sel l = true := by
      obtain ⟨hl, hs⟩ := List.mem_filter.1 h
      exact ⟨hl, (Bool.and_eq_true _ _ ▸ hs).1⟩
    obtain ⟨hc, hm⟩ := writeBackList_commits s d (fun l hl => hsel l (hin hl).2)
    refine ⟨hc, hm.mono ?_⟩
    rintro a ⟨l, hl, ha⟩
    exact ⟨l, (hin hl).1, (hin hl).2, ha⟩
  · exact ⟨rfl, State.StoresIn.of_mem rfl⟩

/-! ### The commit -/

/-- The bytes that a commit of a buffer may store: its own, and the dirty bytes of their lines in the die's RDC. -/
def State.CommittedAt (s : State) (d : Nat) (dc : Tbl Byte) (a : Nat) : Prop :=
  ∃ e ∈ dc, e.1 = a ∨ ∃ l ∈ (s.die d).rdc, l.un = false ∧ l.line = e.1 / 64 ∧ ∃ o ∈ l.dirty, a = l.line * 64 + o

theorem Tbl.mem_of_mem_set {α : Type} {e : Nat × α} {t : Tbl α} {i : Nat} {v : α} (h : e ∈ Tbl.set t i v) :
    e = (i, v) ∨ e ∈ t := by
  induction t with
  | nil =>
    unfold Tbl.set at h
    exact .inl (List.mem_singleton.1 h)
  | cons a t ih =>
    obtain ⟨j, w⟩ := a
    unfold Tbl.set at h
    split at h
    · exact List.mem_cons.1 h
    · split at h
      · exact (List.mem_cons.1 h).imp_right (List.mem_cons_of_mem _)
      · obtain rfl | h := List.mem_cons.1 h
        · exact .inr List.mem_cons_self
        · exact (ih h).imp_right (List.mem_cons_of_mem _)

theorem Tbl.mem_of_mem_setAll {α : Type} {e : Nat × α} {l : List (Nat × α)} {t : Tbl α} (h : e ∈ Tbl.setAll t l) :
    e ∈ l ∨ e ∈ t := by
  induction l generalizing t with
  | nil => exact .inr h
  | cons a l ih =>
    obtain h | h := ih h
    · exact .inl (List.mem_cons_of_mem _ h)
    · obtain rfl | h := Tbl.mem_of_mem_set h
      · exact .inl List.mem_cons_self
      · exact .inr h

theorem commitAll_commits (s : State) (d : Nat) (m : Option Meter) (dc : Tbl Byte) :
    (s.commitAll d [(m, dc)]).uncommitted = s.uncommitted ∧
      State.StoresIn (s.CommittedAt d dc) s (s.commitAll d [(m, dc)]) := by
  simp only [State.commitAll, List.foldl_cons, List.foldl_nil]
  have hdc {e : Nat × Byte} (h : e ∈ Tbl.setAll [] dc) : e ∈ dc :=
    (Tbl.mem_of_mem_setAll h).resolve_right List.not_mem_nil
  obtain ⟨hc, hm⟩ := dropLines_commits (s := s) (d := d)
    (sel := fun l => !l.un && (Tbl.setAll [] dc).any (fun e => e.1 / 64 == l.line))
    (fun l h => by simp only [Bool.and_eq_true, Bool.not_eq_true'] at h; exact h.1)
  have hk := touchLines_kernel (withoutRuns (dc.map (fun e => e.1 / 64)))
    (s.dropLines d (fun l => !l.un && (Tbl.setAll [] dc).any (fun e => e.1 / 64 == l.line))) m
  refine ⟨?_, (hm.mono ?_).trans (State.StoresIn.trans (State.StoresIn.of_mem (congrArg Prod.snd hk))
    ((storeHome_storesIn _ _).mono ?_))⟩
  · rw [storeHome_uncommitted, uncommitted_of_cores (congrArg Prod.fst hk), hc]
  · rintro a ⟨l, hl, hsel, ha⟩
    simp only [Bool.and_eq_true, Bool.not_eq_true', List.any_eq_true, beq_iff_eq] at hsel
    obtain ⟨hun, e, he, hline⟩ := hsel
    exact ⟨e, hdc he, .inr ⟨l, hl, hun, hline.symm, ha⟩⟩
  · rintro a ⟨e, he, ha⟩
    exact ⟨e, hdc he, .inl ha⟩

theorem tellError_commits (s : State) (c : Nat) (e : DcOrigin) :
    (s.tellError c e).uncommitted = s.uncommitted ∧ (s.tellError c e).mem = s.mem := by
  unfold State.tellError
  dsimp only
  split
  · exact ⟨rfl, rfl⟩
  · split
    · exact ⟨State.setCore_uncommitted rfl, rfl⟩
    · refine ⟨State.setCore_uncommitted ?_, rfl⟩
      cases e.st <;> rfl

theorem commitErrors_commits (s : State) (c : Nat) (dc : Tbl Byte) (src : Tbl DcOrigin) :
    (s.commitErrors c dc src).uncommitted = s.uncommitted ∧ (s.commitErrors c dc src).mem = s.mem := by
  unfold State.commitErrors
  dsimp only
  rw [foldl_leaves State.uncommitted _ (fun s e => (tellError_commits s c e).1),
    foldl_leaves State.mem _ (fun s e => (tellError_commits s c e).2),
    foldl_leaves State.uncommitted _ (fun s l => (rfl : (s.logUncorr c (l * 64)).uncommitted = s.uncommitted)),
    foldl_leaves State.mem _ (fun s l => (rfl : (s.logUncorr c (l * 64)).mem = s.mem))]
  exact ⟨rfl, rfl⟩

theorem commitOwn_commits (s : State) (c : Nat) :
    (s.commitOwn c).uncommitted = s.uncommitted ∧
      State.StoresIn (s.CommittedAt (dieOf c) (s.core c).dc) s (s.commitOwn c) := by
  unfold State.commitOwn
  dsimp only
  split
  · exact ⟨rfl, State.StoresIn.of_mem rfl⟩
  · obtain ⟨hc, hm⟩ := commitAll_commits (s.setCore c (s.core c).withoutReady) (dieOf c) (s.meterOf c) (s.core c).readyDc
    obtain ⟨he, hmem⟩ := commitErrors_commits ((s.setCore c (s.core c).withoutReady).commitAll (dieOf c)
      [(s.meterOf c, (s.core c).readyDc)]) c (s.core c).readyDc (s.core c).dcFrom
    refine ⟨he.trans (hc.trans (State.setCore_uncommitted rfl)), State.StoresIn.trans (u := s.setCore c _)
      (State.StoresIn.of_mem rfl) ((hm.mono ?_).trans (State.StoresIn.of_mem hmem))⟩
    rintro a ⟨e, hdc, ha⟩
    exact ⟨e, (List.mem_filter.1 hdc).1, ha⟩

theorem commitOwn_empty {s : State} {c : Nat} (h : (s.core c).dc = []) : s.commitOwn c = s := by
  simp [State.commitOwn, h]

/-- A commit passes where the bundle may commit stores. -/
theorem Ctx.passes_of_uncommitted {x : Ctx} {own : List Effect → Prop} {flags : Prop} {s t : State} (hn : Near s t)
    (h : t.uncommitted = s.uncommitted) (hc : ¬ x.CommitsNone s) : x.Passes own flags s t := by
  have hcore (c : Nat) : (t.core c).uncommitted = (s.core c).uncommitted := congrFun h c
  have htold (c : Nat) (st : Stream) : (t.stream c st).told = (s.stream c st).told := told_of_uncommitted (hcore c) st
  have hflight : (t.core x.c).flight = (s.core x.c).flight := (congrArg Core.flight (hcore x.c) :)
  have hlink : (t.stream x.c x.st).link = (s.stream x.c x.st).link := (congrArg StreamState.link (htold x.c x.st) :)
  exact ⟨hn, fun c st _ => htold c st, (congrArg StreamState.file (htold x.c x.st) :),
    fun _ => (congrArg StreamState.fstat (htold x.c x.st) :), fun o ho => hlink ▸ ho,
    fun c _ => (congrArg Core.aloof (hcore c) :), fun l hl => .inl (hflight ▸ hl),
    fun _ c => (congrArg Core.berthing (hcore c) :), fun hn => absurd hn hc, fun hn => absurd hn hc⟩

end Sys2Proof.Machine

end

/-! The steps of an issue (R35, R42, R69, R74, R85, R194): each passes, and stores where the bundle's fields may. -/

section

namespace Sys2Proof.Machine

/-! ### Up to the operation: POP and the tokens that it reads -/

/-- A step passes, stores no more than the bundle's fields may, and adds nothing to what they may. -/
structure Ctx.Prepares (x : Ctx) (own : List Effect → Prop) (flags : Prop) (s t : State) : Prop where
  passes : x.Passes own flags s t
  mem : State.StoresIn (x.SideStores s) s t
  less : ∀ a, x.SideStores t a → x.SideStores s a

section
variable {x : Ctx} {own : List Effect → Prop} {flags : Prop} {s t u : State}

theorem Ctx.Prepares.refl (s : State) : x.Prepares own flags s s :=
  ⟨Ctx.Passes.refl s, State.StoresIn.of_mem rfl, fun _ h => h⟩

theorem Ctx.Prepares.trans (h : x.Prepares own flags s u) (g : x.Prepares own flags u t) : x.Prepares own flags s t :=
  ⟨h.passes.trans g.passes, h.mem.trans (g.mem.mono h.less), fun a ha => h.less a (g.less a ha)⟩

theorem Ctx.Prepares.weaken {own' : List Effect → Prop} {flags' : Prop} (h : x.Prepares own flags s t)
    (ho : ∀ es, own es → own' es) (hf : flags' → flags) : x.Prepares own' flags' s t :=
  ⟨h.passes.weaken ho hf, h.mem, h.less⟩

theorem Ctx.sideStores_iff {a : Nat} : x.SideStores s a ↔
    (x.b.push ≠ .none ∧ s.CommittedAt (dieOf x.c) (s.core x.c).dc a) ∨
      ((∃ r n, x.f.side = .spill r n) ∧ (s.core x.c).lease = false ∧ (s.core x.c).ParkedAt a) := Iff.rfl

/-- What the bundle's fields may store does not grow where the commit buffer and the lease stay, the parked areas do not
grow, and each line of the RDC was there with its dirty bytes. -/
theorem Ctx.sideStores_less (hdc : (t.core x.c).dc = (s.core x.c).dc) (hl : (t.core x.c).lease = (s.core x.c).lease)
    (hp : ∀ a, (t.core x.c).ParkedAt a → (s.core x.c).ParkedAt a)
    (hrdc : ∀ l ∈ (t.die (dieOf x.c)).rdc, ∃ m ∈ (s.die (dieOf x.c)).rdc,
      m.un = l.un ∧ m.line = l.line ∧ m.dirty = l.dirty) {a : Nat} (h : x.SideStores t a) : x.SideStores s a := by
  rw [Ctx.sideStores_iff, hdc, hl] at h
  refine Ctx.sideStores_iff.2 (h.imp (And.imp_right ?_) (And.imp_right (And.imp_right (hp a))))
  rintro ⟨e, he, ha⟩
  refine ⟨e, he, ha.imp_right ?_⟩
  rintro ⟨l, hl, hun, hline, o, ho, rfl⟩
  obtain ⟨m, hm, h1, h2, h3⟩ := hrdc l hl
  exact ⟨m, hm, h1.trans hun, h2.trans hline, o, h3 ▸ ho, by rw [h2]⟩

theorem Ctx.prepares_of_setCore {k : Core} (h : x.Passes own flags s (s.setCore x.c k))
    (hseq : k.unsequenced = (s.core x.c).unsequenced) : x.Prepares own flags s (s.setCore x.c k) := by
  refine ⟨h, State.StoresIn.of_mem rfl, fun a => Ctx.sideStores_less (s := s) (t := s.setCore x.c k) ?_ ?_ (fun a ha => ?_)
    (fun l hl => ⟨l, hl, rfl, rfl, rfl⟩)⟩
  · rw [State.core_setCore]
    exact (congrArg Core.dc hseq :)
  · rw [State.core_setCore]
    exact (congrArg Core.lease hseq :)
  · rw [State.core_setCore] at ha
    have hp : k.parked = (s.core x.c).parked := (congrArg Core.parked hseq :)
    rwa [Core.ParkedAt, hp] at ha

theorem Ctx.prepares_setStream {t : StreamState} (h : (s.stream x.c x.st).Keeps flags t) :
    x.Prepares own flags s (s.setStream x.c x.st t) :=
  Ctx.prepares_of_setCore (Ctx.passes_setStream h) rfl

theorem Ctx.prepares_modStream {g : StreamState → StreamState}
    (h : (s.stream x.c x.st).Keeps flags (g (s.stream x.c x.st))) : x.Prepares own flags s (s.modStream x.c x.st g) :=
  Ctx.prepares_setStream h

theorem Ctx.prepares_launchResult {lat unit : Nat} {matrix locked : Bool} {es : List Effect} (h : own es) :
    x.Prepares own flags s (s.launchResult x.c x.st x.fl lat matrix unit locked es) :=
  Ctx.prepares_of_setCore (Ctx.passes_launchResult h) rfl

theorem Ctx.prepares_takePop (h : x.takePop s = some u) : x.Prepares own flags s u := by
  unfold Ctx.takePop at h
  dsimp only at h
  split at h
  · cases h
    exact Ctx.Prepares.refl s
  · split at h
    · cases h
      exact Ctx.Prepares.refl s
    · split at h
      · cases h
        refine Ctx.prepares_of_setCore (Ctx.passes_setCore rfl (fun st hst => ?_) ?_ (fun _ hl => hl) (fun _ hl => .inl hl))
          rfl
        · rw [Core.stream_setStream_if, if_neg hst]
          rfl
        · rw [Core.stream_setStream]
          exact ⟨rfl, fun _ => rfl, rfl, fun _ h => h, fun h => h⟩
      · cases h

/-! #### Acquires of token registers (R194) -/

/-- Between states that differ in the dies only: each RDC line was there with its dirty bytes. -/
structure State.Acquires (s t : State) : Prop where
  rest : { t with dies := [] } = { s with dies := [] }
  rdc : ∀ d, ∀ l ∈ (t.die d).rdc, ∃ m ∈ (s.die d).rdc, m.un = l.un ∧ m.line = l.line ∧ m.dirty = l.dirty

theorem State.Acquires.refl (s : State) : s.Acquires s := ⟨rfl, fun _ l hl => ⟨l, hl, rfl, rfl, rfl⟩⟩

theorem State.Acquires.trans (h : s.Acquires u) (g : u.Acquires t) : s.Acquires t := by
  refine ⟨g.rest.trans h.rest, fun d l hl => ?_⟩
  obtain ⟨m, hm, h1, h2, h3⟩ := g.rdc d l hl
  obtain ⟨n, hn, h4, h5, h6⟩ := h.rdc d m hm
  exact ⟨n, hn, h4.trans h1, h5.trans h2, h6.trans h3⟩

theorem RdcLine.onlyDirty_eq_some {l m : RdcLine} (h : l.onlyDirty = some m) :
    l.un = m.un ∧ l.line = m.line ∧ l.dirty = m.dirty := by
  unfold RdcLine.onlyDirty at h
  split at h
  · cases h
  · cases h
    exact ⟨rfl, rfl, rfl⟩

theorem invalidate_acquires (s : State) (d : Nat) (kinds : List OrderKind) : s.Acquires (s.invalidate d kinds) := by
  refine ⟨rfl, fun e l hl => ?_⟩
  unfold State.invalidate at hl
  rw [State.die_setDie_if] at hl
  split at hl
  · rename_i he
    obtain ⟨m, hm, h⟩ := List.mem_filterMap.1 hl
    refine ⟨m, he ▸ hm, ?_⟩
    split at h
    · exact RdcLine.onlyDirty_eq_some h
    · cases h
      exact ⟨rfl, rfl, rfl⟩
  · exact ⟨l, hl, rfl, rfl, rfl⟩

theorem acquireRdc_acquires (s : State) (c : Nat) (sc : Scope) : s.Acquires (s.acquireRdc c sc) := by
  unfold State.acquireRdc
  split
  · exact invalidate_acquires _ _ _
  · exact invalidate_acquires _ _ _
  · exact State.Acquires.refl s

theorem acquires_foldl {α : Type} {g : State → α → State} (h : ∀ (s : State) a, s.Acquires (g s a)) (l : List α) (s : State) :
    s.Acquires (l.foldl g s) := by
  induction l generalizing s with
  | nil => exact State.Acquires.refl s
  | cons a l ih => exact (h s a).trans (ih (g s a))

/-- What acquires prepares, for a stream that has a copy's token still to read. -/
theorem Ctx.prepares_of_acquires (h : s.Acquires t) (ha : (s.stream x.c x.st).tokenAcq ≠ []) :
    x.Prepares own flags s t := by
  have hcores : t.cores = s.cores := (congrArg State.cores h.rest :)
  have hcore (c : Nat) : t.core c = s.core c := by rw [State.core, hcores]; rfl
  have hstream (c : Nat) (st : Stream) : t.stream c st = s.stream c st := by rw [State.stream, hcore]; rfl
  have hhomes : t.homes = s.homes := by
    unfold State.homes
    simp only [hcore, hstream]
    exact (congrArg (fun u : State => (u.fresh, u.faultLog, u.lines, u.queues, fun c => (s.core c).stores,
      fun c st => (s.stream c st).uncorr)) h.rest :)
  refine ⟨⟨Near.of_cores s t hcores (congrArg State.apart h.rest :), fun c st _ => ?_, ?_, fun _ => ?_, fun o ho => ?_,
    fun c _ => ?_, fun l hl => ?_, fun _ c => ?_, fun hn => ⟨?_, hhomes⟩, fun _ hnil => absurd hnil ha⟩,
    State.StoresIn.of_mem (congrArg State.mem h.rest :), fun a ha => Ctx.sideStores_less ?_ ?_ ?_ (h.rdc _) ha⟩
  · rw [hstream]
  · rw [hstream]
  · rw [hstream]
  · rwa [hstream] at ho
  · rw [hcore]
  · rw [hcore] at hl
    exact .inl hl
  · rw [hcore]
  · rwa [Ctx.CommitsNone, hcore]
  · rw [hcore]
  · rw [hcore]
  · rw [hcore]
    exact fun _ ha => ha

theorem Ctx.prepares_tokenReads (s : State) : x.Prepares own flags s (x.tokenReads s) := by
  unfold Ctx.tokenReads
  dsimp only
  by_cases ha : (s.stream x.c x.st).tokenAcq = []
  · simp only [ha, List.find?_nil, List.isEmpty_nil, if_true]
    rw [List.foldl_fixed]
    exact Ctx.Prepares.refl s
  · rw [if_neg (by rwa [List.isEmpty_iff])]
    refine Ctx.Prepares.trans (Ctx.prepares_of_acquires (acquires_foldl (fun u n => ?_) _ s) ha)
      (Ctx.prepares_modStream ⟨rfl, fun _ => rfl, rfl, fun _ h => h, fun h => congrArg (List.filter _) h⟩)
    split
    · exact acquireRdc_acquires _ _ _
    · exact State.Acquires.refl u

end

/-! ### The side-op, the token push and the sequencer -/

/-- The operation's own effects, and those that may follow it. -/
def Ctx.orFollows (x : Ctx) (s : State) (own : List Effect → Prop) (es : List Effect) : Prop := own es ∨ x.Follows s es

section
variable {x : Ctx} {own : List Effect → Prop} {flags : Prop} {s s₀ : State}

theorem Ctx.prepares_spill {r : Fin 32} {n : Fin 512} (hside : x.f.side = .spill r n) (s : State) (v : Word) :
    x.Prepares own flags s (s.spillWrite x.c x.st n.val v) := by
  obtain ⟨h, hlease⟩ := spillWrite_holdsIn s x.c x.st n.val v
  have hdies : (s.spillWrite x.c x.st n.val v).dies = s.dies := (congrArg State.dies h.shell :)
  refine ⟨Ctx.passes_of_holdsIn (spillWrite_near _ _ _ _ _) h ⟨r, n, hside⟩, ?_, fun a ha => Ctx.sideStores_less
    (congrArg Core.dc (h.cores x.c) :) (congrArg Core.lease (h.cores x.c) :) h.parked (fun l hl => ⟨l, ?_, rfl, rfl, rfl⟩) ha⟩
  · cases hl : (s.core x.c).lease with
    | true => exact State.StoresIn.of_mem (hlease hl)
    | false => exact h.mem.mono (fun a ha => .inr ⟨⟨r, n, hside⟩, hl, ha⟩)
  · rwa [State.die, hdies] at hl

theorem Ctx.prepares_sideOp (s : State) : x.Prepares (x.orFollows s₀ own) flags s (x.sideOp s) := by
  unfold Ctx.sideOp
  split
  · exact Ctx.Prepares.refl s
  · exact Ctx.prepares_spill ‹_› s _
  · exact Ctx.prepares_launchResult (.inr (.inl ⟨_, _, _, ‹_›, rfl⟩))

theorem Ctx.passes_pushTokens (a b : Stream) (n : Nat) (hp : x.b.push ≠ .none) :
    x.Passes own flags s (s.pushTokens x.c a b n) := by
  have hset (u : State) : x.Passes own flags u (u.setCore x.c { (u.core x.c).setFifo a b ((u.core x.c).fifoCount a b + n) with
      pushes := (u.core x.c).pushes ++ [{ src := a, dst := b, n, tick := u.tickOf x.c, seq := (u.core x.c).seq }] }) :=
    Ctx.passes_setCore rfl (fun _ _ => rfl) (StreamState.Keeps.refl _) (fun _ hl => hl) (fun _ hl => .inl hl)
  refine Ctx.Passes.trans ?_ (hset (s.commitOwn x.c))
  by_cases hdc : (s.core x.c).dc = []
  · rw [commitOwn_empty hdc]
    exact Ctx.Passes.refl s
  · exact Ctx.passes_of_uncommitted (commitOwn_near s x.c) (commitOwn_commits s x.c).1 (fun hn => hn.elim hp hdc)

theorem namedStream_ne_none {st d : Stream} {p : TokenCode} (h : namedStream st p = some d) : p ≠ .none := by
  rintro rfl
  cases h

theorem Ctx.passes_pushBundle (s : State) : x.Passes own flags s (s.pushBundle x.c x.st x.b) := by
  unfold State.pushBundle
  split
  · exact Ctx.passes_pushTokens _ _ _ (namedStream_ne_none ‹_›)
  · exact Ctx.Passes.refl s

theorem pushBundle_storesIn (s : State) : State.StoresIn (x.SideStores s) s (s.pushBundle x.c x.st x.b) := by
  unfold State.pushBundle
  split
  · exact State.StoresIn.trans ((commitOwn_commits s x.c).2.mono (fun a ha => .inl ⟨namedStream_ne_none ‹_›, ha⟩))
      (State.StoresIn.of_mem rfl)
  · exact State.StoresIn.of_mem rfl

/-- The registers that a loop's end writes are its counters. -/
theorem Ctx.follows_loops {ws : List (Nat × Word)} (h : ws.isEmpty = false) :
    x.Follows s₀ (ws.map (fun e => .reg x.st (.lc (Fin.ofNat 4 e.1)) e.2)) := by
  refine .inr (.inl ⟨fun he => ?_, fun e he => ?_⟩)
  · rw [List.map_eq_nil_iff.1 he] at h
    cases h
  · obtain ⟨w, _, rfl⟩ := List.mem_map.1 he
    exact ⟨_, _, rfl⟩

theorem State.stream_result (s : State) (lat : Nat) (es : List Effect) :
    (x.result s lat es).stream x.c x.st = s.stream x.c x.st := State.stream_setCore _ _ _ _

theorem Ctx.passes_put {u : State} {t : StreamState}
    (h : x.Passes own flags s u ∧ u.stream x.c x.st = s.stream x.c x.st) (ht : (s.stream x.c x.st).Keeps flags t) :
    x.Passes own flags s (u.setStream x.c x.st t) :=
  h.1.trans (Ctx.passes_setStream (h.2 ▸ ht))

theorem Ctx.passes_sequence (hl : ∀ o, (s.stream x.c x.st).link = some o → (s₀.stream x.c x.st).link = some o) :
    x.Passes (x.orFollows s₀ own) flags s (x.sequence s .seq) := by
  unfold Ctx.sequence
  dsimp only
  generalize (if isTransfer x.o && !x.bh then 2 else (s.stream x.c x.st).slotsLeft - 1) = slots
  generalize loopEnd _ _ _ = e
  split
  · refine Ctx.passes_put ?_ ⟨rfl, fun _ => rfl, rfl, fun o ho => ?_, fun h => h⟩
    · split
      · split
        · exact ⟨Ctx.passes_launchResult (.inr (.inr (.inr ⟨_, _, hl _ ‹_›, rfl⟩))), State.stream_result s _ _⟩
        · exact ⟨Ctx.Passes.refl s, rfl⟩
      · exact ⟨Ctx.Passes.refl s, rfl⟩
    · dsimp only at ho
      split at ho
      · cases ho
      · exact ho
  · split
    · exact Ctx.passes_setStream ⟨rfl, fun _ => rfl, rfl, fun _ h => h, fun h => h⟩
    · refine Ctx.Passes.trans (u := s.setStream x.c x.st _) ?_ (Ctx.passes_launchResult ?_)
      · exact Ctx.passes_setStream ⟨rfl, fun _ => rfl, rfl, fun _ h => h, fun h => h⟩
      · exact .inr (Ctx.follows_loops (Bool.eq_false_iff.2 ‹_›))

theorem sequence_mem (x : Ctx) (s : State) (flow : Flow) : (x.sequence s flow).mem = s.mem := by
  unfold Ctx.sequence
  dsimp only
  repeat' split
  all_goals rfl

/-! ### The whole of it -/

/-- What follows an operation passes, and stores where the bundle's fields may. -/
theorem Ctx.finish_passes (ran : Bool)
    (hl : ∀ o, (s.stream x.c x.st).link = some o → (s₀.stream x.c x.st).link = some o) :
    x.Passes (x.orFollows s₀ own) flags s (x.finish s .seq ran) ∧
      State.StoresIn (x.SideStores s) s (x.finish s .seq ran) := by
  have hside : x.Prepares (x.orFollows s₀ own) flags s (if ran = true then x.sideOp s else s) := by
    split
    · exact Ctx.prepares_sideOp s
    · exact Ctx.Prepares.refl s
  unfold Ctx.finish
  dsimp only
  generalize (if ran = true then x.sideOp s else s) = u at hside
  have hpush : x.Passes (x.orFollows s₀ own) flags s (u.pushBundle x.c x.st x.b) :=
    hside.passes.trans (Ctx.passes_pushBundle u)
  refine ⟨(hpush.trans (Ctx.passes_sequence (fun o ho => hl o (hpush.link o ho)))).trans
    (Ctx.passes_modStream ⟨rfl, fun _ => rfl, rfl, fun _ h => h, fun h => h⟩), ?_⟩
  exact (hside.mem.trans ((pushBundle_storesIn u).mono hside.less)).trans
    (State.StoresIn.of_mem (sequence_mem x _ .seq))

end

end Sys2Proof.Machine

end

/-! What a scalar instruction leaves unchanged (R38, R49, R154). -/

section

namespace Sys2Proof.Machine

/-! ### Bundles that issue -/

theorem raiseOrWait_note (s : State) (c : Nat) (st : Stream) (t : TrapInfo) (n : Note) :
    (s.raiseOrWait c st t n).note = .waited ∨ (s.raiseOrWait c st t n).note = n := by
  unfold State.raiseOrWait
  split
  · exact .inl rfl
  · exact .inr rfl

theorem Ctx.traps_note (x : Ctx) (s : State) (t : TrapInfo) : (x.traps s t).note ≠ .issued := by
  unfold Ctx.traps
  dsimp only
  generalize hn : (if t.late = true then Note.late else .trapped) = n
  have hne : n ≠ .issued := by
    rw [← hn]
    split <;> simp
  intro h
  obtain hw | hw := raiseOrWait_note (if (t.late && x.b.sync) = true then
    s.modStream x.c x.st (fun u => { u with syncDone := true }) else s) x.c x.st t n
  · rw [h] at hw
    cases hw
  · exact hne (hw.symm.trans h)

theorem Ctx.waits_note (x : Ctx) (s : State) (w : Wait) : (x.waits s w).note ≠ .issued := by
  simp [Ctx.waits]

theorem Ctx.waitsOrMisses_note (x : Ctx) (s : State) (late : Bool) (w : Wait) :
    (x.waitsOrMisses s late w).note ≠ .issued := by
  unfold Ctx.waitsOrMisses
  split
  · exact x.traps_note _ _
  · exact x.waits_note _ _

section
variable {x : Ctx} {s : State} {body : Ctx → State → Res}

/-- An enabled bundle that issues has come to the body of its operation. -/
theorem Ctx.issueEnabled_issued (h : (x.issueEnabled s body).note = .issued) :
    x.issueEnabled s body = x.conclude (body x (x.tokenReads s)) := by
  revert h
  unfold Ctx.issueEnabled
  dsimp only
  split
  · exact fun h => absurd h (x.waitsOrMisses_note _ _ _)
  · split
    · exact fun h => absurd h (x.waitsOrMisses_note _ _ _)
    · split
      · exact fun h => absurd h (x.traps_note _ _)
      · split
        · exact fun h => absurd h (x.traps_note _ _)
        · exact fun _ => rfl

/-- A disabled bundle that issues has nothing but its fields to finish. -/
theorem Ctx.issueDisabled_issued (h : (x.issueDisabled s).note = .issued) :
    x.issueDisabled s = (x.finish s .seq false).noted .issued := by
  revert h
  unfold Ctx.issueDisabled
  split
  · exact fun h => absurd h (x.waits_note _ _)
  · split
    · exact fun h => absurd h (x.waits_note _ _)
    · split
      · exact fun h => absurd h (x.traps_note _ _)
      · exact fun _ => rfl

theorem Ctx.issue_issued (h : (x.issue s body).note = .issued) : ∃ u, x.takePop s = some u ∧
    (x.issue s body = x.conclude (body x (x.tokenReads u)) ∨
      x.issue s body = (x.finish u .seq false).noted .issued) := by
  revert h
  unfold Ctx.issue
  split
  · exact fun h => absurd h (x.traps_note _ _)
  · split
    · exact fun h => absurd h (x.waitsOrMisses_note _ _ _)
    · rename_i u hu
      split
      · exact fun h => absurd h (x.waits_note _ _)
      · split
        · exact fun h => ⟨u, hu, .inl (Ctx.issueEnabled_issued h)⟩
        · exact fun h => ⟨u, hu, .inr (Ctx.issueDisabled_issued h)⟩

/-- A bundle that issues, of an operation whose body waits or is done in the order of the program: what its body did, or
nothing where its predicate disables it. -/
theorem Ctx.issued_done {own : List Effect → Prop} {R : State → State → Prop} (hR : ∀ u, R u u)
    (hb : ∀ u, (∃ v, body x u = .done v .seq ∧ R u v) ∨ ∃ v w, body x u = .wait v w)
    (h : (x.issue s body).note = .issued) :
    ∃ u v ran, x.Prepares own True s u ∧ R u v ∧ x.issue s body = (x.finish v .seq ran).noted .issued := by
  obtain ⟨u, hu, hi | hi⟩ := Ctx.issue_issued h
  · obtain ⟨v, hv, hr⟩ | ⟨v, w, hw⟩ := hb (x.tokenReads u)
    · rw [hv] at hi
      exact ⟨_, v, true, (Ctx.prepares_takePop hu).trans (Ctx.prepares_tokenReads u), hr, hi⟩
    · rw [hi, hw] at h
      exact absurd h (x.waits_note _ _)
  · exact ⟨u, u, false, Ctx.prepares_takePop hu, hR u, hi⟩

/-! ### Frames -/

theorem Ctx.frame_of_passes {own : List Effect → Prop} {t : State} (h : x.Passes (x.orFollows s own) True s t)
    (hm : State.StoresIn (x.SideStores s) s t) (hs : s.MemoryWf) : x.Frame s t own where
  module := h.near.state
  cores := h.near.core
  streams := h.streams
  commits hn := by
    have hh := (h.commits hn).2
    simp only [State.homes, Prod.mk.injEq] at hh
    obtain ⟨h1, h2, h3, h4, h5, h6⟩ := hh
    exact ⟨h1, h2, h3, h4, congrFun h5, fun c => congrFun (congrFun h6 c)⟩
  caches hn ha := (h.caches hn ha).2
  registers := by
    have hfile := h.file
    have hfstat := h.fstat trivial
    simp only [StreamState.file, StreamState.registers, StreamRegs.mk.injEq] at hfile ⊢
    obtain ⟨h1, h2, h3, h4, h5, _, h6⟩ := hfile
    exact ⟨h1, h2, h3, h4, h5, hfstat, h6⟩
  elsewhere c hc := by
    have hh := h.elsewhere c hc
    simpa only [Core.aloof, Prod.mk.injEq] using hh
  landings := h.landings
  holds hno c := by
    have hh := h.holds hno c
    simpa only [Core.berthing, Prod.mk.injEq] using hh
  memory := (hm hs).2

/-- An operation whose body does no more than put `own` in flight leaves all else alone. -/
theorem Ctx.frame_of_prepares {own : List Effect → Prop} (hs : s.MemoryWf)
    (hb : ∀ u, (∃ v, body x u = .done v .seq ∧ x.Prepares own True u v) ∨ ∃ v w, body x u = .wait v w)
    (h : (x.issue s body).note = .issued) : x.Frame s (x.issue s body) own := by
  obtain ⟨u, v, ran, hu, hv, hi⟩ := Ctx.issued_done (own := own) (fun u => Ctx.Prepares.refl u) hb h
  have hsv : x.Prepares (x.orFollows s own) True s v := (hu.trans hv).weaken (fun _ => .inl) id
  obtain ⟨hf, hm⟩ := Ctx.finish_passes (own := own) (flags := True) ran hsv.passes.link
  rw [hi]
  exact Ctx.frame_of_passes ((hsv.passes.trans hf).trans (Ctx.passes_noted _))
    ((hsv.mem.trans (hm.mono hsv.less)).trans (State.StoresIn.of_mem rfl)) hs

end

/-! ### The instructions -/

/-- A body that waits, or puts one write of the destination register in flight. -/
def WritesDst (body : Ctx → State → Res) : Prop :=
  ∀ x u, (∃ v, body x u = .done v .seq ∧ x.Prepares (fun es => ∃ w, es = [.reg x.st x.f.dst w]) True u v) ∨
    ∃ v w, body x u = .wait v w

theorem writeBody_writesDst (lat : Nat) (g : Ctx → State → Word) : WritesDst (writeBody lat g) :=
  fun _ _ => .inl ⟨_, rfl, Ctx.prepares_launchResult ⟨_, rfl⟩⟩

theorem divideBody_writesDst (g : Ctx → State → Word) : WritesDst (divideBody g) := by
  intro x u
  unfold divideBody
  split
  · exact .inr ⟨_, _, rfl⟩
  · exact .inl ⟨_, rfl, Ctx.prepares_launchResult ⟨_, rfl⟩⟩

/-- An instruction of an operation writes its destination register, and does nothing else. -/
def Writes (p : (Bundle → Fields → Instr) × Op) : Prop :=
  ∃ body, WritesDst body ∧ ∀ b f s, exec (p.1 b f) s = issue p.2 b f body s

theorem writes_of_writeBody {i : Bundle → Fields → Instr} {o : Op} {lat : Nat} {g : Ctx → State → Word}
    (h : ∀ b f s, exec (i b f) s = issue o b f (writeBody lat g) s) : Writes (i, o) := ⟨_, writeBody_writesDst lat g, h⟩

theorem writes_of_divideBody {i : Bundle → Fields → Instr} {o : Op} {g : Ctx → State → Word}
    (h : ∀ b f s, exec (i b f) s = issue o b f (divideBody g) s) : Writes (i, o) := ⟨_, divideBody_writesDst g, h⟩

/-- The instructions that write one scalar result without flags, each with its operation: four of them use the divider. -/
def plainScalars : List ((Bundle → Fields → Instr) × Op) :=
  [(.add, .add), (.sub, .sub), (.min, .min), (.minn, .minn),
    (.max, .max), (.maxn, .maxn), (.mul, .mul), (.mulh, .mulh), (.mulhn, .mulhn), (.div, .div), (.divn, .divn),
    (.rem, .rem), (.remn, .remn), (.and, .and), (.or, .or), (.xor, .xor), (.andn, .andn), (.shl, .shl), (.shr, .shr),
    (.sra, .sra), (.rot, .rot), (.clz, .clz), (.popc, .popc), (.sel, .sel), (.ldi, .ldi), (.addr, .addr), (.bfx, .bfx),
    (.bfi, .bfi), (.cmp, .cmp), (.plog, .plog), (.pmov, .pmov), (.fcls, .fcls), (.sreg, .sreg), (.rng, .rng)]

theorem writes_plainScalars : ∀ p ∈ plainScalars, Writes p := by
  simp only [plainScalars, List.forall_mem_cons]
  and_intros
  iterate 9 exact writes_of_writeBody (fun _ _ _ => rfl)
  iterate 4 exact writes_of_divideBody (fun _ _ _ => rfl)
  iterate 21 exact writes_of_writeBody (fun _ _ _ => rfl)
  exact List.forall_mem_nil _

/-- FSTAT after FFLAG: in its clearing and setting forms only, the bits of its mask cleared or set. -/
def FstatAfter (f : Fields) (old new : Flags) : Prop :=
  new = old ∨ f.mod.toNat % 4 = 1 ∧ new = old &&& ~~~(f.imm.truncate 5) ∨ f.mod.toNat % 4 = 2 ∧ new = old ||| f.imm.truncate 5

theorem fflagBody_done (x : Ctx) (u : State) :
    (∃ v, fflagBody x u = .done v .seq ∧ x.Prepares (fun es => ∃ w, es = [.reg x.st x.f.dst w]) False u v ∧
      FstatAfter x.f (u.stream x.c x.st).fstat (v.stream x.c x.st).fstat) ∨ ∃ v w, fflagBody x u = .wait v w := by
  unfold fflagBody
  split
  · exact .inr ⟨_, _, rfl⟩
  · refine .inl ⟨_, rfl, Ctx.Prepares.trans
      (Ctx.prepares_modStream ⟨rfl, False.elim, rfl, fun _ h => h, fun h => h⟩)
      (Ctx.prepares_launchResult ⟨_, rfl⟩), ?_⟩
    rw [State.stream_result, State.stream_modStream]
    have hmod : bits x.f.mod.toNat 0 2 = x.f.mod.toNat % 4 := by simp [bits]
    have hmask : BitVec.ofNat 5 x.f.imm.toNat = x.f.imm.truncate 5 := BitVec.ofNat_toNat 5 x.f.imm
    unfold FstatAfter
    rw [hmod, hmask]
    dsimp only
    split
    · exact .inr (.inl ⟨‹_›, rfl⟩)
    · exact .inr (.inr ⟨‹_›, rfl⟩)
    · exact .inl rfl

section
variable {b : Bundle} {f : Fields} {s t : State} (hs : s.MemoryWf) (hn : t.note = .issued)
include hs hn

theorem frame_of_writes {p : (Bundle → Fields → Instr) × Op} (hp : Writes p) (h : exec (p.1 b f) s = .next t) :
    (Ctx.of p.2 b f s).Frame s t (fun es => ∃ v, es = [.reg s.cur.st f.dst v]) := by
  obtain ⟨body, hw, hi⟩ := hp
  rw [hi] at h
  cases h
  exact Ctx.frame_of_prepares hs (hw _) hn

theorem frame_cvt (h : exec (.cvt b f) s = .next t) :
    (Ctx.of .cvt b f s).Frame s t (fun es => ∃ v fl, es = [.reg s.cur.st f.dst v, .flags s.cur.st fl]) := by
  cases h
  exact Ctx.frame_of_prepares hs (fun u => .inl ⟨_, rfl, Ctx.prepares_launchResult ⟨_, _, rfl⟩⟩) hn

theorem frame_qtag (hq : f.dst.isQueue = false) (h : exec (.qtag b f) s = .next t) :
    (Ctx.of .qtag b f s).Frame s t (fun es => ∃ v fl, es = [.reg s.cur.st f.dst v, .flags s.cur.st fl]) := by
  cases h
  have hq' : (Ctx.of .qtag b f s).f.dst.isQueue = false := hq
  refine Ctx.frame_of_prepares hs (fun u => .inl ⟨_, if_neg (by rw [hq']; exact Bool.false_ne_true),
    Ctx.prepares_launchResult ⟨_, _, rfl⟩⟩) hn

theorem frame_nop (h : exec (.nop b f) s = .next t) : (Ctx.of .nop b f s).Frame s t (fun _ => False) := by
  cases h
  exact Ctx.frame_of_prepares hs (fun u => .inl ⟨u, rfl, Ctx.Prepares.refl u⟩) hn

theorem frame_fflag (h : exec (.fflag b f) s = .next t) :
    let x := Ctx.of .fflag b f s
    let old := (s.stream x.c x.st).fstat
    x.Frame s (t.modStream x.c x.st (fun k => { k with fstat := old })) (fun es => ∃ v, es = [.reg s.cur.st f.dst v]) ∧
      FstatAfter f old (t.stream x.c x.st).fstat := by
  intro x old
  cases h
  obtain ⟨u, v, ran, hu, ⟨hv, hafter⟩, hi⟩ := Ctx.issued_done
    (R := fun u v => x.Prepares (fun es => ∃ w, es = [.reg x.st x.f.dst w]) False u v ∧
      FstatAfter x.f (u.stream x.c x.st).fstat (v.stream x.c x.st).fstat)
    (fun u => ⟨Ctx.Prepares.refl u, .inl rfl⟩) (fflagBody_done x) hn
  have hsv : x.Prepares (x.orFollows s (fun es => ∃ w, es = [.reg x.st x.f.dst w])) False s v :=
    (hu.weaken (fun _ => .inl) False.elim).trans (hv.weaken (fun _ => .inl) id)
  obtain ⟨hf, hm⟩ := Ctx.finish_passes (flags := True) ran hsv.passes.link
  rw [hi]
  have hst := (hsv.passes.trans (hf.weaken (fun _ => id) False.elim)).trans (Ctx.passes_noted .issued)
  refine ⟨Ctx.frame_of_passes hst.keep_fstat
    ((hsv.mem.trans (hm.mono hsv.less)).trans (State.StoresIn.of_mem rfl)) hs, ?_⟩
  rw [hu.passes.fstat trivial] at hafter
  rw [State.stream_noted, hf.fstat trivial]
  exact hafter

end

/-- Settles O52: a scalar instruction that issues puts its result in flight, and the steps around it pass. -/
theorem scalarFrames : Obligations.ScalarFrames := by
  unfold Obligations.ScalarFrames
  exact ⟨fun p hp b f s t hs h hn => frame_of_writes hs hn (writes_plainScalars p hp) h,
    fun b f s t hs h hn => frame_cvt hs hn h, fun b f s t hs hq h hn => frame_qtag hs hn hq h,
    fun b f s t hs h hn => frame_fflag hs hn h, fun b f s t hs h hn => frame_nop hs hn h⟩

end Sys2Proof.Machine

end

/-! Transfers of control (R69, R72 to R74). -/

section

namespace Sys2Proof.Machine

/-! ### Targets (R72) -/

theorem transferTo_aligned {s : State} {t : Nat} (h : t % 4 = 0) (leaves : Bool) :
    transferTo s t leaves = .done s (.jump (t % 2 ^ 48) leaves) := if_neg (not_not.2 h)

theorem transferTo_misaligned {s : State} {t : Nat} (h : t % 4 ≠ 0) (leaves : Bool) :
    transferTo s t leaves = .trap s { cause := .align, addr0 := t } := if_pos h

/-- BRZ is taken where its source is zero, with NZ where it is not (R73). -/
theorem brz_taken_iff (x : Ctx) (u : State) : ((x.reg u x.f.sa == 0) != bit x.f.mod.toNat 1) = true ↔
    (x.reg u x.f.sa = 0 ↔ x.f.mod.getLsbD 1 = false) := by
  rw [x.bit_mod, ← beq_iff_eq (a := x.reg u x.f.sa)]
  cases x.f.mod.getLsbD 1 <;> simp

theorem brzBody_taken {x : Ctx} {u : State} (h : x.reg u x.f.sa = 0 ↔ x.f.mod.getLsbD 1 = false) :
    brzBody x u = transferTo u x.relTarget true := if_pos ((brz_taken_iff x u).2 h)

theorem brzBody_notTaken {x : Ctx} {u : State} (h : ¬ (x.reg u x.f.sa = 0 ↔ x.f.mod.getLsbD 1 = false)) :
    brzBody x u = .done u .seq := if_neg (fun hb => h ((brz_taken_iff x u).1 hb))

/-! ### Links (R74) -/

theorem State.bundleEnd_ok {s m : State} {c a a' : Nat} {st : Stream} {ws : List W32} {fl bh : Bool}
    (h : s.bundleEnd c st a = (.ok m ws fl bh, a')) : a' = a + 4 * ws.length := by
  unfold State.bundleEnd at h
  split at h
  · cases h
  · cases h
  · split at h
    · cases h
      rfl
    · rename_i hne
      obtain ⟨hr, -⟩ := Prod.mk.inj h
      exact absurd hr (hne _ _ _ _)

/-- A link known at issue lies past the words of the two bundles that follow. -/
theorem Ctx.nativeLink_known {x : Ctx} {u w : State} {a : Nat} (h : x.nativeLink u = .known w a) :
    ∃ m ws₁ ws₂ f₁ f₂ b₁ b₂, (u.bundleEnd x.c x.st x.next).1 = .ok m ws₁ f₁ b₁ ∧
      (m.bundleEnd x.c x.st (x.next + 4 * ws₁.length)).1 = .ok w ws₂ f₂ b₂ ∧
      a = x.next + 4 * ws₁.length + 4 * ws₂.length := by
  unfold Ctx.nativeLink at h
  split at h
  · cases h
  · cases h
  · rename_i m ws₁ f₁ b₁ a₁ h₁
    split at h
    · cases h
    · cases h
    · rename_i w' ws₂ f₂ b₂ a₂ h₂
      cases h
      have e₁ := State.bundleEnd_ok h₁
      have e₂ := State.bundleEnd_ok h₂
      subst e₁
      exact ⟨m, ws₁, ws₂, f₁, f₂, b₁, b₂, by rw [h₁], by rw [h₂], e₂⟩

section
variable {x : Ctx} {u : State} {t : Nat}

theorem Ctx.callTo_misaligned (h : t % 4 ≠ 0) : x.callTo u t = .trap u { cause := .align, addr0 := t } := if_pos h

theorem Ctx.callTo_branchHinted (hb : x.bh = true) (h : t % 4 = 0) :
    x.callTo u t = .done (x.result u 1 [.reg x.st x.f.dst (BitVec.ofNat 64 x.next)]) (.jump (t % 2 ^ 48) false) := by
  simp only [Ctx.callTo, h, hb, ne_eq, not_true, if_false, if_true, Ctx.writes]

theorem Ctx.callTo_known {w : State} {a : Nat} (hb : x.bh = false) (h : t % 4 = 0) (hl : x.nativeLink u = .known w a) :
    x.callTo u t = .done (x.result w 1 [.reg x.st x.f.dst (BitVec.ofNat 64 a)]) (.jump (t % 2 ^ 48) false) := by
  simp only [Ctx.callTo, h, hb, hl, ne_eq, not_true, Bool.false_eq_true, if_false, Ctx.writes]

theorem Ctx.callTo_later (hb : x.bh = false) (h : t % 4 = 0) (hl : x.nativeLink u = .later) :
    x.callTo u t = .done (u.modStream x.c x.st (fun t => { t with link := some x.f.dst }))
      (.jump (t % 2 ^ 48) false) := by
  simp only [Ctx.callTo, h, hb, hl, ne_eq, not_true, Bool.false_eq_true, if_false]

end

/-! ### What the five instructions do -/

/-- The instruction goes to its target, and leaves the loops whose bodies the target is not in. -/
def GoesTo (i : Bundle → Fields → Instr) (o : Op) (t : Ctx → State → Nat) : Prop :=
  ∀ b f s, exec (i b f) s = issue o b f (fun x u => transferTo u (t x u) true) s

/-- The instruction calls its target. -/
def CallsTo (i : Bundle → Fields → Instr) (o : Op) (t : Ctx → State → Nat) : Prop :=
  ∀ b f s, exec (i b f) s = issue o b f (fun x u => x.callTo u (t x u)) s

theorem br_goesTo : GoesTo .br .br (fun x _ => x.relTarget) := fun _ _ _ => rfl
theorem jmp_goesTo : GoesTo .jmp .jmp Ctx.regTarget := fun _ _ _ => rfl
theorem jal_callsTo : CallsTo .jal .jal (fun x _ => x.relTarget) := fun _ _ _ => rfl
theorem jalr_callsTo : CallsTo .jalr .jalr Ctx.regTarget := fun _ _ _ => rfl

section
variable {i : Bundle → Fields → Instr} {o : Op} {t : Ctx → State → Nat}

theorem GoesTo.steers (h : GoesTo i o t) : Steers i o (fun x u => t x u % 4 = 0) (fun _ u => u)
    (fun x u => .jump (t x u % 2 ^ 48) true) :=
  steers_of_done _ h (fun _ _ _ hg => transferTo_aligned hg true)

theorem GoesTo.traps (h : GoesTo i o t) : Traps i o (fun x u => t x u % 4 ≠ 0)
    (fun x u => { cause := .align, addr0 := t x u }) :=
  traps_of_trap _ h (fun _ _ _ hg => transferTo_misaligned hg true)

theorem CallsTo.traps (h : CallsTo i o t) : Traps i o (fun x u => t x u % 4 ≠ 0)
    (fun x u => { cause := .align, addr0 := t x u }) :=
  traps_of_trap _ h (fun _ _ _ hg => Ctx.callTo_misaligned hg)

theorem CallsTo.steers (h : CallsTo i o t) : Steers i o (fun x u => x.bh = true ∧ t x u % 4 = 0)
    (fun x u => x.result u 1 [.reg x.st x.f.dst (BitVec.ofNat 64 x.next)])
    (fun x u => .jump (t x u % 2 ^ 48) false) :=
  steers_of_done _ h (fun _ _ _ hg => Ctx.callTo_branchHinted hg.1 hg.2)

end

/-- Settles O40: each instruction goes to or calls its target, and a link known at issue lies past two bundles. -/
theorem transfers : Obligations.Transfers := by
  unfold Obligations.Transfers
  intro near far taken
  have hcalls : ∀ p ∈ [((Instr.jal, Op.jal), near), ((.jalr, .jalr), far)], CallsTo p.1.1 p.1.2 p.2 := by
    simp only [List.forall_mem_cons, List.not_mem_nil, false_imp_iff, implies_true, and_true]
    exact ⟨jal_callsTo, jalr_callsTo⟩
  refine ⟨br_goesTo.steers, ?_, ?_, jmp_goesTo.steers, ?_, ?_, fun p hp => ⟨(hcalls p hp).steers,
    fun b f s u w a => ⟨fun hr hb ht hl =>
      ⟨exec_of_done _ (hcalls p hp) hr (Ctx.callTo_known hb ht hl), Ctx.nativeLink_known⟩,
    fun q hq b f s u hr hb ht hl => exec_of_done _ (hcalls q hq) hr (Ctx.callTo_later hb ht hl)⟩⟩⟩
  · exact steers_of_done brzBody (fun _ _ _ => rfl)
      (fun x u _ hg => (brzBody_taken hg.1).trans (transferTo_aligned hg.2 true))
  · exact acts_of_done brzBody (fun _ _ _ => rfl) (fun _ _ _ _ _ hg => brzBody_notTaken hg)
  · exact traps_of_trap brzBody (fun _ _ _ => rfl)
      (fun x u _ hg => (brzBody_taken hg.1).trans (transferTo_misaligned hg.2 true))
  · simp only [List.forall_mem_cons, List.not_mem_nil, false_imp_iff, implies_true, and_true]
    exact ⟨br_goesTo.traps, jmp_goesTo.traps, jal_callsTo.traps, jalr_callsTo.traps⟩

end Sys2Proof.Machine

end

/-! The sequencer of a stream (R69, R74, R76, R77). -/

section

namespace Sys2Proof.Machine

/-! ### What the side-op and the PUSH leave of a stream and of its time -/

theorem Near.tickOf {a b : State} (h : Near a b) (c : Nat) : b.tickOf c = a.tickOf c :=
  (congrArg (fun s : State => s.tickOf c) h.state :)

/-- A part of every core that another core in place of one leaves alone. -/
theorem State.leaves_setCore {β : Sort*} {s : State} {c d : Nat} {k : Core} (p : Core → β) (h : p k = p (s.core c)) :
    p ((s.setCore c k).core d) = p (s.core d) :=
  State.forall_core_setCore (p := fun d k => p k = p (s.core d)) h (fun _ _ => rfl) d

theorem sideOp_stream (x : Ctx) (s : State) (c : Nat) (st : Stream) : (x.sideOp s).stream c st = s.stream c st := by
  unfold Ctx.sideOp
  split
  · rfl
  · exact (congrArg (fun k => k.stream st) ((spillWrite_holdsIn s _ _ _ _).1.cores c) :)
  · exact State.leaves_setCore (fun k => k.stream st) rfl

theorem pushTokens_told (s : State) (c : Nat) (a b : Stream) (n d : Nat) (st : Stream) :
    ((s.pushTokens c a b n).stream d st).told = (s.stream d st).told :=
  Eq.trans (State.leaves_setCore (s := s.commitOwn c) (fun k => (k.stream st).told) rfl)
    (told_of_uncommitted (congrFun (commitOwn_commits s c).1 d) st)

theorem pushBundle_told (s : State) (c : Nat) (st : Stream) (b : Bundle) (d : Nat) (u : Stream) :
    ((s.pushBundle c st b).stream d u).told = (s.stream d u).told := by
  unfold State.pushBundle
  split
  · exact pushTokens_told _ _ _ _ _ _ _
  · rfl

theorem StreamState.eq_of_told {t t' : StreamState} (h : t'.told = t.told) : t' = { t with uncorr := t'.uncorr } :=
  (congrArg (fun u : StreamState => { u with uncorr := t'.uncorr }) h :)

/-- Side-op and PUSH leave a stream but for the errors that it is still to be told of. -/
theorem Ctx.pushed_stream (x : Ctx) (v : State) (st : Stream) :
    ∃ e, (x.pushed v).stream x.c st = { v.stream x.c st with uncorr := e } :=
  ⟨_, StreamState.eq_of_told ((pushBundle_told _ _ _ _ _ _).trans (by rw [sideOp_stream]))⟩

theorem Ctx.pushed_tickOf (x : Ctx) (v : State) : (x.pushed v).tickOf x.c = v.tickOf x.c :=
  ((sideOp_near x v).trans (pushBundle_near _ _ _ _)).tickOf x.c

/-! ### Results of the sequencer -/

theorem Ctx.lands_result {x : Ctx} {s : State} (h : s.tickOf x.c = x.now) (lat : Nat) (es : List Effect) :
    x.Lands s (x.result s lat es) lat es := by
  obtain ⟨l, hl, hst, hes, htick, -⟩ := launchResult_lands s x.c x.st x.fl lat false 0 false es
  exact ⟨l, hl, hst, hes, by rw [htick, h]⟩

theorem Ctx.lands_setStream_result {x : Ctx} {s : State} (h : s.tickOf x.c = x.now) (t : StreamState) (lat : Nat)
    (es : List Effect) : x.Lands s (x.result (s.setStream x.c x.st t) lat es) lat es := by
  obtain ⟨l, hl, hst, hes, htick⟩ := Ctx.lands_result (x := x) (s := s.setStream x.c x.st t) h lat es
  refine ⟨l, hl, hst, hes, ?_⟩
  rw [htick, State.setStream, State.core_modCore]
  rfl

/-! ### Loops (R69, R76) -/

/-- A loop is active, and an address is its end. -/
def StreamState.endsLoop (t : StreamState) (next k : Nat) : Bool :=
  Tbl.get false t.lact k && (Tbl.get 0 t.lexit k).toNat == next

/-- Loops made inactive. -/
def deactivate (act : Tbl Bool) (ks : List Nat) : Tbl Bool := ks.foldr (fun k a => Tbl.set a k false) act

theorem get_deactivate (act : Tbl Bool) (ks : List Nat) (j : Nat) :
    Tbl.get false (deactivate act ks) j = (Tbl.get false act j && !ks.contains j) := by
  induction ks with
  | nil => simp [deactivate]
  | cons k ks ih =>
    change Tbl.get false (Tbl.set (deactivate act ks) k false) j = _
    rw [Tbl.get_set, ih]
    by_cases h : j = k <;> simp [h]

section
variable {t : StreamState} {next k : Nat} {rest : List Nat}

theorem loopEnd_inside (hk : ¬ t.endsLoop next k = true) : loopEnd t (k :: rest) next = loopEnd t rest next := if_neg hk

theorem loopEnd_last (hk : t.endsLoop next k = true) (hc : (Tbl.get 0 t.lc k).toNat ≤ 1) :
    loopEnd t (k :: rest) next =
      ((loopEnd t rest next).1, Tbl.set (loopEnd t rest next).2.1 k false, (k, 0) :: (loopEnd t rest next).2.2) :=
  (if_pos hk).trans (if_neg (Nat.not_lt.2 hc))

theorem loopEnd_back (hk : t.endsLoop next k = true) (hc : 1 < (Tbl.get 0 t.lc k).toNat) :
    loopEnd t (k :: rest) next = ((Tbl.get 0 t.lstart k).toNat, t.lact, [(k, Tbl.get 0 t.lc k - 1)]) :=
  (if_pos hk).trans (if_pos hc)

end

/-- Loops that end with a count of 1 or less become inactive with count 0, and the check goes on to the next. -/
theorem loopEnd_append (t : StreamState) (next : Nat) (ks rest : List Nat)
    (h : ∀ k ∈ ks, t.endsLoop next k = true → (Tbl.get 0 t.lc k).toNat ≤ 1) :
    loopEnd t (ks ++ rest) next =
      ((loopEnd t rest next).1, deactivate (loopEnd t rest next).2.1 (ks.filter (t.endsLoop next)),
        (ks.filter (t.endsLoop next)).map (fun k => (k, 0)) ++ (loopEnd t rest next).2.2) := by
  induction ks with
  | nil => rfl
  | cons k ks ih =>
    have ih := ih (fun j hj => h j (List.mem_cons_of_mem _ hj))
    by_cases hk : t.endsLoop next k = true
    · rw [List.cons_append, loopEnd_last hk (h k List.mem_cons_self hk), ih, List.filter_cons_of_pos hk]
      rfl
    · rw [List.cons_append, loopEnd_inside hk, ih, List.filter_cons_of_neg hk]

theorem contains_filter_range (p : Nat → Bool) (n j : Nat) :
    ((List.range n).filter p).contains j = (decide (j < n) && p j) := by
  rw [Bool.eq_iff_iff]
  simp

/-- Every loop that ends does so with a count of 1 or less. -/
theorem loopEnd_through {t : StreamState} {next : Nat}
    (h : ∀ k < 4, t.endsLoop next k = true → (Tbl.get 0 t.lc k).toNat ≤ 1) :
    loopEnd t [0, 1, 2, 3] next = (next, deactivate t.lact ((List.range 4).filter (t.endsLoop next)),
      ((List.range 4).filter (t.endsLoop next)).map (fun k => (k, 0))) := by
  exact (loopEnd_append t next (List.range 4) [] (fun k hk => h k (List.mem_range.1 hk))).trans
    (congrArg (fun ws => (next, _, ws)) (List.append_nil _))

/-- The first loop that ends with a count above 1 goes back to its start. -/
theorem loopEnd_again {t : StreamState} {next k : Nat} (hk : k < 4) (he : t.endsLoop next k = true)
    (hb : ∀ j < k, t.endsLoop next j = true → (Tbl.get 0 t.lc j).toNat ≤ 1) (hc : 1 < (Tbl.get 0 t.lc k).toNat) :
    loopEnd t [0, 1, 2, 3] next = ((Tbl.get 0 t.lstart k).toNat,
      deactivate t.lact ((List.range k).filter (t.endsLoop next)),
      ((List.range k).filter (t.endsLoop next)).map (fun j => (j, 0)) ++ [(k, Tbl.get 0 t.lc k - 1)]) := by
  have hsplit : [0, 1, 2, 3] = List.range k ++ k :: List.range' (k + 1) (3 - k) := by
    interval_cases k <;> rfl
  rw [hsplit, loopEnd_append t next _ _ (fun j hj => hb j (List.mem_range.1 hj)), loopEnd_back he hc]

theorem get_foldl_leave (stays : Nat → Bool) (ks : List Nat) (act : Tbl Bool) (k : Nat) :
    Tbl.get false (ks.foldl (fun act k => if Tbl.get false act k && !stays k then Tbl.set act k false else act) act) k =
      (Tbl.get false act k && (stays k || !ks.contains k)) := by
  induction ks generalizing act with
  | nil => simp
  | cons j ks ih =>
    rw [List.foldl_cons, ih]
    by_cases hj : k = j
    · subst hj
      cases ha : Tbl.get false act k <;> cases hs : stays k <;> simp [ha]
    · have hset : Tbl.get false (if Tbl.get false act j && !stays j then Tbl.set act j false else act) k =
          Tbl.get false act k := by
        split
        · exact Tbl.get_set_other _ _ _ hj
        · rfl
      rw [hset, List.contains_cons, beq_false_of_ne hj, Bool.false_or]

/-- A transfer out of a loop's body leaves the loop inactive (R69). -/
theorem get_leaveLoops (t : StreamState) (target : Nat) {k : Nat} (hk : k < 4) :
    Tbl.get false (leaveLoops t target) k = (Tbl.get false t.lact k &&
      decide ((Tbl.get 0 t.lstart k).toNat ≤ target ∧ target < (Tbl.get 0 t.lexit k).toNat)) := by
  have hr : (List.range 4).contains k = true := List.contains_iff_mem.2 (List.mem_range.2 hk)
  refine (get_foldl_leave (fun k => (Tbl.get 0 t.lstart k).toNat ≤ target && target < (Tbl.get 0 t.lexit k).toNat)
    (List.range 4) t.lact k).trans ?_
  rw [hr, Bool.not_true, Bool.or_false, Bool.decide_and]

/-! ### The sequencer -/

/-- Where a stream goes on: PC, PEND, PTARGET, the active loops and the link still to be written. -/
structure Course where
  pc      : BitVec 48
  pend    : BitVec 2
  ptarget : BitVec 48
  lact    : Tbl Bool
  link    : Option Operand

def StreamState.course (t : StreamState) : Course :=
  { pc := t.pc, pend := t.pend, ptarget := t.ptarget, lact := t.lact, link := t.link }

theorem Ctx.after_course (x : Ctx) (v : State) (flow : Flow) :
    ((x.after v flow).stream x.c x.st).course = ((x.sequence (x.pushed v) flow).stream x.c x.st).course := by
  rw [Ctx.after, State.stream_noted, Ctx.finish, State.stream_modStream]
  rfl

theorem Ctx.after_near (x : Ctx) (v : State) (flow : Flow) : Near (x.sequence (x.pushed v) flow) (x.after v flow) :=
  (Near.modStream (x.sequence (x.pushed v) flow) x.c x.st _).trans (noted_near _ _)

section
variable {x : Ctx} {s : State} {flow : Flow}

/-- A delay slot counts PEND down, and the second goes to PTARGET (R69). -/
theorem Ctx.sequence_slot (h : (s.stream x.c x.st).pend ≠ 0) :
    let t := s.stream x.c x.st
    ((x.sequence s flow).stream x.c x.st).course =
      { t.course with pend := t.pend - 1, link := if t.pend = 1 then none else t.link,
                      pc := if t.pend = 1 then t.ptarget else BitVec.ofNat 48 x.next } := by
  unfold Ctx.sequence
  dsimp only
  rw [if_pos h, State.stream_setStream]
  rfl

/-- The second delay slot writes a link still to be written (R74). -/
theorem Ctx.sequence_slot_lands {o : Operand} (h : (s.stream x.c x.st).pend = 1) (hl : (s.stream x.c x.st).link = some o)
    (ht : s.tickOf x.c = x.now) :
    x.Lands s (x.sequence s flow) 1 [.reg x.st o (BitVec.ofNat 64 x.next)] := by
  unfold Ctx.sequence
  dsimp only
  rw [if_pos (by rw [h]; decide), hl]
  dsimp only
  rw [if_pos h]
  exact lands_of_near (Near.setStream _ _ _ _) (Ctx.lands_result ht 1 _)

theorem Ctx.sequence_jump {a : Nat} {lv : Bool} (h : (s.stream x.c x.st).pend = 0) :
    let t := s.stream x.c x.st
    ((x.sequence s (.jump a lv)).stream x.c x.st).course =
      { t.course with lact := if lv then leaveLoops t (a % 2 ^ 48) else t.lact,
                      pend := if x.bh then t.pend else 2,
                      ptarget := if x.bh then t.ptarget else BitVec.ofNat 48 a,
                      pc := if x.bh then BitVec.ofNat 48 a else BitVec.ofNat 48 x.next } := by
  unfold Ctx.sequence
  dsimp only
  rw [if_neg (not_not.2 h)]
  cases lv <;> cases x.bh <;> simp only [Bool.false_eq_true, if_false, if_true, State.stream_setStream] <;> rfl

theorem Ctx.sequence_skip {a : Nat} (h : (s.stream x.c x.st).pend = 0) :
    ((x.sequence s (.skip a)).stream x.c x.st).course =
      { (s.stream x.c x.st).course with pc := BitVec.ofNat 48 a } := by
  unfold Ctx.sequence
  dsimp only
  rw [if_neg (not_not.2 h), State.stream_setStream]
  rfl

/-- The loop counters that a bundle's end writes. -/
def Ctx.counts (x : Ctx) (ws : List (Nat × Word)) : List Effect :=
  ws.map (fun e => .reg x.st (.lc (Fin.ofNat 4 e.1)) e.2)

theorem Ctx.sequence_seq {n : Nat} {act : Tbl Bool} {ws : List (Nat × Word)} (h : (s.stream x.c x.st).pend = 0)
    (hl : loopEnd (s.stream x.c x.st) [0, 1, 2, 3] x.next = (n, act, ws)) :
    ((x.sequence s .seq).stream x.c x.st).course =
        { (s.stream x.c x.st).course with pc := BitVec.ofNat 48 n, lact := act } ∧
      (s.tickOf x.c = x.now → ws ≠ [] → x.Lands s (x.sequence s .seq) 1 (x.counts ws)) := by
  unfold Ctx.sequence
  dsimp only
  rw [if_neg (not_not.2 h)]
  have hl' : loopEnd { s.stream x.c x.st with
      slotsLeft := if isTransfer x.o && !x.bh then 2 else (s.stream x.c x.st).slotsLeft - 1 } [0, 1, 2, 3] x.next =
    (n, act, ws) := hl
  rw [hl']
  dsimp only
  cases ws with
  | nil => exact ⟨by rw [List.isEmpty_nil, if_pos rfl, State.stream_setStream]; rfl, fun _ h => absurd rfl h⟩
  | cons e ws =>
    refine ⟨?_, fun ht _ => ?_⟩
    · rw [List.isEmpty_cons, if_neg Bool.false_ne_true, State.stream_result, State.stream_setStream]
      rfl
    · rw [List.isEmpty_cons, if_neg Bool.false_ne_true]
      exact Ctx.lands_setStream_result ht _ 1 _

end

/-! ### After an issued bundle -/

section
variable {x : Ctx} {v : State} {flow : Flow}

theorem Ctx.after_slot (h : (v.stream x.c x.st).pend ≠ 0) :
    let t := v.stream x.c x.st
    ((x.after v flow).stream x.c x.st).course =
      { t.course with pend := t.pend - 1, link := if t.pend = 1 then none else t.link,
                      pc := if t.pend = 1 then t.ptarget else BitVec.ofNat 48 x.next } := by
  obtain ⟨e, he⟩ := x.pushed_stream v x.st
  rw [Ctx.after_course, Ctx.sequence_slot (by rwa [he]), he]
  rfl

theorem Ctx.after_slot_lands {o : Operand} (h : (v.stream x.c x.st).pend = 1) (hl : (v.stream x.c x.st).link = some o)
    (ht : v.tickOf x.c = x.now) :
    x.Lands (x.pushed v) (x.after v flow) 1 [.reg x.st o (BitVec.ofNat 64 x.next)] := by
  obtain ⟨e, he⟩ := x.pushed_stream v x.st
  exact lands_of_near (x.after_near v flow)
    (Ctx.sequence_slot_lands (by rwa [he]) (by rwa [he]) ((x.pushed_tickOf v).trans ht))

theorem Ctx.after_jump {a : Nat} {lv : Bool} (h : (v.stream x.c x.st).pend = 0) :
    let t := v.stream x.c x.st
    ((x.after v (.jump a lv)).stream x.c x.st).course =
      { t.course with lact := if lv then leaveLoops t (a % 2 ^ 48) else t.lact,
                      pend := if x.bh then t.pend else 2,
                      ptarget := if x.bh then t.ptarget else BitVec.ofNat 48 a,
                      pc := if x.bh then BitVec.ofNat 48 a else BitVec.ofNat 48 x.next } := by
  obtain ⟨e, he⟩ := x.pushed_stream v x.st
  rw [Ctx.after_course, Ctx.sequence_jump (by rwa [he]), he]
  rfl

theorem Ctx.after_skip {a : Nat} (h : (v.stream x.c x.st).pend = 0) :
    ((x.after v (.skip a)).stream x.c x.st).course = { (v.stream x.c x.st).course with pc := BitVec.ofNat 48 a } := by
  obtain ⟨e, he⟩ := x.pushed_stream v x.st
  rw [Ctx.after_course, Ctx.sequence_skip (by rwa [he]), he]
  rfl

theorem Ctx.after_seq {n : Nat} {act : Tbl Bool} {ws : List (Nat × Word)} (h : (v.stream x.c x.st).pend = 0)
    (hl : loopEnd (v.stream x.c x.st) [0, 1, 2, 3] x.next = (n, act, ws)) :
    ((x.after v .seq).stream x.c x.st).course =
        { (v.stream x.c x.st).course with pc := BitVec.ofNat 48 n, lact := act } ∧
      (v.tickOf x.c = x.now → ws ≠ [] → x.Lands (x.pushed v) (x.after v .seq) 1 (x.counts ws)) := by
  obtain ⟨e, he⟩ := x.pushed_stream v x.st
  have hl' : loopEnd ((x.pushed v).stream x.c x.st) [0, 1, 2, 3] x.next = (n, act, ws) := by
    rw [he]
    exact hl
  obtain ⟨hcourse, hlands⟩ := Ctx.sequence_seq (by rwa [he]) hl'
  refine ⟨?_, fun ht hne => lands_of_near (x.after_near v .seq) (hlands ((x.pushed_tickOf v).trans ht) hne)⟩
  rw [Ctx.after_course, hcourse, he]
  rfl

end

/-- Settles O41: each flow by the course that the sequencer gives the stream in the state that side-op and PUSH
leave. -/
theorem sequencer : Obligations.Sequencer := by
  unfold Obligations.Sequencer
  intro x v flow hnow t w t' ends lc zeroed
  have hzeroed (n : Nat) : zeroed n = x.counts (((List.range n).filter (t.endsLoop x.next)).map (fun k => (k, 0))) := by
    rw [Ctx.counts, List.map_map]
    rfl
  refine ⟨finish_later x v flow true, fun hp => ?_, fun hp o ho => ⟨?_, Ctx.after_slot_lands hp ho hnow⟩, ?_, ?_, ?_, ?_,
    ?_, ?_, ?_⟩
  · have hc : t'.course = _ := Ctx.after_slot hp
    exact ⟨congrArg Course.pend hc, congrArg Course.lact hc, congrArg Course.pc hc⟩
  · have hc : t'.course = _ := Ctx.after_slot (by rw [hp]; decide)
    exact (congrArg Course.link hc).trans (if_pos hp)
  · rintro hp a lv rfl hb
    have hc : t'.course = _ := Ctx.after_jump hp
    rw [hb] at hc
    exact ⟨(congrArg Course.pend hc).trans hp, congrArg Course.pc hc⟩
  · rintro hp a lv rfl hb
    have hc : t'.course = _ := Ctx.after_jump hp
    rw [hb] at hc
    exact ⟨congrArg Course.pend hc, congrArg Course.ptarget hc, congrArg Course.pc hc⟩
  · rintro hp a lv rfl k hk
    have hc : t'.lact = _ := congrArg Course.lact (Ctx.after_jump hp)
    rw [hc]
    cases lv with
    | false => simp only [Bool.false_eq_true, if_false, Bool.not_false, Bool.true_or, Bool.and_true]; rfl
    | true => exact get_leaveLoops t (a % 2 ^ 48) hk
  · rintro hp a rfl
    have hc : t'.course = _ := Ctx.after_skip hp
    exact ⟨congrArg Course.pc hc, congrArg Course.lact hc⟩
  · rintro hp rfl hno
    have hnone : (List.range 4).filter (t.endsLoop x.next) = [] :=
      List.filter_eq_nil_iff.2 (fun k hk => Bool.eq_false_iff.1 (hno k (List.mem_range.1 hk)))
    have hl : loopEnd t [0, 1, 2, 3] x.next = (x.next, t.lact, []) := by
      rw [loopEnd_through (fun k hk he => absurd he (Bool.eq_false_iff.1 (hno k hk))), hnone]
      rfl
    have hc : t'.course = _ := (Ctx.after_seq hp hl).1
    exact ⟨congrArg Course.pc hc, congrArg Course.lact hc⟩
  · rintro hp rfl hle ⟨k, hk, he⟩
    obtain ⟨hc, hlands⟩ := Ctx.after_seq hp (loopEnd_through hle)
    refine ⟨congrArg Course.pc hc, fun j hj => ?_, ?_⟩
    · refine (congrArg (fun c => Tbl.get false c.lact j) hc).trans ((get_deactivate _ _ _).trans ?_)
      rw [contains_filter_range, decide_eq_true hj, Bool.true_and]
      rfl
    · rw [hzeroed]
      exact hlands hnow (List.ne_nil_of_mem
        (List.mem_map_of_mem (List.mem_filter.2 ⟨List.mem_range.2 hk, he⟩)))
  · rintro k hk hp rfl he hb hcount
    obtain ⟨hc, hlands⟩ := Ctx.after_seq hp (loopEnd_again hk he hb hcount)
    refine ⟨?_, fun j hj => ?_, ?_⟩
    · have hpc : t'.pc = _ := congrArg Course.pc hc
      rw [hpc]
      exact congrArg BitVec.toNat (BitVec.ofNat_toNat _ _)
    · refine (congrArg (fun c => Tbl.get false c.lact j) hc).trans ((get_deactivate _ _ _).trans ?_)
      rw [contains_filter_range]
      rfl
    · have hl := hlands hnow (List.append_ne_nil_of_right_ne_nil _ (List.cons_ne_nil _ _))
      rw [Ctx.counts, List.map_append] at hl
      rw [hzeroed]
      exact hl

end Sys2Proof.Machine

end

/-! Streams, tokens and templates (R76, R78 to R85, R91, R92). -/

section

namespace Sys2Proof.Machine

/-! ### LOOP (R76) -/

/-- The count that a LOOP sets up. -/
def Ctx.loopCount (x : Ctx) (u : State) : Word :=
  if x.f.mod.getLsbD 0 then x.f.aux.zeroExtend 64 else x.reg u x.f.sa

theorem loopBody_done {x : Ctx} {u : State} {k : Fin 4} (hd : x.f.dst = .lc k)
    (hf : if x.f.mod.getLsbD 0 then x.f.sa = .s 0 else x.f.aux = 0) (ha : x.f.imm.toNat % 4 = 0)
    (hlo : 4 * x.b.words < x.f.imm.toNat) (hhi : x.f.imm.toNat ≤ 1048576) :
    loopBody x u = .done
      ((x.result u 1 [.reg x.st x.f.dst (x.loopCount u)]).modStream x.c x.st (fun t => { t with
        lstart := Tbl.set t.lstart k.val (BitVec.ofNat 48 x.next),
        lexit := Tbl.set t.lexit k.val (BitVec.ofNat 48 ((x.a + x.f.imm.toNat) % 2 ^ 48)),
        lact := Tbl.set t.lact k.val (x.loopCount u != 0) }))
      (if x.loopCount u = 0 then .skip ((x.a + x.f.imm.toNat) % 2 ^ 48) else .seq) := by
  have hrange : ¬ (x.f.imm.toNat % 4 ≠ 0 ∨ x.f.imm.toNat ≤ 4 * x.b.words ∨ 0x100000 < x.f.imm.toNat) := by omega
  have hn : loopNumber x.f.dst = k.val := by rw [hd]; rfl
  unfold loopBody Ctx.loopCount
  dsimp only
  rw [x.bit_mod, hn, if_neg hrange]
  cases hm : x.f.mod.getLsbD 0 with
  | true =>
    rw [hm, if_pos rfl] at hf
    simp [hf, Ctx.writes]
  | false =>
    rw [hm, if_neg Bool.false_ne_true] at hf
    simp [hf, Ctx.writes]

/-! ### FORK and QBIND (R78 to R80) -/

/-- The nibble of a queue in a word of bindings. -/
theorem bits_nibble (n : Nat) {q : Nat} (hq : q < 16) : bits (n % 2 ^ 64) (4 * q) 4 = n / 16 ^ q % 16 := by
  have hpow : 2 ^ (4 * q) = 16 ^ q := by rw [pow_mul]; rfl
  have hsplit : 2 ^ 64 = 16 ^ q * 16 ^ (16 - q) := by
    rw [← pow_add, Nat.add_sub_cancel' hq.le]
    rfl
  have hdvd : 16 ∣ 16 ^ (16 - q) := dvd_pow_self 16 (by omega)
  rw [bits, hpow, hsplit, Nat.mod_mul_right_div_self]
  exact Nat.mod_mod_of_dvd _ hdvd

theorem forkBody_done {x : Ctx} {u : State} {n : Nat} (hn : (u.core x.c).holdRead (x.ea u) 32 = n)
    (ht : x.holdTrap u (x.ea u) 32 8 = none) (ha : (u.core x.c).acquirePending x.st = false)
    (hb : (u.core x.c).badByte (addrsFrom (x.ea u) 32) = none)
    (he : ∀ e ∈ forkEntries n, e.2 % 4 = 0 ∧ ((u.core x.c).stream e.1).run = false ∧
      (u.core x.c).argsFree false e.1 = true)
    (hp : forkEntries n ≠ [] → (u.core x.c).argsFree x.fl .P = true)
    (hq : ∀ q < 16, (u.core x.c).rebindBreaks q (n / 2 ^ 192 / 16 ^ q % 16) = false) :
    forkBody x u = .done ((forkEntries n).foldl (fun w e => x.startStream w e.1 e.2)
      ((if forkEntries n = [] then u else u.commitOwn x.c).modCore x.c (fun k =>
        { k with qmap := BitVec.ofNat 64 (n / 2 ^ 192 % 2 ^ 64) }))) .seq := by
  have hfind : (forkEntries n).findSome? (fun e =>
      if e.2 % 4 ≠ 0 then some (TrapInfo.mk .align e.2 0 0 0 false false 0 0 0 none false)
      else if ((u.core x.c).stream e.1).run then some { cause := .qjoin } else none) = none := by
    refine List.findSome?_eq_none_iff.2 (fun e hm => ?_)
    obtain ⟨h4, hrun, -⟩ := he e hm
    rw [if_neg (not_not.2 h4), hrun, if_neg Bool.false_ne_true]
  have hqs : (List.range 16).any (fun q => (u.core x.c).rebindBreaks q (bits (bits n 192 64) (4 * q) 4)) = false := by
    refine List.any_eq_false.2 (fun q hm => ?_)
    have hlt := List.mem_range.1 hm
    rw [show bits n 192 64 = n / 2 ^ 192 % 2 ^ 64 from rfl, bits_nibble _ hlt, hq q hlt]
    exact Bool.false_ne_true
  have hall : (forkEntries n).all (fun e => (u.core x.c).argsFree false e.1) = true :=
    List.all_eq_true.2 (fun e hm => (he e hm).2.2)
  have hargs : ((u.core x.c).argsFree x.fl .P || (forkEntries n).isEmpty) = true := by
    rw [Bool.or_eq_true, List.isEmpty_iff]
    exact (em (forkEntries n = [])).symm.imp_left hp
  unfold forkBody
  simp only [ht, ha, hb, hn, hfind, hqs, hall, hargs, Bool.false_eq_true, if_false, Bool.not_true, Bool.or_self,
    List.isEmpty_iff]
  rfl

theorem qbindBody_done {x : Ctx} {u : State} {q : Fin 16} (hd : x.f.dst = .q q)
    (hb : (u.core x.c).rebindBreaks q.val (x.f.aux.toNat % 16) = false) :
    qbindBody x u = .done (u.setCore x.c { u.core x.c with
      qmap := BitVec.ofNat 64 ((u.core x.c).qmap.toNat - (u.core x.c).qmap.toNat / 2 ^ (4 * q.val) % 16 * 2 ^ (4 * q.val) +
        x.f.aux.toNat % 16 * 2 ^ (4 * q.val)) }) .seq := by
  have hq : queueOf x.f.dst = q.val := by rw [hd]; rfl
  have hx : bits x.f.aux.toNat 0 4 = x.f.aux.toNat % 16 := by simp [bits]
  unfold qbindBody
  dsimp only
  rw [hq, hx, hb, if_neg Bool.false_ne_true]
  rfl

/-! ### JOIN, JOIN.D and HALT (R81 to R83) -/

/-- L, X and S are idle and what they issued has completed (R82). -/
def Core.CrewIdle (k : Core) : Prop :=
  (∀ st ∈ [Stream.L, .X, .S], (k.stream st).run = false) ∧ (∀ l ∈ k.loads, l.st = .P) ∧ (∀ y ∈ k.stores, y.st = .P) ∧
    ∀ l ∈ k.flight, l.st = .P

/-- No queue holds an entry and no copy writes one (R82). -/
def Core.QueuesUnused (k : Core) : Prop :=
  ∀ q < 16, (k.queueReg q).cnt = 0 ∧ ∀ cp ∈ k.copies, cp.queue ≠ some q

theorem Core.crewRuns_iff (k : Core) : k.crewRuns = true ↔ ∃ st ∈ [Stream.L, .X, .S], (k.stream st).run = true := by
  simp [Core.crewRuns, Core.stream, Four.get, or_assoc]

theorem any_ne_eq_false {α : Type} {l : List α} {g : α → Stream} :
    (l.any fun a => g a != .P) = false ↔ ∀ a ∈ l, g a = .P := by
  simp

section
variable {k : Core}

theorem Core.CrewIdle.crewRuns (h : k.CrewIdle) : k.crewRuns = false := by
  refine Bool.eq_false_iff.2 (fun hr => ?_)
  obtain ⟨st, hst, hrun⟩ := k.crewRuns_iff.1 hr
  exact Bool.false_ne_true ((h.1 st hst).symm.trans hrun)

theorem Core.CrewIdle.crewBusy (h : k.CrewIdle) : k.crewBusy = false := by
  obtain ⟨-, hl, hs, hf⟩ := h
  rw [Core.crewBusy, any_ne_eq_false.2 hl, any_ne_eq_false.2 hs, any_ne_eq_false.2 hf]
  rfl

theorem Core.queueUsed_iff (k : Core) :
    (List.range 16).any k.queueUsed = true ↔ ¬ k.QueuesUnused := by
  simp only [List.any_eq_true, List.mem_range, Core.queueUsed, Core.QueuesUnused]
  push Not
  refine exists_congr (fun q => and_congr_right (fun _ => ?_))
  simp [Nat.pos_iff_ne_zero, ← imp_iff_not_or]

end

section
variable {x : Ctx} {u : State} {fin : State → Res}

theorem Ctx.joinThen_runs (h : ∃ st ∈ [Stream.L, .X, .S], ((u.core x.c).stream st).run = true) :
    x.joinThen u fin = .wait u .join := if_pos ((u.core x.c).crewRuns_iff.2 h)

theorem Ctx.joinThen_idle (h : (u.core x.c).CrewIdle) : x.joinThen u fin =
    if (List.range 16).any (u.core x.c).queueUsed then .plain u .qjoin else fin (u.setCore x.c (u.core x.c).clearCrew) := by
  simp only [Ctx.joinThen, h.crewRuns, h.crewBusy, Bool.false_eq_true, if_false]

theorem Ctx.joinThen_used (h : (u.core x.c).CrewIdle) (hq : ¬ (u.core x.c).QueuesUnused) :
    x.joinThen u fin = .trap u { cause := .qjoin } :=
  (Ctx.joinThen_idle h).trans (if_pos ((u.core x.c).queueUsed_iff.2 hq))

theorem Ctx.joinThen_unused (h : (u.core x.c).CrewIdle) (hq : (u.core x.c).QueuesUnused) :
    x.joinThen u fin = fin (u.setCore x.c (u.core x.c).clearCrew) :=
  (Ctx.joinThen_idle h).trans (if_neg (fun hu => (u.core x.c).queueUsed_iff.1 hu hq))

theorem Ctx.haltTask_ends {k : Core} (hk : u.core x.c = k.clearCrew) (hcopies : k.copies = []) (hcharts : k.charts = [])
    (hquiet : k.quiet .P = true) (hflight : k.flight = []) (hchildren : k.jcount = 0) :
    x.haltTask u = .final ((x.finish u .seq true).modCore x.c (fun k =>
      { k.modStream .P (fun t => { t with run := false }) with halted := true, parentWait := none })) := by
  have e1 : (u.core x.c).copies = [] := by rw [hk]; exact hcopies
  have e2 : (u.core x.c).charts = [] := by rw [hk]; exact hcharts
  have e3 : (u.core x.c).quiet .P = true := by rw [hk]; exact hquiet
  have e4 : (u.core x.c).flight = [] := by rw [hk]; exact hflight
  have e5 : (u.core x.c).jcount = 0 := by rw [hk]; exact hchildren
  simp [Ctx.haltTask, e1, e2, e3, e4, e5]

theorem joinDBody_done (h : (u.core x.c).CrewIdle)
    (hs : ∀ cp ∈ ((u.discardQueues x.c).core x.c).copies, cp.queue.isSome = true → cp.started = false) :
    let w := u.discardQueues x.c
    let w' := ((w.core x.c).copies.filter (fun cp => cp.queue.isSome)).foldl (fun w cp => w.cancelCopy x.c cp) w
    joinDBody x u = .done (w'.setCore x.c (w'.core x.c).clearCrew) .seq := by
  have hnone : ((u.discardQueues x.c).core x.c).copies.any (fun c => c.queue.isSome && c.started) = false := by
    refine List.any_eq_false.2 (fun cp hm => ?_)
    rw [Bool.and_eq_true]
    exact fun ⟨hq, hst⟩ => Bool.false_ne_true ((hs cp hm hq).symm.trans hst)
  simp only [joinDBody, h.crewRuns, h.crewBusy, hnone, Bool.false_eq_true, if_false]

end

/-! ### TOKP and TOKW (R84, R85) -/

section
variable {x : Ctx} {u : State} {d : Stream}

theorem Ctx.tokenStream_eq (h : namedStream x.st (TokenCode.ofBits x.f.aux.toNat) = some d) : x.tokenStream = d := by
  rw [Ctx.tokenStream, h]
  rfl

theorem tokpBody_done (hd : namedStream x.st (TokenCode.ofBits x.f.aux.toNat) = some d) (h1 : 1 ≤ x.f.imm.toNat)
    (h2 : x.f.imm.toNat ≤ 15) (hfit : (u.core x.c).fifoCount x.st d + x.f.imm.toNat +
      (if namedStream x.st x.b.push = some d then 1 else 0) ≤ 15) :
    tokpBody x u = .done (u.pushTokens x.c x.st d x.f.imm.toNat) .seq := by
  unfold tokpBody
  dsimp only
  rw [x.tokenStream_eq hd, if_neg (by omega), if_neg (Nat.not_lt.2 hfit)]

theorem tokpBody_full (hd : namedStream x.st (TokenCode.ofBits x.f.aux.toNat) = some d) (h1 : 1 ≤ x.f.imm.toNat)
    (h2 : x.f.imm.toNat ≤ 15) (hfull : 15 < (u.core x.c).fifoCount x.st d + x.f.imm.toNat +
      (if namedStream x.st x.b.push = some d then 1 else 0)) :
    tokpBody x u = .trap u { cause := .tokovf } := by
  unfold tokpBody
  dsimp only
  rw [x.tokenStream_eq hd, if_neg (by omega), if_pos hfull]
  rfl

/-- The counts that a TOKW sees. -/
def Ctx.tokensSeen (x : Ctx) (u : State) (d : Stream) : Nat := (u.core x.c).fifoVisible x.now d x.st

/-- The answer of a TOKW: the counts that it sees. -/
def Ctx.givesTokens (x : Ctx) (u w : State) (d : Stream) : Res :=
  .done (x.result w 1 [.reg x.st x.f.dst (BitVec.ofNat 64 (x.tokensSeen u d))]) .seq

theorem tokwBody_eq (hd : namedStream x.st (TokenCode.ofBits x.f.aux.toNat) = some d) :
    tokwBody x u =
      if x.f.mod.getLsbD 1 then
        if x.f.imm.toNat ≠ 0 ∨ x.f.mod.getLsbD 0 = true then .plain u .illfield else x.givesTokens u u d
      else if x.f.imm.toNat < 1 ∨ 15 < x.f.imm.toNat then .plain u .illfield
      else if x.tokensSeen u d < x.f.imm.toNat then .wait u (.tokens d x.f.imm.toNat)
      else if x.f.mod.getLsbD 0 then x.givesTokens u u d
      else x.givesTokens u (u.setCore x.c ((u.core x.c).setFifo d x.st
        ((u.core x.c).fifoCount d x.st - x.f.imm.toNat))) d := by
  unfold tokwBody
  dsimp only
  rw [x.tokenStream_eq hd, x.bit_mod, x.bit_mod]
  rfl

theorem tokwBody_takes (hd : namedStream x.st (TokenCode.ofBits x.f.aux.toNat) = some d)
    (hm1 : x.f.mod.getLsbD 1 = false) (hm0 : x.f.mod.getLsbD 0 = false) (h1 : 1 ≤ x.f.imm.toNat)
    (h2 : x.f.imm.toNat ≤ 15) (hseen : x.f.imm.toNat ≤ x.tokensSeen u d) :
    tokwBody x u = x.givesTokens u (u.setCore x.c ((u.core x.c).setFifo d x.st
      ((u.core x.c).fifoCount d x.st - x.f.imm.toNat))) d := by
  rw [tokwBody_eq hd, hm1, hm0, if_neg Bool.false_ne_true, if_neg (by omega), if_neg (Nat.not_lt.2 hseen),
    if_neg Bool.false_ne_true]

theorem tokwBody_waits (hd : namedStream x.st (TokenCode.ofBits x.f.aux.toNat) = some d)
    (hm1 : x.f.mod.getLsbD 1 = false) (h1 : 1 ≤ x.f.imm.toNat) (h2 : x.f.imm.toNat ≤ 15)
    (hseen : x.tokensSeen u d < x.f.imm.toNat) : tokwBody x u = .wait u (.tokens d x.f.imm.toNat) := by
  rw [tokwBody_eq hd, hm1, if_neg Bool.false_ne_true, if_neg (by omega), if_pos hseen]

/-- With KEEP a TOKW takes no count, and with the form that does not wait neither. -/
theorem tokwBody_keeps (hd : namedStream x.st (TokenCode.ofBits x.f.aux.toNat) = some d)
    (h : x.f.mod.toNat % 4 = 1 ∧ 1 ≤ x.f.imm.toNat ∧ x.f.imm.toNat ≤ 15 ∧ x.f.imm.toNat ≤ x.tokensSeen u d ∨
      x.f.mod.toNat % 4 = 2 ∧ x.f.imm.toNat = 0) : tokwBody x u = x.givesTokens u u d := by
  have hbit (n : Nat) : x.f.mod.getLsbD n = (x.f.mod.toNat / 2 ^ n % 2 == 1) := (x.bit_mod n).symm
  rw [tokwBody_eq hd, hbit 0, hbit 1]
  obtain ⟨hm, h1, h2, hseen⟩ | ⟨hm, h0⟩ := h
  · have e0 : (x.f.mod.toNat / 2 ^ 0 % 2 == 1) = true := by simp; omega
    have e1 : (x.f.mod.toNat / 2 ^ 1 % 2 == 1) = false := by simp; omega
    rw [e0, e1, if_neg Bool.false_ne_true, if_neg (by omega), if_neg (Nat.not_lt.2 hseen), if_pos rfl]
  · have e0 : (x.f.mod.toNat / 2 ^ 0 % 2 == 1) = false := by simp; omega
    have e1 : (x.f.mod.toNat / 2 ^ 1 % 2 == 1) = true := by simp; omega
    rw [e0, e1, if_pos rfl, if_neg (by simp [h0])]

end

/-! ### TMPL (R91) -/

theorem tmplBody_done {x : Ctx} {u : State} (h1 : 1 ≤ x.f.aux.toNat) (h2 : x.f.aux.toNat ≤ 62)
    (ht : x.holdTrap u (x.ea u) 16 16 = none) (ha : (u.core x.c).acquirePending x.st = false)
    (hb : (u.core x.c).badByte (addrsFrom (x.ea u) 16) = none) :
    tmplBody x u = .done (x.result u 4
      [.template x.st x.f.aux.toNat (BitVec.ofNat 128 ((u.core x.c).holdRead (x.ea u) 16))]) .seq := by
  have hn : ¬ (x.f.aux.toNat = 0 ∨ 62 < x.f.aux.toNat) := by omega
  simp only [tmplBody, if_neg hn, ht, ha, hb, Bool.false_eq_true, if_false]

/-- Settles O42: what the body of each instruction leaves, case by case. -/
theorem streamControl : Obligations.StreamControl := by
  unfold Obligations.StreamControl
  intro gives idle unused
  have hnop : Acts .nop .nop (fun _ _ => True) (fun _ u => u) :=
    acts_of_done nopBody (fun _ _ _ => rfl) (fun _ _ _ _ _ _ => rfl)
  refine ⟨fun b s u hr => hnop b Fields.zero s u hr trivial, hnop, fun k => ?_, ?_, fun q => ?_, ?_, ?_, ?_, ?_, ?_, ?_,
    fun d => ?_, fun d => ?_, fun d => ⟨?_, ?_, ?_⟩, ?_⟩
  · exact steers_of_done loopBody (fun _ _ _ => rfl)
      (fun x u _ ⟨hd, hf, ha, hlo, hhi⟩ => loopBody_done hd hf ha hlo hhi)
  · refine answers_of_done forkBody (fun _ _ _ => rfl) ?_
    rintro x u v - ⟨-, ht, ha, hb, he, hp, hq, rfl⟩
    exact forkBody_done rfl ht ha hb he hp hq
  · exact acts_of_done qbindBody (fun _ _ _ => rfl) (fun _ _ _ _ _ hg => qbindBody_done hg.1 hg.2)
  · exact acts_of_done joinBody (fun _ _ _ => rfl) (fun _ _ _ _ _ hg => Ctx.joinThen_unused hg.1 hg.2)
  · exact traps_of_trap joinBody (fun _ _ _ => rfl) (fun _ _ _ hg => Ctx.joinThen_used hg.1 hg.2)
  · exact waits_of_wait joinBody (fun _ _ _ => rfl) (fun _ _ _ hg => Ctx.joinThen_runs hg)
  · refine answers_of_done joinDBody (fun _ _ _ => rfl) ?_
    rintro x u v - ⟨hi, hs, rfl⟩
    exact joinDBody_done hi hs
  · refine ends_of_final haltBody (fun _ _ _ => rfl) ?_
    rintro x u v - ⟨hst, rfl⟩
    exact if_neg hst
  · refine ends_of_final haltBody (fun _ _ _ => rfl) ?_
    rintro x u v - ⟨hst, hi, hq, hcopies, hcharts, hquiet, hflight, hchildren, rfl⟩
    exact (if_pos hst).trans ((Ctx.joinThen_unused hi hq).trans
      (Ctx.haltTask_ends (State.core_setCore u x.c _) hcopies hcharts hquiet hflight hchildren))
  · exact acts_of_done tokpBody (fun _ _ _ => rfl)
      (fun _ _ _ _ _ ⟨hd, h1, h2, hfit⟩ => tokpBody_done hd h1 h2 hfit)
  · exact traps_of_trap tokpBody (fun _ _ _ => rfl) (fun _ _ _ ⟨hd, h1, h2, hfull⟩ => tokpBody_full hd h1 h2 hfull)
  · exact acts_of_done tokwBody (fun _ _ _ => rfl)
      (fun _ _ _ _ _ ⟨hd, hm1, hm0, h1, h2, hseen⟩ => tokwBody_takes hd hm1 hm0 h1 h2 hseen)
  · exact acts_of_done tokwBody (fun _ _ _ => rfl) (fun _ _ _ _ _ hg => tokwBody_keeps hg.1 hg.2)
  · exact waits_of_wait tokwBody (fun _ _ _ => rfl)
      (fun _ _ _ ⟨hd, hm1, h1, h2, hseen⟩ => tokwBody_waits hd hm1 h1 h2 hseen)
  · exact acts_of_done tmplBody (fun _ _ _ => rfl)
      (fun _ _ _ _ _ ⟨h1, h2, ht, ha, hb⟩ => tmplBody_done h1 h2 ht ha hb)

end Sys2Proof.Machine

end

/-! Taking an exception (R74, R374 to R377). -/

section

namespace Sys2Proof.Machine

/-! ### FCAUSE (Table 15.4) -/

theorem causeCode_lt (c : Cause) : causeCode c < 256 := by cases c <;> decide

theorem Stream.num_lt (st : Stream) : st.num < 4 := by cases st <;> decide

theorem TrapInfo.word_toNat (t : TrapInfo) (st : Stream) :
    (t.word st).toNat = t.code % 65536 * 65536 + (if t.svc then 2048 else 0) + (if t.async then 1024 else 0) +
      st.num * 256 + causeCode t.cause := by
  have hc := causeCode_lt t.cause
  have hn := Stream.num_lt st
  refine (BitVec.toNat_ofNat _ _).trans (Nat.mod_eq_of_lt ?_)
  split <;> split <;> omega

theorem getLsbD_eq_decide {n : Nat} (v : BitVec n) (i : Nat) : v.getLsbD i = decide (v.toNat / 2 ^ i % 2 = 1) :=
  Nat.testBit_eq_decide_div_mod_eq

/-- The fields of FCAUSE. -/
theorem TrapInfo.word_fields (t : TrapInfo) (st : Stream) :
    (t.word st).toNat % 256 = causeCode t.cause ∧ (t.word st).toNat / 256 % 4 = st.num ∧
      (t.word st).getLsbD 10 = t.async ∧ (t.word st).getLsbD 11 = t.svc ∧
      (t.word st).toNat / 65536 = t.code % 65536 := by
  have hc := causeCode_lt t.cause
  have hn := Stream.num_lt st
  rw [getLsbD_eq_decide, getLsbD_eq_decide, t.word_toNat st]
  cases t.async <;> cases t.svc <;>
    simp only [Bool.false_eq_true, if_false, if_true, decide_eq_true_eq, decide_eq_false_iff_not] <;> omega

/-! ### FLACT (R375) -/

theorem packLact_eq (t : StreamState) : packLact t = boolNat (Tbl.get false t.lact 0) + 2 * boolNat (Tbl.get false t.lact 1) +
    4 * boolNat (Tbl.get false t.lact 2) + 8 * boolNat (Tbl.get false t.lact 3) := by
  simp [packLact, List.range_succ]
  ring

theorem boolNat_le (b : Bool) : boolNat b ≤ 1 := by cases b <;> decide

theorem boolNat_eq_one_iff (b : Bool) : boolNat b = 1 ↔ b = true := by cases b <;> decide

theorem packLact_lt (t : StreamState) : packLact t < 16 := by
  have h0 := boolNat_le (Tbl.get false t.lact 0)
  have h1 := boolNat_le (Tbl.get false t.lact 1)
  have h2 := boolNat_le (Tbl.get false t.lact 2)
  have h3 := boolNat_le (Tbl.get false t.lact 3)
  rw [packLact_eq]
  omega

/-- FLACT as P's sequencer stands: the active loops, then PEND. -/
def StreamState.flact (t : StreamState) : Word := BitVec.ofNat 64 (packLact t + t.pend.toNat * 16)

theorem StreamState.flact_toNat (t : StreamState) : t.flact.toNat = packLact t + t.pend.toNat * 16 := by
  have h1 := packLact_lt t
  have h2 := t.pend.isLt
  exact (BitVec.toNat_ofNat _ _).trans (Nat.mod_eq_of_lt (by omega))

theorem StreamState.flact_loops (t : StreamState) {n : Nat} (hn : n < 4) : t.flact.getLsbD n = Tbl.get false t.lact n := by
  have h0 := boolNat_le (Tbl.get false t.lact 0)
  have h1 := boolNat_le (Tbl.get false t.lact 1)
  have h2 := boolNat_le (Tbl.get false t.lact 2)
  have h3 := boolNat_le (Tbl.get false t.lact 3)
  rw [getLsbD_eq_decide, t.flact_toNat, packLact_eq, Bool.eq_iff_iff, decide_eq_true_iff, ← boolNat_eq_one_iff]
  interval_cases n <;> omega

theorem StreamState.flact_pend (t : StreamState) : t.flact.toNat / 16 = t.pend.toNat := by
  have h := packLact_lt t
  rw [t.flact_toNat]
  omega

/-! ### Entering a handler (R375, R376) -/

theorem Core.frameOf_fpc {k : Core} {st u : Stream} {t : TrapInfo} (h : t.record = none ∨ u ≠ st) :
    (k.frameOf st t).fpc.get u = (k.stream u).pc.zeroExtend 64 := by
  unfold Core.frameOf
  obtain h | h := h
  · rw [h]
    cases u <;> rfl
  · cases t.record <;> cases u <;> simp_all [Four.get]

theorem Core.frameOf_fpc_recorded {k : Core} {st : Stream} {t : TrapInfo} {a : Nat} (h : t.record = some a) :
    (k.frameOf st t).fpc.get st = BitVec.ofNat 64 a := by
  unfold Core.frameOf
  rw [h]
  cases st <;> rfl

/-- A handler is entered in P; the other streams and the registers stay. -/
theorem Core.enterHandler_stream (k : Core) (fr : Frame) (a : Nat) (u : Stream) :
    (k.enterHandler fr a).stream u = if u = .P then { k.stream .P with
      lact := [], pend := 0, slotsLeft := 0, link := none, syncDone := false, pc := pcOf a } else k.stream u :=
  Core.stream_setStream_if _ _ _ _

/-! ### Where an exception goes (R376, R377) -/

/-- The state in which an exception's frame is made: the core has stopped and its results have landed. -/
def State.halted (s : State) (c : Nat) (st : Stream) : State := ((s.stopStreams c).landAll c).dropPageWaits c st.num

section
variable {s : State} {c : Nat} {st : Stream} {t : TrapInfo}

theorem State.raise_eq (s : State) (c : Nat) (st : Stream) (t : TrapInfo) :
    let w := s.halted c st
    let k := w.core c
    s.raise c st t = if (isFirmware c && k.inh) = true then w.bootFirmware (dieOf c)
      else (k.handlerFor (isFirmware c) t).elim (w.deliverToDuwen c st t)
        (fun a => w.setCore c (k.enterHandler (k.frameOf st t) a)) := by
  unfold State.raise State.halted
  dsimp only
  congr 1
  cases Core.handlerFor _ _ _ <;> rfl

theorem State.raise_handler {a : Nat} (hn : isFirmware c = true → ((s.halted c st).core c).inh = false)
    (h : ((s.halted c st).core c).handlerFor (isFirmware c) t = some a) :
    s.raise c st t = (s.halted c st).setCore c
      (((s.halted c st).core c).enterHandler (((s.halted c st).core c).frameOf st t) a) := by
  rw [State.raise_eq, h, if_neg]
  · rfl
  · rw [Bool.and_eq_true]
    exact fun ⟨hf, hi⟩ => Bool.false_ne_true ((hn hf).symm.trans hi)

theorem State.raise_firmware (hf : isFirmware c = true) (hi : ((s.halted c st).core c).inh = true) :
    s.raise c st t = (s.halted c st).bootFirmware (dieOf c) := by
  rw [State.raise_eq, hf, hi]
  rfl

theorem State.raise_duwen (hf : isFirmware c = false) (h : ((s.halted c st).core c).handlerFor false t = none) :
    s.raise c st t = (s.halted c st).deliverToDuwen c st t := by
  rw [State.raise_eq, hf, h]
  rfl

end

theorem Core.handlerFor_task {k : Core} {t : TrapInfo} {u : Task} (hk : k.task = some u) (hc : toHandler t.cause = true)
    (hs : t.svc = false) (hi : k.inh = false) (hh : u.handler ≠ 0) : k.handlerFor false t = some u.handler := by
  simp [Core.handlerFor, hk, hc, hs, hi, hh]

theorem Core.handlerFor_none {k : Core} {t : TrapInfo} (h : ∀ u, k.task = some u →
    toHandler t.cause = false ∨ t.svc = true ∨ k.inh = true ∨ u.handler = 0) : k.handlerFor false t = none := by
  unfold Core.handlerFor
  rw [if_neg Bool.false_ne_true]
  split
  · rename_i u hu
    refine if_neg ?_
    obtain h | h | h | h := h u hu <;> simp [h]
  · rfl

/-! ### Delivery to Duwen (R377) -/

theorem freeKept_core (s : State) (id : Option Nat) (d : Nat) : (s.freeKept id).core d = s.core d := by
  unfold State.freeKept
  split
  · rfl
  · split <;> rfl

/-- A saved context leaves its core free. -/
theorem saveContext_task (s : State) (c area : Nat) (b1 b2 : Bool) (fr : Frame) :
    ((s.saveContext c area b1 b2 fr).core c).task = none := by
  unfold State.saveContext
  split
  · assumption
  · dsimp only
    rw [freeKept_core, State.core_setCore]
    rfl

theorem core_setFaultLog (s : State) (l : List FaultEntry) (d : Nat) :
    ({ s with faultLog := l } : State).core d = s.core d := rfl

theorem deliverToDuwen_task (s : State) (c : Nat) (st : Stream) (t : TrapInfo) :
    ((s.deliverToDuwen c st t).core c).task = none := by
  unfold State.deliverToDuwen
  dsimp only
  rw [core_setFaultLog, saveContext_task]

theorem deliverToDuwen_logged (s : State) (c : Nat) (st : Stream) (t : TrapInfo) :
    (s.deliverToDuwen c st t).faultLog.head? =
      some { cause := t.cause, core := c, addr := t.addr0, info := (s.stream c st).pc.toNat } := rfl

/-- Duwen's firmware starts anew, its frame as at reset. -/
theorem bootFirmware_core (s : State) (d : Nat) :
    let k := (s.bootFirmware d).core (48 * d)
    k.inh = false ∧ k.frame = Frame.reset ∧ (∀ u, (k.stream u).run = (u == .P)) ∧
      (k.stream .P).pc = BitVec.ofNat 48 ((Config.firmwareEntry d).toNat / 4 * 4) ∧
      k.ptroot = (Config.firmwareRoot d) &&& ptrootMask := by
  unfold State.bootFirmware
  dsimp only
  rw [State.core_setCore]
  refine ⟨rfl, rfl, fun u => ?_, rfl, rfl⟩
  cases u <;> rfl

/-- Settles O56: a handler's entry by the frame and the sequencer that it makes, the others by what Duwen does. -/
theorem exceptionEntry : Obligations.ExceptionEntry := by
  unfold Obligations.ExceptionEntry
  intro s c st t w k s' k' entered
  have hentered (h : Word) (hn : isFirmware c = true → k.inh = false)
      (hh : k.handlerFor (isFirmware c) t = some h.toNat) : entered h := by
    have hs' : s' = w.setCore c (k.enterHandler (k.frameOf st t) h.toNat) := State.raise_handler hn hh
    change k'.inh = true ∧ _
    have hk' : k' = k.enterHandler (k.frameOf st t) h.toNat := by
      change s'.core c = _
      rw [hs', State.core_setCore]
    clear_value entered k' s' k w
    have hframe : k'.frame = { k.frameOf st t with
        flact := (k.stream .P).flact, fptg := (k.stream .P).ptarget.zeroExtend 64, fslots := (k.stream .P).slotsLeft,
        flink := (k.stream .P).link, fsync := (k.stream .P).syncDone } := by rw [hk']; rfl
    have hp : k'.stream .P = { k.stream .P with
        lact := [], pend := 0, slotsLeft := 0, link := none, syncDone := false, pc := pcOf h.toNat } := by rw [hk']; rfl
    obtain ⟨hcause, hst, hasync, hsvc, hcode⟩ := t.word_fields st
    rw [hframe, hp]
    refine ⟨by rw [hk']; rfl, hcause, hst, hasync, hsvc, hcode, rfl, rfl, rfl, rfl, rfl, rfl,
      fun u hu => Core.frameOf_fpc hu, fun a ha => Core.frameOf_fpc_recorded ha,
      fun n hn => (k.stream .P).flact_loops hn, (k.stream .P).flact_pend, rfl, rfl, rfl, rfl, rfl, rfl, rfl,
      fun n => rfl, rfl, fun u hu => ?_, by rw [hk']; rfl, fun d hd => ?_, by rw [hs']; rfl⟩
    · rw [hk', Core.enterHandler_stream, if_neg hu]
    · rw [hs', State.core_setCore_other _ _ hd]
  refine ⟨fun hf u hu hc hs hi hh hlt => ?_, fun hf hi => ?_, fun hf hi => ?_, fun hf _ h => ?_⟩
  · refine hentered _ (fun h => absurd (hf.symm.trans h) Bool.false_ne_true) ?_
    rw [hf, Core.handlerFor_task hu hc hs hi hh, BitVec.toNat_ofNat, Nat.mod_eq_of_lt hlt]
  · refine hentered _ (fun _ => hi) ?_
    rw [hf]
    rfl
  · have hs' : s' = w.bootFirmware (dieOf c) := State.raise_firmware hf hi
    have hc : 48 * dieOf c = c := by
      have : c % 48 = 0 := by simpa [isFirmware] using hf
      unfold dieOf
      omega
    have hk' : k' = (w.bootFirmware (dieOf c)).core (48 * dieOf c) := by
      change s'.core c = _
      rw [hs', hc]
    rw [hk']
    exact bootFirmware_core w (dieOf c)
  · have hs' : s' = w.deliverToDuwen c st t := State.raise_duwen hf (Core.handlerFor_none h)
    refine ⟨?_, ?_⟩
    · change (s'.core c).task = none
      rw [hs']
      exact deliverToDuwen_task w c st t
    · rw [hs']
      exact deliverToDuwen_logged w c st t

end Sys2Proof.Machine

end

/-! The copies in flight on each core, which no access to memory and no translation lets go (R150, R171, R176). -/

section

namespace Sys2Proof.Machine

/-- The names of the copies in flight on each core. -/
def State.fleet (s : State) (c : Nat) : List Nat := (s.core c).copies.map (fun q => q.id)

theorem fleet_of_near {s t : State} (h : Near s t) : t.fleet = s.fleet :=
  funext (fun c => (congrArg (fun k : Core => k.copies.map (fun q => q.id)) (h.core c) :))

theorem fleet_of_cores {s t : State} (h : t.cores = s.cores) : t.fleet = s.fleet :=
  funext (fun c => by unfold State.fleet State.core; rw [h])

/-- A core whose copies keep their names. -/
theorem State.setCore_fleet (s : State) (c : Nat) (k : Core)
    (h : k.copies.map (fun q => q.id) = (s.core c).copies.map (fun q => q.id)) : (s.setCore c k).fleet = s.fleet :=
  funext (fun d => State.forall_core_setCore
    (p := fun d k => k.copies.map (fun q => q.id) = (s.core d).copies.map (fun q => q.id)) h (fun _ _ => rfl) d)

@[simp] theorem State.setDie_fleet (s : State) (d : Nat) (v : Die) : (s.setDie d v).fleet = s.fleet := rfl

@[simp] theorem State.setPager_fleet (s : State) (l : List PagerJob) :
    ({ s with pager := l } : State).fleet = s.fleet := rfl

@[simp] theorem State.modStream_fleet (s : State) (c : Nat) (st : Stream) (g : StreamState → StreamState) :
    (s.modStream c st g).fleet = s.fleet := State.setCore_fleet s c _ rfl

@[simp] theorem State.storeFor_fleet (s : State) (m : Option Meter) (bytes : List (Nat × Byte)) :
    (s.storeFor m bytes).fleet = s.fleet := fleet_of_near (storeFor_near s m bytes)

@[simp] theorem State.touchLine_fleet (s : State) (line : Nat) (st : Bool) (m : Option Meter) :
    (s.touchLine line st m).fleet = s.fleet := fleet_of_near (touchLine_near s line st m)

/-! ### The remote-data caches -/

@[simp] theorem State.reachHome_fleet (s : State) (d : Nat) (pas : List Nat) : (s.reachHome d pas).fleet = s.fleet := by
  unfold State.reachHome
  split <;> rfl

@[simp] theorem State.writeBackLine_fleet (s : State) (d : Nat) (l : RdcLine) :
    (s.writeBackLine d l).fleet = s.fleet := by
  unfold State.writeBackLine
  split <;> simp

@[simp] theorem State.writeBackList_fleet (l : List RdcLine) (s : State) (d : Nat) :
    (s.writeBackList d l).fleet = s.fleet := by
  induction l generalizing s with
  | nil => rfl
  | cons a l ih => exact (ih _).trans (State.writeBackLine_fleet s d a)

@[simp] theorem State.dropLines_fleet (s : State) (d : Nat) (sel : RdcLine → Bool) :
    (s.dropLines d sel).fleet = s.fleet := by
  unfold State.dropLines State.writeBackIf
  split
  · simp
  · rfl

@[simp] theorem State.releaseRdc_fleet (s : State) (c : Nat) (sc : Scope) : (s.releaseRdc c sc).fleet = s.fleet := by
  cases sc
  case dev | sys => exact State.writeBackList_fleet _ _ _
  all_goals rfl

@[simp] theorem State.acquireRdc_fleet (s : State) (c : Nat) (sc : Scope) : (s.acquireRdc c sc).fleet = s.fleet :=
  fleet_of_cores (congrArg State.cores (acquireRdc_acquires s c sc).rest :)

/-! ### Atomics at the home -/

@[simp] theorem State.syncWord_fleet (s : State) (pa : Nat) : (s.syncWord pa).fleet = s.fleet := by
  unfold State.syncWord
  dsimp only
  split <;> rfl

@[simp] theorem State.leaveRdcs_fleet (s : State) (pa : Nat) : (s.leaveRdcs pa).fleet = s.fleet :=
  foldl_leaves State.fleet _ (fun s d => State.dropLines_fleet s d _) _ s

@[simp] theorem State.homeEvents_fleet (s : State) (store : Bool) (pas l : List Nat) :
    (s.homeEvents store pas l).fleet = s.fleet := fleet_of_cores (homeEvents_cores l s store pas).1

@[simp] theorem State.atomic_fleet (s : State) (m : Option Meter) (pa : Nat) (w : AmoWork) :
    (s.atomic m pa w).1.fleet = s.fleet := by
  unfold State.atomic
  dsimp only
  split
  · simp
  · rw [fleet_of_near (wakeLines_near _ _)]
    simp

@[simp] theorem State.markEntry_fleet (s : State) (m : Option Meter) (addr set clear : Nat) :
    (s.markEntry m addr set clear).fleet = s.fleet := State.atomic_fleet _ _ _ _

/-! ### Bytes that an engine reads -/

@[simp] theorem State.roomRdc_fleet (s : State) (d : Nat) : (s.roomRdc d).fleet = s.fleet := by
  unfold State.roomRdc
  split
  · rfl
  · exact State.dropLines_fleet _ _ _

@[simp] theorem State.rdcOpen_fleet (s : State) (c pa : Nat) (un : Bool) : (s.rdcOpen c pa un).1.fleet = s.fleet := by
  unfold State.rdcOpen
  dsimp only
  split
  · split
    · exact State.writeBackLine_fleet _ _ _
    · rfl
  · exact State.roomRdc_fleet _ _

@[simp] theorem State.rdcFetchFor_fleet (s : State) (m : Option Meter) (c pa : Nat) (kind : OrderKind) :
    (s.rdcFetchFor m c pa kind).1.fleet = s.fleet := by
  unfold State.rdcFetchFor
  dsimp only
  split <;> simp

@[simp] theorem State.readByteFor_fleet (s : State) (m : Option Meter) (c pa : Nat) (kind : OrderKind) :
    (s.readByteFor m c pa kind).1.fleet = s.fleet := by
  unfold State.readByteFor
  split
  · exact State.rdcFetchFor_fleet _ _ _ _ _
  · dsimp only
    rw [State.touchLine_fleet]
    split
    · exact State.dropLines_fleet _ _ _
    · rfl

@[simp] theorem State.seeUn_fleet (s : State) (c : Nat) (st : Stream) (u : UnStore) (pa : Nat) :
    (s.seeUn c st u pa).fleet = s.fleet := by
  unfold State.seeUn
  dsimp only
  split
  · rfl
  · split
    · exact State.modStream_fleet _ _ _ _
    · split
      · rfl
      · exact State.modStream_fleet _ _ _ _

@[simp] theorem State.renewUn_fleet (s : State) (c pa n : Nat) : (s.renewUn c pa n).fleet = s.fleet := by
  unfold State.renewUn
  split
  · split
    · exact State.dropLines_fleet _ _ _
    · rfl
  · rfl

@[simp] theorem State.unView_fleet (s : State) (c : Nat) (st : Stream) (pas : List Nat) :
    (s.unView c st pas).1.fleet = s.fleet := by
  unfold State.unView
  split
  · rfl
  · split
    · rfl
    · dsimp only
      split
      · rfl
      · exact foldl_leaves State.fleet _ (fun s e => by rw [State.renewUn_fleet, State.seeUn_fleet]) _ _

@[simp] theorem State.readUn_fleet (s : State) (m : Option Meter) (c : Nat) (st : Stream) (pa : Nat) :
    (s.readUn m c st pa).1.fleet = s.fleet := by
  have hdrop (b : Bool) (sel : RdcLine → Bool) :
      (if b = true then s.dropLines (dieOf c) sel else s).fleet = s.fleet := by
    cases b
    · rfl
    · exact State.dropLines_fleet _ _ _
  unfold State.readUn
  dsimp only
  split
  · rw [State.seeUn_fleet, State.readByteFor_fleet, hdrop]
  · rw [State.readByteFor_fleet, hdrop]

@[simp] theorem State.readWith_fleet (s : State) (m : Option Meter) (c : Nat) (st : Stream) (pa : Nat)
    (kind : OrderKind) (view : List (Nat × Byte)) : (s.readWith m c st pa kind view).1.fleet = s.fleet := by
  unfold State.readWith
  split
  · split
    · exact State.readByteFor_fleet _ _ _ _ _
    · exact State.readUn_fleet _ _ _ _ _
  · exact State.readByteFor_fleet _ _ _ _ _

@[simp] theorem State.readFor_fleet (s : State) (m : Option Meter) (c : Nat) (st : Stream) (pa : Nat)
    (kind : OrderKind) : (s.readFor m c st pa kind).1.fleet = s.fleet := by
  unfold State.readFor
  rw [State.readWith_fleet, State.unView_fleet]

/-! ### Translation -/

@[simp] theorem State.joinWalk_fleet (s : State) (c who : Nat) (root : Word) (va : Nat) :
    (s.joinWalk c who root va).fleet = s.fleet := by
  unfold State.joinWalk
  dsimp only
  split
  · rfl
  · split <;> rfl

@[simp] theorem State.leaveWalksIf_fleet (s : State) (c who : Nat) (sel : Walk → Bool) :
    (s.leaveWalksIf c who sel).fleet = s.fleet := by
  unfold State.leaveWalksIf
  dsimp only
  split <;> rfl

@[simp] theorem State.leavePages_fleet (s : State) (c who asid : Nat) (vas : List Nat) :
    (s.leavePages c who asid vas).fleet = s.fleet := by
  unfold State.leavePages
  split
  · rfl
  · exact State.leaveWalksIf_fleet _ _ _ _

@[simp] theorem State.waitPage_fleet (s : State) (c who leaf page : Nat) :
    (s.waitPage c who leaf page).fleet = s.fleet := by
  unfold State.waitPage
  split <;> rfl

@[simp] theorem State.startPageIn_fleet (s : State) (m : Option Meter) (leaf : Nat) (ahead : Option Nat) :
    (s.startPageIn m leaf ahead).fleet = s.fleet :=
  (State.setPager_fleet _ _).trans (State.markEntry_fleet s m leaf (2 ^ 12) 0)

@[simp] theorem State.cachePage_fleet (s : State) (c : Nat) (e : TlbEntry) : (s.cachePage c e).fleet = s.fleet :=
  State.setCore_fleet { s with fresh := s.fresh + 1 } c _ rfl

@[simp] theorem State.markLeaf_fleet (s : State) (c : Nat) (root : Word) (k : AccessKind) (va : Nat) (l : Leaf) :
    (s.markLeaf c root k va l).fleet = s.fleet := by
  unfold State.markLeaf
  dsimp only
  rw [State.cachePage_fleet, State.markEntry_fleet]

@[simp] theorem State.await_fleet (s : State) (c who : Nat) (root : Word) (va : Nat) (l : Look) :
    (s.await c who root va l).fleet = s.fleet := by
  cases l <;> simp [State.await]

@[simp] theorem State.markLeaves_fleet (ms : List (Nat × Mapped × Option Leaf)) (s : State) (c : Nat) (root : Word)
    (k : AccessKind) : (s.markLeaves c root k ms).fleet = s.fleet := by
  induction ms generalizing s with
  | nil => rfl
  | cons e ms ih =>
    obtain ⟨va, m, l⟩ := e
    cases l with
    | none => exact ih s
    | some l =>
      simp only [State.markLeaves, ih]
      split
      · rfl
      · exact State.markLeaf_fleet _ _ _ _ _ _

@[simp] theorem State.translateList_fleet (s : State) (c who : Nat) (root : Word) (fw : Bool) (k : AccessKind)
    (shadow : Bool) (vas : List Nat) :
    ((s.translateList c who root fw k shadow vas).state s).fleet = s.fleet := by
  unfold State.translateList
  dsimp only
  split
  · rfl
  · exact State.await_fleet _ _ _ _ _ _
  · simp [TransAll.state]

@[simp] theorem State.translateAs_fleet (s : State) (c who : Nat) (root : Word) (fw : Bool) (k : AccessKind)
    (shadow : Bool) (va : Nat) :
    ((s.translateAs c who root fw k shadow va).state s).fleet = s.fleet := by
  have h := State.translateList_fleet s c who root fw k shadow [va]
  unfold State.translateAs
  split <;> rename_i heq <;> rw [heq] at h <;> exact h

section
variable {s t : State} {c who : Nat} {root : Word} {fw : Bool} {k : AccessKind} {shadow : Bool} {va : Nat}

theorem translateAs_ok_fleet {m : Mapped} (h : s.translateAs c who root fw k shadow va = .ok t m) :
    t.fleet = s.fleet := by
  simpa only [h, Trans.state] using State.translateAs_fleet s c who root fw k shadow va

theorem translateAs_wait_fleet (h : s.translateAs c who root fw k shadow va = .wait t) : t.fleet = s.fleet := by
  simpa only [h, Trans.state] using State.translateAs_fleet s c who root fw k shadow va

end

/-! ### Engines -/

@[simp] theorem State.noteCopyLine_fleet (s : State) (c id line : Nat) :
    (s.noteCopyLine c id line).fleet = s.fleet := by
  refine State.setCore_fleet s c _ ?_
  rw [List.map_map]
  refine List.map_congr_left (fun q _ => ?_)
  rw [Function.comp_apply]
  split <;> rfl

@[simp] theorem State.setCopy_fleet (s : State) (c : Nat) (cp : Copy) : (s.setCopy c cp).fleet = s.fleet := by
  refine State.setCore_fleet s c _ ?_
  rw [List.map_map]
  refine List.map_congr_left (fun q _ => ?_)
  rw [Function.comp_apply]
  split
  · exact Eq.symm ‹_›
  · rfl

theorem acquireSo_fleet (s : State) (c : Nat) (kind : OrderKind) :
    (if kind = .so then s.acquireRdc c .sys else s).fleet = s.fleet := by
  split
  · exact State.acquireRdc_fleet _ _ _
  · rfl

theorem noteNewLine_fleet (s : State) (c id line : Nat) (again : Bool) :
    (if again = true then s else s.noteCopyLine c id line).fleet = s.fleet := by
  split
  · rfl
  · exact State.noteCopyLine_fleet _ _ _ _

@[simp] theorem State.engineRead_fleet (s : State) (c : Nat) (cp : Copy) (a : Nat) :
    (s.engineRead c cp a).1.fleet = s.fleet := by
  unfold State.engineRead State.translate
  split
  · dsimp only
    split
    · rfl
    · split <;> rfl
  · split
    case h_1 t h => exact translateAs_wait_fleet h
    case h_2 => rfl
    case h_3 t m h =>
      split
      · exact translateAs_ok_fleet h
      · refine Eq.trans ?_ (translateAs_ok_fleet h)
        dsimp only
        rw [acquireSo_fleet, noteNewLine_fleet, State.readFor_fleet, acquireSo_fleet]

@[simp] theorem State.sourceByte_fleet (s : State) (c : Nat) (cp : Copy) (e : Nat × Nat) :
    (s.sourceByte c cp e).1.fleet = s.fleet := by
  unfold State.sourceByte
  split
  · rfl
  · split
    · rfl
    · exact State.engineRead_fleet _ _ _ _

@[simp] theorem State.engineReads_fleet (l : List (Nat × Nat)) (s : State) (c : Nat) (cp : Copy) :
    (s.engineReads c cp l).1.fleet = s.fleet := by
  induction l generalizing s with
  | nil => rfl
  | cons e l ih => exact (ih _).trans (State.sourceByte_fleet s c cp e)

@[simp] theorem State.engineDestMem_fleet (s : State) (c : Nat) (cp : Copy) (a : Nat) :
    (s.engineDestMem c cp a).1.fleet = s.fleet := by
  unfold State.engineDestMem
  dsimp only
  split
  · rfl
  · split
    case h_1 t h => exact translateAs_wait_fleet h
    case h_2 => rfl
    case h_3 t m h => exact translateAs_ok_fleet h

@[simp] theorem State.engineDests_fleet (l : List Nat) (s : State) (c : Nat) (cp : Copy) :
    (s.engineDests c cp l).1.fleet = s.fleet := by
  induction l generalizing s with
  | nil => rfl
  | cons a l ih =>
    simp only [State.engineDests, ih]
    split
    · rfl
    · split
      · rfl
      · exact State.engineDestMem_fleet _ _ _ _

end Sys2Proof.Machine

end

/-! The status words of copies that have left flight (R194, R204). -/

section

namespace Sys2Proof.Machine

/-! ### What a semaphore's waiters leave of the status words -/

/-- The status words that the streams have of their tokens. -/
def State.statuses (s : State) (c : Nat) (st : Stream) : Tbl Word := (s.stream c st).tokenLast

theorem State.setCore_statuses (s : State) (c : Nat) (k : Core)
    (h : ∀ st, (k.stream st).tokenLast = (s.stream c st).tokenLast) : (s.setCore c k).statuses = s.statuses :=
  funext (fun d => State.forall_core_setCore (p := fun d k => (fun st => (k.stream st).tokenLast) = s.statuses d)
    (funext h) (fun _ _ => rfl) d)

theorem State.setStream_statuses (s : State) (c : Nat) (st : Stream) (t : StreamState)
    (h : t.tokenLast = (s.stream c st).tokenLast) : (s.setStream c st t).statuses = s.statuses := by
  refine State.setCore_statuses s c _ (fun u => ?_)
  rw [Core.stream_setStream_if]
  split
  · rw [h, ‹u = st›]
  · rfl

theorem State.modStream_statuses (s : State) (c : Nat) (st : Stream) (g : StreamState → StreamState)
    (h : (g (s.stream c st)).tokenLast = (s.stream c st).tokenLast) : (s.modStream c st g).statuses = s.statuses :=
  State.setStream_statuses s c st _ h

theorem statuses_of_told {s t : State} (h : ∀ c st, (t.stream c st).told = (s.stream c st).told) :
    t.statuses = s.statuses :=
  funext (fun c => funext (fun st => (congrArg StreamState.tokenLast (h c st) :)))

theorem Ctx.result_statuses (x : Ctx) (s : State) (lat : Nat) (es : List Effect) :
    (x.result s lat es).statuses = s.statuses := State.setCore_statuses s x.c _ (fun _ => rfl)

theorem Ctx.locked_statuses (x : Ctx) (s : State) (lat : Nat) (es : List Effect) :
    (x.locked s lat es).statuses = s.statuses := State.setCore_statuses s x.c _ (fun _ => rfl)

theorem Ctx.sequence_statuses (x : Ctx) (s : State) (flow : Flow) : (x.sequence s flow).statuses = s.statuses := by
  unfold Ctx.sequence
  dsimp only
  generalize (if isTransfer x.o && !x.bh then 2 else (s.stream x.c x.st).slotsLeft - 1) = slots
  generalize loopEnd _ _ _ = e
  split
  · split
    · split
      · exact (State.setStream_statuses _ _ _ _ (by rw [State.stream_result])).trans (Ctx.result_statuses x s 1 _)
      · exact State.setStream_statuses _ _ _ _ rfl
    · exact State.setStream_statuses _ _ _ _ rfl
  · cases flow with
    | jump a leaves => cases leaves <;> dsimp only <;> split <;> exact State.setStream_statuses _ _ _ _ rfl
    | skip a => exact State.setStream_statuses _ _ _ _ rfl
    | seq =>
      dsimp only
      split
      · exact State.setStream_statuses _ _ _ _ rfl
      · exact (Ctx.result_statuses x _ 1 _).trans (State.setStream_statuses _ _ _ _ rfl)

theorem Ctx.finish_statuses (x : Ctx) (s : State) (flow : Flow) (ran : Bool) :
    (x.finish s flow ran).statuses = s.statuses := by
  have hside : (if ran = true then x.sideOp s else s).statuses = s.statuses := by
    split
    · exact funext (fun c => funext (fun st => by rw [State.statuses, sideOp_stream]; rfl))
    · rfl
  unfold Ctx.finish
  dsimp only
  rw [State.modStream_statuses _ _ _ _ rfl, Ctx.sequence_statuses, statuses_of_told (pushBundle_told _ _ _ _), hside]

theorem State.completeSemw_statuses (s : State) (c old : Nat) : (s.completeSemw c old).statuses = s.statuses := by
  unfold State.completeSemw State.completeHeld
  split
  · rfl
  · dsimp only
    rw [Ctx.finish_statuses, Ctx.locked_statuses]
    exact State.setCore_statuses _ _ _ (fun _ => rfl)

theorem State.serve_statuses (s : State) (c n fuel : Nat) : (s.serve c n fuel).statuses = s.statuses := by
  induction fuel generalizing s with
  | zero => rfl
  | succ fuel ih =>
    simp only [State.serve]
    split
    · split
      · rw [ih, State.completeSemw_statuses]
        exact State.setCore_statuses _ _ _ (fun _ => rfl)
      · rfl
    · rfl

theorem State.semAdd_statuses (s : State) (c n v : Nat) : (s.semAdd c n v).statuses = s.statuses :=
  (State.serve_statuses _ _ _ _).trans (State.setCore_statuses _ _ _ (fun _ => rfl))

/-! ### The status of a copy that has left flight -/

/-- The state of a status word (Table 8.1). -/
theorem statusWord_state {state cause : Nat} (hs : state < 4) (hc : cause < 256) (sovf haddr started : Bool)
    (addr : Nat) : (statusWord state cause sovf haddr started addr).toNat / 2 ^ 62 = state := by
  have hbit (b : Bool) (n : Nat) : (if b = true then 2 ^ n else 0) ≤ 2 ^ n := by
    split
    · exact Nat.le_refl _
    · exact Nat.zero_le _
  have h53 := hbit sovf 53
  have h52 := hbit haddr 52
  have h51 := hbit started 51
  have ha : addr % 2 ^ 48 < 2 ^ 48 := Nat.mod_lt _ (by decide)
  rw [statusWord, BitVec.toNat_ofNat]
  dsimp only
  omega

theorem State.writeStatus_status (s : State) (c : Nat) (st : Stream) {n : Nat} (v : Word) (sc : Scope) (hn : n ≠ 0) :
    Tbl.get 0 ((s.writeStatus c st n v sc).statuses c st) n = v := by
  unfold State.writeStatus State.statuses
  rw [State.stream_modStream]
  dsimp only
  rw [if_neg hn, Tbl.get_set_same]

/-- A copy that leaves flight has its state in the status of its token (R194, R204). -/
theorem State.leaveFlight_state {s : State} {c : Nat} {cp : Copy} {state cause : Nat} (haddr : Bool) (addr : Nat)
    (hs : state < 4) (hc : cause < 256) (hn : cp.token ≠ 0) :
    (Tbl.get 0 ((s.leaveFlight c cp state cause haddr addr).statuses c cp.st) cp.token).toNat / 2 ^ 62 = state := by
  unfold State.leaveFlight
  dsimp only
  split
  · rw [State.semAdd_statuses, State.writeStatus_status _ _ _ _ _ hn, statusWord_state hs hc]
  · rw [State.writeStatus_status _ _ _ _ _ hn, statusWord_state hs hc]

/-! ### The end of a copy (R204, R205) -/

/-- A copy is in flight still, or has left it with done or failed in the status of its token. -/
def State.Ended (s : State) (c : Nat) (cp : Copy) : Prop :=
  cp.id ∈ s.fleet c ∨
    (cp.token ≠ 0 → (Tbl.get 0 (s.statuses c cp.st) cp.token).toNat / 2 ^ 62 ∈ [1, 2])

theorem State.Ended.done (s : State) (c : Nat) (cp : Copy) (n : Nat) :
    (s.leaveFlight c cp 1 0 false n).Ended c cp :=
  .inr (fun hn => by rw [State.leaveFlight_state _ _ (by decide) (by decide) hn]; decide)

theorem State.Ended.failed (s : State) (c : Nat) (cp : Copy) (f : EngineFail) : (s.failCopy c cp f).Ended c cp :=
  .inr (fun hn => by rw [State.failCopy, State.leaveFlight_state _ _ (by decide) (causeCode_lt _) hn]; decide)

/-- A copy under which more of its list is read is the same one. -/
theorem Copy.readList_same (cp : Copy) (k : Core) (enough n : Nat) :
    (cp.readList k enough n).1.id = cp.id ∧ (cp.readList k enough n).1.st = cp.st ∧
      (cp.readList k enough n).1.token = cp.token := by
  induction n generalizing cp with
  | zero => exact ⟨rfl, rfl, rfl⟩
  | succ n ih =>
    unfold Copy.readList
    split
    · exact ⟨rfl, rfl, rfl⟩
    · split
      · exact ⟨rfl, rfl, rfl⟩
      · exact ih _

theorem State.Ended.of_readList {s : State} {c : Nat} {cp : Copy} {k : Core} {enough n : Nat}
    (h : s.Ended c (cp.readList k enough n).1) : s.Ended c cp := by
  obtain ⟨hid, hst, htok⟩ := cp.readList_same k enough n
  rwa [State.Ended, hid, hst, htok] at h

theorem State.endQueueCopy_ended {s : State} {c : Nat} {cp : Copy} (h : cp.id ∈ s.fleet c) :
    (s.endQueueCopy c cp).Ended c cp := by
  unfold State.endQueueCopy
  split
  · exact .failed _ _ _ _
  · refine State.Ended.of_readList (k := s.core c) (enough := cp.done) (n := cp.sc.toNat) ?_
    obtain ⟨hid, -, -⟩ := cp.readList_same (s.core c) cp.done cp.sc.toNat
    dsimp only
    split
    · exact .failed _ _ _ _
    · split
      · exact .done _ _ _ _
      · exact .inl (by rwa [State.setCopy_fleet, hid])

theorem State.endPlainCopy_ended {s : State} {c : Nat} {cp : Copy} (h : cp.id ∈ s.fleet c) :
    (s.endPlainCopy c cp).Ended c cp := by
  unfold State.endPlainCopy State.orderCopy
  refine State.Ended.of_readList (k := s.core c) (enough := 2 ^ 31) (n := cp.sc.toNat) ?_
  obtain ⟨hid, -, -⟩ := cp.readList_same (s.core c) (2 ^ 31) cp.sc.toNat
  dsimp only
  split
  · refine .inl ?_
    rwa [State.setCopy_fleet, State.engineDests_fleet, State.engineReads_fleet, State.releaseRdc_fleet, hid]
  · split
    · exact .failed _ _ _ _
    · exact .done _ _ _ _

theorem State.endCopy_ended {s : State} {c : Nat} {cp : Copy} (h : cp.id ∈ s.fleet c) :
    (s.endCopy c cp).Ended c cp := by
  unfold State.endCopy
  split
  · split
    · exact State.endQueueCopy_ended h
    · exact State.endPlainCopy_ended h
  · exact .inl h

theorem copyById_ne_none_iff {s : State} {c id : Nat} : (s.core c).copyById id ≠ none ↔ id ∈ s.fleet c := by
  simp [Core.copyById, State.fleet]

end Sys2Proof.Machine

end

/-! Results that land leave no result that was due in flight (R49, R212, R248). -/

section

namespace Sys2Proof.Machine

/-- When each result in flight of a core lands, and whether it is the matrix unit's. -/
def State.landings (s : State) (c : Nat) : List (Nat × Bool) := (s.core c).flight.map (fun l => (l.tick, l.matrix))

theorem Core.setSpecial_flight (k : Core) (n : Nat) (v : Word) : (k.setSpecial n v).flight = k.flight := by
  unfold Core.setSpecial
  dsimp only
  split <;> rfl

theorem Core.apply_flight (k : Core) (tick : Nat) (e : Effect) : (k.apply tick e).flight = k.flight := by
  cases e with
  | special n v => exact k.setSpecial_flight n v
  | framePc st => cases st <;> rfl
  | pb n vals kind pn tags => cases n <;> rfl
  | pbZero n => cases n <;> rfl
  | eparam bytes reset => cases reset <;> rfl
  | epiOut bytes reset => cases reset <;> rfl
  | sag second v => cases second <;> rfl
  | _ => rfl

theorem foldl_apply_flight (es : List Effect) (k : Core) (tick : Nat) :
    (es.foldl (fun k e => k.apply tick e) k).flight = k.flight := by
  induction es generalizing k with
  | nil => rfl
  | cons e es ih => exact (ih _).trans (k.apply_flight tick e)

theorem State.setCore_landings (s : State) (c : Nat) (k : Core)
    (h : k.flight.map (fun l => (l.tick, l.matrix)) = s.landings c) : (s.setCore c k).landings = s.landings :=
  funext (fun d => State.forall_core_setCore
    (p := fun d k => k.flight.map (fun l => (l.tick, l.matrix)) = s.landings d) h (fun _ _ => rfl) d)

theorem State.claimBerth_landings (s : State) (c n : Nat) : (s.claimBerth c n).landings = s.landings :=
  funext (fun d => (congrArg (fun k : Core => k.flight.map (fun l => (l.tick, l.matrix)))
    ((claimBerth_holdsIn s c n).cores d) :))

theorem State.holdStore_landings (bs : List Byte) (s : State) (c : Nat) (st : Stream) (off : Nat) :
    (s.holdStore c st off bs).landings = s.landings := by
  induction bs generalizing s off with
  | nil => rfl
  | cons b bs ih =>
    refine ((ih _ _).trans ?_).trans (s.claimBerth_landings c (off / 65536))
    split
    · rfl
    · split
      · rfl
      · exact State.setCore_landings _ _ _ rfl

theorem State.landOne_landings (s : State) (c : Nat) (l : Landing) : (s.landOne c l).landings = s.landings := by
  have hreads (t : State) : (if l.isEpiOut then t.modCore c (fun k =>
      { k with flight := k.flight.map (fun m => if m.st = l.st then { m with reads := none } else m) }) else
        t).landings = t.landings := by
    split
    · refine State.setCore_landings t c _ ?_
      rw [List.map_map]
      refine List.map_congr_left (fun m _ => ?_)
      rw [Function.comp_apply]
      split <;> rfl
    · rfl
  have hlength (t : State) (e : Effect) : (t.applyLength e).landings = t.landings := by
    unfold State.landings State.core
    rw [State.applyLength_cores]
  unfold State.landOne
  dsimp only
  refine (State.setCore_landings _ c _ (by rw [foldl_apply_flight]; rfl)).trans ?_
  rw [foldl_leaves State.landings _ hlength, hreads,
    foldl_leaves State.landings _ (fun s e => State.holdStore_landings _ _ _ _ _)]

theorem State.landList_landings (ls : List Landing) (s : State) (c : Nat) :
    (s.landList c ls).landings = s.landings := by
  rw [State.landList_eq]
  exact foldl_leaves State.landings _ (fun s l => State.landOne_landings s c l) ls s

/-- What is in flight after the results that are due have landed is due later. -/
theorem State.landDue_flight {s : State} {c : Nat} {sel : Landing → Bool} {l : Landing}
    (h : l ∈ ((s.landDue c sel).core c).flight) (hsel : ∀ m : Landing, m.matrix = l.matrix → sel m = true) :
    s.tickOf c < l.tick := by
  have hl : (l.tick, l.matrix) ∈ (s.landDue c sel).landings c := List.mem_map_of_mem h
  unfold State.landDue at hl
  dsimp only at hl
  rw [State.landList_landings, State.landings, State.core_setCore] at hl
  obtain ⟨m, hm, he⟩ := List.mem_map.1 hl
  obtain ⟨htick, hmatrix⟩ := Prod.mk.inj he
  have hlate := (List.mem_filter.1 hm).2
  rw [hsel m hmatrix, htick] at hlate
  simpa using hlate

end Sys2Proof.Machine

end

/-! The events of a core (R88, R89, R141, R142, R163, R183 to R185, R194, R200, R204, R212, R248, R262, R287, R329,
R331, R340). -/

section

namespace Sys2Proof.Machine

/-! ### Free choices -/

/-- A choice from a list that is not empty is one of its members, and uses up one free value at most. -/
theorem State.choose_of_ne_nil {α : Type} (s : State) {l : List α} (h : l ≠ []) :
    ∃ a ∈ l, ∃ n ≤ 1, s.choose l = (some a, { s with fresh := s.fresh + n }) := by
  obtain _ | ⟨a, _ | ⟨b, l⟩⟩ := l
  · exact absurd rfl h
  · exact ⟨a, List.mem_singleton_self a, 0, by decide, rfl⟩
  · have hi : Config.freePick s.fresh % (a :: b :: l).length < (a :: b :: l).length := Nat.mod_lt _ (Nat.succ_pos _)
    exact ⟨_, List.getElem_mem hi, 1, Nat.le_refl 1, congrArg (fun e => (e, { s with fresh := s.fresh + 1 }))
      (List.getElem?_eq_getElem hi)⟩

section
variable {s : State} {c : Nat}

theorem deadlocked_of_blocked {k : Core} (hr : ∃ st, (k.stream st).run = true)
    (hb : ∀ st, (k.stream st).run = true → k.blocked st (k.stream st).wait = true) : k.deadlocked = true := by
  obtain ⟨st, hst⟩ := hr
  have hmem (u : Stream) : u ∈ k.running ↔ (k.stream u).run = true := by
    cases u <;> simp [Core.running, streams]
  have hne : k.running.isEmpty = false := List.isEmpty_eq_false_iff.2 (List.ne_nil_of_mem ((hmem st).2 hst))
  have hall : k.running.all (fun u => k.blocked u (k.stream u).wait) = true :=
    List.all_eq_true.2 (fun u hu => hb u ((hmem u).1 hu))
  rw [Core.deadlocked, hne, hall]
  rfl

/-! ### The events, each where its condition holds -/

section
variable (hc : c < coreCount)
include hc

theorem crewDeadlock_delivers (hd : (s.core c).deadlocked = true)
    (hm : s.mustDefer c { cause := .crewDeadlock, async := true } = false) :
    exec (.crewDeadlock c) s = .next (s.raise c .P { cause := .crewDeadlock, async := true }) := by
  show execCrewDeadlock c s = _
  simp only [execCrewDeadlock, if_pos hc, hd, hm, Bool.not_false, Bool.and_self, if_true]

section
variable {st : Stream} {seq : Nat} {l : PLoad}
  (hf : (s.core c).loads.find? (fun m => m.st == st && m.seq == seq) = some l) (hp : s.promotionOpen c seq = false)
include hf hp

theorem loadDataLanding_performs (hne : l.parts ≠ []) (hq : s.loadPieces c l ≠ []) :
    ∃ q ∈ s.loadPieces c l, ∃ n ≤ 1,
      exec (.loadDataLanding c st seq) s = .next (({ s with fresh := s.fresh + n } : State).loadPiece c l q) := by
  obtain ⟨q, hmem, n, hn, he⟩ := s.choose_of_ne_nil hq
  refine ⟨q, hmem, n, hn, ?_⟩
  show execLoadDataLanding c st seq s = _
  simp only [execLoadDataLanding, if_pos hc, hf, hp, List.isEmpty_eq_false_iff.2 hne, he, Bool.false_eq_true, if_false]

theorem loadDataLanding_finishes (hnil : l.parts = []) (hr : s.loadReady c l = true) :
    exec (.loadDataLanding c st seq) s = .next (s.finishLoad c l) := by
  show execLoadDataLanding c st seq s = _
  simp only [execLoadDataLanding, if_pos hc, hf, hp, hnil, hr, List.isEmpty_nil, Bool.false_eq_true, if_false, if_true]

end

theorem storePerformed_performs {st : Stream} {seq : Nat} {y : PStore}
    (hf : (s.core c).stores.find? (fun m => m.st == st && m.seq == seq) = some y) (hq : (s.core c).storePieces y ≠ []) :
    ∃ q ∈ (s.core c).storePieces y, ∃ n ≤ 1,
      exec (.storePerformed c st seq) s = .next (({ s with fresh := s.fresh + n } : State).storePiece c y q) := by
  obtain ⟨q, hmem, n, hn, he⟩ := s.choose_of_ne_nil hq
  refine ⟨q, hmem, n, hn, ?_⟩
  show execStorePerformed c st seq s = _
  simp only [execStorePerformed, if_pos hc, hf, he]

theorem memUncorr_delivers {st : Stream} {a b d : Nat} {rest : List (Nat × Nat × Nat)}
    (hu : (s.stream c st).uncorr = (a, b, d) :: rest) (hi : (s.core c).inh = true → st = .P) (hg : s.gated = false) :
    exec (.memUncorr c st) s = .next (s.deliverUncorr c st a b d) := by
  have hinh : ((s.core c).inh && st != .P) = false := by
    cases h : (s.core c).inh
    · rfl
    · rw [hi h]
      rfl
  show execMemUncorr c st s = _
  simp only [execMemUncorr, if_pos hc, hu, hg, hinh, Bool.or_self, Bool.false_eq_true, if_false]

/-! ### Widenings (R183 to R185) -/

section
variable {n t : Nat}

theorem promotionRequest_ends (hw : (s.core c).widening = some (n, t))
    (hr : ∀ e ∈ (s.core c).log.take n, (s.core c).released e = true) :
    exec (.promotionRequest c) s = .next (s.endWidening c n) := by
  show execPromotionRequest c s = _
  simp only [execPromotionRequest, if_pos hc, hw, List.all_eq_true.2 hr, if_true]

theorem promotionRequest_joins (hw : (s.core c).widening = some (n, t))
    (hr : ∃ e ∈ (s.core c).log.take n, (s.core c).released e = false)
    (ha : ∃ r ∈ (s.core c).requests, r.covers = none) :
    exec (.promotionRequest c) s = .next (s.setCore c { s.core c with
      requests := arriveFirst (s.core c).log.length true (s.core c).requests }) := by
  have hall : ((s.core c).log.take n).all (s.core c).released = false := by simpa using hr
  have hany : (s.core c).requests.any (fun r => r.covers == none) = true := by simpa using ha
  show execPromotionRequest c s = _
  simp only [execPromotionRequest, if_pos hc, hw, hall, hany, Option.isSome_some, Bool.false_eq_true, if_false, if_true]

theorem promotionRequest_starts (hw : (s.core c).widening = none) (ha : ∃ r ∈ (s.core c).requests, r.covers = none) :
    exec (.promotionRequest c) s = .next ((s.setCore c { s.core c with
      requests := arriveFirst (s.core c).log.length false (s.core c).requests }).startWidening c
        (s.core c).log.length) := by
  have hany : (s.core c).requests.any (fun r => r.covers == none) = true := by simpa using ha
  show execPromotionRequest c s = _
  simp only [execPromotionRequest, if_pos hc, hw, hany, Option.isSome_none, if_true]

theorem wideningWaitBound_reached (hw : (s.core c).widening = some (n, t)) (ht : t + 2000 ≤ s.timeOf c) :
    exec (.wideningWaitBound c) s = .next (s.modCore c (fun k => { k with wideBound := true })) := by
  show execWideningWaitBound c s = _
  simp only [execWideningWaitBound, if_pos hc, hw, if_pos ht]

end

/-! ### Copies (R200, R204, R262) -/

section
variable {id : Nat} {cp : Copy} (hf : (s.core c).copyById id = some cp)
include hf

theorem onCopy_found (go : Copy → State) : onCopy c id s go = .next (go cp) := by
  simp only [onCopy, if_pos hc, hf]

theorem copyStart_starts (hd : cp.isDrain = false) (hm : s.copyMayStart c cp = true) :
    exec (.copyStart c id) s = .next (s.startCopy c cp) := by
  show execCopyStart c id s = _
  simp only [execCopyStart, onCopy_found hc hf, hd, hm, Bool.not_false, Bool.and_self, if_true]

theorem drainStart_starts (hd : cp.isDrain = true) (hm : s.copyMayStart c cp = true) :
    exec (.drainStart c id) s = .next (s.startCopy c cp) := by
  show execDrainStart c id s = _
  simp only [execDrainStart, onCopy_found hc hf, hd, hm, Bool.and_self, if_true]

theorem copyEntryDelivery_delivers {q : Nat} (hq : cp.queue = some q) (hm : s.mayDeliver c cp q = true) :
    exec (.copyEntryDelivery c id) s = .next (s.deliverEntry c cp q) := by
  show execCopyEntryDelivery c id s = _
  simp only [execCopyEntryDelivery, onCopy_found hc hf, hq, hm, if_true]

theorem copyEnd_ends : exec (.copyEnd c id) s = .next (s.endCopy c cp) := onCopy_found hc hf _

end

/-! ### Results (R49, R248) -/

theorem resultLanding_lands : exec (.resultLanding c) s = .next (s.landDue c (fun l => !l.matrix)) := if_pos hc

theorem matrixLanding_lands : exec (.matrixLanding c) s = .next (s.landDue c (fun l => l.matrix)) := if_pos hc

/-! ### Mail, lines and warnings (R287, R329, R331, R340) -/

theorem mailboxArrival_enters (hg : s.gated = false) (hm : ∃ m ∈ (s.core c).mail, s.mailReady c m = true) :
    ∃ m ∈ (s.core c).mail, s.mailReady c m = true ∧
      exec (.mailboxArrival c) s = .next ({ s with fresh := s.fresh + 1 }.arrive c m) := by
  obtain ⟨m₀, hmem, hready⟩ := hm
  have hpos : 0 < ((s.core c).mail.filter (s.mailReady c)).length :=
    List.length_pos_of_mem (List.mem_filter.2 ⟨hmem, hready⟩)
  have hi := Nat.mod_lt (Config.freePick s.fresh) hpos
  obtain ⟨hin, hr⟩ := List.mem_filter.1 (List.getElem_mem hi)
  refine ⟨_, hin, hr, ?_⟩
  show execMailboxArrival c s = _
  simp only [execMailboxArrival, hg, if_pos hc, List.getElem?_eq_getElem hi, Bool.false_eq_true, if_false]

theorem meteredLine_meters (ended : Bool) :
    exec (.meteredLine c ended) s = .next (if s.gated = true then s else
      (s.lines.filter (s.lineOf c ended)).foldl (fun w m => w.meterTo (some m))
        { s with lines := s.lines.filter (fun m => !s.lineOf c ended m) }) := by
  show execMeteredLine c ended s = _
  rw [execMeteredLine, if_pos hc]
  exact (apply_ite Host.Outcome.next _ _ _).symm

section
variable (hl : (s.core c).loading = none) (hg : s.gated = false)
include hl hg

theorem throttleWarn_delivers (hi : (s.core c).inh = false)
    (hw : (s.core c).warnDue = true ∨ (s.core c).warnHeld = true) :
    exec (.throttleWarn c) s = .next (s.deliverWarn c) := by
  have hwarn : ((s.core c).warnDue || (s.core c).warnHeld) = true := by simpa using hw
  show execThrottleWarn c s = _
  simp only [execThrottleWarn, if_pos hc, hl, hg, hi, hwarn, Option.isSome_none, Bool.or_self, Bool.false_and,
    Bool.not_false, Bool.and_self, Bool.false_eq_true, if_false, if_true]

theorem throttleWarn_holds (hi : (s.core c).inh = true) (hw : (s.core c).warnDue = true) :
    exec (.throttleWarn c) s = .next (s.holdWarn c) := by
  show execThrottleWarn c s = _
  simp only [execThrottleWarn, if_pos hc, hl, hg, hi, hw, Option.isSome_none, Bool.or_self, Bool.and_self,
    Bool.false_eq_true, if_false, if_true]

end

/-! ### P's held operations (R317, R322, R386) -/

section
variable {w : HeldBundle}

omit hc in
theorem State.resumeHeld_resumes {o : Op} (hh : (s.core c).held = some (o, w)) (hw : s.waitsIn c o = true)
    (body : Ctx → State → Res) :
    s.resumeHeld c o body = (w.ctx o c (s.tickOf c)).conclude (body (w.ctx o c (s.tickOf c)) s) := by
  simp only [State.resumeHeld, hh, hw, if_true]

theorem idleTickLimit_resumes (hh : (s.core c).held = some (.idle, w)) (hw : s.waitsIn c .idle = true) :
    exec (.idleTickLimit c) s =
      .next ((w.ctx .idle c (s.tickOf c)).conclude (idleBody (w.ctx .idle c (s.tickOf c)) s)) := by
  show execIdleTickLimit c s = _
  rw [execIdleTickLimit, if_pos hc, State.resumeHeld_resumes hh hw]

theorem nextRelease_resumes (hh : (s.core c).held = some (.ttrel, w)) (hw : s.waitsIn c .ttrel = true) :
    exec (.nextRelease c) s =
      .next ((w.ctx .ttrel c (s.tickOf c)).conclude (ttrelBody (w.ctx .ttrel c (s.tickOf c)) s)) := by
  show execNextRelease c s = _
  rw [execNextRelease, if_pos hc, State.resumeHeld_resumes hh hw]

theorem waitbExpiry_resumes (hh : (s.core c).held = some (.waitb, w)) (hw : s.waitsIn c .waitb = true)
    (ht : w.f.imm.toNat ≤ s.tickOf c - (s.stream c .P).waitStart.getD (s.tickOf c)) :
    exec (.waitbExpiry c) s =
      .next ((w.ctx .waitb c (s.tickOf c)).conclude (waitbBody (w.ctx .waitb c (s.tickOf c)) s)) := by
  show execWaitbExpiry c s = _
  simp only [execWaitbExpiry, if_pos hc, hh, if_pos ht, State.resumeHeld_resumes hh hw]

end
end

/-! ### What a start and an end make of a copy (R194, R204) -/

/-- A start that waits for no semaphore marks its copy and no other. -/
theorem State.startCopy_copies {cp : Copy} (hw : cp.wsem = false) (hd : cp.isDrain = false) :
    ((s.startCopy c cp).core c).copies = (s.core c).copies.map (fun q =>
      if q.id = cp.id then { cp with started := true, shadow := s.shadowSlots c cp } else q) := by
  have hcount (slots : List Nat) (t : State) : (t.countShadow slots true).core c = t.core c := by
    unfold State.countShadow
    refine foldl_leaves (fun t => t.core c) _ ?_ slots t
    exact fun _ _ => rfl
  simp only [State.startCopy, hw, hd, Bool.false_eq_true, if_false, hcount, State.core_setCore]

theorem State.endCopy_unstarted {cp : Copy} (h : cp.started = false) : s.endCopy c cp = s := by
  rw [State.endCopy, h, Bool.false_and]
  rfl

/-- A copy that has left flight has done or failed in the status of its token. -/
theorem State.endCopy_status {id : Nat} {cp : Copy} (hf : (s.core c).copyById id = some cp)
    (hn : ((s.endCopy c cp).core c).copyById cp.id = none) (ht : cp.token ≠ 0) :
    (Tbl.get 0 ((s.endCopy c cp).stream c cp.st).tokenLast cp.token).toNat / 2 ^ 62 ∈ [1, 2] := by
  have hin : cp.id ∈ s.fleet c := List.mem_map_of_mem (List.mem_of_find?_eq_some hf)
  obtain hstays | hends := State.endCopy_ended hin
  · exact absurd hn (copyById_ne_none_iff.2 hstays)
  · exact hends ht

end

/-- Settles O43: each event under its condition, a landing by the landings that it leaves in flight, and a copy that has
ended by the state that left it. -/
theorem coreEvents : Obligations.CoreEvents := by
  unfold Obligations.CoreEvents
  intro s c hc
  dsimp only
  refine ⟨fun hr hb hm => ?_, fun st seq l hf hp => ?_, fun st seq y hf hq => ?_, fun st a b d rest hu hi hg => ?_,
    fun n t hw hr => ?_, fun n t hw hr ha => ?_, fun hw ha => ?_, fun n t hw ht => ?_, fun id cp hf => ?_, ⟨?_, ?_⟩,
    ⟨?_, ?_⟩, ?_, ?_, fun hl hg hi hw => ?_, fun hl hg hi hw => ?_, fun w hh hw => ?_, fun w hh hw => ?_,
    fun w hh hw ht => ?_⟩
  · exact crewDeadlock_delivers hc (deadlocked_of_blocked hr hb) hm
  · exact ⟨loadDataLanding_performs hc hf hp, loadDataLanding_finishes hc hf hp⟩
  · exact storePerformed_performs hc hf hq
  · exact memUncorr_delivers hc hu hi hg
  · exact promotionRequest_ends hc hw hr
  · exact promotionRequest_joins hc hw hr ha
  · exact promotionRequest_starts hc hw ha
  · exact wideningWaitBound_reached hc hw ht
  · exact ⟨copyStart_starts hc hf, drainStart_starts hc hf, fun q hq hm => copyEntryDelivery_delivers hc hf hq hm,
      copyEnd_ends hc hf, State.startCopy_copies, State.endCopy_unstarted, State.endCopy_status hf⟩
  · exact resultLanding_lands hc
  · exact fun l hl hm => State.landDue_flight hl (fun m h => by rw [h, hm]; rfl)
  · exact matrixLanding_lands hc
  · exact fun l hl hm => State.landDue_flight hl (fun m h => by rw [h, hm])
  · exact mailboxArrival_enters hc
  · exact meteredLine_meters hc
  · exact throttleWarn_delivers hc hl hg hi hw
  · exact throttleWarn_holds hc hl hg hi hw
  · exact idleTickLimit_resumes hc hh hw
  · exact nextRelease_resumes hc hh hw
  · exact waitbExpiry_resumes hc hh hw ht

end Sys2Proof.Machine

end

/-! Scalar, address and predicate instructions (R93 to R111). -/

section

namespace Sys2Proof

/-! ### The arithmetic of bit fields (R2, R7, R8) -/

theorem Typ.width_pos (t : Typ) : 0 < t.width := by cases t <;> decide

/-- sext of R7 is the two's complement reading of a bit vector. -/
theorem sextInt_eq_toInt {w : Nat} (hw : 0 < w) (v : Nat) : sextInt v w = (BitVec.ofNat w v).toInt := by
  have hpow : 2 ^ w = 2 * 2 ^ (w - 1) := by rw [← pow_succ', Nat.sub_add_cancel hw]
  simp only [sextInt, BitVec.toInt_eq_toNat_cond, BitVec.toNat_ofNat, hpow, Nat.mul_lt_mul_left (by decide : 0 < 2)]

theorem lowBits_eq_toNat (v : Int) (w : Nat) : lowBits v w = (BitVec.ofInt w v).toNat :=
  (BitVec.toNat_ofInt v).symm

theorem bits_testBit (v lo len i : Nat) : (bits v lo len).testBit i = (decide (i < len) && v.testBit (lo + i)) := by
  rw [bits, Nat.testBit_mod_two_pow, Nat.testBit_div_two_pow, Nat.add_comm]

theorem bits_one_eq_toNat (v n : Nat) : bits v n 1 = (v.testBit n).toNat := by
  rw [bits, pow_one, Nat.toNat_testBit]

end Sys2Proof

namespace Sys2Proof.Machine

/-! ### Sources and results (R95) -/

section
variable (x : Ctx) (u : State)

theorem Ctx.low_toNat (o : Operand) : (x.low u o).toNat = (x.raw u x.f.typ o).toNat % 2 ^ x.f.typ.width :=
  BitVec.toNat_ofNat ..

theorem Ctx.low_getLsbD (o : Operand) {i : Nat} (h : i < x.f.typ.width) :
    (x.low u o).getLsbD i = (x.raw u x.f.typ o).toNat.testBit i := by
  rw [← BitVec.testBit_toNat, Ctx.low_toNat, Nat.testBit_mod_two_pow, decide_eq_true h, Bool.true_and]

/-- A value lies within the range of its type. -/
theorem Ctx.val_range (o : Operand) : x.f.typ.lo ≤ x.val u o ∧ x.val u o ≤ x.f.typ.hi := by
  generalize hv : x.val u o = v
  simp only [Ctx.val, Typ.value] at hv
  simp only [Typ.lo, Typ.hi]
  split at hv
  case isTrue hs =>
    rw [sextInt_eq_toInt x.f.typ.width_pos] at hv
    simp only [hs, if_true, ← hv, Nat.cast_pow, Nat.cast_ofNat]
    exact ⟨BitVec.le_toInt _, Int.le_sub_one_of_lt (BitVec.toInt_lt (x := BitVec.ofNat _ _))⟩
  case isFalse hs =>
    have hlt := Nat.mod_lt (x.raw u x.f.typ o).toNat (Nat.two_pow_pos x.f.typ.width)
    simp only [hs, ← hv, Bool.false_eq_true, if_false]
    omega

theorem Ctx.fit_eq_wrapOrSat (v : Int) : x.fit v = x.wrapOrSat v := by
  rw [Ctx.fit, satOfMod, Ctx.bit_mod]
  rfl

/-- A result that lies within the range of the type saturates to itself. -/
theorem Ctx.wrapOrSat_of_range {v : Int} (h : x.f.typ.lo ≤ v ∧ v ≤ x.f.typ.hi) : x.wrapOrSat v = x.f.typ.wrap v := by
  rw [Ctx.wrapOrSat, max_eq_left h.1, min_eq_left h.2, ite_self]

/-! ### Arithmetic (R98 to R100) -/

theorem minValue_eq : minValue x u =
    x.wrapOrSat (if x.val u x.f.sa ≤ x.val u x.f.sb then x.val u x.f.sa else x.val u x.f.sb) := by
  rw [minValue, min_def, Ctx.wrapOrSat_of_range]
  split
  · exact x.val_range u _
  · exact x.val_range u _

theorem maxValue_eq : maxValue x u =
    x.wrapOrSat (if x.val u x.f.sb ≤ x.val u x.f.sa then x.val u x.f.sa else x.val u x.f.sb) := by
  rw [maxValue, max_comm, max_def, Ctx.wrapOrSat_of_range]
  split
  · exact x.val_range u _
  · exact x.val_range u _

theorem mulhValue_eq : mulhValue x u =
    x.f.typ.wrap ((x.val u x.f.sa * x.val u x.f.sb) / (2 : Int) ^ x.f.typ.width) := by
  rw [mulhValue, Nat.cast_pow, Nat.cast_ofNat]

end

theorem divide_fst (t : Typ) (a b : Int) : (divide t a b).1 =
    if b = 0 then (if t.signed then -1 else t.hi) else if t.signed ∧ a = t.lo ∧ b = -1 then t.lo else a.tdiv b := by
  simp only [divide, apply_ite Prod.fst]

theorem divide_snd (t : Typ) (a b : Int) : (divide t a b).2 =
    if b = 0 then a else if t.signed ∧ a = t.lo ∧ b = -1 then 0 else a.tmod b := by
  simp only [divide, apply_ite Prod.snd, Int.tmod_def, Int.mul_comm b]

theorem Ctx.dividing_eq_true_iff (x : Ctx) (u : State) :
    x.dividing u = true ↔ ∃ l ∈ (u.core x.c).flight, l.st = x.st ∧ l.unit = 3 := by
  simp [Ctx.dividing]

/-- A divide acts where the divider of its stream is free, and occupies it with its result. -/
theorem divide_acts {i : Bundle → Fields → Instr} {o : Op} {g : Ctx → State → Word} {v : Ctx → State → Int}
    (hi : ∀ b f s, exec (i b f) s = issue o b f (divideBody g) s) (hg : ∀ x u, g x u = x.f.typ.wrap (v x u)) :
    Acts i o (fun x u => ∀ l ∈ (u.core x.c).flight, ¬ (l.st = x.st ∧ l.unit = 3)) (fun x u =>
      u.launchResult x.c x.st x.fl (divLatency x.f.typ) false 3 false [.reg x.st x.f.dst (x.f.typ.wrap (v x u))]) :=
  acts_of_done _ hi fun b f s u _ hfree => by
    have hd : ¬ (Ctx.of o b f s).dividing u = true := by
      rw [Ctx.dividing_eq_true_iff]
      exact fun ⟨l, hl, hu⟩ => hfree l hl hu
    rw [divideBody, if_neg hd, hg]
    rfl

/-- A divide waits for the divider of its stream (R97). -/
theorem divide_waits {i : Bundle → Fields → Instr} {o : Op} {g : Ctx → State → Word}
    (hi : ∀ b f s, exec (i b f) s = issue o b f (divideBody g) s) :
    Waits i o (fun x u => ∃ l ∈ (u.core x.c).flight, l.st = x.st ∧ l.unit = 3) (fun _ _ => .latency) :=
  waits_of_wait _ hi fun x u _ hbusy => if_pos ((x.dividing_eq_true_iff u).2 hbusy)

/-! ### Shifts within w bits (R102) -/

section
variable {w : Nat} (v : BitVec w) (c : Nat)

theorem shlBits_eq_toNat : shlBits w v.toNat c = (v <<< c).toNat := by
  rw [shlBits, BitVec.toNat_shiftLeft, Nat.shiftLeft_eq]
  split
  case isTrue h => rw [Nat.mod_eq_zero_of_dvd (Dvd.dvd.mul_left (pow_dvd_pow 2 h) _)]
  case isFalse h => rfl

theorem shrBits_eq_toNat : shrBits w v.toNat c = (v >>> c).toNat := by
  rw [shrBits, BitVec.toNat_ushiftRight, Nat.shiftRight_eq_div_pow]
  split
  case isTrue h => rw [Nat.div_eq_of_lt (v.isLt.trans_le (Nat.pow_le_pow_right (by decide) h))]
  case isFalse h => rfl

theorem sraBits_eq_toNat (hw : 0 < w) : sraBits w v.toNat c = (v.sshiftRight c).toNat := by
  rw [sraBits]
  split
  case isTrue h =>
    have hsmall : v.toNat >>> c = 0 ∧ (2 ^ w - 1 - v.toNat) >>> c = 0 := by
      have hle : 2 ^ w ≤ 2 ^ c := Nat.pow_le_pow_right (by decide) h
      have hlt := v.isLt
      rw [Nat.shiftRight_eq_div_pow, Nat.shiftRight_eq_div_pow]
      exact ⟨Nat.div_eq_of_lt (by omega), Nat.div_eq_of_lt (by omega)⟩
    rw [BitVec.toNat_sshiftRight, hsmall.1, hsmall.2, bit_eq_testBit, BitVec.testBit_toNat,
      BitVec.msb_eq_getLsbD_last, Nat.sub_zero]
  case isFalse h =>
    rw [lowBits_eq_toNat, sextInt_eq_toInt hw, BitVec.ofNat_toNat, BitVec.setWidth_eq, ← Int.shiftRight_eq_div_pow]
    rfl

theorem rotBits_eq_toNat (hw : 0 < w) : rotBits w v.toNat c = (v.rotateLeft c).toNat := by
  have hk : c % w < w := Nat.mod_lt c hw
  rw [rotBits, BitVec.toNat_rotateLeft, Nat.shiftLeft_eq, Nat.shiftRight_eq_div_pow]
  generalize c % w = k at hk
  have hpow : 2 ^ w = 2 ^ k * 2 ^ (w - k) := by rw [← pow_add, Nat.add_sub_cancel' hk.le]
  have hlow : v.toNat / 2 ^ (w - k) < 2 ^ k := Nat.div_lt_of_lt_mul (by rw [Nat.mul_comm, ← hpow]; exact v.isLt)
  rw [Nat.mul_comm v.toNat, hpow, Nat.mul_mod_mul_left, Nat.two_pow_add_eq_or_of_lt hlow]

end

theorem shiftValue_eq {g : Nat → Nat → Nat → Nat} {h : ∀ {w : Nat}, BitVec w → Nat → BitVec w}
    (hg : ∀ {w : Nat} (v : BitVec w) (c : Nat), 0 < w → g w v.toNat c = (h v c).toNat) (x : Ctx) (u : State) :
    shiftValue g x u = x.f.typ.wrap ((h (x.low u x.f.sa) (x.raw u x.f.typ x.f.sb).toNat).toNat : Int) := by
  rw [← hg _ _ x.f.typ.width_pos, Ctx.low_toNat]
  rfl

/-! ### Counts of bits (R103) -/

section
variable {w : Nat} (v : BitVec w)

/-- Below the leading zeros stands the highest one bit, at the binary logarithm. -/
theorem leadingZeros_of_ne_zero (hv : v.toNat ≠ 0) :
    Nat.log2 v.toNat < w ∧ leadingZeros v.toNat w = w - 1 - Nat.log2 v.toNat :=
  ⟨(Nat.log2_lt hv).2 v.isLt, if_neg hv⟩

theorem leadingZeros_zero : leadingZeros 0 w = w := if_pos rfl

theorem leadingZeros_le : leadingZeros v.toNat w ≤ w := by
  by_cases hv : v.toNat = 0
  · rw [hv, leadingZeros_zero]
  · obtain ⟨-, hn⟩ := leadingZeros_of_ne_zero v hv
    omega

theorem getLsbD_of_leadingZeros {i : Nat} (hi : w - leadingZeros v.toNat w ≤ i) : v.getLsbD i = false := by
  rw [← BitVec.testBit_toNat]
  by_cases hv : v.toNat = 0
  · rw [hv, Nat.zero_testBit]
  · obtain ⟨hlog, hn⟩ := leadingZeros_of_ne_zero v hv
    exact Nat.testBit_lt_two_pow ((Nat.log2_lt hv).1 (by omega))

theorem getLsbD_at_leadingZeros (hlt : leadingZeros v.toNat w < w) :
    v.getLsbD (w - 1 - leadingZeros v.toNat w) = true := by
  have hv : v.toNat ≠ 0 := fun h => by simp [h, leadingZeros_zero] at hlt
  obtain ⟨hlog, hn⟩ := leadingZeros_of_ne_zero v hv
  have htop : w - 1 - leadingZeros v.toNat w = Nat.log2 v.toNat := by omega
  rw [htop, ← BitVec.testBit_toNat, Nat.testBit_log2 hv]

end

theorem onesCount_eq_countP (v n : Nat) : onesCount v n = (List.range n).countP (fun i => v.testBit i) := by
  induction n with
  | zero => rfl
  | succ n ih =>
    rw [onesCount, ih, List.range_succ, List.countP_append, List.countP_singleton, bit_eq_testBit]

/-! ### Constants, addresses and bit fields (R105 to R107) -/

section
variable (x : Ctx) (u : State)

/-- The low half of a word is the same cut out by a mask and extended again. -/
theorem and_low32 (v : Word) {m : Word} (hm : m.toNat = 2 ^ 32 - 1) :
    v &&& m = (v.truncate 32).zeroExtend 64 := by
  apply BitVec.eq_of_toNat_eq
  have hlt : v.toNat % 2 ^ 32 < 2 ^ 64 := (Nat.mod_lt _ (by decide)).trans (by decide)
  rw [BitVec.toNat_and, hm, Nat.and_two_pow_sub_one_eq_mod, BitVec.truncate_eq_setWidth, BitVec.toNat_setWidth,
    BitVec.toNat_setWidth, Nat.mod_eq_of_lt hlt]

theorem ldiValue_eq : ldiValue x u =
    if x.f.mod.getLsbD 1 then ((x.reg u x.f.dst).truncate 32).zeroExtend 64 ||| (x.f.imm.zeroExtend 64 <<< 32)
    else if x.f.mod.getLsbD 0 then x.f.imm.zeroExtend 64 else x.f.imm.signExtend 64 := by
  have hm : bits x.f.mod.toNat 0 2 = 2 * (x.f.mod.getLsbD 1).toNat + (x.f.mod.getLsbD 0).toNat := by
    simp only [← BitVec.testBit_toNat, Nat.toNat_testBit, bits]
    omega
  rw [ldiValue, hm, and_low32 _ rfl]
  cases x.f.mod.getLsbD 1 <;> cases x.f.mod.getLsbD 0 <;> rfl

theorem addrIndex_eq (t : Typ) (v : Word) : addrIndex t v = match t with
    | .i32 => (v.truncate 32).signExtend 64
    | .n32 => (v.truncate 32).zeroExtend 64
    | _ => v := by
  unfold addrIndex
  rw [and_low32 v rfl] <;> rfl

theorem addrValue_eq : addrValue x u =
    BitVec.ofNat 64 ((x.reg u x.f.sa).toNat + (addrIndex x.f.typ (x.reg u x.f.sb)).toNat * 2 ^ (x.f.mod.toNat % 8) +
      (x.f.imm.signExtend 64).toNat) := by
  have hs : bits x.f.mod.toNat 0 3 = x.f.mod.toNat % 8 := by simp [bits]
  apply BitVec.eq_of_toNat_eq
  simp only [addrValue, hs, Ctx.immS, BitVec.toNat_add, BitVec.toNat_shiftLeft, Nat.shiftLeft_eq, BitVec.toNat_ofNat,
    Nat.add_mod_mod, Nat.mod_add_mod]

theorem Ctx.field_eq : x.field = (x.f.imm.toNat % 64, x.f.imm.toNat / 256 % 64 + 1) := by simp [Ctx.field, bits]

/-- A field moved down, with its top bit above it under I64 and zeros otherwise. -/
theorem bfxValue_getLsbD {pos len : Nat} (hf : x.field = (pos, len)) (hlen : 0 < len) {i : Nat} (hi : i < 64) :
    (bfxValue x u).getLsbD i = if i < len then (x.reg u x.f.sa).getLsbD (pos + i)
      else x.f.typ == .i64 && (x.reg u x.f.sa).getLsbD (pos + len - 1) := by
  simp only [bfxValue, hf]
  by_cases ht : x.f.typ = .i64
  · have hext : wordOfInt (sextInt (bits (x.reg u x.f.sa).toNat pos len) len) =
        (BitVec.ofNat len (bits (x.reg u x.f.sa).toNat pos len)).signExtend 64 := by
      rw [sextInt_eq_toInt hlen]
      rfl
    have htop : len - 1 < len := Nat.sub_lt hlen one_pos
    rw [if_pos ht, hext, BitVec.getLsbD_signExtend, BitVec.msb_eq_getLsbD_last]
    simp only [BitVec.getLsbD_ofNat, bits_testBit, BitVec.testBit_toNat, hi, htop, ht, Nat.add_sub_assoc hlen,
      beq_self_eq_true, decide_true, Bool.true_and]
    split
    case isTrue h => simp [h]
    case isFalse h => rfl
  · rw [if_neg ht, beq_eq_false_iff_ne.2 ht, BitVec.getLsbD_ofNat, bits_testBit, BitVec.testBit_toNat,
      decide_eq_true hi, Bool.true_and, Bool.false_and]
    split
    case isTrue h => simp [h]
    case isFalse h => simp [h]

/-- A field replaced by the low bits of SB. -/
theorem bfiValue_getLsbD {pos len : Nat} (hf : x.field = (pos, len)) {i : Nat} (hi : i < 64) :
    (bfiValue x u).getLsbD i = if pos ≤ i ∧ i < pos + len then (x.reg u x.f.sb).getLsbD (i - pos)
      else (x.reg u x.f.sa).getLsbD i := by
  have hmask : (BitVec.ofNat 64 ((2 ^ len - 1) * 2 ^ pos)).getLsbD i = decide (pos ≤ i ∧ i < pos + len) := by
    rw [BitVec.getLsbD_ofNat, Nat.testBit_mul_two_pow, Nat.testBit_two_pow_sub_one, decide_eq_true hi, Bool.true_and,
      ← Bool.decide_and]
    exact decide_eq_decide.2 (by omega)
  simp only [bfiValue, hf, BitVec.getLsbD_or, BitVec.getLsbD_and, BitVec.getLsbD_not, BitVec.getLsbD_shiftLeft,
    hmask, hi]
  split
  case isTrue h => simp [h]
  case isFalse h => simp [h]

/-! ### Compares and predicates (R108, R110) -/

theorem compare_eq {w : Nat} (c : Nat) (a b : Int) (v y : BitVec w) :
    compare c a b v.toNat y.toNat = match c with
      | 0 => decide (a = b) | 1 => decide (a ≠ b) | 2 => decide (a < b) | 3 => decide (a ≥ b)
      | 4 => decide (a ≤ b) | 5 => decide (a > b)
      | 6 => decide (v &&& y ≠ 0)
      | _ => decide (v &&& y = 0) := by
  have hbits : (v.toNat &&& y.toNat == 0) = decide (v &&& y = 0) := by
    rw [← BitVec.toNat_and, beq_eq_decide]
    exact decide_eq_decide.2 (BitVec.toNat_eq (y := 0#w)).symm
  have hany : (v.toNat &&& y.toNat != 0) = decide (v &&& y ≠ 0) := by rw [bne, hbits, decide_not]
  have hne : (a != b) = decide (a ≠ b) := by rw [bne, beq_eq_decide, decide_not]
  unfold compare
  rw [hany, hbits, hne, beq_eq_decide] <;> rfl

theorem combine_eq {m : Nat} (old t : Word) :
    combine m old t = if m = 0 then t else if m = 1 then old &&& t else old ||| t := by
  obtain _ | _ | m := m
  · rfl
  · rfl
  · rfl

theorem cmpValue_eq : cmpValue x u =
    let t : Word := bif compare (x.f.mod.toNat % 8) (x.val u x.f.sa) (x.val u x.f.sb) (x.low u x.f.sa).toNat
      (x.low u x.f.sb).toNat then BitVec.allOnes 64 else 0
    if x.f.mod.toNat / 8 = 0 then t
    else if x.f.mod.toNat / 8 = 1 then x.reg u x.f.dst &&& t else x.reg u x.f.dst ||| t := by
  have hcond : bits x.f.mod.toNat 0 3 = x.f.mod.toNat % 8 := by simp [bits]
  have hmode : bits x.f.mod.toNat 3 2 = x.f.mod.toNat / 8 := Nat.mod_eq_of_lt (by omega)
  rw [cmpValue, combine_eq, hcond, hmode, Ctx.low_toNat, Ctx.low_toNat]
  simp only [Bool.cond_eq_ite]
  rfl

end

theorem plogBits_lt (t a b n : Nat) : plogBits t a b n < 2 ^ n := by
  induction n with
  | zero => exact Nat.one_pos
  | succ n ih =>
    rw [plogBits, pow_succ]
    split
    · omega
    · omega

/-- Each bit of PLOG is one entry of its table, which the recursion adds above the bits before it. -/
theorem plogBits_testBit (t a b n i : Nat) : (plogBits t a b n).testBit i =
    (decide (i < n) && t.testBit (2 * (a.testBit i).toNat + (b.testBit i).toNat)) := by
  induction n with
  | zero => simp [plogBits]
  | succ n ih =>
    have hbit : bit t (bits a n 1 * 2 + bits b n 1) = t.testBit (2 * (a.testBit n).toNat + (b.testBit n).toNat) := by
      rw [bit_eq_testBit, bits_one_eq_toNat, bits_one_eq_toNat, Nat.mul_comm]
    have hor (m : Nat) (hm : m < 2 ^ n) : m + 2 ^ n = 2 ^ n ||| m := by
      simpa [Nat.add_comm] using Nat.two_pow_add_eq_or_of_lt hm 1
    rw [plogBits, hbit]
    split
    case isTrue h =>
      rw [hor _ (plogBits_lt t a b n), Nat.testBit_or, ih, Nat.testBit_two_pow]
      by_cases hi : i = n
      · simp [hi, h]
      · simp [hi, Ne.symm hi, Nat.le_iff_lt_or_eq]
    case isFalse h =>
      rw [Nat.add_zero, ih]
      by_cases hi : i = n
      · simp [hi, h]
      · simp [hi, Nat.le_iff_lt_or_eq]

/-! ### Operations that write one value -/

theorem computes_of_value {i : Bundle → Fields → Instr} {o : Op} {lat : Nat} {g v : Ctx → State → Word}
    (hi : ∀ b f s, exec (i b f) s = issue o b f (writeBody lat g) s) (h : ∀ x u, g x u = v x u) :
    Computes i o lat v :=
  computes_write hi fun _ _ _ _ _ => h _ _

/-- An operation that writes one value answers with what holds of that value. -/
theorem computesSome_write {i : Bundle → Fields → Instr} {o : Op} {lat : Nat} {g : Ctx → State → Word}
    {P : Ctx → State → Word → Prop} (hi : ∀ b f s, exec (i b f) s = issue o b f (writeBody lat g) s)
    (h : ∀ x u, P x u (g x u)) : ComputesSome i o lat P :=
  fun _ _ _ _ hr => ⟨_, exec_of_done _ hi hr rfl, h _ _⟩

end Sys2Proof.Machine

namespace Sys2Proof

open Machine

/-! ### The obligations, beside `Machine.products` of the model under a namespace of their own -/

/-- Settles O1: each operation writes its value, which MIN and MAX take from the range of the type. -/
theorem addSubMinMax : Obligations.AddSubMinMax := by
  unfold Obligations.AddSubMinMax
  refine ⟨?_, ?_, List.forall_mem_cons.2 ⟨?_, List.forall_mem_singleton.2 ?_⟩,
    List.forall_mem_cons.2 ⟨?_, List.forall_mem_singleton.2 ?_⟩⟩
  · exact computes_of_value (fun _ _ _ => rfl) fun x _ => x.fit_eq_wrapOrSat _
  · exact computes_of_value (fun _ _ _ => rfl) fun x _ => x.fit_eq_wrapOrSat _
  · exact computes_of_value (fun _ _ _ => rfl) minValue_eq
  · exact computes_of_value (fun _ _ _ => rfl) minValue_eq
  · exact computes_of_value (fun _ _ _ => rfl) maxValue_eq
  · exact computes_of_value (fun _ _ _ => rfl) maxValue_eq

/-- Settles O2: the product, and its floor division by 2^w. -/
theorem products : Obligations.Products := by
  unfold Obligations.Products
  refine ⟨?_, List.forall_mem_cons.2 ⟨?_, List.forall_mem_singleton.2 ?_⟩⟩
  · exact computes_of_value (fun _ _ _ => rfl) fun x _ => x.fit_eq_wrapOrSat _
  · exact computes_of_value (fun _ _ _ => rfl) mulhValue_eq
  · exact computes_of_value (fun _ _ _ => rfl) mulhValue_eq

/-- Settles O3: a divide acts by its quotient or its remainder where its stream's divider is free, and else waits. -/
theorem divisions : Obligations.Divisions := by
  unfold Obligations.Divisions
  have hquo (x : Ctx) (u : State) := congrArg x.f.typ.wrap (divide_fst x.f.typ (x.val u x.f.sa) (x.val u x.f.sb))
  have hrem (x : Ctx) (u : State) := congrArg x.f.typ.wrap (divide_snd x.f.typ (x.val u x.f.sa) (x.val u x.f.sb))
  refine ⟨⟨?_, ?_, ?_, ?_⟩, ?_⟩
  · exact divide_acts (g := divValue) (fun _ _ _ => rfl) hquo
  · exact divide_acts (g := divValue) (fun _ _ _ => rfl) hquo
  · exact divide_acts (g := remValue) (fun _ _ _ => rfl) hrem
  · exact divide_acts (g := remValue) (fun _ _ _ => rfl) hrem
  · refine List.forall_mem_cons.2 ⟨?_, List.forall_mem_cons.2 ⟨?_, List.forall_mem_cons.2 ⟨?_,
      List.forall_mem_singleton.2 ?_⟩⟩⟩
    · exact divide_waits (g := divValue) fun _ _ _ => rfl
    · exact divide_waits (g := divValue) fun _ _ _ => rfl
    · exact divide_waits (g := remValue) fun _ _ _ => rfl
    · exact divide_waits (g := remValue) fun _ _ _ => rfl

/-- Settles O4: an untyped source is the whole register, or the immediate with its sign extended. -/
theorem logicWords : Obligations.LogicWords := by
  unfold Obligations.LogicWords
  have hsrc (x : Ctx) (u : State) (o : Operand) :
      x.raw u .untyped o = match o with | .imm => x.f.imm.signExtend 64 | o => x.reg u o := by
    cases o <;> rfl
  refine ⟨?_, ?_, ?_, ?_⟩
  · exact computes_of_value (fun _ _ _ => rfl) fun _ _ => congrArg₂ (· &&& ·) (hsrc ..) (hsrc ..)
  · exact computes_of_value (fun _ _ _ => rfl) fun _ _ => congrArg₂ (· ||| ·) (hsrc ..) (hsrc ..)
  · exact computes_of_value (fun _ _ _ => rfl) fun _ _ => congrArg₂ (· ^^^ ·) (hsrc ..) (hsrc ..)
  · exact computes_of_value (fun _ _ _ => rfl) fun _ _ => congrArg₂ (· &&& ~~~ ·) (hsrc ..) (hsrc ..)

/-- Settles O5: each shift of the model is the shift of a vector of w bits. -/
theorem shifts : Obligations.Shifts := by
  unfold Obligations.Shifts
  refine ⟨?_, ?_, ?_, ?_⟩
  · exact computes_of_value (fun _ _ _ => rfl)
      (shiftValue_eq (h := fun v c => v <<< c) fun v c _ => shlBits_eq_toNat v c)
  · exact computes_of_value (fun _ _ _ => rfl)
      (shiftValue_eq (h := fun v c => v >>> c) fun v c _ => shrBits_eq_toNat v c)
  · exact computes_of_value (fun _ _ _ => rfl) (shiftValue_eq sraBits_eq_toNat)
  · exact computes_of_value (fun _ _ _ => rfl) (shiftValue_eq rotBits_eq_toNat)

/-- Settles O6: the leading zeros are the bits above the highest one bit, and each one bit counts once. -/
theorem bitCounts : Obligations.BitCounts := by
  unfold Obligations.BitCounts
  refine ⟨computesSome_write (fun _ _ _ => rfl) fun x u => ?_,
    computes_of_value (fun _ _ _ => rfl) fun x u => ?_⟩
  · refine ⟨leadingZeros (x.low u x.f.sa).toNat x.f.typ.width, leadingZeros_le _, ?_,
      fun i _ => getLsbD_of_leadingZeros _, getLsbD_at_leadingZeros _⟩
    rw [clzValue, Ctx.low_toNat]
  · rw [popcValue, onesCount_eq_countP]
    refine congrArg (BitVec.ofNat 64) (List.countP_congr fun i hi => ?_)
    rw [Ctx.low_getLsbD _ _ _ (List.mem_range.1 hi)]

/-- Settles O7: the value of each operation, of BFX and BFI bit by bit. -/
theorem selectLoadAddressFields : Obligations.SelectLoadAddressFields := by
  unfold Obligations.SelectLoadAddressFields
  refine ⟨⟨?_, ?_, ?_⟩, ?_, ?_⟩
  · exact computes_of_value (g := selValue) (fun _ _ _ => rfl) fun _ _ => rfl
  · exact computes_of_value (fun _ _ _ => rfl) ldiValue_eq
  · refine computes_of_value (fun _ _ _ => rfl) fun x u => ?_
    rw [addrValue_eq, addrIndex_eq] <;> rfl
  · exact computesSome_write (fun _ _ _ => rfl) fun x u i hi => bfxValue_getLsbD x u x.field_eq (Nat.succ_pos _) hi
  · exact computesSome_write (fun _ _ _ => rfl) fun x u i hi => bfiValue_getLsbD x u x.field_eq hi

/-- Settles O8: a compare by its condition and its combining, PLOG bit by bit. -/
theorem predicateResults : Obligations.PredicateResults := by
  unfold Obligations.PredicateResults
  refine ⟨computes_of_value (fun _ _ _ => rfl) fun x u => ?_,
    computesSome_write (fun _ _ _ => rfl) fun x u i hi => ?_,
    computes_of_value (g := pmovValue) (fun _ _ _ => rfl) fun _ _ => rfl⟩
  · rw [cmpValue_eq, compare_eq] <;> rfl
  · rw [plogValue, BitVec.getLsbD_ofNat, plogBits_testBit, decide_eq_true hi]
    rfl

end Sys2Proof

end

/-! What the field checks of an operation's entry leave for its meaning (R57, R58). -/

section

namespace Sys2Proof.Machine

/-- An operation that may act has passed the field checks of its entry. -/
theorem Ctx.legal_of_ready {x : Ctx} {s u : State} (h : x.ready s = some u) : x.o.legal x.f = true := by
  unfold Ctx.ready at h
  split at h
  case h_2 => exact nomatch h
  case h_1 hd _ =>
    rw [Ctx.decodeTrap] at hd
    by_contra hl
    rw [Bool.not_eq_true] at hl
    simp only [hl, Bool.not_false, if_true] at hd
    split at hd
    · exact nomatch hd
    · exact nomatch hd

/-- What holds of a queue operation may rest on the field checks of its entry. -/
theorem takesQueues_of_legal {i : Bundle → Fields → Instr} {o : Op} {g : Ctx → State → Prop}
    {P : Ctx → State → State → (Operand → Entry) → State → Prop}
    (h : TakesQueues i o g (fun x u v taken t => x.o = o → o.legal x.f = true → P x u v taken t)) :
    TakesQueues i o g P := by
  intro b f s u hr hg k es hk
  obtain ⟨v, he, hP⟩ := h b f s u hr hg k es hk
  have hl := Ctx.legal_of_ready hr
  exact ⟨v, he, hP rfl hl⟩

theorem Op.legal_dst {o : Op} {f : Fields} (h : o.legal f = true) : o.row.dst.allows f.dst = true := by
  simp only [Op.legal, Bool.and_eq_true, and_assoc] at h
  exact h.1

theorem Op.legal_typ {o : Op} {f : Fields} (h : o.legal f = true) : f.typ.code ∈ o.row.typs.codes := by
  simp only [Op.legal, Bool.and_eq_true, List.contains_iff_mem] at h
  tauto

end Sys2Proof.Machine

end

/-! Reductions and scans of vectors (R218, R232, R233). -/

section

namespace Sys2Proof.Machine

/-! ### Reductions (R232) -/

/-- A destination that is a scalar or a queue is pushed exactly where it is a queue. -/
theorem isQueue_of_queueNum {d : Operand} {q : Nat} (h : PosKind.destOrQueue.allows d = true)
    (hq : queueNum d = some q) :
    d.isQueue = true := by
  cases d <;> simp_all [PosKind.allows, Operand.isDest, Operand.isQueue, queueNum]

theorem fitLane_eq (x : Ctx) (v : Int) :
    fitLane x.f.typ x.f.mod v = (x.wrapOrSat v).toNat % 2 ^ x.f.typ.width := by
  rw [← Ctx.fit_eq_wrapOrSat]
  rfl

/-- The value of a zero lane is 0. -/
theorem Typ.value_zero (t : Typ) : t.value 0 = 0 := by cases t <;> rfl

/-- The sum of the lanes, disabled ones reading 0, is the sum of the values of the enabled ones. -/
theorem lanesOr_values (x : Ctx) (u : State) (taken : Operand → Entry) :
    (x.lanesOr u taken 0).map (fun v => x.f.typ.value v) = (List.range (1024 / x.f.typ.width)).map (fun i =>
      if x.laneOn u x.f.typ.width i then x.f.typ.value (laneOf (taken x.f.sa) x.f.typ.width i) else 0) := by
  rw [Ctx.lanesOr, List.map_map]
  refine List.map_congr_left fun i _ => ?_
  rw [Function.comp_apply, apply_ite (fun v => x.f.typ.value v), Typ.value_zero]

/-- The sum of the enabled lanes with its flags: by the tree for floats, exact for integers. -/
def sumLanes (x : Ctx) (u : State) (taken : Operand → Entry) : Nat × Flags :=
  if x.f.typ.isFloat then treeReduce (fun a b => addLane x.f.typ x.f.mod a b 0) 7 (x.lanesOr u taken 0)
  else (fitLane x.f.typ x.f.mod (((x.lanesOr u taken 0).map (fun v => x.f.typ.value v)).sum), 0)

theorem redSum_eq (x : Ctx) (u : State) (taken : Operand → Entry) :
    redSum x u taken = x.reduced (sumLanes x u taken).1 (sumLanes x u taken).2 := by
  rw [redSum, sumLanes]
  split <;> rfl

theorem execVredSum_eq (b : Bundle) (f : Fields) (s : State) : exec (.vredSum b f) s = issue .vredSum b f
    (vectorBody 6 (fun x u taken => x.reduced (sumLanes x u taken).1 (sumLanes x u taken).2)) s := by
  simp only [← redSum_eq]
  rfl

/-- Where a reduction's value and flags go: to lane 0 of an entry pushed, or to a scalar extended by the type. -/
def Ctx.Reduces (x : Ctx) (v : State) (r : Nat) (fl : Flags) (t : State) : Prop :=
  let fx : List Effect := if x.f.typ.isFloat then [.flags x.st fl] else []
  match pushPosition x.o x.f with
  | some q => t = x.unitTaken 1 (x.pushEntry v 6 q (BitVec.ofNat 1024 (r % 2 ^ x.f.typ.width)) fx)
  | none => x.f.dst.isQueue = false → t = x.unitTaken 1 (x.result v 6 (.reg x.st x.f.dst
      (if x.f.typ.isFloat then BitVec.ofNat 64 r else x.f.typ.wrap (x.f.typ.value r)) :: fx))

/-- A reduction answers with its value and flags where they go. -/
theorem takesQueues_of_reduced {i : Bundle → Fields → Instr} {o : Op} (hrow : o.row.dst = .destOrQueue)
    (hpush : ∀ f, pushPosition o f = queueNum f.dst) (g : Ctx → State → (Operand → Entry) → Nat × Flags)
    (hi : ∀ b f s, exec (i b f) s =
      issue o b f (vectorBody 6 (fun x u taken => x.reduced (g x u taken).1 (g x u taken).2)) s)
    {P : Ctx → State → State → (Operand → Entry) → State → Prop}
    (h : ∀ x u v taken t, x.Reduces v (g x u taken).1 (g x u taken).2 t → P x u v taken t) :
    TakesQueues i o Ctx.unitFree P := by
  refine takesQueues_of_legal (takesQueues_of (fun _ => 6) (fun _ => 1) _ hi fun x u v taken _ ho hl => h _ _ _ _ _ ?_)
  have hpos : pushPosition x.o x.f = queueNum x.f.dst := ho ▸ hpush x.f
  unfold Ctx.Reduces
  rw [hpos]
  rcases hq : queueNum x.f.dst with _ | q
  case none =>
    intro fx hnot
    simp only [Ctx.reduced, hnot, Bool.false_eq_true, if_false, Ctx.floatFlags, Ctx.flagEffect, Ctx.writes, fx]
  case some =>
    have hqueue : x.f.dst.isQueue = true := isQueue_of_queueNum (hrow ▸ Op.legal_dst hl) hq
    simp only [Ctx.reduced, hqueue, if_true, Ctx.floatFlags, Ctx.flagEffect]

/-! ### Scans (R233) -/

section
variable (op : Nat → Nat → Nat × Flags)

/-- A step of a scan: the running value joined with the next lane, and the flags of all steps so far. -/
def scanStep (r : Nat × Flags) (v : Nat) : Nat × Flags := ((op r.1 v).1, r.2 ||| (op r.1 v).2)

theorem scanFrom_getElem? (acc : Nat) (fl : Flags) (l : List Nat) (i : Nat) (h : i < l.length) :
    (scanFrom op acc fl l)[i]? = some ((l.take (i + 1)).foldl (scanStep op) (acc, fl)) := by
  induction l generalizing acc fl i with
  | nil => exact absurd h (Nat.not_lt_zero i)
  | cons v l ih =>
    cases i with
    | zero => rfl
    | succ i => exact ih _ _ i (Nat.lt_of_succ_lt_succ h)

/-- Entry i of a scan is the fold of its step over the lanes after the first up to i. -/
theorem scanValues_getD (v : Nat → Nat) {n i : Nat} (h : i < n) :
    ((scanValues op ((List.range n).map v))[i]?).getD (0, 0) =
      (List.range i).foldl (fun r j => scanStep op r (v (j + 1))) (v 0, 0) := by
  obtain ⟨n, rfl⟩ := Nat.exists_eq_succ_of_ne_zero (Nat.ne_zero_of_lt h)
  rw [List.range_succ_eq_map, List.map_cons, List.map_map, scanValues]
  cases i with
  | zero => rfl
  | succ i =>
    have hi : i < n := Nat.lt_of_succ_lt_succ h
    rw [List.getElem?_cons_succ, scanFrom_getElem? _ _ _ _ _ (by simpa using hi), Option.getD_some, ← List.map_take,
      List.take_range, Nat.min_eq_left hi, List.foldl_map]
    rfl

end

/-! ### The statement -/

/-- Settles O15: a reduction by where its value goes, and a lane of a scan by the fold of its steps. -/
theorem vectorReductionsScans : Obligations.VectorReductionsScans := by
  unfold Obligations.VectorReductionsScans
  have hscan (x : Ctx) (u : State) (taken : Operand → Entry) {i : Nat} (hi : i < 1024 / x.f.typ.width) :=
    scanValues_getD (fun a b => addLane x.f.typ x.f.mod a b 0)
      (fun j => if x.laneOn u x.f.typ.width j then laneOf (taken x.f.sa) x.f.typ.width j else 0) hi
  refine ⟨⟨?_, ?_, ?_⟩, ?_, ?_⟩
  · refine takesQueues_of_reduced rfl (fun _ => rfl) sumLanes execVredSum_eq fun x u v taken t h => ?_
    rw [sumLanes] at h
    by_cases hf : x.f.typ.isFloat = true
    · rw [if_pos hf] at h ⊢
      exact h
    · rw [if_neg hf, lanesOr_values, fitLane_eq] at h
      rw [if_neg hf]
      exact h
  · exact takesQueues_of_reduced rfl (fun _ => rfl) _ (fun _ _ _ => rfl) fun _ _ _ _ _ h => h
  · exact takesQueues_of_reduced rfl (fun _ => rfl) _ (fun _ _ _ => rfl) fun _ _ _ _ _ h => h
  · refine mapsLanes_of (fun _ _ _ => rfl) fun x u taken i hi => ?_
    have hr := hscan x u taken hi
    exact ⟨congrArg (fun r => r.1 % 2 ^ x.f.typ.width) hr, congrArg (fun r => r.2) hr⟩
  · refine mapsLanes_of (fun _ _ _ => rfl) fun x u taken i hi => ?_
    cases i with
    | zero => exact ⟨rfl, rfl⟩
    | succ i =>
      have hr := hscan x u taken (Nat.lt_of_succ_lt hi)
      exact ⟨congrArg (fun r => r.1 % 2 ^ x.f.typ.width) hr, congrArg (fun r => r.2) hr⟩

end Sys2Proof.Machine

end

/-! The integer sums of Q4 blocks (R115, R118, R119, R251). -/

section

namespace Sys2Proof.Machine

/-- A code of every Q4 type stands for at most 64 in the type's integer form (Table 5.2). -/
theorem abs_q4Int_le (ty code : Nat) : |q4Int ty code| ≤ 64 := by
  unfold q4Int
  split
  case isTrue =>
    have hlt : code % 2 ^ 4 < 2 ^ 4 := Nat.mod_lt _ (by decide)
    rw [sextInt, abs_le]
    split <;> omega
  case isFalse =>
    have hmag (l : List Nat) (hl : ∀ v ∈ l, v ≤ 64) : (l[code % 8]?).getD 0 ≤ 64 := by
      rcases h : l[code % 8]? with _ | v
      · exact Nat.zero_le _
      · exact hl v (List.mem_of_getElem? h)
    dsimp only
    rw [apply_ite abs, abs_neg, ite_self, Nat.abs_cast]
    exact_mod_cast hmag _ (by split <;> decide)

/-- A block has 32 products, each at most 64 times 64. -/
theorem abs_q4Psum_le (a b ta tb j : Nat) : |q4Psum a b ta tb j| ≤ 131072 := by
  have hterm (i : Nat) :
      |q4Int (tagType ta) (q4Elem a (32 * j + i)) * q4Int (tagType tb) (q4Elem b (32 * j + i))| ≤ 4096 := by
    rw [abs_mul]
    exact mul_le_mul (abs_q4Int_le _ _) (abs_q4Int_le _ _) (abs_nonneg _) (by decide)
  rw [abs_le]
  constructor
  · refine le_trans ?_ (List.card_nsmul_le_sum _ (-4096) (List.forall_mem_map.2 fun i _ => neg_le_of_abs_le (hterm i)))
    simp
  · refine (List.sum_le_card_nsmul _ 4096 (List.forall_mem_map.2 fun i _ => le_of_abs_le (hterm i))).trans ?_
    simp

/-- The low w bits of a value that w bits hold read back as that value. -/
theorem sextInt_lowBits {v : Int} {w : Nat} (hw : 0 < w) (h : -2 ^ (w - 1) ≤ v ∧ v < 2 ^ (w - 1)) :
    sextInt (lowBits v w) w = v := by
  rw [sextInt_eq_toInt hw, lowBits_eq_toNat, BitVec.ofNat_toNat, BitVec.setWidth_eq,
    BitVec.toInt_ofInt_eq_self hw h.1 h.2]

theorem psum_zero_tag {ta tb : Nat} (h : tagE ta = 0 ∨ tagE tb = 0) (fam : Family) (a b j : Nat) :
    psum fam a b ta tb j = (0, 0) := if_pos h

/-- Settles O26: the sum by its 32 bounded products, and a zero tag by the case of its own. -/
theorem q4PsumExact : Obligations.Q4PsumExact := by
  unfold Obligations.Q4PsumExact
  intro a b ta tb j
  have hle := abs_q4Psum_le a b ta tb j
  have hnat : (q4Psum a b ta tb j).natAbs ≤ 131072 := by rwa [Int.abs_eq_natAbs, Nat.cast_le_ofNat] at hle
  refine ⟨hnat, fun ha hb => ?_, fun fam h => psum_zero_tag h fam a b j⟩
  rw [psum, if_neg (by tauto)]
  obtain ⟨hlo, hhi⟩ := abs_le.1 hle
  exact sextInt_lowBits (by decide) ⟨hlo.trans' (by decide), hhi.trans_lt (by decide)⟩

end Sys2Proof.Machine

end

/-! Conversions of registers and of queue entries, scale tags, FFLAG and FCLS (R125 to R134). -/

section

namespace Sys2Proof.Machine

/-! ### FFLAG and FCLS (R133, R134) -/

theorem Core.flagsPending_iff (k : Core) (st : Stream) :
    k.flagsPending st = true ↔ ∃ l ∈ k.flight, ∃ e ∈ l.effects, ∃ fl, e = .flags st fl := by
  simp only [Core.flagsPending, List.any_eq_true]
  refine exists_congr fun l => and_congr_right fun _ => exists_congr fun e => and_congr_right fun _ => ?_
  cases e <;> simp

/-- FFLAG with no flags of its stream still to land. -/
theorem fflagBody_of_landed {x : Ctx} {u : State} (h : ¬ (u.core x.c).flagsPending x.st = true) :
    let old := (u.stream x.c x.st).fstat
    let m : Flags := x.f.imm.truncate 5
    let kept := if x.f.mod.toNat % 4 = 1 then old &&& ~~~m else if x.f.mod.toNat % 4 = 2 then old ||| m else old
    fflagBody x u = .done (x.result (u.modStream x.c x.st (fun t => { t with fstat := kept })) 1
      [.reg x.st x.f.dst (old.zeroExtend 64)]) .seq := by
  have hmod : bits x.f.mod.toNat 0 2 = x.f.mod.toNat % 4 := by simp [bits]
  have himm : BitVec.ofNat 5 x.f.imm.toNat = x.f.imm.truncate 5 := by simp [BitVec.truncate_eq_setWidth]
  rw [fflagBody, if_neg h, hmod, himm]
  dsimp only
  split
  case h_1 h => rw [if_pos h]; rfl
  case h_2 h => rw [if_neg (by omega), if_pos h]; rfl
  case h_3 h1 h2 => rw [if_neg h1, if_neg h2]; rfl

theorem fclsValue_eq (x : Ctx) (u : State) : fclsValue x u =
    let c := floatClass x.f.typ.format ((x.reg u x.f.sa).toNat % 2 ^ x.f.typ.width)
    if x.f.dst.isPred then (if x.f.imm.getLsbD c then BitVec.allOnes 64 else 0) else BitVec.ofNat 64 (2 ^ c) := by
  simp only [fclsValue, bit_eq_testBit, BitVec.testBit_toNat]
  rfl

/-! ### Entries made element by element (R125, R129 to R132, R135) -/

/-- An entry holds the given values in its enabled elements and 0 in all others, and its flags are those of the
enabled elements. -/
def Makes (w n : Nat) (on : Nat → Bool) (g : Nat → Nat × Flags) (e : Entry) (fl : Flags) : Prop :=
  (∀ j < n, laneOf e w j = if on j then (g j).1 % 2 ^ w else 0) ∧
  (∀ j, n ≤ j → j < 1024 / w → laneOf e w j = 0) ∧
  ∀ k, fl.getLsbD k = true ↔ ∃ j < n, on j = true ∧ (g j).2.getLsbD k = true

theorem elements_makes {w n : Nat} (hn : n ≤ 1024 / w) (on : Nat → Bool) (g : Nat → Nat × Flags) :
    Makes w n on g (entryOf w (elements on g n).1) (elements on g n).2 := by
  refine ⟨fun j hj => ?_, fun j hj hlt => ?_, elements_flags on g n⟩
  · rw [laneOf_entryOf _ _ _ (hj.trans_le hn), elements_fst _ _ _ _ hj]
    split
    · rfl
    · exact Nat.zero_mod _
  · rw [laneOf_entryOf _ _ _ hlt, elements_beyond _ _ _ _ hj, Nat.zero_mod]

/-- The entry and the flags of an operation that makes its result element by element. -/
def elementsEntry (w n : Ctx → Nat) (on : Ctx → State → Nat → Bool)
    (g : Ctx → State → (Operand → Entry) → Nat → Nat × Flags) (x : Ctx) (u : State)
    (taken : Operand → Entry) : Entry × List Effect :=
  (entryOf (w x) (elements (on x u) (g x u taken) (n x)).1, [.flags x.st (elements (on x u) (g x u taken) (n x)).2])

/-- A queue operation of four ticks makes its entry element by element; one that names no queue to push into need
only be done. -/
theorem takesQueues_of_elements {i : Bundle → Fields → Instr} {o : Op} {body : Ctx → State → Res}
    {w n : Ctx → Nat} {on : Ctx → State → Nat → Bool}
    {g g' : Ctx → State → (Operand → Entry) → Nat → Nat × Flags}
    (entry : Ctx → State → (Operand → Entry) → Entry × List Effect)
    (hi : ∀ b f s, exec (i b f) s = issue o b f body s) (hn : ∀ x, o.legal x.f = true → n x ≤ 1024 / w x)
    (hb : ∀ x u, o.legal x.f = true → body x u = queueBody 4 entry x u ∨
      pushPosition o x.f = none ∧ ∃ v, body x u = .done v .seq)
    (he : ∀ x u taken, entry x u taken = elementsEntry w n on g' x u taken)
    (hg : ∀ x u taken j, g' x u taken j = g x u taken j) :
    TakesQueues i o (fun _ _ => True) (fun x u v taken t => ∀ q, pushPosition o x.f = some q →
      ∃ e fl, t = x.pushEntry v 4 q e [.flags x.st fl] ∧ Makes (w x) (n x) (on x u) (g x u taken) e fl) := by
  obtain rfl : g' = g := funext fun x => funext fun u => funext fun taken => funext (hg x u taken)
  intro b f s u hr _ k es hk
  have hl := Ctx.legal_of_ready hr
  rcases hb (Ctx.of o b f s) u hl with h | ⟨hnone, v, h⟩
  · refine ⟨_, exec_of_done body hi hr (h.trans (queueBody_ok hk)), fun q hq => ?_⟩
    have hpos : pushPosition (Ctx.of o b f s).o (Ctx.of o b f s).f = some q := hq
    rw [hpos, he]
    exact ⟨_, _, rfl, elements_makes (hn _ hl) _ _⟩
  · exact ⟨v, exec_of_done body hi hr h, fun q hq => nomatch hnone.symm.trans hq⟩

/-- The blocks of a float type fit an entry of that type. -/
theorem blocks_fit {t : Typ} (h : t.code ∈ TypSet.vecFloats.codes) : 32 * blockCount t ≤ 1024 / t.width := by
  revert h
  cases t <;> decide

theorem blocks_le (t : Typ) : 32 * blockCount t ≤ 64 := by
  rw [blockCount]
  split <;> decide

theorem laneWidth_pos (t : Typ) : 0 < t.laneWidth := by cases t <;> decide

/-! ### The conversions (R129, R131, R132) -/

section
variable (x : Ctx) (u : State) (taken : Operand → Entry)

/-- An element of CVT.Q: of lane j of the part that MOD names (R129). -/
def cvtQElement (j : Nat) : Nat × Flags :=
  let n := 1024 / max x.f.srcTyp.laneWidth x.f.typ.laneWidth
  let r := convert x.f.srcTyp x.f.typ (x.f.mod &&& 7)
    (laneOf (taken x.f.sa) x.f.srcTyp.laneWidth (x.f.mod.toNat / 8 * n + j))
  (r.1.toNat, r.2)

theorem cvtQEntry_eq : cvtQEntry x u taken = elementsEntry (fun x => x.f.typ.laneWidth)
    (fun x => 1024 / max x.f.srcTyp.laneWidth x.f.typ.laneWidth)
    (fun x u => x.laneOn u (max x.f.srcTyp.laneWidth x.f.typ.laneWidth)) (fun x _ => cvtQElement x) x u taken := by
  have hpart : bits x.f.mod.toNat 3 2 = x.f.mod.toNat / 8 := Nat.mod_eq_of_lt (by omega)
  rw [cvtQEntry, hpart]
  rfl

/-- An element of UNPK: of a code in the chunk that MOD names, with the flag of its block (R131). -/
def unpackElement (w : Nat) (g : Nat → Nat → FVal × Flags) (j : Nat) : Nat × Flags :=
  let v := g (x.blockType u (j / 32)) (laneOf (taken x.f.sa) w (x.f.mod.toNat % 8 * (32 * blockCount x.f.typ) + j))
  let r := x.f.typ.format.ofVal .rne false v.1
  (r.code, r.flags ||| v.2)

theorem unpackEntry_eq (w : Nat) (g : Nat → Nat → FVal × Flags) : unpackEntry w g x u taken =
    elementsEntry (fun x => x.f.typ.width) (fun x => 32 * blockCount x.f.typ) (fun x u => x.laneOn u 32)
      (fun x u taken => unpackElement x u taken w g) x u taken := by
  have hchunk : bits x.f.mod.toNat 0 3 = x.f.mod.toNat % 8 := by simp [bits]
  rw [unpackEntry, hchunk]
  rfl

/-- A block of type 3, of all four, has no F8 values and sets NV (R116). -/
theorem unpackF8_eq {ty : Nat} (h : ty < 4) (code : Nat) :
    unpackF8 ty code = (f8Val ty code, if ty = 3 then flagNV else 0) := by
  have hty : 3 ≤ ty ↔ ty = 3 := by omega
  simp only [unpackF8, hty]

theorem Ctx.tagOf_eq (code : Nat) : x.tagOf code =
    let r := scaleCode (Rounding.ofMod x.f.mod) (Typ.f32.format.decode (code % 2 ^ 32))
    (x.f.imm.toNat % 4 * 1024 + r.1, r.2) := by
  simp [Ctx.tagOf, bits]

end

/-- QTAG makes an entry where its destination is a queue, and else writes one tag. -/
theorem qtagBody_queue {x : Ctx} {u : State} (h : x.f.dst.isQueue = true) :
    qtagBody x u = queueBody 4 qtagEntry x u := if_pos h

theorem qtagBody_scalar {x : Ctx} {u : State} (h : x.f.dst.isQueue = false) :
    qtagBody x u = .done (x.result u 2 [.reg x.st x.f.dst (BitVec.ofNat 64 (x.tagOf (x.reg u x.f.sa).toNat).1),
      .flags x.st (x.tagOf (x.reg u x.f.sa).toNat).2]) .seq := by
  rw [qtagBody, h]
  rfl

/-! ### The statement -/

/-- Settles O9: the result of each scalar form, and each queue form by its entry, which is made element by element. -/
theorem conversions : Obligations.Conversions := by
  unfold Obligations.Conversions
  refine ⟨⟨?_, ?_, ?_, ?_, ?_⟩, ?_, ?_, ?_, ?_, ?_, ?_⟩
  · exact acts_of_done cvtBody (fun _ _ _ => rfl) fun _ _ _ _ _ _ => rfl
  · refine acts_of_done qtagBody (fun _ _ _ => rfl) fun b f s u _ hq => ?_
    rw [qtagBody_scalar hq, Ctx.tagOf_eq]
  · refine acts_of_done fflagBody (fun _ _ _ => rfl) fun b f s u _ hland => ?_
    refine fflagBody_of_landed fun hp => ?_
    obtain ⟨l, hl, e, he, fl, rfl⟩ := (Core.flagsPending_iff _ _).1 hp
    exact hland l hl _ he fl rfl
  · exact waits_of_wait fflagBody (fun _ _ _ => rfl) fun x u _ hp => if_pos ((Core.flagsPending_iff _ _).2 hp)
  · exact computes_of_value (fun _ _ _ => rfl) fclsValue_eq
  · refine takesQueues_of_elements _ (fun _ _ _ => rfl) (fun x _ => ?_) (fun _ _ _ => .inl rfl) cvtQEntry_eq
      fun _ _ _ _ => rfl
    exact Nat.div_le_div_left (le_max_right _ _) (laneWidth_pos x.f.typ)
  · refine takesQueues_of_elements _ (fun _ _ _ => rfl) (fun x _ => ?_) (fun _ _ _ => .inl rfl) (fun _ _ _ => rfl)
      fun _ _ _ _ => rfl
    exact (blocks_le x.f.typ).trans (by decide : 64 ≤ 1024 / 4)
  · refine takesQueues_of_elements _ (fun _ _ _ => rfl) (fun x _ => ?_) (fun _ _ _ => .inl rfl) (fun _ _ _ => rfl)
      fun _ _ _ _ => rfl
    exact (blocks_le x.f.typ).trans (by decide : 64 ≤ 1024 / 8)
  · refine takesQueues_of_elements _ (fun _ _ _ => rfl) (fun x hl => blocks_fit (Op.legal_typ hl))
      (fun _ _ _ => .inl rfl) (unpackEntry_eq · · · 4 _) fun _ _ _ _ => Prod.ext rfl BitVec.or_zero
  · refine takesQueues_of_elements _ (fun _ _ _ => rfl) (fun x hl => blocks_fit (Op.legal_typ hl))
      (fun _ _ _ => .inl rfl) (unpackEntry_eq · · · 8 _) fun x u taken j => ?_
    have hty : x.blockType u (j / 32) < 4 := Nat.mod_lt _ (by decide)
    simp only [unpackElement, unpackF8_eq hty]
    rfl
  · refine takesQueues_of_elements _ (fun _ _ _ => rfl) (fun _ _ => (by decide : 32 ≤ 1024 / 16)) (fun x u hl => ?_)
      (fun _ _ _ => rfl) fun x _ taken j => x.tagOf_eq _
    by_cases hq : x.f.dst.isQueue = true
    · exact .inl (qtagBody_queue hq)
    · refine .inr ⟨Option.eq_none_iff_forall_ne_some.2 fun q hpos => hq ?_, _, qtagBody_scalar (by simpa using hq)⟩
      exact isQueue_of_queueNum (Op.legal_dst hl) hpos

end Sys2Proof.Machine

end

/-! Rounding of exact values (R113, R120, R121): what is left over of a scaled value, and the two neighbours among
the codes of a format. -/

section

namespace Sys2Proof

/-! ### What is left over (R120) -/

/-- Whether a value between two neighbours goes to the farther one from 0 (R120). -/
def Rounding.Up (mode : Rounding) (neg : Bool) (above half odd : Prop) : Prop :=
  match mode with
  | .rne => above ∨ (half ∧ odd)
  | .rtz => False
  | .rdn => neg = true
  | .rup => neg = false

theorem Rounding.up_false_iff (mode : Rounding) (above half odd : Prop) :
    mode.Up false above half odd ↔ mode = .rup ∨ (mode = .rne ∧ (above ∨ (half ∧ odd))) := by
  cases mode <;> simp [Rounding.Up]

/-- What the left-over of `scaleDown` says of a value between two neighbours. -/
structure Leaves (lo hi x : ℚ) (left : Nat) : Prop where
  exact : left = 0 ↔ x = lo
  above : left = 3 ↔ lo + hi < 2 * x
  half : left = 2 ↔ 2 * x = lo + hi

theorem roundInt_down {mode : Rounding} {neg : Bool} {q left : Nat}
    (h : left = 0 ∨ ¬ mode.Up neg (left = 3) (left = 2) (q % 2 = 1)) : roundInt mode neg q left = q := by
  unfold roundInt
  by_cases h0 : left = 0
  · rw [if_pos h0]
  · have hd := h.resolve_left h0
    rw [if_neg h0]
    cases mode with
    | rne => exact if_neg hd
    | rtz => rfl
    | rdn => exact if_neg hd
    | rup => exact if_pos (by simpa [Rounding.Up] using hd)

theorem roundInt_up {mode : Rounding} {neg : Bool} {q left : Nat} (h0 : left ≠ 0)
    (h : mode.Up neg (left = 3) (left = 2) (q % 2 = 1)) : roundInt mode neg q left = q + 1 := by
  unfold roundInt
  rw [if_neg h0]
  cases mode with
  | rne => exact if_pos h
  | rtz => exact h.elim
  | rdn => exact if_pos h
  | rup => exact if_neg (by simpa [Rounding.Up] using h)

/-- Rounding to an integer goes to the upper neighbour where the value is no code and its mode asks for it. -/
theorem Leaves.roundInt {lo hi x : ℚ} {left : Nat} (h : Leaves lo hi x left) (mode : Rounding) (neg : Bool) (q : Nat) :
    (x = lo ∨ ¬ mode.Up neg (lo + hi < 2 * x) (2 * x = lo + hi) (q % 2 = 1) → roundInt mode neg q left = q) ∧
    (x ≠ lo ∧ mode.Up neg (lo + hi < 2 * x) (2 * x = lo + hi) (q % 2 = 1) → roundInt mode neg q left = q + 1) := by
  rw [← h.above, ← h.half, ← h.exact]
  exact ⟨roundInt_down, fun ⟨h0, hup⟩ => roundInt_up (h.exact.not.2 h0) hup⟩

theorem Leaves.scale {lo hi x u : ℚ} {left : Nat} (h : Leaves lo hi x left) (hu : 0 < u) :
    Leaves (lo * u) (hi * u) (x * u) left where
  exact := by rw [h.exact, mul_left_inj' hu.ne']
  above := by rw [h.above, ← add_mul, ← mul_assoc, mul_lt_mul_iff_left₀ hu]
  half := by rw [h.half, ← add_mul, ← mul_assoc, mul_left_inj' hu.ne']

/-- A quotient by an even number lies at or above its integer part, and its remainder against the half says on which
side of the midpoint. -/
theorem div_leaves (m : Nat) {h : Nat} (hpos : 0 < h) :
    ((m / (2 * h) : Nat) : ℚ) ≤ m / (2 * h : Nat) ∧ (m : ℚ) / (2 * h : Nat) < (m / (2 * h) : Nat) + 1 ∧
      Leaves (m / (2 * h) : Nat) ((m / (2 * h) : Nat) + 1) (m / (2 * h : Nat))
        (if m % (2 * h) = 0 then 0 else if m % (2 * h) < h then 1 else if m % (2 * h) = h then 2 else 3) := by
  have hD : (0 : ℚ) < (2 * h : Nat) := by exact_mod_cast Nat.mul_pos two_pos hpos
  have hr : m % (2 * h) < 2 * h := Nat.mod_lt _ (by omega)
  have hm : m = 2 * (m / (2 * h) * h) + m % (2 * h) := by
    rw [Nat.mul_left_comm, Nat.mul_comm (m / (2 * h)) (2 * h), Nat.div_add_mod]
  generalize m / (2 * h) = q at hm ⊢
  generalize m % (2 * h) = r at hr hm ⊢
  have hq : q * (2 * h) = 2 * (q * h) := Nat.mul_left_comm ..
  have hmid : (q + (q + 1)) * (2 * h) = 4 * (q * h) + 2 * h := by ring
  refine ⟨?_, ?_, ⟨?_, ?_, ?_⟩⟩
  · rw [le_div_iff₀ hD]
    norm_cast
    omega
  · rw [div_lt_iff₀ hD]
    norm_cast
    rw [Nat.succ_mul]
    omega
  · rw [div_eq_iff hD.ne']
    norm_cast
    constructor <;> intro <;> split_ifs at * <;> omega
  · rw [← mul_div_assoc, lt_div_iff₀ hD]
    norm_cast
    rw [hmid]
    constructor <;> intro <;> split_ifs at * <;> omega
  · rw [← mul_div_assoc, div_eq_iff hD.ne']
    norm_cast
    rw [hmid]
    constructor <;> intro <;> split_ifs at * <;> omega

/-- A scaled value lies at or above its integer part, below the next integer, and leaves what `scaleDown` says. -/
theorem scaleDown_leaves (m : Nat) (sh : Int) :
    ((scaleDown m sh).1 : ℚ) ≤ m * 2 ^ sh ∧ (m : ℚ) * 2 ^ sh < (scaleDown m sh).1 + 1 ∧
      Leaves (scaleDown m sh).1 ((scaleDown m sh).1 + 1) (m * 2 ^ sh) (scaleDown m sh).2 := by
  unfold scaleDown
  split
  case isTrue h =>
    obtain ⟨n, rfl⟩ := Int.eq_ofNat_of_zero_le h
    dsimp only [Int.toNat_natCast]
    have hx : (m : ℚ) * 2 ^ (n : Int) = ((m * 2 ^ n : Nat) : ℚ) := by push_cast; rfl
    rw [hx]
    refine ⟨le_rfl, lt_add_one _, ⟨by simp, iff_of_false (by decide) ?_, iff_of_false (by decide) ?_⟩⟩
    · intro h; simp at h; linarith
    · intro h; simp at h; linarith
  case isFalse h =>
    obtain ⟨n, rfl⟩ : ∃ n : Nat, sh = -((n + 1 : Nat) : Int) := ⟨(-sh).toNat - 1, by omega⟩
    have hx : (m : ℚ) * 2 ^ (-((n + 1 : Nat) : Int)) = m / (2 * 2 ^ n : Nat) := by
      rw [zpow_neg, zpow_natCast, ← div_eq_mul_inv, ← pow_succ']
      push_cast
      rfl
    rw [hx]
    simp only [neg_neg, Int.toNat_natCast, Nat.add_sub_cancel, pow_succ']
    exact div_leaves m (Nat.two_pow_pos n)

end Sys2Proof

end

/-! The codes of a format next to an exact value (R113, R120, R121). -/

section

namespace Sys2Proof

/-! ### Powers of two -/

theorem two_zpow_pos (k : Int) : (0 : ℚ) < 2 ^ k := zpow_pos two_pos k

/-- The binary logarithm of a value above 0 finds the powers of two around it. -/
theorem log2_bounds {m : Nat} (hm : 0 < m) (e : Int) :
    (2 : ℚ) ^ ((Nat.log2 m : Int) + e) ≤ m * 2 ^ e ∧ (m : ℚ) * 2 ^ e < 2 ^ ((Nat.log2 m : Int) + e + 1) := by
  have hlo : (2 : ℚ) ^ Nat.log2 m ≤ m := by exact_mod_cast Nat.log2_self_le hm.ne'
  have hhi : (m : ℚ) < 2 ^ (Nat.log2 m + 1) := by exact_mod_cast Nat.lt_log2_self
  constructor
  · rw [zpow_add₀ two_ne_zero, zpow_natCast]
    exact mul_le_mul_of_nonneg_right hlo (two_zpow_pos e).le
  · rw [add_right_comm, zpow_add₀ two_ne_zero, ← Nat.cast_succ, zpow_natCast]
    exact mul_lt_mul_of_pos_right hhi (two_zpow_pos e)

theorem two_zpow_le_iff {m : Nat} (hm : 0 < m) (e k : Int) : (2 : ℚ) ^ k ≤ m * 2 ^ e ↔ k ≤ Nat.log2 m + e := by
  obtain ⟨hlo, hhi⟩ := log2_bounds hm e
  constructor
  · intro h
    exact Int.lt_add_one_iff.1 ((zpow_lt_zpow_iff_right₀ one_lt_two).1 (h.trans_lt hhi))
  · intro h
    exact (zpow_le_zpow_right₀ one_le_two h).trans hlo

/-! ### Codes as numbers on a grid -/

section
variable (f : Format)

/-- A code is its binade and a number of steps of that binade, the last step reaching into the next one. -/
theorem Format.magnitude_eq {E q : Nat} (h : E = 0 ∨ 2 ^ f.mw ≤ q) (hq : q ≤ 2 * 2 ^ f.mw) :
    f.magnitude (E * 2 ^ f.mw + q) = q * 2 ^ ((E : Int) + f.emin - f.mw) := by
  have hp := Nat.two_pow_pos f.mw
  rcases lt_or_ge q (2 ^ f.mw) with hlt | hge
  · obtain rfl := h.resolve_right hlt.not_ge
    rw [Format.magnitude, Nat.zero_mul, Nat.zero_add, if_pos hlt]
    simp
  have hnot : ¬ E * 2 ^ f.mw + q < 2 ^ f.mw := by omega
  rw [Format.magnitude, if_neg hnot]
  obtain ⟨r, rfl⟩ := Nat.exists_eq_add_of_le hge
  rw [Nat.mul_comm, ← Nat.add_assoc, ← Nat.mul_succ, Nat.mul_add_div hp, Nat.mul_add_mod]
  rcases lt_or_eq_of_le (show r ≤ 2 ^ f.mw by omega) with hr | rfl
  · rw [Nat.div_eq_of_lt hr, Nat.mod_eq_of_lt hr]
    congr 2
    simp only [Format.emin]
    push_cast
    ring
  · rw [Nat.div_self hp, Nat.mod_self, Nat.add_zero, ← two_mul, Nat.cast_mul, Nat.cast_two,
      mul_comm (2 : ℚ), mul_assoc, ← zpow_one_add₀ two_ne_zero]
    congr 2
    simp only [Format.emin]
    push_cast
    ring

/-- Every code is a binade and a number of steps, fewer than the next binade asks for. -/
theorem Format.exists_binade (c : Nat) :
    ∃ E q, c = E * 2 ^ f.mw + q ∧ (E = 0 ∨ 2 ^ f.mw ≤ q) ∧ q + 1 ≤ 2 * 2 ^ f.mw := by
  have hp := Nat.two_pow_pos f.mw
  rcases lt_or_ge c (2 ^ f.mw) with hlt | hge
  · exact ⟨0, c, by simp, .inl rfl, by omega⟩
  · obtain ⟨r, rfl⟩ := Nat.exists_eq_add_of_le hge
    refine ⟨r / 2 ^ f.mw, 2 ^ f.mw + r % 2 ^ f.mw, ?_, .inr (Nat.le_add_right _ _), ?_⟩
    · have := Nat.div_add_mod' r (2 ^ f.mw)
      omega
    · have := Nat.mod_lt r hp
      omega

theorem Format.magnitude_strictMono : StrictMono f.magnitude := by
  refine strictMono_nat_of_lt_succ fun c => ?_
  obtain ⟨E, q, rfl, h, hq⟩ := f.exists_binade c
  rw [Nat.add_assoc, f.magnitude_eq h (by omega), f.magnitude_eq (h.imp_right (by omega)) hq]
  push_cast
  exact mul_lt_mul_of_pos_right (lt_add_one _) (two_zpow_pos _)

/-- Between two neighbours stands one code only. -/
theorem Format.magnitude_unique {c d : Nat} {x : ℚ} (hc : f.magnitude c ≤ x ∧ x < f.magnitude (c + 1))
    (hd : f.magnitude d ≤ x ∧ x < f.magnitude (d + 1)) : c = d := by
  have h1 := f.magnitude_strictMono.lt_iff_lt.1 (hc.1.trans_lt hd.2)
  have h2 := f.magnitude_strictMono.lt_iff_lt.1 (hd.1.trans_lt hc.2)
  omega

end

/-! ### The neighbours of a value (R120) -/

/-- The exponent of the steps that a value is rounded to. -/
def Format.gridExp (f : Format) (m : Nat) (e : Int) : Int :=
  (if (Nat.log2 m : Int) + e < f.emin then f.emin else (Nat.log2 m : Int) + e) - f.mw

/-- A value in steps of its grid: the whole ones, and what is left over. -/
def Format.steps (f : Format) (m : Nat) (e : Int) : Nat × Nat := scaleDown m (e - f.gridExp m e)

/-- The code next to a value towards 0. -/
def Format.codeBelow (f : Format) (m : Nat) (e : Int) : Nat :=
  (f.gridExp m e + f.mw - f.emin).toNat * 2 ^ f.mw + (f.steps m e).1

section
variable (f : Format) {m : Nat} (hm : 0 < m) (e : Int)

include hm

/-- Below the normal values a value has fewer steps than a binade, and else at least a binade's. -/
theorem Format.steps_spec :
    if (Nat.log2 m : Int) + e < f.emin then f.gridExp m e = f.emin - f.mw ∧ (f.steps m e).1 < 2 ^ f.mw
    else f.gridExp m e = Nat.log2 m + e - f.mw ∧ 2 ^ f.mw ≤ (f.steps m e).1 ∧ (f.steps m e).1 < 2 * 2 ^ f.mw := by
  obtain ⟨hq, hq1, -⟩ := scaleDown_leaves m (e - f.gridExp m e)
  obtain ⟨hlo, hhi⟩ := log2_bounds hm (e - f.gridExp m e)
  rw [← Format.steps] at hq hq1
  split
  case isTrue h =>
    have hg : f.gridExp m e = f.emin - f.mw := by rw [Format.gridExp, if_pos h]
    have hle : (2 : ℚ) ^ ((Nat.log2 m : Int) + (e - f.gridExp m e) + 1) ≤ 2 ^ (f.mw : Int) :=
      zpow_le_zpow_right₀ one_le_two (by omega)
    have hlt := hq.trans_lt (hhi.trans_le hle)
    rw [zpow_natCast] at hlt
    exact ⟨hg, by exact_mod_cast hlt⟩
  case isFalse h =>
    have hg : f.gridExp m e = Nat.log2 m + e - f.mw := by rw [Format.gridExp, if_neg h]
    have hexp : (Nat.log2 m : Int) + (e - f.gridExp m e) = f.mw := by omega
    rw [hexp, zpow_natCast] at hlo
    rw [hexp, ← Nat.cast_succ, zpow_natCast, pow_succ'] at hhi
    have h1 := hlo.trans_lt hq1
    have h2 := hq.trans_lt hhi
    exact ⟨hg, Nat.lt_succ_iff.1 (by exact_mod_cast h1), by exact_mod_cast h2⟩

/-- The code next to a value and the one after it are neighbouring points of the value's grid. -/
theorem Format.magnitude_codeBelow :
    f.magnitude (f.codeBelow m e) = (f.steps m e).1 * 2 ^ f.gridExp m e ∧
    f.magnitude (f.codeBelow m e + 1) = ((f.steps m e).1 + 1) * 2 ^ f.gridExp m e := by
  have hs := f.steps_spec hm e
  have hE : ∃ E : Nat, f.gridExp m e + f.mw - f.emin = E ∧ (E = 0 ∨ 2 ^ f.mw ≤ (f.steps m e).1) ∧
      (f.steps m e).1 + 1 ≤ 2 * 2 ^ f.mw := by
    split at hs
    case isTrue h => exact ⟨0, by omega, .inl rfl, by omega⟩
    case isFalse h => exact ⟨(f.gridExp m e + f.mw - f.emin).toNat, by omega, .inr hs.2.1, by omega⟩
  obtain ⟨E, hE, hfull, hq⟩ := hE
  have hg : (E : Int) + f.emin - f.mw = f.gridExp m e := by omega
  rw [Format.codeBelow, hE, Int.toNat_natCast, f.magnitude_eq hfull (by omega), Nat.add_assoc,
    f.magnitude_eq (hfull.imp_right (by omega)) hq, hg, Nat.cast_succ]
  exact ⟨rfl, rfl⟩

/-- A value lies at or above the code below it and below the next, and leaves what its steps say. -/
theorem Format.codeBelow_spec :
    f.magnitude (f.codeBelow m e) ≤ m * 2 ^ e ∧ (m : ℚ) * 2 ^ e < f.magnitude (f.codeBelow m e + 1) ∧
    Leaves (f.magnitude (f.codeBelow m e)) (f.magnitude (f.codeBelow m e + 1)) (m * 2 ^ e) (f.steps m e).2 := by
  obtain ⟨hlo, hhi, hl⟩ := scaleDown_leaves m (e - f.gridExp m e)
  have hu := two_zpow_pos (f.gridExp m e)
  have hx : (m : ℚ) * 2 ^ e = m * 2 ^ (e - f.gridExp m e) * 2 ^ f.gridExp m e := by
    rw [mul_assoc, ← zpow_add₀ two_ne_zero, sub_add_cancel]
  obtain ⟨h0, h1⟩ := f.magnitude_codeBelow hm e
  rw [h0, h1, hx]
  exact ⟨mul_le_mul_of_nonneg_right hlo hu.le, mul_lt_mul_of_pos_right hhi hu, hl.scale hu⟩

/-- The subnormal codes are those of the values below the normal ones. -/
theorem Format.codeBelow_lt_iff : f.codeBelow m e < 2 ^ f.mw ↔ (Nat.log2 m : Int) + e < f.emin := by
  have hs := f.steps_spec hm e
  rw [Format.codeBelow]
  split at hs
  case isTrue h =>
    obtain ⟨hg, hq⟩ := hs
    rw [hg, sub_add_cancel, sub_self, Int.toNat_zero, Nat.zero_mul, Nat.zero_add]
    exact iff_of_true hq h
  case isFalse h =>
    exact iff_of_false (by omega) h

omit hm in
/-- The last bit of a code is that of its steps. -/
theorem Format.codeBelow_odd (hw : 0 < f.mw) : f.codeBelow m e % 2 = (f.steps m e).1 % 2 := by
  obtain ⟨w, hw⟩ := Nat.exists_eq_add_of_lt hw
  rw [Format.codeBelow, hw, Nat.zero_add, pow_succ, ← Nat.mul_assoc, Nat.mul_add_mod_self_right]

end

end Sys2Proof

end

/-! The rounding of exact values, and of values that a last bit stands for (R120, R121, R231). -/

section

namespace Sys2Proof

/-! ### The result of a rounding (R120, R121, Table 5.5) -/

/-- The code past the largest finite one is that of the infinity or of the NaN, where the format has one, and else that
of the sign. -/
structure Format.Regular (f : Format) : Prop where
  mw_pos : 0 < f.mw
  ieee : f.spec = .ieee → (2 ^ f.ew - 1) * 2 ^ f.mw = f.maxCode + 1
  nanOnly : f.spec = .nanOnly → f.canon = f.maxCode + 1 ∧ f.canon + 1 = 2 ^ (f.ew + f.mw)
  none : f.spec = .none → f.maxCode + 1 = 2 ^ (f.ew + f.mw)

/-- The cases in which an overflow gives the largest finite code (Table 5.5). -/
def Format.Inward (f : Format) (mode : Rounding) (sat neg : Bool) : Prop :=
  sat = true ∨ f.spec = .none ∨ mode = .rtz ∨ (mode = .rdn ∧ neg = false) ∨ (mode = .rup ∧ neg = true)

theorem Format.overflow_inward {f : Format} {mode : Rounding} {sat neg : Bool} (h : f.Inward mode sat neg) :
    f.overflow mode sat neg = f.signBit neg + f.maxCode := by
  obtain rfl | hs | rfl | ⟨rfl, rfl⟩ | ⟨rfl, rfl⟩ := h
  · rfl
  · cases mode <;> simp [Format.overflow, hs]
  · exact ite_self _
  · exact ite_self _
  · exact ite_self _

theorem Format.Regular.overflow_outward {f : Format} (hf : f.Regular) {mode : Rounding} {sat neg : Bool}
    (h : ¬ f.Inward mode sat neg) : f.overflow mode sat neg = f.signBit neg + f.maxCode + 1 := by
  simp only [Format.Inward, not_or, not_and, Bool.not_eq_true, Bool.not_eq_false] at h
  obtain ⟨rfl, hspec, hmode, hdn, hup⟩ := h
  have hpast : f.overflow .rne false neg = f.signBit neg + f.maxCode + 1 := by
    cases hs : f.spec with
    | ieee => simp only [Format.overflow, hs, hf.ieee hs, Nat.add_assoc, Bool.false_eq_true, if_false]
    | nanOnly => simp only [Format.overflow, hs, (hf.nanOnly hs).1, Nat.add_assoc, Bool.false_eq_true, if_false]
    | none => exact absurd hs hspec
  rw [← hpast]
  cases mode with
  | rne => rfl
  | rtz => exact absurd rfl hmode
  | rdn => exact if_pos (hdn rfl)
  | rup => exact if_neg (by simp [hup rfl])

/-- A code and its flags are the rounding of a value between the codes c and c + 1, of which n is chosen. -/
def Format.RoundsAt (f : Format) (mode : Rounding) (sat neg : Bool) (x : ℝ) (r : Rounded) (c n : Nat) : Prop :=
  let lo : ℝ := (f.magnitude c : ℝ)
  let hi : ℝ := (f.magnitude (c + 1) : ℝ)
  let up : Prop := mode.Up neg (lo + hi < 2 * x) (2 * x = lo + hi) (c % 2 = 1)
  lo ≤ x ∧ x < hi ∧ (x = lo ∨ ¬ up → n = c) ∧ (x ≠ lo ∧ up → n = c + 1) ∧
  (f.maxCode < n → r.flags = flagOF ||| flagNX ∧ (f.Inward mode sat neg → r.code = f.signBit neg + f.maxCode) ∧
    (¬ f.Inward mode sat neg → r.code = f.signBit neg + f.maxCode + 1)) ∧
  (n ≤ f.maxCode → r.code = f.signBit neg + n ∧ (x = lo → r.flags = 0) ∧
    (x ≠ lo → r.flags = flagNX ||| (if c < 2 ^ f.mw then flagUF else 0)))

section
variable {f : Format} {mode : Rounding} {sat neg : Bool} {r : Rounded} {c n : Nat}

theorem Format.RoundsAt.rounds {x : ℝ} (h : f.RoundsAt mode sat neg x r c n) : f.Rounds mode sat neg x r :=
  ⟨c, n, h⟩

/-- Two values stand alike to a number: both below, both at it or both above. -/
def SameSide (x y a : ℝ) : Prop := (a ≤ x ↔ a ≤ y) ∧ (x ≤ a ↔ y ≤ a)

/-- Values that stand alike to two neighbours and to the midpoint between them are rounded alike. -/
theorem Format.RoundsAt.of_sameSide {x y : ℝ} (h : f.RoundsAt mode sat neg y r c n)
    (hlo : SameSide x y (f.magnitude c : ℝ)) (hhi : SameSide x y (f.magnitude (c + 1) : ℝ))
    (hmid : SameSide x y (((f.magnitude c : ℝ) + (f.magnitude (c + 1) : ℝ)) / 2)) :
    f.RoundsAt mode sat neg x r c n := by
  have heq : x = (f.magnitude c : ℝ) ↔ y = (f.magnitude c : ℝ) := by rw [le_antisymm_iff, le_antisymm_iff, hlo.1, hlo.2]
  have habove : (f.magnitude c : ℝ) + (f.magnitude (c + 1) : ℝ) < 2 * x ↔
      (f.magnitude c : ℝ) + (f.magnitude (c + 1) : ℝ) < 2 * y := by
    rw [← div_lt_iff₀' two_pos, ← div_lt_iff₀' two_pos, lt_iff_lt_of_le_iff_le hmid.2]
  have hhalf : 2 * x = (f.magnitude c : ℝ) + (f.magnitude (c + 1) : ℝ) ↔
      2 * y = (f.magnitude c : ℝ) + (f.magnitude (c + 1) : ℝ) := by
    rw [mul_comm, ← eq_div_iff two_ne_zero, mul_comm, ← eq_div_iff two_ne_zero, le_antisymm_iff, le_antisymm_iff,
      hmid.1, hmid.2]
  rw [Format.RoundsAt] at h ⊢
  simpa only [hlo.1, lt_iff_lt_of_le_iff_le hhi.1, heq, habove, hhalf, Ne] using h

end

/-! ### Exact values (R120, R121) -/

section
variable {f : Format} {m : Nat} (hm : 0 < m) (e : Int) (mode : Rounding) (sat neg : Bool)

/-- The code of a value before the check for overflow. -/
def Format.codeRounded (f : Format) (mode : Rounding) (neg : Bool) (m : Nat) (e : Int) : Nat :=
  (f.gridExp m e + f.mw - f.emin).toNat * 2 ^ f.mw + roundInt mode neg (f.steps m e).1 (f.steps m e).2

theorem Format.codeRounded_down {mode : Rounding} {neg : Bool}
    (h : (f.steps m e).2 = 0 ∨ ¬ mode.Up neg ((f.steps m e).2 = 3) ((f.steps m e).2 = 2) ((f.steps m e).1 % 2 = 1)) :
    f.codeRounded mode neg m e = f.codeBelow m e := by
  rw [Format.codeRounded, roundInt_down h, Format.codeBelow]

theorem Format.codeRounded_up {mode : Rounding} {neg : Bool} (h0 : (f.steps m e).2 ≠ 0)
    (h : mode.Up neg ((f.steps m e).2 = 3) ((f.steps m e).2 = 2) ((f.steps m e).1 % 2 = 1)) :
    f.codeRounded mode neg m e = f.codeBelow m e + 1 := by
  rw [Format.codeRounded, roundInt_up h0 h, Format.codeBelow, Nat.add_assoc]

include hm

theorem Format.round_eq : f.round mode sat neg m e =
    if f.maxCode < f.codeRounded mode neg m e then { code := f.overflow mode sat neg, flags := flagOF ||| flagNX }
    else { code := f.signBit neg + f.codeRounded mode neg m e,
           flags := (if (f.steps m e).2 = 0 then 0 else flagNX) |||
             (if (f.steps m e).2 ≠ 0 ∧ (Nat.log2 m : Int) + e < f.emin then flagUF else 0) } := by
  rw [Format.round, if_neg hm.ne']
  simp only [Format.codeRounded, Format.steps, Format.gridExp, sub_add_cancel]
  rfl

/-- An exact value is rounded to one of the codes next to it. -/
theorem Format.Regular.roundsAt (hf : f.Regular) : f.RoundsAt mode sat neg (((m : ℚ) * 2 ^ e : ℚ) : ℝ)
    (f.round mode sat neg m e) (f.codeBelow m e) (f.codeRounded mode neg m e) := by
  obtain ⟨hlo, hhi, hl⟩ := f.codeBelow_spec hm e
  have hexact : (((m : ℚ) * 2 ^ e : ℚ) : ℝ) = (f.magnitude (f.codeBelow m e) : ℝ) ↔ (f.steps m e).2 = 0 := by
    rw [hl.exact]
    exact Rat.cast_inj
  have habove : (f.magnitude (f.codeBelow m e) : ℝ) + (f.magnitude (f.codeBelow m e + 1) : ℝ) <
      2 * (((m : ℚ) * 2 ^ e : ℚ) : ℝ) ↔ (f.steps m e).2 = 3 := by
    rw [hl.above]
    exact_mod_cast Iff.rfl
  have hhalf : 2 * (((m : ℚ) * 2 ^ e : ℚ) : ℝ) =
      (f.magnitude (f.codeBelow m e) : ℝ) + (f.magnitude (f.codeBelow m e + 1) : ℝ) ↔ (f.steps m e).2 = 2 := by
    rw [hl.half]
    exact_mod_cast Iff.rfl
  rw [f.round_eq hm]
  simp only [Format.RoundsAt, hexact, habove, hhalf, f.codeBelow_odd (m := m) e hf.mw_pos, Ne]
  refine ⟨Rat.cast_le.2 hlo, Rat.cast_lt.2 hhi, f.codeRounded_down e, fun ⟨h0, h⟩ => f.codeRounded_up e h0 h,
    fun h => ?_, fun h => ?_⟩
  · rw [if_pos h]
    exact ⟨rfl, Format.overflow_inward, hf.overflow_outward⟩
  · rw [if_neg h.not_gt]
    refine ⟨rfl, fun h0 => ?_, fun h0 => ?_⟩
    · simp [h0]
    · simp [h0, f.codeBelow_lt_iff hm e]

end

theorem Format.le_gridExp (f : Format) (m : Nat) (e : Int) : (Nat.log2 m : Int) + e - f.mw ≤ f.gridExp m e := by
  rw [Format.gridExp]
  split <;> omega

/-! ### Values that a last bit stands for (R231) -/

section
variable {q : Nat} {e : Int} {inexact : Bool} {x : ℝ} (hlo : (q : ℝ) * 2 ^ e ≤ x) (hhi : x < (q + 1) * 2 ^ e)
  (hex : inexact = false ↔ x = q * 2 ^ e)

include hlo hhi hex

/-- A value between two multiples of a unit stands to every multiple of the unit as the number of half units does that
`sticky` puts in its place. -/
theorem sameSide_sticky (k : Nat) :
    SameSide x ((((2 * q + (if inexact then 1 else 0) : Nat) : ℚ) * 2 ^ (e - 1) : ℚ) : ℝ) (k * 2 ^ e) := by
  have hu : (0 : ℝ) < 2 ^ e := zpow_pos two_pos e
  have hv : (0 : ℝ) < 2 ^ (e - 1) := zpow_pos two_pos _
  have hk : (k : ℝ) * 2 ^ e = ((2 * k : Nat) : ℝ) * 2 ^ (e - 1) := by
    rw [zpow_sub_one₀ two_ne_zero]
    push_cast
    ring
  have hs : ((((2 * q + (if inexact then 1 else 0) : Nat) : ℚ) * 2 ^ (e - 1) : ℚ) : ℝ) =
      ((2 * q + (if inexact then 1 else 0) : Nat) : ℝ) * 2 ^ (e - 1) := by
    rw [Rat.cast_mul, Rat.cast_natCast, Rat.cast_zpow, Rat.cast_ofNat]
  have hbelow : (k : ℝ) * 2 ^ e ≤ x ↔ k ≤ q := by
    constructor
    · intro h
      have hlt := lt_of_mul_lt_mul_right (h.trans_lt hhi) hu.le
      exact Nat.lt_succ_iff.1 (by exact_mod_cast hlt)
    · intro h
      exact (mul_le_mul_of_nonneg_right (by exact_mod_cast h) hu.le).trans hlo
  have habove : x ≤ (k : ℝ) * 2 ^ e ↔ q < k ∨ q = k ∧ inexact = false := by
    constructor
    · intro h
      have hle := Nat.cast_le.1 (le_of_mul_le_mul_right (hlo.trans h) hu)
      rcases hle.lt_or_eq with hlt | rfl
      · exact .inl hlt
      · exact .inr ⟨rfl, hex.2 (h.antisymm hlo)⟩
    · rintro (h | ⟨rfl, h⟩)
      · exact hhi.le.trans (mul_le_mul_of_nonneg_right (by exact_mod_cast h) hu.le)
      · exact (hex.1 h).le
  rw [SameSide, hbelow, habove, hk, hs, mul_le_mul_iff_left₀ hv, mul_le_mul_iff_left₀ hv, Nat.cast_le, Nat.cast_le]
  cases inexact with
  | true => simp; omega
  | false => simp; omega

/-- A value whose integer part has bits enough beyond those of a format is rounded as what `sticky` puts in its
place (R231). -/
theorem Format.Regular.rounds_sticky {f : Format} (hf : f.Regular) (hq : 2 ^ (f.mw + 1) ≤ q) (mode : Rounding)
    (sat neg : Bool) : f.Rounds mode sat neg x (f.ofVal mode sat (sticky neg q e inexact)) := by
  have hside := sameSide_sticky hlo hhi hex
  unfold sticky Format.ofVal
  have hM : 2 * q ≤ 2 * q + (if inexact then 1 else 0) := Nat.le_add_right _ _
  generalize 2 * q + (if inexact then 1 else 0) = M at hM hside
  have hm : 0 < M := by have := Nat.two_pow_pos (f.mw + 1); omega
  have hlog : f.mw + 2 ≤ Nat.log2 M := by
    rw [Nat.le_log2 hm.ne', pow_succ]
    omega
  have hat := hf.roundsAt hm (e - 1) mode sat neg
  obtain ⟨n, hn⟩ : ∃ n : Nat, f.gridExp M (e - 1) = e + (n + 1 : Nat) := by
    have hge := f.le_gridExp M (e - 1)
    exact ⟨(f.gridExp M (e - 1) - e - 1).toNat, by omega⟩
  obtain ⟨h0, h1⟩ := f.magnitude_codeBelow hm (e - 1)
  rw [hn] at h0 h1
  generalize (f.steps M (e - 1)).1 = p at h0 h1
  have hgrid (k : Nat) : (k : ℝ) * 2 ^ (e + (n + 1 : Nat)) = ((k * 2 ^ (n + 1) : Nat) : ℝ) * 2 ^ e := by
    rw [zpow_add₀ two_ne_zero, zpow_natCast]
    push_cast
    ring
  have hc : (f.magnitude (f.codeBelow M (e - 1)) : ℝ) = (p * 2 ^ (n + 1) : Nat) * 2 ^ e := by
    rw [h0, ← hgrid]
    push_cast
    rfl
  have hc1 : (f.magnitude (f.codeBelow M (e - 1) + 1) : ℝ) = ((p + 1) * 2 ^ (n + 1) : Nat) * 2 ^ e := by
    rw [h1, ← hgrid]
    push_cast
    rfl
  have hmid : ((f.magnitude (f.codeBelow M (e - 1)) : ℝ) + (f.magnitude (f.codeBelow M (e - 1) + 1) : ℝ)) / 2 =
      ((2 * p + 1) * 2 ^ n : Nat) * 2 ^ e := by
    rw [hc, hc1]
    push_cast
    ring
  exact (hat.of_sameSide (hc ▸ hside _) (hc1 ▸ hside _) (hmid ▸ hside _)).rounds

end

end Sys2Proof

end

/-! Conversions between floats and integers (R95, R113, R123, R124, R128). -/

section

namespace Sys2Proof

/-! ### Rounding to an integer (R123) -/

/-- Whether a value that is no integer goes to the integer above its floor. -/
def Rounding.ceils (mode : Rounding) (v : ℚ) (lo : Int) : Bool :=
  match mode with
  | .rne => decide (2 * (lo : ℚ) + 1 < 2 * v) || (decide (2 * (lo : ℚ) + 1 = 2 * v) && lo % 2 == 1)
  | .rtz => decide (v < 0)
  | .rdn => false
  | .rup => true

/-- The integer that a value is rounded to. -/
def Rounding.toInt (mode : Rounding) (v : ℚ) : Int :=
  if (⌊v⌋ : ℚ) ≠ v ∧ mode.ceils v ⌊v⌋ = true then ⌊v⌋ + 1 else ⌊v⌋

theorem Rounding.toInt_of_eq {mode : Rounding} {v : ℚ} {n : Int} (h : v = n) : mode.toInt v = n := by
  rw [h, Rounding.toInt, Int.floor_intCast, if_neg (by simp)]

section
variable {y : ℚ} {q left : Nat} (hlo : (q : ℚ) ≤ y) (hhi : y < q + 1) (hl : Leaves q (q + 1) y left)

include hlo hhi hl

/-- A value that is not negative and no integer is rounded up from its integer part as its left-over says. -/
theorem Rounding.toInt_of_leaves (mode : Rounding) : mode.toInt y = roundInt mode false q left := by
  have hfloor : ⌊y⌋ = (q : Int) := Int.floor_eq_iff.2 ⟨by exact_mod_cast hlo, by exact_mod_cast hhi⟩
  have hexact : (((q : Int) : ℚ) ≠ y) ↔ left ≠ 0 := by rw [Ne, eq_comm, Int.cast_natCast, ← hl.exact]
  have hceils : mode.ceils y q = true ↔ mode.Up false (left = 3) (left = 2) (q % 2 = 1) := by
    cases mode with
    | rne =>
      have hodd : (q : Int) % 2 = 1 ↔ q % 2 = 1 := by omega
      simp only [Rounding.ceils, Rounding.Up, hl.above, hl.half, Bool.or_eq_true, Bool.and_eq_true, decide_eq_true_eq,
        beq_iff_eq, hodd, Int.cast_natCast]
      rw [← add_assoc, ← two_mul, eq_comm (a := 2 * y)]
    | rtz => simp [Rounding.ceils, Rounding.Up, (Nat.cast_nonneg q).trans hlo]
    | rdn => simp [Rounding.ceils, Rounding.Up]
    | rup => simp [Rounding.ceils, Rounding.Up]
  rw [Rounding.toInt, hfloor]
  split
  case isTrue h =>
    rw [hexact, hceils] at h
    rw [roundInt_up h.1 h.2, Nat.cast_succ]
  case isFalse h =>
    rw [hexact, hceils] at h
    rw [roundInt_down (by tauto)]

theorem floor_neg_of_leaves (h0 : left ≠ 0) : ⌊-y⌋ = -(q : Int) - 1 := by
  have hlt : (q : ℚ) < y := lt_of_le_of_ne hlo fun h => h0 (hl.exact.2 h.symm)
  rw [Int.floor_eq_iff]
  push_cast
  exact ⟨by linarith, by linarith⟩

theorem floor_eq_iff_of_leaves : (⌊y⌋ : ℚ) = y ↔ left = 0 := by
  have hfloor : ⌊y⌋ = (q : Int) := Int.floor_eq_iff.2 ⟨by exact_mod_cast hlo, by exact_mod_cast hhi⟩
  rw [hfloor, hl.exact, Int.cast_natCast, eq_comm]

theorem floor_neg_eq_iff_of_leaves : (⌊-y⌋ : ℚ) = -y ↔ left = 0 := by
  by_cases h0 : left = 0
  · have hy : -y = (-(q : Int) : Int) := by rw [hl.exact.1 h0]; push_cast; rfl
    rw [hy, Int.floor_intCast]
    exact iff_of_true rfl h0
  · rw [floor_neg_of_leaves hlo hhi hl h0]
    push_cast
    exact iff_of_false (fun h => by linarith) h0

/-- A negative value goes to the integer of which its magnitude is rounded to the opposite. -/
theorem Rounding.toInt_neg_of_leaves (mode : Rounding) : mode.toInt (-y) = -(roundInt mode true q left : Int) := by
  by_cases h0 : left = 0
  · rw [roundInt_down (.inl h0)]
    exact Rounding.toInt_of_eq (by rw [hl.exact.1 h0]; push_cast; rfl)
  have hlt : (q : ℚ) < y := lt_of_le_of_ne hlo fun h => h0 (hl.exact.2 h.symm)
  have hceils : mode.ceils (-y) (-(q : Int) - 1) = true ↔ ¬ mode.Up true (left = 3) (left = 2) (q % 2 = 1) := by
    cases mode with
    | rne =>
      have hodd : (-(q : Int) - 1) % 2 = 1 ↔ ¬ q % 2 = 1 := by omega
      have hbelow : 2 * ((-(q : Int) - 1 : Int) : ℚ) + 1 < 2 * -y ↔ ¬ left = 3 ∧ ¬ left = 2 := by
        rw [hl.above, hl.half, not_lt, ← lt_iff_le_and_ne]
        push_cast
        constructor <;> intro h <;> linarith
      have hhalf : 2 * ((-(q : Int) - 1 : Int) : ℚ) + 1 = 2 * -y ↔ left = 2 := by
        rw [hl.half]
        push_cast
        constructor <;> intro h <;> linarith
      simp only [Rounding.ceils, Rounding.Up, Bool.or_eq_true, Bool.and_eq_true, decide_eq_true_eq, beq_iff_eq, hodd,
        hbelow, hhalf]
      omega
    | rtz =>
      have hpos : 0 < y := (Nat.cast_nonneg q).trans_lt hlt
      simp [Rounding.ceils, Rounding.Up, hpos]
    | rdn => simp [Rounding.ceils, Rounding.Up]
    | rup => simp [Rounding.ceils, Rounding.Up]
  rw [Rounding.toInt, floor_neg_of_leaves hlo hhi hl h0]
  split
  case isTrue h => rw [roundInt_down (.inr (hceils.1 h.2)), sub_add_cancel]
  case isFalse h =>
    have hne : ((-(q : Int) - 1 : Int) : ℚ) ≠ -y := by
      push_cast
      intro h
      linarith
    rw [roundInt_up h0 (by tauto), Nat.cast_succ, neg_add']

end

theorem FVal.rat_fin (neg : Bool) (m : Nat) (e : Int) :
    (FVal.fin neg m e).rat = if neg then -((m : ℚ) * 2 ^ e) else (m : ℚ) * 2 ^ e := by
  rw [FVal.rat]
  split <;> ring

/-- Rounding to an integer, and whether the result differs from the value (R123). -/
theorem roundToInt_eq (mode : Rounding) (neg : Bool) (m : Nat) (e : Int) :
    (roundToInt mode neg m e).1 = mode.toInt (FVal.fin neg m e).rat ∧
    ((roundToInt mode neg m e).2 = true ↔ (⌊(FVal.fin neg m e).rat⌋ : ℚ) ≠ (FVal.fin neg m e).rat) := by
  obtain ⟨hlo, hhi, hl⟩ := scaleDown_leaves m e
  rw [FVal.rat_fin]
  cases neg with
  | false =>
    refine ⟨(Rounding.toInt_of_leaves hlo hhi hl mode).symm, ?_⟩
    rw [if_neg Bool.false_ne_true, Ne, floor_eq_iff_of_leaves hlo hhi hl]
    exact bne_iff_ne
  | true =>
    refine ⟨(Rounding.toInt_neg_of_leaves hlo hhi hl mode).symm, ?_⟩
    rw [if_pos rfl, Ne, floor_neg_eq_iff_of_leaves hlo hhi hl]
    exact bne_iff_ne

/-! ### Conversions (R95, R123, R124, R128) -/

theorem Typ.lo_le_hi (t : Typ) : t.lo ≤ t.hi := by cases t <;> decide

theorem Typ.clamp_comm (t : Typ) (v : Int) : min (max v t.lo) t.hi = max t.lo (min t.hi v) := by
  have := t.lo_le_hi
  omega

theorem satOfMod_eq (mod : BitVec 5) : satOfMod mod = mod.getLsbD 2 := by
  rw [satOfMod, Machine.bit_eq_testBit, BitVec.testBit_toNat]

section
variable {src dst : Typ} (mod : BitVec 5) (code : Nat)

theorem convert_int_int (hs : src.isInt = true) (hd : dst.isInt = true) : convert src dst mod code =
    (dst.wrap (if mod.getLsbD 2 = true then max dst.lo (min dst.hi (src.value code)) else src.value code), 0) := by
  simp only [convert, hs, hd, if_true, satOfMod_eq, Typ.sat, Typ.clamp_comm, apply_ite dst.wrap]

theorem convert_int_float (hs : src.isInt = true) (hd : dst.isInt = false) : convert src dst mod code =
    let v := src.value code
    let r := dst.format.ofVal (Rounding.ofMod mod) (mod.getLsbD 2) (.fin (decide (v < 0)) v.natAbs 0)
    (BitVec.ofNat 64 r.code, r.flags) := by
  simp only [convert, hs, hd, if_true, Bool.false_eq_true, if_false, satOfMod_eq, Format.ofVal]

theorem convert_float_float (hs : src.isInt = false) (hd : dst.isInt = false) : convert src dst mod code =
    let r := dst.format.ofVal (Rounding.ofMod mod) (mod.getLsbD 2) (src.format.decode (code % 2 ^ src.format.width))
    (BitVec.ofNat 64 r.code, r.flags) := by
  simp only [convert, hs, hd, Bool.false_eq_true, if_false, satOfMod_eq]

theorem convert_float_int (hs : src.isInt = false) (hd : dst.isInt = true) : convert src dst mod code =
    let r := floatToInt (Rounding.ofMod mod) dst (src.format.decode (code % 2 ^ src.format.width))
    (dst.wrap r.1, r.2) := by
  simp only [convert, hs, hd, Bool.false_eq_true, if_false, if_true]

end

/-- A finite value converted to an integer type: rounded, then clamped, with the flag of each (R123). -/
theorem floatToInt_fin (mode : Rounding) (t : Typ) (neg : Bool) (m : Nat) (e : Int) :
    let v := (FVal.fin neg m e).rat
    floatToInt mode t (.fin neg m e) = (max t.lo (min t.hi (mode.toInt v)),
      if mode.toInt v < t.lo ∨ t.hi < mode.toInt v then flagNV else if (⌊v⌋ : ℚ) = v then 0 else flagNX) := by
  obtain ⟨h1, h2⟩ := roundToInt_eq mode neg m e
  have hle := t.lo_le_hi
  simp only [floatToInt, ← h1]
  by_cases hlo : (roundToInt mode neg m e).1 < t.lo
  · rw [if_pos hlo, if_pos (.inl hlo), max_eq_left (by omega)]
  by_cases hhi : t.hi < (roundToInt mode neg m e).1
  · rw [if_neg hlo, if_pos hhi, if_pos (.inr hhi), min_eq_left hhi.le, max_eq_right hle]
  rw [if_neg hlo, if_neg hhi, if_neg (not_or.2 ⟨hlo, hhi⟩), min_eq_right (by omega), max_eq_right (by omega)]
  by_cases hx : (⌊(FVal.fin neg m e).rat⌋ : ℚ) = (FVal.fin neg m e).rat
  · rw [if_pos hx, if_neg (fun h => h2.1 h hx)]
  · rw [if_neg hx, if_pos (h2.2 hx)]

theorem Typ.wrap_zero (t : Typ) : t.wrap 0 = 0 := by cases t <;> rfl

/-- R123: conversion to an integer type of a value that is no finite one. -/
theorem convert_special_int {src dst : Typ} (hs : src.isInt = false) (hd : dst.isInt = true) (mod : BitVec 5)
    (code : Nat) (b : Bool) :
    (src.format.decode (code % 2 ^ src.format.width) = .nan b → convert src dst mod code = (0, flagNV)) ∧
    (src.format.decode (code % 2 ^ src.format.width) = .inf b →
      convert src dst mod code = (dst.wrap (if b then dst.lo else dst.hi), flagNV)) := by
  rw [convert_float_int mod code hs hd]
  constructor
  · intro h
    rw [h]
    exact Prod.ext dst.wrap_zero rfl
  · intro h
    rw [h]
    rfl

/-- R123: conversion of a finite value to an integer type. -/
theorem convert_fin_int {src dst : Typ} (hs : src.isInt = false) (hd : dst.isInt = true) (mod : BitVec 5)
    (code : Nat) {neg : Bool} {m : Nat} {e : Int} (h : src.format.decode (code % 2 ^ src.format.width) = .fin neg m e) :
    let v := (src.format.decode (code % 2 ^ src.format.width)).rat
    let n := (Rounding.ofMod mod).toInt v
    convert src dst mod code = (dst.wrap (max dst.lo (min dst.hi n)),
      if n < dst.lo ∨ dst.hi < n then flagNV else if (⌊v⌋ : ℚ) = v then 0 else flagNX) := by
  rw [convert_float_int mod code hs hd, h]
  simp only [floatToInt_fin]

end Sys2Proof

end

/-! What codes stand for (R113, R114, R117), and the scale tags of values (R132). -/

section

namespace Sys2Proof

/-! ### Finite codes (R113) -/

/-- The float types of Table 5.1. -/
def floatTypes : List Typ := [.f32, .f16, .bf16, .e4m3, .e5m2, .e3m2, .e2m3, .e2m1]

theorem regular_of_floatType {t : Typ} (h : t ∈ floatTypes) : t.format.Regular := by
  have hall : ∀ t ∈ floatTypes, let f := t.format
      0 < f.mw ∧ (f.spec = .ieee → (2 ^ f.ew - 1) * 2 ^ f.mw = f.maxCode + 1) ∧
      (f.spec = .nanOnly → f.canon = f.maxCode + 1 ∧ f.canon + 1 = 2 ^ (f.ew + f.mw)) ∧
      (f.spec = .none → f.maxCode + 1 = 2 ^ (f.ew + f.mw)) := by decide
  obtain ⟨hmw, hieee, hnan, hnone⟩ := hall t h
  exact ⟨hmw, hieee, hnan, hnone⟩

section
variable {f : Format} {code m : Nat} {neg : Bool} {e : Int}

theorem bits_exponent (f : Format) (code : Nat) : bits code f.mw f.ew = code % 2 ^ (f.ew + f.mw) / 2 ^ f.mw := by
  rw [bits, Nat.add_comm, pow_add, Nat.mod_mul_right_div_self]

theorem bits_mantissa (f : Format) (code : Nat) : bits code 0 f.mw = code % 2 ^ (f.ew + f.mw) % 2 ^ f.mw := by
  rw [bits, pow_zero, Nat.div_one, Nat.mod_mod_of_dvd _ (pow_dvd_pow 2 (Nat.le_add_left _ _))]

/-- A finite code stands for its sign and the magnitude of its other bits. -/
theorem Format.decode_fin (h : f.decode code = .fin neg m e) :
    neg = bit code (f.ew + f.mw) ∧ (m : ℚ) * 2 ^ e = f.magnitude (code % 2 ^ (f.ew + f.mw)) ∧
    m < 2 * 2 ^ f.mw ∧ f.emin - f.mw ≤ e := by
  have hp := Nat.two_pow_pos f.mw
  unfold Format.decode at h
  rw [bits_exponent, bits_mantissa] at h
  generalize code % 2 ^ (f.ew + f.mw) = c at h ⊢
  have hmod := Nat.mod_lt c hp
  rw [Format.magnitude]
  dsimp only at h
  split_ifs at h with h1 h2 h3 h4
  · obtain ⟨rfl, rfl, rfl⟩ := h
    have hc : c < 2 ^ f.mw := by simpa [hp.ne'] using h4
    rw [if_pos hc, Nat.mod_eq_of_lt hc]
    exact ⟨rfl, rfl, by omega, le_rfl⟩
  · obtain ⟨rfl, rfl, rfl⟩ := h
    have hc : ¬ c < 2 ^ f.mw := by simpa [hp.ne'] using h4
    have hdiv : 0 < c / 2 ^ f.mw := Nat.pos_of_ne_zero h4
    rw [if_neg hc]
    refine ⟨rfl, rfl, by omega, ?_⟩
    rw [Format.emin]
    omega

theorem Format.Regular.decode_fin_le (hf : f.Regular) (h : f.decode code = .fin neg m e) :
    code % 2 ^ (f.ew + f.mw) ≤ f.maxCode := by
  have hp := Nat.two_pow_pos f.mw
  have hlt : code % 2 ^ (f.ew + f.mw) < 2 ^ (f.ew + f.mw) := Nat.mod_lt _ (Nat.two_pow_pos _)
  have hsplit := Nat.div_add_mod' (code % 2 ^ (f.ew + f.mw)) (2 ^ f.mw)
  unfold Format.decode at h
  rw [bits_exponent, bits_mantissa] at h
  generalize code % 2 ^ (f.ew + f.mw) = c at h hlt hsplit ⊢
  have htop : c / 2 ^ f.mw < 2 ^ f.ew := by
    rwa [Nat.div_lt_iff_lt_mul hp, ← pow_add]
  cases hs : f.spec with
  | ieee =>
    have hne : c / 2 ^ f.mw ≠ 2 ^ f.ew - 1 := by
      intro heq
      simp only [hs, heq, and_self, if_true] at h
      split_ifs at h
    have hle := (Nat.div_lt_iff_lt_mul hp).1 (show c / 2 ^ f.mw < 2 ^ f.ew - 1 by omega)
    rw [hf.ieee hs] at hle
    omega
  | nanOnly =>
    obtain ⟨hcanon, hall⟩ := hf.nanOnly hs
    by_contra hle
    have hc : c = 2 ^ f.mw * (2 ^ f.ew - 1) + (2 ^ f.mw - 1) := by
      rw [Nat.mul_sub_one, ← pow_add, Nat.add_comm f.mw]
      have := Nat.pow_le_pow_right two_pos (Nat.le_add_left f.mw f.ew)
      omega
    have hdiv : c / 2 ^ f.mw = 2 ^ f.ew - 1 := by
      rw [hc, Nat.mul_add_div hp, Nat.div_eq_of_lt (by omega), Nat.add_zero]
    have hrem : c % 2 ^ f.mw = 2 ^ f.mw - 1 := by
      rw [hc, Nat.mul_add_mod, Nat.mod_eq_of_lt (by omega)]
    simp [hs, hdiv, hrem] at h
  | none =>
    have := hf.none hs
    omega

end

/-- R113: a finite code's sign is its first half or its second. -/
theorem Format.decode_fin_sign {f : Format} {code m : Nat} {neg : Bool} {e : Int}
    (hcode : code < 2 * 2 ^ (f.ew + f.mw)) (h : f.decode code = .fin neg m e) :
    neg = true ↔ 2 ^ (f.ew + f.mw) ≤ code := by
  obtain ⟨rfl, -⟩ := f.decode_fin h
  rw [Machine.bit_eq_testBit]
  constructor
  · exact fun h => Nat.ge_two_pow_of_testBit h
  · exact fun h => Nat.testBit_of_two_pow_le_and_two_pow_add_one_gt h (by rwa [pow_succ'])

/-! ### Special values (R114, R122) -/

section
variable {f : Format} (mode : Rounding) (sat b : Bool)

theorem Format.ofVal_special_ieee (hs : f.spec = .ieee) :
    f.ofVal mode sat (.nan b) = { code := f.canon, flags := if b then flagNV else 0 } ∧
    f.ofVal mode sat (.inf b) = { code := f.signBit b + (2 ^ f.ew - 1) * 2 ^ f.mw, flags := 0 } := by
  simp [Format.ofVal, hs]

theorem Format.ofVal_special_nanOnly (hs : f.spec = .nanOnly) :
    f.ofVal mode sat (.nan b) = { code := f.canon, flags := if b then flagNV else 0 } ∧
    f.ofVal mode sat (.inf b) =
      { code := f.signBit b + (if sat then f.maxCode else f.canon), flags := flagOF } := by
  simp [Format.ofVal, hs]

theorem Format.ofVal_special_none (hs : f.spec = .none) :
    f.ofVal mode sat (.nan b) = { code := f.canon, flags := flagNV } ∧
    f.ofVal mode sat (.inf b) = { code := f.signBit b + f.maxCode, flags := flagOF } := by
  simp [Format.ofVal, hs]

end

theorem intTypes_isInt : ∀ t ∈ [Typ.i8, .i16, .i32, .i64, .n8, .n16, .n32, .n64], t.isInt = true := by decide

theorem floatTypes_not_isInt : ∀ t ∈ floatTypes, t.isInt = false := by decide

end Sys2Proof

end

/-! The scale tags of values (R117, R132). -/

section

namespace Sys2Proof.Machine

/-- The ten bits of a scale tag as the codes of a format, whose codes from 8 on are the tags above 0 (R117). -/
def tagFormat : Format := { ew := 7, mw := 3, bias := 63, spec := .none, maxCode := 0x3FF, canon := 0x3FF }

/-- The value of a scale tag by its ten bits (R117). -/
def tagValue (c : Nat) : ℚ := ((8 + c % 8 : Nat) : ℚ) * 2 ^ (((c / 8 : Nat) : ℤ) - 66)

theorem tagFormat_magnitude {c : Nat} (h : 8 ≤ c) : tagFormat.magnitude c = tagValue c := by
  have hexp : ((c / 2 ^ 3 : Nat) : ℤ) - (63 : Nat) - (3 : Nat) = ((c / 8 : Nat) : ℤ) - 66 := by omega
  have hnot : ¬ c < 2 ^ tagFormat.mw := Nat.not_lt.2 h
  rw [Format.magnitude, if_neg hnot]
  exact congrArg (fun k : ℤ => ((8 + c % 8 : Nat) : ℚ) * 2 ^ k) hexp

theorem tagValue_eight : tagValue 8 = 2 ^ (-62 : ℤ) := by norm_num [tagValue]

theorem tagValue_eight_le {c : Nat} (h : 8 ≤ c) : tagValue 8 ≤ tagValue c := by
  rw [← tagFormat_magnitude le_rfl, ← tagFormat_magnitude h]
  exact tagFormat.magnitude_strictMono.monotone h

section
variable {m : Nat} (hm : 0 < m) (e : Int) (mode : Rounding)

include hm

/-- A value below the least tag above 0 goes to it from 2^-63 on, or where its mode asks for it. -/
theorem scaleCode_of_small (h : (Nat.log2 m : Int) + e < -62) : scaleCode mode (.fin false m e) =
    if mode = .rup ∨ (mode = .rne ∧ -63 ≤ (Nat.log2 m : Int) + e) then (8, flagNX) else (0, flagUF ||| flagNX) := by
  simp only [scaleCode, hm.ne', Bool.false_eq_true, if_false, h, if_true]
  cases mode <;> simp

/-- Any other value goes to the code that the rounding over the tags gives, or to the greatest. -/
theorem scaleCode_of_large (h : ¬ (Nat.log2 m : Int) + e < -62) : scaleCode mode (.fin false m e) =
    if 0x3FF < tagFormat.codeRounded mode false m e then (0x3FF, flagOF ||| flagNX)
    else (tagFormat.codeRounded mode false m e, if (tagFormat.steps m e).2 = 0 then 0 else flagNX) := by
  have hgrid : tagFormat.gridExp m e = (Nat.log2 m : Int) + e - 3 := by
    rw [Format.gridExp, if_neg (show ¬ (Nat.log2 m : Int) + e < tagFormat.emin from h)]
    rfl
  have hbinade : (Nat.log2 m : Int) + e - 3 + tagFormat.mw - tagFormat.emin = (Nat.log2 m : Int) + e + 62 := by
    simp only [tagFormat, Format.emin]
    omega
  simp only [scaleCode, hm.ne', Bool.false_eq_true, if_false, h, Format.codeRounded, Format.steps, hgrid, hbinade]
  rfl

end

theorem lt_tagValue_eight_iff {m : Nat} (hm : 0 < m) (e : Int) :
    (m : ℚ) * 2 ^ e < tagValue 8 ↔ (Nat.log2 m : Int) + e < -62 := by
  rw [tagValue_eight, ← not_le, two_zpow_le_iff hm, not_le]

theorem tagValue_eight_le_twice_iff {m : Nat} (hm : 0 < m) (e : Int) :
    tagValue 8 ≤ 2 * ((m : ℚ) * 2 ^ e) ↔ -63 ≤ (Nat.log2 m : Int) + e := by
  rw [tagValue_eight, ← two_zpow_le_iff hm, show (-62 : ℤ) = 1 + -63 by norm_num, zpow_one_add₀ two_ne_zero,
    mul_le_mul_iff_right₀ two_pos]

/-- R132: a value above 0 is rounded over the scale tags. -/
theorem scaleCode_spec (mode : Rounding) {m : Nat} (hm : 0 < m) (e : Int) :
    let x : ℚ := (m : ℚ) * 2 ^ e
    let r := scaleCode mode (.fin false m e)
    (x < tagValue 8 →
      r = if mode = .rup ∨ (mode = .rne ∧ 2 * x ≥ tagValue 8) then (8, flagNX) else (0, flagUF ||| flagNX)) ∧
    ∀ c, 8 ≤ c → tagValue c ≤ x → x < tagValue (c + 1) →
      let up : Prop := mode = .rup ∨ (mode = .rne ∧
        (tagValue c + tagValue (c + 1) < 2 * x ∨ (2 * x = tagValue c + tagValue (c + 1) ∧ c % 2 = 1)))
      ∃ n, (x = tagValue c ∨ ¬ up → n = c) ∧ (x ≠ tagValue c ∧ up → n = c + 1) ∧
        (0x3FF < n → r = (0x3FF, flagOF ||| flagNX)) ∧
        (n ≤ 0x3FF → r = (n, if x = tagValue c then 0 else flagNX)) := by
  intro x r
  refine ⟨fun h => ?_, fun c hc hlo hhi => ?_⟩
  · have hsmall := scaleCode_of_small hm e mode ((lt_tagValue_eight_iff hm e).1 h)
    simpa only [← tagValue_eight_le_twice_iff hm e] using hsmall
  intro up
  have hlarge : ¬ (Nat.log2 m : Int) + e < -62 := by
    rw [← lt_tagValue_eight_iff hm, not_lt]
    exact (tagValue_eight_le hc).trans hlo
  obtain ⟨h0, h1, hl⟩ := tagFormat.codeBelow_spec hm e
  have hmag : tagFormat.magnitude c = tagValue c ∧ tagFormat.magnitude (c + 1) = tagValue (c + 1) :=
    ⟨tagFormat_magnitude hc, tagFormat_magnitude (by omega)⟩
  have hcode : tagFormat.codeBelow m e = c :=
    tagFormat.magnitude_unique ⟨h0, h1⟩ ⟨hmag.1.trans_le hlo, hhi.trans_eq hmag.2.symm⟩
  rw [hcode, hmag.1, hmag.2] at hl
  have hup : up ↔ mode.Up false ((tagFormat.steps m e).2 = 3) ((tagFormat.steps m e).2 = 2)
      ((tagFormat.steps m e).1 % 2 = 1) := by
    rw [hl.above, hl.half, ← tagFormat.codeBelow_odd (m := m) e (by decide), hcode]
    exact (mode.up_false_iff _ _ _).symm
  have hr : r = _ := scaleCode_of_large hm e mode hlarge
  rw [hr, hup]
  refine ⟨tagFormat.codeRounded mode false m e, fun h => ?_, fun h => ?_, fun h => if_pos h, fun h => ?_⟩
  · exact (tagFormat.codeRounded_down e (h.imp_left hl.exact.2)).trans hcode
  · exact (tagFormat.codeRounded_up e (hl.exact.not.2 h.1) h.2).trans (congrArg Nat.succ hcode)
  · rw [if_neg h.not_gt]
    exact congrArg _ (if_congr hl.exact rfl rfl)

end Sys2Proof.Machine

end

/-! The elements of Q4 blocks (R115, R122, R130). -/

section

namespace Sys2Proof.Machine

/-! ### A value among the steps of a type -/

theorem eq_or_eq_succ_of_up {i n : Nat} {isLow up : Prop} (hdown : isLow ∨ ¬ up → n = i)
    (hup : ¬ isLow ∧ up → n = i + 1) : n = i ∨ n = i + 1 :=
  (em (¬ isLow ∧ up)).elim (fun h => .inr (hup h)) (fun h => .inl (hdown (by tauto)))

section
variable (m : Nat) (e : Int) (k : Nat)

/-- `compareNat` compares a value with a number. -/
theorem compareNat_spec :
    (compareNat m e k < 0 ↔ (m : ℚ) * 2 ^ e < k) ∧ (compareNat m e k = 0 ↔ (m : ℚ) * 2 ^ e = k) := by
  have hcmp (a b : Nat) : ((if a < b then -1 else if a = b then 0 else 1 : Int) < 0 ↔ a < b) ∧
      ((if a < b then -1 else if a = b then 0 else 1 : Int) = 0 ↔ a = b) := by
    split_ifs <;> simp <;> omega
  unfold compareNat
  obtain ⟨n, rfl | rfl⟩ := e.eq_nat_or_neg
  · obtain ⟨hlt, heq⟩ := hcmp (m * 2 ^ n) k
    simp only [Int.natCast_nonneg, if_true, Int.toNat_natCast, zpow_natCast]
    exact ⟨hlt.trans (by exact_mod_cast Iff.rfl), heq.trans (by exact_mod_cast Iff.rfl)⟩
  · obtain rfl | hn := n.eq_zero_or_pos
    · obtain ⟨hlt, heq⟩ := hcmp m k
      simpa using And.intro hlt heq
    · obtain ⟨hlt, heq⟩ := hcmp m (k * 2 ^ n)
      have hneg : ¬ (0 : Int) ≤ -(n : Int) := by omega
      simp only [hneg, if_false, neg_neg, Int.toNat_natCast, zpow_neg, zpow_natCast, ← div_eq_mul_inv]
      rw [div_lt_iff₀ (by positivity), div_eq_iff (by positivity)]
      exact ⟨hlt.trans (by exact_mod_cast Iff.rfl), heq.trans (by exact_mod_cast Iff.rfl)⟩

theorem compareNat_nonneg_iff : 0 ≤ compareNat m e k ↔ (k : ℚ) ≤ m * 2 ^ e := by
  rw [← not_lt, (compareNat_spec m e k).1, not_lt]

end

/-- In an ascending list the entries that a downward closed condition admits come first. -/
theorem length_filter_of_ascending {p : Nat → Bool} (hp : ∀ a b, a < b → p b = true → p a = true) {l : List Nat}
    (hl : l.Pairwise (· < ·)) {i a : Nat} (ha : l[i]? = some a) (hin : p a = true)
    (hout : ∀ b, l[i + 1]? = some b → p b = false) : (l.filter p).length = i + 1 := by
  induction l generalizing i with
  | nil => simp at ha
  | cons c l ih =>
    obtain ⟨hc, hl⟩ := List.pairwise_cons.1 hl
    cases i with
    | zero =>
      obtain rfl : c = a := by simpa using ha
      have hrest : l.filter p = [] := by
        refine List.filter_eq_nil_iff.2 fun b hb => ?_
        cases l with
        | nil => exact absurd hb List.not_mem_nil
        | cons d l =>
          have hd : p d = false := hout d rfl
          obtain rfl | hb := List.mem_cons.1 hb
          · simp [hd]
          · intro hpb
            exact Bool.false_ne_true (hd.symm.trans (hp d b (List.rel_of_pairwise_cons hl hb) hpb))
      rw [List.filter_cons_of_pos hin, hrest]
      rfl
    | succ i =>
      have hmem : a ∈ l := List.mem_of_getElem? ha
      rw [List.filter_cons_of_pos (hp _ _ (hc a hmem) hin), List.length_cons, ih hl ha hout]

section
variable {steps : List Nat} (hs : steps.Pairwise (· < ·)) {m : Nat} {e : Int} {i a : Nat}

include hs

theorem stepBelow_eq (ha : steps[i]? = some a) (hlo : (a : ℚ) ≤ m * 2 ^ e)
    (hhi : ∀ b, steps[i + 1]? = some b → (m : ℚ) * 2 ^ e < b) : stepBelow steps m e = i := by
  have hcount := length_filter_of_ascending (p := fun k => 0 ≤ compareNat m e k) (i := i)
    (fun c d hcd hd => by
      rw [decide_eq_true_eq, compareNat_nonneg_iff] at hd ⊢
      exact (Nat.cast_le.2 hcd.le).trans hd)
    hs ha (by rwa [decide_eq_true_eq, compareNat_nonneg_iff])
    (fun b hb => by
      rw [decide_eq_false_iff_not, compareNat_nonneg_iff, not_le]
      exact hhi b hb)
  rw [stepBelow, hcount, Nat.add_sub_cancel]

/-- A value at or above the last step is held to be that step. -/
theorem roundStep_last (ha : steps[i]? = some a) (hend : steps.length = i + 1) (hlo : (a : ℚ) ≤ m * 2 ^ e)
    (mode : Rounding) (neg : Bool) : roundStep mode neg steps m e = (i, true) := by
  have hb := stepBelow_eq hs ha hlo (fun b hb => by rw [List.getElem?_eq_none hend.le] at hb; exact nomatch hb)
  simp only [roundStep, hb, hend, le_refl, if_true]

/-- A value between two steps goes to one of them as its mode asks. -/
theorem roundStep_spec {b : Nat} (ha : steps[i]? = some a) (hb : steps[i + 1]? = some b) (hlo : (a : ℚ) ≤ m * 2 ^ e)
    (hhi : (m : ℚ) * 2 ^ e < b) (mode : Rounding) (neg : Bool) :
    let x : ℚ := m * 2 ^ e
    let up := mode.Up neg ((a : ℚ) + b < 2 * x) (2 * x = a + b) (i % 2 = 1)
    ((roundStep mode neg steps m e).2 = true ↔ x = a) ∧
    (x = a ∨ ¬ up → (roundStep mode neg steps m e).1 = i) ∧
    (x ≠ a ∧ up → (roundStep mode neg steps m e).1 = i + 1) := by
  intro x up
  have hbelow : stepBelow steps m e = i := stepBelow_eq hs ha hlo fun c hc => by
    obtain rfl := Option.some_injective _ (hb.symm.trans hc)
    exact hhi
  have hlen : ¬ steps.length ≤ i + 1 := by
    rw [← List.getElem?_eq_none_iff, hb]
    exact Option.some_ne_none b
  have htwice : (m : ℚ) * 2 ^ (e + 1) = 2 * x := by
    simp only [x]
    rw [zpow_add_one₀ two_ne_zero]
    ring
  obtain ⟨hneg, hzero⟩ := compareNat_spec m (e + 1) (a + b)
  have heq : compareNat m e a = 0 ↔ x = a := (compareNat_spec m e a).2
  rw [htwice, Nat.cast_add] at hneg hzero
  by_cases hx : x = a
  · have hr : roundStep mode neg steps m e = (i, true) := by
      simp only [roundStep, hbelow, hlen, if_false, ha, Option.getD_some, heq.2 hx, if_true]
    rw [hr]
    exact ⟨iff_of_true rfl hx, fun _ => rfl, fun h => absurd hx h.1⟩
  · have hr : roundStep mode neg steps m e = (roundInt mode neg i (if compareNat m (e + 1) (a + b) < 0 then 1
        else if compareNat m (e + 1) (a + b) = 0 then 2 else 3), false) := by
      simp only [roundStep, hbelow, hlen, if_false, ha, hb, Option.getD_some, heq, hx]
    have hl : Leaves a b x (if compareNat m (e + 1) (a + b) < 0 then 1
        else if compareNat m (e + 1) (a + b) = 0 then 2 else 3) := by
      simp only [hneg, hzero]
      constructor
      · split_ifs <;> simp [hx]
      · split_ifs <;> grind
      · split_ifs <;> grind
    rw [hr]
    exact ⟨iff_of_false Bool.false_ne_true hx, hl.roundInt mode neg i⟩

end

/-! ### The code of an element -/

/-- The steps of a type are the integer forms of its codes without a sign. -/
theorem q4Steps_get {ty : Nat} (h1 : 1 ≤ ty) (h4 : ty < 4) {i : Nat} (hi : i < 8) :
    ∃ a : Nat, (q4Steps ty)[i]? = some a ∧ q4Int ty i = (a : Int) := by
  have table : ∀ ty < 4, 1 ≤ ty → ∀ i < 8, ((q4Steps ty)[i]?).map (fun a : Nat => (a : Int)) = some (q4Int ty i) := by
    decide
  obtain ⟨a, ha, hq⟩ := Option.map_eq_some_iff.1 (table ty h4 h1 i hi)
  exact ⟨a, ha, hq.symm⟩

theorem q4Steps_ascending {ty : Nat} (h1 : 1 ≤ ty) (h4 : ty < 4) : (q4Steps ty).Pairwise (· < ·) := by
  interval_cases ty <;> decide

theorem q4Steps_length {ty : Nat} (h1 : 1 ≤ ty) (h4 : ty < 4) : (q4Steps ty).length = 9 := by
  interval_cases ty <;> rfl

section
variable {ty : Nat} (h1 : 1 ≤ ty) (h4 : ty < 4) (mod : BitVec 5) (neg : Bool) {m : Nat} (hm : 0 < m) (e : Int)

include h1 hm

theorem packQ4_fin : packQ4 ty mod (.fin neg m e) =
    (let r := roundStep (Rounding.ofMod mod) neg (q4Steps ty) m (e + q4Shift ty)
     if 8 ≤ r.1 then (if neg then 15 else 7, flagOF ||| flagNX)
     else (if r.1 = 0 then 0 else if neg then 8 + r.1 else r.1,
       if r.2 then 0 else flagNX ||| (if compareNat m (e + q4Shift ty) 1 < 0 then flagUF else 0))) := by
  rw [packQ4, if_neg (Nat.one_le_iff_ne_zero.1 h1)]
  exact if_neg hm.ne'

include h4

/-- A value below the greatest code's goes to one of the two codes beside it (R122, R130). -/
theorem packQ4_between {i : Nat} (hi : i < 7) :
    let x : ℚ := m * 2 ^ (e + q4Shift ty)
    let up := (Rounding.ofMod mod).Up neg ((q4Int ty i : ℚ) + q4Int ty (i + 1) < 2 * x)
      (2 * x = q4Int ty i + q4Int ty (i + 1)) (i % 2 = 1)
    q4Int ty i ≤ x → x < q4Int ty (i + 1) → ∃ n, (x = q4Int ty i ∨ ¬ up → n = i) ∧ (x ≠ q4Int ty i ∧ up → n = i + 1) ∧
      packQ4 ty mod (.fin neg m e) = (if n = 0 then 0 else if neg then 8 + n else n,
        if x = q4Int ty i then 0 else flagNX ||| (if x < 1 then flagUF else 0)) := by
  intro x up hlo hhi
  obtain ⟨a, ha, hqa⟩ := q4Steps_get h1 h4 (Nat.lt_trans hi (by decide))
  obtain ⟨b, hb, hqb⟩ := q4Steps_get h1 h4 (Nat.succ_lt_succ hi)
  simp only [up, hqa, hqb, Int.cast_natCast] at hlo hhi ⊢
  obtain ⟨hexact, hdown, hup⟩ :=
    roundStep_spec (q4Steps_ascending h1 h4) ha hb hlo hhi (Rounding.ofMod mod) neg
  refine ⟨_, hdown, hup, ?_⟩
  rw [packQ4_fin h1 mod neg hm e]
  have hle : ¬ 8 ≤ (roundStep (Rounding.ofMod mod) neg (q4Steps ty) m (e + q4Shift ty)).1 := by
    obtain h | h := eq_or_eq_succ_of_up hdown hup <;> omega
  have hone := (compareNat_spec m (e + q4Shift ty) 1).1
  simp only [if_neg hle, hexact, hone, Nat.cast_one]
  rfl

/-- A value at or above the greatest code's gives that code, and is inexact above it (R130). -/
theorem packQ4_above :
    let x : ℚ := m * 2 ^ (e + q4Shift ty)
    let r := packQ4 ty mod (.fin neg m e)
    q4Int ty 7 ≤ x → r.1 = (if neg then 15 else 7) ∧ (x = q4Int ty 7 → r.2 = 0) ∧
      (x ≠ q4Int ty 7 → r.2.getLsbD 0 = true) := by
  intro x r hlo
  have hinexact : (flagOF ||| flagNX).getLsbD 0 = true := by decide
  obtain ⟨a, ha, hqa⟩ := q4Steps_get h1 h4 (i := 7) (by decide)
  have hlen := q4Steps_length h1 h4
  obtain ⟨b, hb⟩ : ∃ b, (q4Steps ty)[8]? = some b := ⟨_, List.getElem?_eq_getElem (by omega)⟩
  have hs := q4Steps_ascending h1 h4
  have hab : (a : ℚ) < b := Nat.cast_lt.2 <| by
    obtain ⟨ha7, ha⟩ := List.getElem?_eq_some_iff.1 ha
    obtain ⟨hb8, hb⟩ := List.getElem?_eq_some_iff.1 hb
    exact ha ▸ hb ▸ List.pairwise_iff_getElem.1 hs 7 8 ha7 hb8 (by decide)
  simp only [r, hqa, Int.cast_natCast, packQ4_fin h1 mod neg hm e] at hlo ⊢
  by_cases hhi : x < b
  · obtain ⟨hexact, hdown, hup⟩ := roundStep_spec hs ha hb hlo hhi (Rounding.ofMod mod) neg
    generalize roundStep (Rounding.ofMod mod) neg (q4Steps ty) m (e + q4Shift ty) = rounded at hexact hdown hup ⊢
    obtain h7 | h8 := eq_or_eq_succ_of_up hdown hup
    · have hlt : ¬ 8 ≤ rounded.1 := by omega
      have hne : ¬ rounded.1 = 0 := by omega
      rw [if_neg hlt, if_neg hne, h7]
      simp only [hexact]
      refine ⟨trivial, fun h => if_pos h, fun h => ?_⟩
      rw [if_neg h, BitVec.getLsbD_or]
      exact (Bool.true_or _)
    · have hx : x ≠ a := fun h => absurd (hdown (.inl h)) (by omega)
      have hge : 8 ≤ rounded.1 := h8.ge
      rw [if_pos hge]
      exact ⟨rfl, fun h => absurd h hx, fun _ => hinexact⟩
  · rw [roundStep_last hs hb hlen (not_lt.1 hhi)]
    exact ⟨rfl, fun h => absurd h (hab.trans_le (not_lt.1 hhi)).ne', fun _ => by rwa [if_pos le_rfl]⟩

end

theorem packQ4_nan {ty : Nat} (h4 : ty < 4) (mod : BitVec 5) (b : Bool) : packQ4 ty mod (.nan b) = (7, flagNV) := by
  interval_cases ty <;> rfl

theorem packQ4_inf {ty : Nat} (h4 : ty < 4) (mod : BitVec 5) (b : Bool) :
    packQ4 ty mod (.inf b) = (if b then (if ty = 0 then 8 else 15) else 7, flagOF) := by
  cases b <;> interval_cases ty <;> rfl

theorem roundToInt_zero (mode : Rounding) (neg : Bool) (e : Int) : roundToInt mode neg 0 e = (0, false) := by
  have hdown : scaleDown 0 e = (0, 0) := by
    unfold scaleDown
    split <;> simp
  rw [roundToInt, hdown]
  cases neg <;> rfl

theorem packQ4_zero (ty : Nat) (mod : BitVec 5) (b : Bool) (e : Int) :
    packQ4 ty mod (.fin b 0 e) = (0, 0) := by
  unfold packQ4
  split
  · rw [encodeInt, roundToInt_zero]
    simp only [Bool.false_eq_true, false_and, and_false, if_false]
    rfl
  · rw [encodeQ4]
    exact if_pos rfl

end Sys2Proof.Machine

end

/-! The elementary functions (R231, Table 9.3). -/

section

namespace Sys2Proof

/-! ### The integer square root -/

theorem isqrtFrom_spec {n k r : Nat} (hlo : r * r ≤ n) (hhi : n < (r + 2 ^ k) * (r + 2 ^ k)) :
    isqrtFrom n k r * isqrtFrom n k r ≤ n ∧ n < (isqrtFrom n k r + 1) * (isqrtFrom n k r + 1) := by
  induction k generalizing r with
  | zero => exact ⟨hlo, hhi⟩
  | succ k ih =>
    rw [isqrtFrom]
    split
    case isTrue h => exact ih h (by rwa [Nat.add_assoc, ← two_mul, ← pow_succ'])
    case isFalse h => exact ih hlo (not_le.1 h)

theorem isqrt_eq (n : Nat) : isqrt n = Nat.sqrt n := by
  have hhi : n < (0 + 2 ^ (Nat.log2 n / 2 + 1)) * (0 + 2 ^ (Nat.log2 n / 2 + 1)) := by
    rw [Nat.zero_add, ← pow_add]
    exact Nat.lt_log2_self.trans_le (Nat.pow_le_pow_right two_pos (by omega))
  obtain ⟨hlo, hlt⟩ := isqrtFrom_spec (Nat.zero_le n) hhi
  exact Nat.eq_sqrt.2 ⟨hlo, hlt⟩

/-- The integer root of a number's integer part is the integer part of its root. -/
theorem sqrt_floor_bounds {y : ℝ} (hy : 0 ≤ y) :
    (Nat.sqrt ⌊y⌋₊ : ℝ) ≤ √y ∧ √y < Nat.sqrt ⌊y⌋₊ + 1 := by
  constructor
  · exact Real.nat_sqrt_le_real_sqrt.trans (Real.sqrt_le_sqrt (Nat.floor_le hy))
  · rw [Real.sqrt_lt' (by positivity)]
    refine (Nat.lt_floor_add_one y).trans_le ?_
    have h := Nat.succ_le_succ_sqrt' ⌊y⌋₊
    exact_mod_cast h

theorem sqrt_two_pow (n : Nat) : √((2 ^ (n + n) : Nat) : ℝ) = 2 ^ n := by
  rw [pow_add, Nat.cast_mul, Real.sqrt_mul_self (Nat.cast_nonneg _), Nat.cast_pow, Nat.cast_two]

/-- The root of a value by its even exponent, as `sqrtFin` and `rsqrtFin` take it. -/
theorem sqrt_even_exponent (m : Nat) (e : Int) : √((m : ℝ) * 2 ^ e) =
    √(if e % 2 = 0 then m else 2 * m : Nat) * 2 ^ ((if e % 2 = 0 then e else e - 1) / 2) := by
  have hx : (m : ℝ) * 2 ^ e =
      (if e % 2 = 0 then m else 2 * m : Nat) * (2 ^ ((if e % 2 = 0 then e else e - 1) / 2)) ^ 2 := by
    rw [← zpow_natCast, ← zpow_mul]
    split
    case isTrue h =>
      congr 2
      omega
    case isFalse h =>
      have he : (e - 1) / 2 * (2 : Nat) = e - 1 := by omega
      rw [he, zpow_sub_one₀ two_ne_zero]
      push_cast
      ring
  rw [hx, Real.sqrt_mul (Nat.cast_nonneg _), Real.sqrt_sq (zpow_pos two_pos _).le]

/-! ### Values that are rounded -/

theorem div_inexact_iff (a : Nat) {m : Nat} (hm : 0 < m) : (a % m != 0) = false ↔ (a : ℝ) / m = (a / m : Nat) := by
  have hm' : (m : ℝ) ≠ 0 := Nat.cast_ne_zero.2 hm.ne'
  rw [bne_eq_false_iff_eq, div_eq_iff hm']
  norm_cast
  rw [← Nat.dvd_iff_mod_eq_zero, eq_comm]
  exact ⟨Nat.div_mul_cancel, Dvd.intro_left _⟩

section
variable {f : Format} (hf : f.Regular) (hw : f.mw ≤ 23) {m : Nat} (hm : 0 < m) (hm2 : m < 2 * 2 ^ f.mw) (e : Int)

include hf

theorem rounds_sticky_mul {y x : ℝ} {q : Nat} {e : Int} {inexact : Bool} (hlo : (q : ℝ) ≤ y) (hhi : y < q + 1)
    (hex : inexact = false ↔ y = q) (hx : x = y * 2 ^ e) (hq : 2 ^ (f.mw + 1) ≤ q) (neg : Bool) :
    f.Rounds .rne false neg x (f.ofVal .rne false (sticky neg q e inexact)) := by
  have hu : (0 : ℝ) < 2 ^ e := zpow_pos two_pos e
  subst hx
  refine hf.rounds_sticky (mul_le_mul_of_nonneg_right hlo hu.le) (mul_lt_mul_of_pos_right hhi hu) ?_ hq .rne false neg
  rw [hex, mul_left_inj' hu.ne']

include hw hm hm2

/-- R231, Table 9.3: VRCP rounds the exact reciprocal. -/
theorem recip_rounds (neg : Bool) :
    f.Rounds .rne false neg (1 / (m * 2 ^ e)) (f.ofVal .rne false (recipFin neg m e)) := by
  have hm' : (0 : ℝ) < m := Nat.cast_pos.2 hm
  have hfloor : ⌊((2 ^ 112 : Nat) : ℝ) / m⌋₊ = 2 ^ 112 / m := Nat.floor_div_eq_div _ _
  refine rounds_sticky_mul hf (y := (2 ^ 112 : Nat) / m) ?_ ?_ (div_inexact_iff _ hm) ?_ ?_ neg
  · rw [← hfloor]
    exact Nat.floor_le (by positivity)
  · rw [← hfloor]
    exact Nat.lt_floor_add_one _
  · rw [zpow_sub₀ two_ne_zero, zpow_neg, zpow_natCast]
    push_cast
    field_simp
    norm_num
  · rw [Nat.le_div_iff_mul_le hm]
    calc 2 ^ (f.mw + 1) * m ≤ 2 ^ 24 * 2 ^ 24 := Nat.mul_le_mul (Nat.pow_le_pow_right two_pos (by omega)) ?_
      _ ≤ 2 ^ 112 := by decide
    exact hm2.le.trans (by rw [← pow_succ']; exact Nat.pow_le_pow_right two_pos (by omega))

omit hm2 in
/-- R231, Table 9.3: VSQRT rounds the exact root. -/
theorem sqrt_rounds : f.Rounds .rne false false √(m * 2 ^ e) (f.ofVal .rne false (sqrtFin m e)) := by
  have hroot := sqrt_even_exponent m e
  unfold sqrtFin
  dsimp only
  generalize (if e % 2 = 0 then e else e - 1) / 2 = h at hroot ⊢
  have hpos : 0 < (if e % 2 = 0 then m else 2 * m) := by split <;> omega
  generalize (if e % 2 = 0 then m else 2 * m) = a at hroot hpos ⊢
  have hbounds := sqrt_floor_bounds (Nat.cast_nonneg (α := ℝ) (a * 2 ^ 120))
  rw [Nat.floor_natCast] at hbounds
  rw [isqrt_eq]
  refine rounds_sticky_mul hf (y := √(a * 2 ^ 120 : Nat)) hbounds.1 hbounds.2 ?_ ?_ ?_ false
  · rw [bne_eq_false_iff_eq, Real.sqrt_eq_iff_mul_self_eq (by positivity) (by positivity), eq_comm]
    norm_cast
  · have hscaled : √(a * 2 ^ 120 : Nat) = √a * 2 ^ 60 := by
      rw [Nat.cast_mul, Real.sqrt_mul (Nat.cast_nonneg a), sqrt_two_pow 60]
    rw [hroot, hscaled, zpow_sub₀ two_ne_zero]
    norm_num
    field_simp
  · rw [Nat.le_sqrt, ← pow_add]
    calc 2 ^ (f.mw + 1 + (f.mw + 1)) ≤ 1 * 2 ^ 120 := by
          rw [Nat.one_mul]
          exact Nat.pow_le_pow_right two_pos (by omega)
      _ ≤ a * 2 ^ 120 := Nat.mul_le_mul_right _ hpos

/-- R231, Table 9.3: VRSQ rounds the reciprocal of the exact root. -/
theorem rsqrt_rounds : f.Rounds .rne false false (1 / √(m * 2 ^ e)) (f.ofVal .rne false (rsqrtFin m e)) := by
  have hroot := sqrt_even_exponent m e
  unfold rsqrtFin
  dsimp only
  generalize (if e % 2 = 0 then e else e - 1) / 2 = h at hroot ⊢
  have hpos : 0 < (if e % 2 = 0 then m else 2 * m) := by split <;> omega
  have hle : (if e % 2 = 0 then m else 2 * m) ≤ 2 ^ 25 := by
    have hm24 : m < 2 ^ 24 := hm2.trans_le (by rw [← pow_succ']; exact Nat.pow_le_pow_right two_pos (by omega))
    split <;> omega
  generalize (if e % 2 = 0 then m else 2 * m) = a at hroot hpos hle ⊢
  have hfloor : ⌊((2 ^ 180 : Nat) : ℝ) / a⌋₊ = 2 ^ 180 / a := Nat.floor_div_eq_div _ _
  have hbounds := sqrt_floor_bounds (y := ((2 ^ 180 : Nat) : ℝ) / a) (by positivity)
  rw [hfloor] at hbounds
  rw [isqrt_eq]
  refine rounds_sticky_mul hf hbounds.1 hbounds.2 ?_ ?_ ?_ false
  · rw [bne_eq_false_iff_eq, Real.sqrt_eq_iff_mul_self_eq (by positivity) (by positivity)]
    rw [div_eq_iff (Nat.cast_ne_zero.2 hpos.ne')]
    norm_cast
    exact eq_comm
  · have hscaled : √((2 ^ 180 : Nat) / (a : ℝ)) = 2 ^ 90 / √a := by
      rw [Real.sqrt_div (Nat.cast_nonneg _), sqrt_two_pow 90]
    rw [hroot, hscaled, zpow_sub₀ two_ne_zero, zpow_neg]
    norm_num
    field_simp
  · rw [Nat.le_sqrt, ← pow_add, Nat.le_div_iff_mul_le hpos]
    calc 2 ^ (f.mw + 1 + (f.mw + 1)) * a ≤ 2 ^ 48 * 2 ^ 25 :=
          Nat.mul_le_mul (Nat.pow_le_pow_right two_pos (by omega)) hle
      _ ≤ 2 ^ 180 := by decide

end

end Sys2Proof

end

/-! Powers and logarithms of 2 that are exact (R231, Table 9.3). -/

section

namespace Sys2Proof

/-! ### Powers of 2 out of range -/

section
variable {f : Format} {n : Int}

/-- A power of 2 past the largest exponent overflows. -/
theorem round_two_zpow_overflow (h : f.emin ≤ n) (hmax : f.maxCode < ((n - f.emin).toNat + 1) * 2 ^ f.mw)
    (mode : Rounding) (sat neg : Bool) :
    f.round mode sat neg 1 n = { code := f.overflow mode sat neg, flags := flagOF ||| flagNX } := by
  have hlog : Nat.log2 1 = 0 := by decide
  have hgrid : f.gridExp 1 n = n - f.mw := by
    rw [Format.gridExp, hlog, Nat.cast_zero, zero_add, if_neg h.not_gt]
  have hsteps : f.steps 1 n = (2 ^ f.mw, 0) := by
    rw [Format.steps, hgrid, sub_sub_cancel, scaleDown, if_pos (Int.natCast_nonneg _), Int.toNat_natCast, Nat.one_mul]
  have hcode : f.codeRounded mode neg 1 n = ((n - f.emin).toNat + 1) * 2 ^ f.mw := by
    rw [Format.codeRounded, hsteps, hgrid, sub_add_cancel, roundInt_down (.inl rfl), Nat.succ_mul]
  rw [f.round_eq one_pos, hcode, if_pos hmax]

/-- A power of 2 below half the least code's value goes to 0. -/
theorem round_two_zpow_underflow (h : n + f.mw + 1 < f.emin) (sat neg : Bool) :
    f.round .rne sat neg 1 n = { code := f.signBit neg, flags := flagNX ||| flagUF } := by
  have hlog : Nat.log2 1 = 0 := by decide
  have hlt : ((Nat.log2 1 : Nat) : Int) + n < f.emin := by rw [hlog]; omega
  have hgrid : f.gridExp 1 n = f.emin - f.mw := by rw [Format.gridExp, if_pos hlt]
  have hsteps : f.steps 1 n = (0, 1) := by
    obtain ⟨d, hd⟩ : ∃ d : Nat, n - (f.emin - f.mw) = -((d + 2 : Nat) : Int) :=
      ⟨(f.emin - f.mw - n - 2).toNat, by omega⟩
    have hneg : ¬ (0 : Int) ≤ -((d + 2 : Nat) : Int) := by omega
    have hbig : 1 < 2 ^ (d + 1) := Nat.one_lt_two_pow (Nat.succ_ne_zero d)
    have hbig2 : 1 < 2 ^ (d + 2) := Nat.one_lt_two_pow (by omega)
    rw [Format.steps, hgrid, hd, scaleDown, if_neg hneg, neg_neg, Int.toNat_natCast]
    simp [Nat.div_eq_of_lt hbig2, Nat.mod_eq_of_lt hbig2, hbig]
  have hcode : f.codeRounded .rne neg 1 n = 0 := by
    rw [Format.codeRounded, hsteps, hgrid, sub_add_cancel, sub_self]
    simp [roundInt]
  rw [f.round_eq one_pos, hcode, if_neg (Nat.not_lt_zero _), hsteps, if_neg one_ne_zero, if_pos ⟨one_ne_zero, hlt⟩]
  rfl

end

/-! ### Exact operands -/

theorem alignInt_rat (neg : Bool) (m : Nat) {e : Int} (he : 0 ≤ e) :
    (alignInt neg m e 0 : ℚ) = (FVal.fin neg m e).rat := by
  obtain ⟨k, rfl⟩ := Int.eq_ofNat_of_zero_le he
  rw [alignInt, FVal.rat_fin, sub_zero, Int.toNat_natCast]
  split <;> push_cast <;> rfl

theorem FVal.rat_fin_add (neg : Bool) (m : Nat) (e : Int) (k : Nat) :
    (FVal.fin neg m (e + k)).rat = (FVal.fin neg m e).rat * (2 ^ k : Nat) := by
  rw [FVal.rat, FVal.rat, zpow_add₀ two_ne_zero, zpow_natCast]
  push_cast
  ring

section
variable {f : Format} (hf : f.Regular) {neg : Bool} {m : Nat} (hm : 0 < m) {e n : Int}

include hm

/-- VEXP2 of an integer is a power of 2, or past 2^14 one beyond every format. -/
theorem exp2Fin_of_int (he : -(fixBits : Int) ≤ e) (h : (FVal.fin neg m e).rat = n) :
    exp2Fin neg m e = .fin false 1 n ∨
      (2 ^ 14 ≤ n ∧ exp2Fin neg m e = .fin false 1 100000) ∨
      (n ≤ -2 ^ 14 ∧ exp2Fin neg m e = .fin false 1 (-100000)) := by
  unfold exp2Fin
  split
  case isTrue hbig =>
    right
    have h14 : ((2 ^ 14 : Int) : ℚ) ≤ m * 2 ^ e := by
      have := (two_zpow_le_iff hm e 14).2 hbig.2
      exact_mod_cast this
    rw [FVal.rat_fin] at h
    cases neg with
    | true =>
      rw [if_pos rfl, neg_eq_iff_eq_neg] at h
      rw [h, ← Int.cast_neg, Int.cast_le] at h14
      exact .inr ⟨by omega, rfl⟩
    | false =>
      rw [if_neg Bool.false_ne_true] at h
      rw [h, Int.cast_le] at h14
      exact .inl ⟨h14, rfl⟩
  case isFalse =>
    left
    have hv : alignInt neg m (e + fixBits) 0 = n * ((2 ^ fixBits : Nat) : Int) := by
      have hrat := alignInt_rat neg m (neg_le_iff_add_nonneg.1 he)
      rw [FVal.rat_fin_add, h] at hrat
      exact_mod_cast hrat
    have hp : ((2 ^ fixBits : Nat) : Int) ≠ 0 := Nat.cast_ne_zero.2 (Nat.two_pow_pos fixBits).ne'
    dsimp only
    rw [hv, Int.mul_ediv_cancel _ hp, Int.mul_emod_left, Int.toNat_zero, if_pos rfl]

/-- VLOG2 of a power of 2 is its exponent. -/
theorem log2Fin_of_two_zpow (h : (m : ℚ) * 2 ^ e = 2 ^ n) : log2Fin m e = .fin (decide (n < 0)) n.natAbs 0 := by
  obtain ⟨hlo, hhi⟩ := log2_bounds hm e
  rw [h] at hlo hhi
  have hle := (zpow_le_zpow_iff_right₀ (one_lt_two (α := ℚ))).1 hlo
  have hlt := (zpow_lt_zpow_iff_right₀ (one_lt_two (α := ℚ))).1 hhi
  obtain rfl : n = Nat.log2 m + e := by omega
  have hpow : m = 2 ^ Nat.log2 m := by
    rw [zpow_add₀ two_ne_zero, mul_left_inj' (two_zpow_pos e).ne', zpow_natCast] at h
    exact_mod_cast h
  unfold log2Fin
  exact if_pos hpow

end

/-! ### The operations on codes -/

/-- The formats of the elementary functions. -/
structure Format.Elementary (f : Format) : Prop where
  regular : f.Regular
  ieee : f.spec = .ieee
  mw_le : f.mw ≤ 23
  emin_nonpos : f.emin ≤ 0
  emin_ge : -126 ≤ f.emin
  maxCode_lt : f.maxCode < 2 ^ 14 * 2 ^ f.mw

theorem elementary_of_mem {t : Typ} (h : t ∈ [Typ.f32, .f16, .bf16]) : t.format.Elementary := by
  have hfloat : t ∈ floatTypes := by
    simp only [List.mem_cons, List.not_mem_nil, or_false] at h
    obtain rfl | rfl | rfl := h <;> decide
  have hall : ∀ t ∈ [Typ.f32, .f16, .bf16], let f := t.format
      f.spec = .ieee ∧ f.mw ≤ 23 ∧ f.emin ≤ 0 ∧ -126 ≤ f.emin ∧ f.maxCode < 2 ^ 14 * 2 ^ f.mw := by decide
  obtain ⟨hieee, hmw, hnonpos, hge, hmax⟩ := hall t h
  exact ⟨regular_of_floatType hfloat, hieee, hmw, hnonpos, hge, hmax⟩

theorem Elem.apply_fin {k : Elem} {f : Format} {code m : Nat} {neg : Bool} {e : Int}
    (h : k.value (f.decode code) = (.fin neg m e, 0)) : k.apply f code = f.ofVal .rne false (.fin neg m e) := by
  unfold Elem.apply
  rw [h]
  exact congrArg (Rounded.mk _) BitVec.or_zero

theorem Elem.apply_nan {k : Elem} {f : Format} {code : Nat} {b : Bool} {fl : Flags}
    (h : k.value (f.decode code) = (.nan b, fl)) : k.apply f code = { code := f.canon, flags := fl } := by
  unfold Elem.apply
  rw [h]

section
variable {f : Format} (hf : f.Elementary) {code m : Nat} {neg : Bool} {e : Int} (h : f.decode code = .fin neg m e)
  (hm : 0 < m)

include hm

/-- VEXP2 of an integer gives what the power of 2 itself is rounded to. -/
theorem exp2Fin_round (hf : f.Elementary) {n : Int} (he : -(fixBits : Int) ≤ e) (hn : (FVal.fin neg m e).rat = n) :
    ∃ k, exp2Fin neg m e = .fin false 1 k ∧ f.round .rne false false 1 k = f.round .rne false false 1 n := by
  have hover : ∀ k : Int, 2 ^ 14 ≤ k → f.maxCode < ((k - f.emin).toNat + 1) * 2 ^ f.mw := fun k hk =>
    hf.maxCode_lt.trans_le (Nat.mul_le_mul_right _ (by have := hf.emin_nonpos; omega))
  have hle := hf.emin_nonpos
  have hge := hf.emin_ge
  have hmw := hf.mw_le
  obtain h | ⟨hbig, h⟩ | ⟨hsmall, h⟩ := exp2Fin_of_int hm he hn
  · exact ⟨n, h, rfl⟩
  · refine ⟨_, h, ?_⟩
    rw [round_two_zpow_overflow (by omega) (hover _ (by decide)), round_two_zpow_overflow (by omega) (hover n hbig)]
  · refine ⟨_, h, ?_⟩
    rw [round_two_zpow_underflow (by omega), round_two_zpow_underflow (by omega)]

include h hf

theorem rcp_rounds :
    f.Rounds .rne false neg (1 / (((m : ℚ) * 2 ^ e : ℚ) : ℝ)) (Elem.rcp.apply f code) := by
  obtain ⟨-, -, hm2, -⟩ := f.decode_fin h
  have hv : Elem.rcp.value (f.decode code) = (recipFin neg m e, 0) := by rw [h, Elem.value, if_neg hm.ne']
  rw [Elem.apply_fin hv]
  push_cast
  exact recip_rounds hf.regular hf.mw_le hm hm2 e neg

theorem sqrt_rsq_rounds (hneg : neg = false) :
    f.Rounds .rne false false √(((m : ℚ) * 2 ^ e : ℚ) : ℝ) (Elem.sqrt.apply f code) ∧
    f.Rounds .rne false false (1 / √(((m : ℚ) * 2 ^ e : ℚ) : ℝ)) (Elem.rsq.apply f code) := by
  subst hneg
  obtain ⟨-, -, hm2, -⟩ := f.decode_fin h
  have hsqrt : Elem.sqrt.value (f.decode code) = (sqrtFin m e, 0) := by
    rw [h, Elem.value, if_neg hm.ne', if_neg Bool.false_ne_true]
  have hrsq : Elem.rsq.value (f.decode code) = (rsqrtFin m e, 0) := by
    rw [h, Elem.value, if_neg hm.ne', if_neg Bool.false_ne_true]
  rw [Elem.apply_fin hsqrt, Elem.apply_fin hrsq]
  push_cast
  exact ⟨sqrt_rounds hf.regular hf.mw_le hm e, rsqrt_rounds hf.regular hf.mw_le hm hm2 e⟩

theorem exp2_rounds {n : Int} (hn : (FVal.fin neg m e).rat = n) :
    f.Rounds .rne false false (2 ^ n) (Elem.exp2.apply f code) := by
  obtain ⟨-, -, -, he⟩ := f.decode_fin h
  have hge := hf.emin_ge
  have hmw := hf.mw_le
  obtain ⟨k, hk, hround⟩ := exp2Fin_round hm hf (show -(fixBits : Int) ≤ e by rw [fixBits]; omega) hn
  have hv : Elem.exp2.value (f.decode code) = (.fin false 1 k, 0) := by rw [h, Elem.value, if_neg hm.ne', hk]
  rw [Elem.apply_fin hv, Format.ofVal, hround]
  have hat := (hf.regular.roundsAt one_pos n .rne false false).rounds
  push_cast at hat
  rwa [one_mul] at hat

theorem log2_rounds {n : Int} (hneg : neg = false) (hn : (m : ℚ) * 2 ^ e = 2 ^ n) :
    (n = 0 → Elem.log2.apply f code = { code := 0, flags := 0 }) ∧
    (n ≠ 0 → f.Rounds .rne false (decide (n < 0)) (n.natAbs : ℝ) (Elem.log2.apply f code)) := by
  subst hneg
  have hv : Elem.log2.value (f.decode code) = (.fin (decide (n < 0)) n.natAbs 0, 0) := by
    rw [h, Elem.value, if_neg hm.ne', if_neg Bool.false_ne_true, log2Fin_of_two_zpow hm hn]
  rw [Elem.apply_fin hv]
  constructor
  · rintro rfl
    rfl
  · intro h0
    have hat := (hf.regular.roundsAt (Int.natAbs_pos.2 h0) 0 .rne false (decide (n < 0))).rounds
    push_cast at hat
    rwa [mul_one] at hat

end

/-- A NaN gives the canonical NaN, one that signals with NV. -/
theorem Elem.apply_of_nan (k : Elem) {f : Format} {code : Nat} {b : Bool} (h : f.decode code = .nan b) :
    k.apply f code = { code := f.canon, flags := if b then flagNV else 0 } :=
  Elem.apply_nan (b := false) (by rw [h]; cases k <;> rfl)

/-- Roots and logarithms of values below 0 are invalid. -/
theorem Elem.apply_of_neg {k : Elem} (hk : k ∈ [Elem.log2, .rsq, .sqrt]) {f : Format} {code m : Nat} {e : Int}
    (h : f.decode code = .fin true m e) (hm : 0 < m) : k.apply f code = { code := f.canon, flags := flagNV } := by
  refine Elem.apply_nan (b := false) ?_
  simp only [List.mem_cons, List.not_mem_nil, or_false] at hk
  rw [h]
  obtain rfl | rfl | rfl := hk <;> simp [Elem.value, hm.ne']

/-! ### Special operands of the elementary functions (Table 9.3) -/

/-- What the elementary functions give for infinities and zeros. -/
def Format.ElementarySpecials (f : Format) : Prop :=
  let half := 2 ^ (f.ew + f.mw); let inf := (2 ^ f.ew - 1) * 2 ^ f.mw; let one := f.bias * 2 ^ f.mw
  let gives : Elem → Nat → Nat → Flags → Prop := fun k code v fl => k.apply f code = { code := v, flags := fl }
  (gives .exp2 inf inf 0 ∧ gives .log2 inf inf 0 ∧ gives .rcp inf 0 0 ∧ gives .rsq inf 0 0 ∧ gives .sqrt inf inf 0) ∧
  (gives .exp2 (half + inf) 0 0 ∧ gives .rcp (half + inf) half 0 ∧ gives .exp2 0 one 0 ∧ gives .exp2 half one 0) ∧
  (gives .log2 0 (half + inf) 0 ∧ gives .log2 half (half + inf) 0) ∧
  (∀ k ∈ [Elem.rcp, .rsq], gives k 0 inf flagDZ ∧ gives k half (half + inf) flagDZ) ∧
  (gives .sqrt 0 0 0 ∧ gives .sqrt half half 0) ∧
  ∀ k ∈ [Elem.log2, .rsq, .sqrt], gives k (half + inf) f.canon flagNV

theorem elementarySpecials_of_mem : ∀ t ∈ [Typ.f32, .f16, .bf16], t.format.ElementarySpecials := by
  unfold Format.ElementarySpecials
  decide

end Sys2Proof

end

/-! Settles the obligation on rounded values. -/

section

namespace Sys2Proof.Machine

/-- Settles O60: what codes stand for and what values are rounded to, over the rationals and the reals. -/
theorem roundedValues : Obligations.RoundedValues := by
  unfold Obligations.RoundedValues
  intro floats ints
  refine ⟨fun t ht => ?_, ?_, ?_, ?_, fun src hs mod code => ?_, fun src hs mod code => ?_, ?_, fun mod => ?_,
    fun t ht => ?_⟩
  -- codes and finite values (R113, R120, R121)
  · have hf := regular_of_floatType ht
    refine ⟨fun code neg m e hcode h => ?_, fun mode sat neg m e hm => ?_, fun mode sat neg e => rfl⟩
    · obtain ⟨-, hmag, -⟩ := t.format.decode_fin h
      exact ⟨Format.decode_fin_sign hcode h, hf.decode_fin_le h, hmag⟩
    · exact (hf.roundsAt hm e mode sat neg).rounds
  -- infinities and NaNs (R114, R122)
  · simp only [List.forall_mem_cons]
    refine ⟨?_, ?_, ?_, ?_, nofun⟩ <;> exact fun mode sat b => Format.ofVal_special_ieee mode sat b rfl
  · exact fun mode sat b => Format.ofVal_special_nanOnly mode sat b rfl
  · simp only [List.forall_mem_cons]
    refine ⟨?_, ?_, ?_, nofun⟩ <;> exact fun mode sat b => Format.ofVal_special_none mode sat b rfl
  -- conversions of integers (R124)
  · have hs := intTypes_isInt src hs
    exact ⟨fun dst hd => convert_int_int mod code hs (intTypes_isInt dst hd),
      fun dst hd => convert_int_float mod code hs (floatTypes_not_isInt dst hd)⟩
  -- conversions of floats (R123)
  · have hs := floatTypes_not_isInt src hs
    refine ⟨fun dst hd => convert_float_float mod code hs (floatTypes_not_isInt dst hd), fun dst hd => ?_⟩
    have hd := intTypes_isInt dst hd
    refine ⟨fun b => (convert_special_int hs hd mod code b).1, fun b => (convert_special_int hs hd mod code b).2,
      fun neg m e => convert_fin_int hs hd mod code⟩
  -- scale codes (R132)
  · refine ⟨fun mode => ?_, fun mode m e hm => scaleCode_spec mode hm e⟩
    exact ⟨fun b => rfl, rfl, rfl, fun b e => by rw [scaleCode, if_pos rfl], fun m e hm => by
      rw [scaleCode, if_neg hm.ne', if_pos rfl]⟩
  -- elements of Q4 blocks (R130)
  · refine ⟨fun ty h4 b => ⟨packQ4_nan h4 mod b, packQ4_inf h4 mod b⟩, fun ty _ b e => packQ4_zero ty mod b e,
      fun ty h1 h4 neg m e hm => ⟨packQ4_above h1 h4 mod neg hm e, fun i hi => packQ4_between h1 h4 mod neg hm e hi⟩⟩
  -- elementary functions (R231, Table 9.3)
  · have hf := elementary_of_mem ht
    obtain ⟨⟨hexp2, hlog2, hrcp, hrsq, hsqrt⟩, ⟨hexp2n, hrcpn, hexp20, hexp2n0⟩, ⟨hlog20, hlog2n0⟩, hpole,
      ⟨hsqrt0, hsqrtn0⟩, hinvalid⟩ := elementarySpecials_of_mem t ht
    refine ⟨fun code neg m e _ h hm => ⟨rcp_rounds hf h hm, sqrt_rsq_rounds hf h hm, fun n => exp2_rounds hf h hm,
      fun n => log2_rounds hf h hm⟩, fun k _ code b h => k.apply_of_nan h, hexp2, hlog2, hrcp,
      hrsq, hsqrt, hexp2n, hrcpn, hexp20, hexp2n0, hlog20, hlog2n0, hpole, hsqrt0, hsqrtn0, fun k hk =>
        ⟨hinvalid k hk, fun code m e => Elem.apply_of_neg hk⟩⟩

end Sys2Proof.Machine

end

/-! Traps of queue operands whose producer and consumer are one stream (R152, R213; log entry 112). -/

section

namespace Sys2Proof.Machine

/-! ### What stops the taking of queue operands (R213, R215) -/

/-- The trap of a stop, if it is one. -/
def trapOf (e : Option (Wait ⊕ Cause)) : Option Cause :=
  match e with
  | some (.inr c) => some c
  | _ => none

theorem trapOf_eq_some_iff {e : Option (Wait ⊕ Cause)} {c : Cause} : trapOf e = some c ↔ e = some (.inr c) := by
  rcases e with _ | _ | _ <;> simp [trapOf]

theorem Core.sourceStop_trap_iff {k : Core} {fl : Bool} {now : Nat} {st : Stream} {q : Nat} {c : Cause} :
    trapOf (k.sourceStop fl now st q) = some c ↔ c = .qund ∧ k.producer q = st ∧ (k.queueReg q).cnt = 0 := by
  unfold Core.sourceStop
  dsimp only
  by_cases hp : k.producer q = st <;> by_cases hc : (k.queueReg q).cnt = 0
  case pos => simp only [hp, hc, if_true, trapOf, and_true, Option.some.injEq, eq_comm]
  case neg =>
    rw [if_pos hp, if_neg hc]
    repeat' split
    all_goals simp [trapOf, hc]
  all_goals
    rw [if_neg hp]
    repeat' split
    all_goals simp [trapOf, hp]

theorem Core.pushStop_full {k : Core} {now : Nat} {st : Stream} {q : Nat} {ownPop : Bool} (hq : k.consumer q = st)
    (h : 4 ≤ (k.queueReg q).cnt - (if ownPop then 1 else 0)) : k.pushStop now st q ownPop = some (.inr .qovf) := by
  simp only [Core.pushStop, if_pos hq, if_pos h]

section
variable {x : Ctx} {u : State} {srcs : List Operand}

/-- What stops the source operands, queue by queue. -/
def Ctx.sourceStops (x : Ctx) (u : State) (srcs : List Operand) : List (Option (Wait ⊕ Cause)) :=
  (queuesOf srcs).map (fun q => (u.core x.c).sourceStop x.fl x.now x.st q)

/-- What stops the push. -/
def Ctx.pushStops (x : Ctx) (u : State) (srcs : List Operand) (dst : Option Nat) : List (Option (Wait ⊕ Cause)) :=
  match dst with
  | some q => [(u.core x.c).pushStop x.now x.st q ((popsOf srcs).contains q)]
  | none => []

/-- The first trap among the stops is the one taken (R215). -/
theorem Ctx.takeQueues_trap {dst : Option Nat} {c : Cause}
    (h : (x.sourceStops u srcs ++ x.pushStops u srcs dst).findSome? trapOf = some c) :
    x.takeQueues u srcs dst = .trap c := by
  unfold Ctx.takeQueues
  dsimp only
  split
  case h_1 c' heq => exact congrArg Taken.trap (Option.some.inj (heq.symm.trans h))
  case h_2 heq => exact nomatch heq.symm.trans h

/-- A source queue that the issuing stream fills itself is empty. -/
def Ctx.SourceEmpty (x : Ctx) (u : State) (srcs : List Operand) : Prop :=
  ∃ q ∈ queuesOf srcs, (u.core x.c).producer q = x.st ∧ ((u.core x.c).queueReg q).cnt = 0

theorem Ctx.sourceStops_empty (h : x.SourceEmpty u srcs) : (x.sourceStops u srcs).findSome? trapOf = some .qund := by
  obtain ⟨q, hq, hp⟩ := h
  have hsome : ((x.sourceStops u srcs).findSome? trapOf).isSome := by
    rw [List.findSome?_isSome_iff]
    exact ⟨_, List.mem_map_of_mem hq, Option.isSome_of_eq_some (Core.sourceStop_trap_iff.2 ⟨rfl, hp⟩)⟩
  obtain ⟨c, hc⟩ := Option.isSome_iff_exists.1 hsome
  obtain ⟨e, he, hec⟩ := List.exists_of_findSome?_eq_some hc
  obtain ⟨r, -, rfl⟩ := List.mem_map.1 he
  rw [hc, (Core.sourceStop_trap_iff.1 hec).1]

theorem Ctx.sourceStops_filled (h : ¬ x.SourceEmpty u srcs) : (x.sourceStops u srcs).findSome? trapOf = none := by
  rw [List.findSome?_eq_none_iff]
  intro e he
  obtain ⟨q, hq, rfl⟩ := List.mem_map.1 he
  rw [Option.eq_none_iff_forall_ne_some]
  exact fun c hc => h ⟨q, hq, (Core.sourceStop_trap_iff.1 hc).2⟩

theorem Ctx.takeQueues_qund (dst : Option Nat) (h : x.SourceEmpty u srcs) : x.takeQueues u srcs dst = .trap .qund :=
  Ctx.takeQueues_trap (by rw [List.findSome?_append, Ctx.sourceStops_empty h, Option.some_or])

theorem Ctx.takeQueues_qovf {q : Nat} (h : ¬ x.SourceEmpty u srcs) (hq : (u.core x.c).consumer q = x.st)
    (hf : 4 ≤ ((u.core x.c).queueReg q).cnt - (if q ∈ popsOf srcs then 1 else 0)) :
    x.takeQueues u srcs (some q) = .trap .qovf := by
  simp only [← List.contains_iff_mem] at hf
  refine Ctx.takeQueues_trap ?_
  rw [List.findSome?_append, Ctx.sourceStops_filled h, Option.none_or, Ctx.pushStops, Core.pushStop_full hq hf]
  rfl

end

/-! ### Instructions that take queue operands -/

/-- Where `g` holds, the body of the instruction answers a stop of its queue operands by a trap with the detail `d`. -/
def TrapsByQueues (i : Bundle → Fields → Instr) (o : Op) (g : Ctx → State → Prop) (d : Ctx → Nat) : Prop :=
  ∀ b f, ∃ body, (∀ s, exec (i b f) s = issue o b f body s) ∧ ∀ x u c, x.o = o → g x u →
    x.takeQueues u (sourcePositions x.o x.f) (pushPosition x.o x.f) = .trap c →
      body x u = .trap u { cause := c, fdet := d x }

section
variable {i : Bundle → Fields → Instr} {o : Op} {g : Ctx → State → Prop} {d : Ctx → Nat}

theorem TrapsByQueues.traps (h : TrapsByQueues i o g d) {e : Ctx → State → Prop} {c : Cause}
    (he : ∀ x u, x.o = o → e x u → x.takeQueues u (sourcePositions x.o x.f) (pushPosition x.o x.f) = .trap c) :
    Traps i o (fun x u => g x u ∧ e x u) (fun x _ => { cause := c, fdet := d x }) := by
  intro b f s u hr hg
  obtain ⟨body, hi, hbody⟩ := h b f
  rw [hi, issue, issue_ready hr, hbody _ _ _ rfl hg.1 (he _ _ rfl hg.2), Ctx.conclude]

theorem TrapsByQueues.empty (h : TrapsByQueues i o g d) :
    Traps i o (fun x u => g x u ∧ x.SourceEmpty u (sourcePositions o x.f))
      (fun x _ => { cause := .qund, fdet := d x }) :=
  h.traps fun _ _ ho he => Ctx.takeQueues_qund _ (ho ▸ he)

theorem TrapsByQueues.full (h : TrapsByQueues i o g d) :
    Traps i o (fun x u => g x u ∧ ¬ x.SourceEmpty u (sourcePositions o x.f) ∧ ∃ q, pushPosition o x.f = some q ∧
        (u.core x.c).consumer q = x.st ∧ 4 ≤ ((u.core x.c).queueReg q).cnt -
          (if q ∈ popsOf (sourcePositions o x.f) then 1 else 0))
      (fun x _ => { cause := .qovf, fdet := d x }) := by
  refine h.traps ?_
  rintro x u rfl ⟨he, q, hq, hc, hf⟩
  rw [hq]
  exact Ctx.takeQueues_qovf he hc hf

end

theorem queueBody_trap {lat : Nat} {g : Ctx → State → (Operand → Entry) → Entry × List Effect} {x : Ctx} {u : State}
    {c : Cause} (h : x.takeQueues u (sourcePositions x.o x.f) (pushPosition x.o x.f) = .trap c) :
    queueBody lat g x u = .trap u { cause := c } := by
  rw [queueBody, h]
  rfl

/-- A vector instruction takes its operands once its unit is free. -/
theorem trapsByQueues_vector {i : Bundle → Fields → Instr} {o : Op} (lat busy : Fields → Typ → Nat)
    (g : Ctx → State → (Operand → Entry) → Entry × List Effect) (hi : ∀ b f s, exec (i b f) s = issue o b f
      (fun x u => vectorUnit (busy f x.f.typ) (queueBody (lat f x.f.typ) g) x u) s) :
    TrapsByQueues i o Ctx.unitFree (fun _ => 0) := by
  refine fun b f => ⟨_, hi b f, fun x u c _ hfree h => ?_⟩
  rw [vectorUnit, if_neg (Nat.not_lt.2 hfree), queueBody_trap h]

theorem trapsByQueues_conversion {i : Bundle → Fields → Instr} {o : Op} (lat : Nat)
    (g : Ctx → State → (Operand → Entry) → Entry × List Effect)
    (hi : ∀ b f s, exec (i b f) s = issue o b f (queueBody lat g) s) :
    TrapsByQueues i o (fun _ _ => True) (fun _ => 0) :=
  fun b f => ⟨_, hi b f, fun _ _ _ _ _ h => queueBody_trap h⟩

theorem qtag_trapsByQueues : TrapsByQueues .qtag .qtag (fun x _ => x.f.dst.isQueue = true) (fun _ => 0) := by
  refine fun b f => ⟨_, fun _ => rfl, fun x u c _ hq h => ?_⟩
  rw [qtagBody_queue hq, queueBody_trap h]

/-- The detail of a queue trap of an access names a store by its bit 3, and the hold by its bit 5 (Table 6.7). -/
theorem queueTrap_eq (x : Ctx) (c : Cause) : x.queueTrap c = { cause := c, fdet :=
    (if x.o = .stq ∨ x.o = .stsq then 15 else 7) + if x.f.mod.getLsbD 0 then 32 else 0 } := by
  have hhold : x.inHold = x.f.mod.getLsbD 0 := x.bit_mod 0
  unfold Ctx.queueTrap
  rw [hhold]
  cases x.f.mod.getLsbD 0
  all_goals split <;> simp_all [Fdet.word]

theorem trapsByQueues_access {i : Bundle → Fields → Instr} {o : Op} (go : Ctx → State → (Operand → Entry) → Res)
    (hi : ∀ b f s, exec (i b f) s = issue o b f (fun x u => x.queueGate u (go x u)) s) :
    TrapsByQueues i o (fun _ _ => True)
      (fun x => (if o = .stq ∨ o = .stsq then 15 else 7) + if x.f.mod.getLsbD 0 then 32 else 0) := by
  refine fun b f => ⟨_, hi b f, ?_⟩
  rintro x u c rfl - h
  rw [Ctx.queueGate, h, ← queueTrap_eq]

/-! ### The statement -/

/-- The vector instructions, each with its operation. -/
def vectorQueueOps : List ((Bundle → Fields → Instr) × Op) :=
  [(.vadd, .vadd), (.vsub, .vsub), (.vmul, .vmul), (.vfma, .vfma), (.vmin, .vmin), (.vmax, .vmax),
      (.vabs, .vabs), (.vneg, .vneg), (.vand, .vand), (.vor, .vor), (.vxor, .vxor), (.vshl, .vshl), (.vshr, .vshr),
      (.vsra, .vsra), (.vcmp, .vcmp), (.vsel, .vsel), (.vexp2, .vexp2), (.vlog2, .vlog2), (.vrcp, .vrcp),
      (.vrsq, .vrsq), (.vsqrt, .vsqrt), (.vredSum, .vredSum), (.vredMax, .vredMax), (.vredMin, .vredMin),
      (.vscanIncl, .vscanIncl), (.vscanExcl, .vscanExcl), (.vperm, .vperm), (.vbcast, .vbcast), (.vmov, .vmov),
      (.vmovX, .vmovX), (.vmovI, .vmovI), (.viota, .viota), (.vkey, .vkey), (.vhist, .vhist)]

theorem vectorQueueOps_trap : ∀ p ∈ vectorQueueOps, TrapsByQueues p.1 p.2 Ctx.unitFree (fun _ => 0) := by
  have plain {i : Bundle → Fields → Instr} {o : Op} (lat : Nat)
      (g : Ctx → State → (Operand → Entry) → Entry × List Effect)
      (hi : ∀ b f s, exec (i b f) s = issue o b f (vectorBody lat g) s) :=
    trapsByQueues_vector (fun _ _ => lat) (fun _ _ => 1) g hi
  have byType {i : Bundle → Fields → Instr} {o : Op} (n : Nat)
      (g : Ctx → State → (Operand → Entry) → Entry × List Effect)
      (hi : ∀ b f s, exec (i b f) s = issue o b f (vectorBody (floatLat f.typ n) g) s) :=
    trapsByQueues_vector (fun f _ => floatLat f.typ n) (fun _ _ => 1) g hi
  have elem {i : Bundle → Fields → Instr} {o : Op} (k : Elem)
      (hi : ∀ b f s, exec (i b f) s = issue o b f (elemBody k) s) :=
    trapsByQueues_vector (fun _ t => if t == .f32 then 10 else 6) (fun _ t => if t == .f32 then 2 else 1)
      (mapLanes (elemLane k)) hi
  simp only [vectorQueueOps, List.forall_mem_cons]
  and_intros
  iterate 4 exact byType _ _ (fun _ _ _ => rfl)
  iterate 12 exact plain _ _ (fun _ _ _ => rfl)
  iterate 5 exact elem _ (fun _ _ _ => rfl)
  iterate 13 exact plain _ _ (fun _ _ _ => rfl)
  exact List.forall_mem_nil _

/-- Settles O59: the first stop of the operands that is a trap is taken, QUND of a source before QOVF of the push. -/
theorem queueTraps : Obligations.QueueTraps := by
  unfold Obligations.QueueTraps
  intro empty full traps
  have both {i : Bundle → Fields → Instr} {o : Op} {g : Ctx → State → Prop} {d : Ctx → Nat}
      (h : TrapsByQueues i o g d) : traps i o g d := ⟨h.empty, h.full⟩
  refine ⟨fun p hp => both (vectorQueueOps_trap p hp), ?_, both qtag_trapsByQueues, ?_⟩
  · refine fun p hp => both ?_
    revert p
    simp only [List.forall_mem_cons]
    and_intros
    iterate 5 exact trapsByQueues_conversion _ _ (fun _ _ _ => rfl)
    exact List.forall_mem_nil _
  · refine fun p hp => both ?_
    revert p
    simp only [List.forall_mem_cons]
    and_intros
    iterate 4 exact trapsByQueues_access _ (fun _ _ _ => rfl)
    exact List.forall_mem_nil _

end Sys2Proof.Machine

end

/-! Loads and stores of registers, in the hold and in memory: what their bodies answer (R151, R154, R155, R159). -/

section

namespace Sys2Proof.Machine

/-! ### Conditions of an access (R154, R164, R165, R168, R177) -/

theorem Ctx.inHold_eq (x : Ctx) : x.inHold = x.f.mod.getLsbD 0 := x.bit_mod 0

theorem Ctx.holdFits_iff (x : Ctx) (u : State) (off n : Nat) :
    x.holdFits u off n = true ↔ off + n ≤ (u.core x.c).holdLimit := decide_eq_true_iff

/-- No acquire of a stream is pending. -/
theorem Core.acquirePending_eq_false_iff {k : Core} {st : Stream} :
    k.acquirePending st = false ↔ ∀ l ∈ k.loads, l.st = st → l.acq = none ∧ l.hasSo = false := by
  simp only [Core.acquirePending, List.any_eq_false, Bool.and_eq_true, beq_iff_eq, Bool.or_eq_true, not_and, not_or,
    Bool.not_eq_true, Option.isSome_eq_false_iff, Option.isNone_iff_eq_none]

theorem Core.loadsBefore_eq_false_iff {k : Core} {st : Stream} :
    k.loadsBefore st = false ↔ ∀ l ∈ k.loads, l.st = st → l.unOnly = true := by
  simp only [Core.loadsBefore, List.any_eq_false, Bool.and_eq_true, beq_iff_eq, not_and, Bool.not_eq_true',
    Bool.not_eq_false]

/-- Nothing holds a hold store back. -/
theorem Core.storeFree {k : Core} {st : Stream}
    (h : ∀ l ∈ k.loads, l.st = st → l.acq = none ∧ l.hasSo = false ∧ l.unOnly = true) :
    (k.acquirePending st || k.loadsBefore st) = false := by
  rw [Bool.or_eq_false_iff, Core.acquirePending_eq_false_iff, Core.loadsBefore_eq_false_iff]
  exact ⟨fun l hl hs => ⟨(h l hl hs).1, (h l hl hs).2.1⟩, fun l hl hs => (h l hl hs).2.2⟩

theorem Core.dcHeld_of_dcFree {k : Core} {st : Stream} {ms : List Mapped} (h : k.DcFree st ms) :
    k.dcHeld st ms = false := by
  rw [Core.dcHeld, Bool.and_eq_false_imp, List.any_eq_true]
  rintro ⟨m, hm, hk⟩
  have hdc := h m hm (beq_iff_eq.1 hk)
  have hloads : k.loadsQuiet st = true := by
    simp only [Core.loadsQuiet, Bool.not_eq_true', List.any_eq_false, beq_iff_eq]
    exact hdc.1
  simp only [hloads, Bool.not_true, Bool.false_or, List.any_eq_false, Bool.and_eq_true, beq_iff_eq, List.any_eq_true,
    bne_iff_ne, not_and, not_exists]
  exact fun y hy hst q hq hun m' hm' hk' he => (h m' hm' hk').2 y hy hst q hq hun he.symm

/-! ### LD and LDS in the hold (R154, R155, R159) -/

theorem holdFdet_eq (store : Bool) : holdFdet store 0 = 32 + (if store = true then 8 else 0) + 7 := by
  cases store <;> rfl

section
variable {x : Ctx} {u : State}

theorem ldBody_hold (h : x.f.mod.getLsbD 0 = true) : ldBody x u = ldHold x u := if_pos (x.inHold_eq.trans h)

theorem stBody_hold (h : x.f.mod.getLsbD 0 = true) : stBody x u = stHold x u := if_pos (x.inHold_eq.trans h)

theorem ldHold_misaligned (h : x.ea u % x.size ≠ 0) : ldHold x u = .trap u (holdAlign (x.ea u) 0 false) := if_pos h

theorem stHold_misaligned (h : x.ea u % x.size ≠ 0) : stHold x u = .trap u (holdAlign (x.ea u) 0 true) := if_pos h

theorem ldHold_beyond (h0 : x.ea u % x.size = 0) (h : (u.core x.c).holdLimit < x.ea u + x.size) :
    ldHold x u = .trap u (holdRange (x.ea u) 0 false) := by
  have hfit : x.holdFits u (x.ea u) x.size = false := decide_eq_false (Nat.not_le.2 h)
  simp only [ldHold, h0, hfit, ne_eq, not_true_eq_false, Bool.not_false, if_false, if_true]

theorem stHold_beyond (h0 : x.ea u % x.size = 0) (h : (u.core x.c).holdLimit < x.ea u + x.size) :
    stHold x u = .trap u (holdRange (x.ea u) 0 true) := by
  have hfit : x.holdFits u (x.ea u) x.size = false := decide_eq_false (Nat.not_le.2 h)
  simp only [stHold, h0, hfit, ne_eq, not_true_eq_false, Bool.not_false, if_false, if_true]

theorem ldHold_done (h0 : x.ea u % x.size = 0) (h : x.ea u + x.size ≤ (u.core x.c).holdLimit)
    (hacq : (u.core x.c).acquirePending x.st = false) (hbad : (u.core x.c).badByte (addrsFrom (x.ea u) x.size) = none) :
    ldHold x u = .done (x.result u 5 [.reg x.st x.f.dst
      (extendLoad x.f.typ.signed x.size ((u.core x.c).holdRead (x.ea u) x.size))]) .seq := by
  have hfit := (x.holdFits_iff u _ _).2 h
  simp only [ldHold, h0, hfit, hacq, hbad, ne_eq, not_true_eq_false, Bool.not_true, Bool.false_eq_true, if_false,
    Ctx.writes]

theorem stHold_done (h0 : x.ea u % x.size = 0) (h : x.ea u + x.size ≤ (u.core x.c).holdLimit)
    (hfree : ((u.core x.c).acquirePending x.st || (u.core x.c).loadsBefore x.st) = false) :
    stHold x u = .done (u.holdStore x.c x.st (x.ea u) (bytesOfNum (x.reg u x.f.sb).toNat x.size)) .seq := by
  have hfit := (x.holdFits_iff u _ _).2 h
  simp only [stHold, h0, hfit, hfree, ne_eq, not_true_eq_false, Bool.not_true, Bool.false_eq_true, if_false,
    State.holdWrite]

theorem ldsBody_done {t : Nat} (ht : t = clusterBase x.c + (x.reg u x.f.sb).toNat) (h0 : x.ea u % x.size = 0)
    (hnum : (x.reg u x.f.sb).toNat ≤ 3) (h : x.ea u + x.size ≤ (u.core t).holdLimit)
    (hreach : t = x.c ∨ u.sameConvoy x.c t = true) (hacq : (u.core x.c).acquirePending x.st = false)
    (hbad : (u.core t).badByte (addrsFrom (x.ea u) x.size) = none) :
    ldsBody x u = .done (x.result u 12 [.reg x.st x.f.dst
      (extendLoad x.f.typ.signed x.size ((u.core t).holdRead (x.ea u) x.size))]) .seq := by
  subst ht
  have hmay : u.mayReach x.c (clusterBase x.c + (x.reg u x.f.sb).toNat) = true := by
    rw [State.mayReach, Bool.or_eq_true, beq_iff_eq]
    exact hreach.imp_left Eq.symm
  simp only [ldsBody, h0, hmay, hacq, hbad, Nat.not_lt.2 hnum, Nat.not_lt.2 h, ne_eq, not_true_eq_false, Bool.not_true,
    Bool.false_eq_true, if_false, Ctx.writes]

/-! ### LD and ST in memory (R151, R155, R175, R177) -/

theorem ldBody_memory (h : x.f.mod.getLsbD 0 = false) : ldBody x u =
    match x.mapBytes u .load (addrsFrom (x.ea u) x.size) with
    | .fault f va => .trap u (memTrap (x.ea u) va 0 .load f)
    | .wait s => .wait s .access
    | .ok s ms => .done (s.issueLoad x.c {
        st := x.st, seq := 0, parts := ms.mapIdx (fun i m => (i, m.pa, m.kind)),
        dest := .reg x.f.dst x.f.typ.signed x.size, acq := none,
        origin := originOf (x.ea u) x.size 0 (addrsFrom (x.ea u) x.size), bundle := x.a }) .seq := by
  rw [ldBody, x.inHold_eq, h]
  rfl

theorem stBody_memory (h : x.f.mod.getLsbD 0 = false) : stBody x u =
    match x.mapBytes u .store (addrsFrom (x.ea u) x.size) with
    | .fault f va => .trap u (memTrap (x.ea u) va 0 .store f)
    | .wait s => .wait s .access
    | .ok s ms =>
      if (s.core x.c).dcHeld x.st ms then .wait s .access
      else .done (x.putStore s none (bytesOfNum (x.reg u x.f.sb).toNat x.size) ms
        (originOf (x.ea u) x.size 0 (addrsFrom (x.ea u) x.size))) .seq := by
  rw [stBody, x.inHold_eq, h]
  rfl

theorem ldBody_fault {e : TransFault} {va : Nat} (h : x.f.mod.getLsbD 0 = false)
    (hf : x.mapBytes u .load (addrsFrom (x.ea u) x.size) = .fault e va) :
    ldBody x u = .trap u (memTrap (x.ea u) va 0 .load e) := by rw [ldBody_memory h, hf]

theorem stBody_fault {e : TransFault} {va : Nat} (h : x.f.mod.getLsbD 0 = false)
    (hf : x.mapBytes u .store (addrsFrom (x.ea u) x.size) = .fault e va) :
    stBody x u = .trap u (memTrap (x.ea u) va 0 .store e) := by rw [stBody_memory h, hf]

/-- A store with an SO byte first commits the task's DC stores (R175, R177). -/
theorem Ctx.putStore_eq (m : State) (bytes : List Byte) (ms : List Mapped) (origin : List Origin) :
    x.putStore m none bytes ms origin = (if ∃ p ∈ ms, p.kind = .so then m.commitOwn x.c else m).issueStore x.c x.st
      ((ms.zip bytes).map (fun e => (e.1.pa, e.2, e.1.kind))) none origin x.a := by
  simp only [Ctx.putStore, List.any_eq_true, beq_iff_eq]

end

theorem exec_of_trap {i : Bundle → Fields → Instr} {o : Op} (body : Ctx → State → Res)
    (hi : ∀ b f s, exec (i b f) s = issue o b f body s) {b : Bundle} {f : Fields} {s u : State} {t : TrapInfo}
    (hr : (Ctx.of o b f s).ready s = some u) (h : body (Ctx.of o b f s) u = .trap u t) :
    exec (i b f) s = .next ((Ctx.of o b f s).traps u t) := by
  rw [hi, issue, issue_ready hr, h, Ctx.conclude]

/-! ### Traps (R151, R154, Tables 6.6 and 6.7) -/

/-- Settles O18: a hold access by its two checks, one to memory by the fault of its translation. -/
theorem accessTraps : Obligations.AccessTraps := by
  unfold Obligations.AccessTraps
  refine ⟨?_, ?_⟩
  · simp only [List.forall_mem_cons]
    refine ⟨⟨?_, ?_⟩, ⟨?_, ?_⟩, nofun⟩
    · refine traps_of_trap ldBody (fun _ _ _ => rfl) fun x u _ ⟨hh, ha⟩ => ?_
      rw [ldBody_hold hh, ldHold_misaligned ha]
      rfl
    · refine traps_of_trap ldBody (fun _ _ _ => rfl) fun x u _ ⟨hh, ha, hr⟩ => ?_
      rw [ldBody_hold hh, ldHold_beyond ha hr]
      rfl
    · refine traps_of_trap stBody (fun _ _ _ => rfl) fun x u _ ⟨hh, ha⟩ => ?_
      rw [stBody_hold hh, stHold_misaligned ha]
      rfl
    · refine traps_of_trap stBody (fun _ _ _ => rfl) fun x u _ ⟨hh, ha, hr⟩ => ?_
      rw [stBody_hold hh, stHold_beyond ha hr]
      rfl
  · simp only [List.forall_mem_cons]
    refine ⟨?_, ?_, nofun⟩
    · exact fun b f s u e va hr hm hf => ⟨_, exec_of_trap ldBody (fun _ _ _ => rfl) hr (ldBody_fault hm hf)⟩
    · exact fun b f s u e va hr hm hf => ⟨_, exec_of_trap stBody (fun _ _ _ => rfl) hr (stBody_fault hm hf)⟩

/-! ### What LD, LDS and ST answer -/

theorem ld_hold_answers : Answers .ld .ld (fun x u v => x.f.mod.getLsbD 0 = true ∧ x.ea u % x.size = 0 ∧
    x.ea u + x.size ≤ (u.core x.c).holdLimit ∧
    (∀ l ∈ (u.core x.c).loads, l.st = x.st → l.acq = none ∧ l.hasSo = false) ∧
    (u.core x.c).badByte (addrsFrom (x.ea u) x.size) = none ∧
    v = x.result u 5 [.reg x.st x.f.dst
      (extendLoad x.f.typ.signed x.size ((u.core x.c).holdRead (x.ea u) x.size))]) := by
  refine answers_of_done ldBody (fun _ _ _ => rfl) ?_
  rintro x u v - ⟨hh, ha, hr, hfree, hbad, rfl⟩
  rw [ldBody_hold hh, ldHold_done ha hr (Core.acquirePending_eq_false_iff.2 hfree) hbad]

theorem lds_answers : Answers .lds .lds (fun x u v =>
    let t := clusterBase x.c + (x.reg u x.f.sb).toNat
    x.ea u % x.size = 0 ∧ (x.reg u x.f.sb).toNat ≤ 3 ∧ x.ea u + x.size ≤ (u.core t).holdLimit ∧
    (t = x.c ∨ u.sameConvoy x.c t = true) ∧
    (∀ l ∈ (u.core x.c).loads, l.st = x.st → l.acq = none ∧ l.hasSo = false) ∧
    (u.core t).badByte (addrsFrom (x.ea u) x.size) = none ∧
    v = x.result u 12 [.reg x.st x.f.dst
      (extendLoad x.f.typ.signed x.size ((u.core t).holdRead (x.ea u) x.size))]) := by
  refine answers_of_done ldsBody (fun _ _ _ => rfl) ?_
  rintro x u v - ⟨ha, hn, hr, hreach, hfree, hbad, rfl⟩
  exact ldsBody_done rfl ha hn hr hreach (Core.acquirePending_eq_false_iff.2 hfree) hbad

theorem ld_memory_answers : Answers .ld .ld (fun x u v => x.f.mod.getLsbD 0 = false ∧ ∃ m ms,
    x.mapBytes u .load (addrsFrom (x.ea u) x.size) = .ok m ms ∧
    v = m.issueLoad x.c { st := x.st, seq := 0, parts := ms.mapIdx (fun i p => (i, p.pa, p.kind)),
                          dest := .reg x.f.dst x.f.typ.signed x.size, acq := none,
                          origin := originOf (x.ea u) x.size 0 (addrsFrom (x.ea u) x.size), bundle := x.a }) := by
  refine answers_of_done ldBody (fun _ _ _ => rfl) ?_
  rintro x u v - ⟨hm, m, ms, hok, rfl⟩
  rw [ldBody_memory hm, hok]

theorem st_hold_answers : Answers .st .st (fun x u v => x.f.mod.getLsbD 0 = true ∧ x.ea u % x.size = 0 ∧
    x.ea u + x.size ≤ (u.core x.c).holdLimit ∧
    (∀ l ∈ (u.core x.c).loads, l.st = x.st → l.acq = none ∧ l.hasSo = false ∧ l.unOnly = true) ∧
    v = u.holdStore x.c x.st (x.ea u) (bytesOfNum (x.reg u x.f.sb).toNat x.size)) := by
  refine answers_of_done stBody (fun _ _ _ => rfl) ?_
  rintro x u v - ⟨hh, ha, hr, hfree, rfl⟩
  rw [stBody_hold hh, stHold_done ha hr (Core.storeFree hfree)]

theorem st_memory_answers : Answers .st .st (fun x u v => x.f.mod.getLsbD 0 = false ∧ ∃ m ms,
    x.mapBytes u .store (addrsFrom (x.ea u) x.size) = .ok m ms ∧ (m.core x.c).DcFree x.st ms ∧
    v = (if ∃ p ∈ ms, p.kind = .so then m.commitOwn x.c else m).issueStore x.c x.st
      ((ms.zip (bytesOfNum (x.reg u x.f.sb).toNat x.size)).map (fun e => (e.1.pa, e.2, e.1.kind)))
      none (originOf (x.ea u) x.size 0 (addrsFrom (x.ea u) x.size)) x.a) := by
  refine answers_of_done stBody (fun _ _ _ => rfl) ?_
  rintro x u v - ⟨hm, m, ms, hok, hdc, rfl⟩
  rw [stBody_memory hm, hok]
  simp only [Core.dcHeld_of_dcFree hdc, Bool.false_eq_true, if_false, Ctx.putStore_eq]

end Sys2Proof.Machine

end

/-! What accesses to bytes that no RDC may hold leave of the sync variables and of the pending stores (R140, R163,
R171). -/

section

namespace Sys2Proof.Machine

/-! ### The sync variables of the dies (R272) -/

/-- The sync variables of each die. -/
def State.syncs (s : State) (d : Nat) : List Nat := (s.die d).syncVars

theorem State.setDie_syncs (s : State) (d : Nat) (v : Die) (h : v.syncVars = (s.die d).syncVars) :
    (s.setDie d v).syncs = s.syncs := by
  funext e
  unfold State.syncs
  rw [State.die_setDie_if]
  split
  case isTrue he => rw [h, he]
  case isFalse => rfl

theorem noteLine_syncs (s : State) (m : Option Meter) : (s.noteLine m).syncs = s.syncs := by cases m <;> rfl

theorem dropL2_syncs (s : State) (line : Nat) : (s.dropL2 line).syncs = s.syncs := by
  unfold State.dropL2
  dsimp only
  split
  · rfl
  · rw [noteLine_syncs]
    exact State.setDie_syncs _ _ _ (by rfl)

theorem roomL2_syncs (s : State) (d : Nat) : (s.roomL2 d).syncs = s.syncs := by
  unfold State.roomL2
  split
  · rfl
  · exact dropL2_syncs _ _

theorem touchLine_syncs (s : State) (line : Nat) (store : Bool) (m : Option Meter) :
    (s.touchLine line store m).syncs = s.syncs := by
  unfold State.touchLine
  dsimp only
  split
  · rfl
  · split
    · split
      · rfl
      · exact State.setDie_syncs _ _ _ rfl
    · rw [noteLine_syncs]
      exact (State.setDie_syncs _ _ _ (by rfl)).trans (roomL2_syncs _ _)

theorem touchLines_syncs (l : List Nat) (s : State) (m : Option Meter) :
    (l.foldl (fun s n => s.touchLine n true m) s).syncs = s.syncs :=
  foldl_leaves State.syncs _ (fun s n => touchLine_syncs s n true m) l s

theorem acquireRdc_syncs (s : State) (c : Nat) (sc : Scope) : (s.acquireRdc c sc).syncs = s.syncs := by
  cases sc
  case dev | sys => exact State.setDie_syncs _ _ _ rfl
  all_goals rfl

theorem acquireRdc_kernel (s : State) (c : Nat) (sc : Scope) : (s.acquireRdc c sc).kernel = s.kernel := by
  cases sc <;> rfl

/-- Whether a die may hold a byte's line rests on the sync variables only (R140). -/
theorem rdcMayHold_congr {s t : State} (h : t.syncs = s.syncs) (d pa : Nat) (kind : OrderKind) :
    t.rdcMayHold d pa kind = s.rdcMayHold d pa kind := by
  have hd : (t.die (homeDie pa)).syncVars = (s.die (homeDie pa)).syncVars := congrFun h _
  rw [State.rdcMayHold, State.rdcMayHold, hd]

/-! ### Stores at the home (R163, R304, R306, R322) -/

theorem writeRegisters_dies (l : List Nat) (s : State) (bytes : List (Nat × Byte)) :
    (s.writeRegisters bytes l).dies = s.dies := by
  induction l generalizing s with
  | nil => rfl
  | cons r l ih =>
    simp only [State.writeRegisters, ih]
    split
    · split
      · unfold writeQueueRegister
        dsimp only
        split <;> rfl
      · rfl
    · rfl

theorem homeEvents_dies (l : List Nat) (s : State) (store : Bool) (pas : List Nat) :
    (s.homeEvents store pas l).dies = s.dies := by
  induction l generalizing s with
  | nil => rfl
  | cons q l ih =>
    obtain ⟨h, e⟩ := homeEvents_cons s store pas q l
    rw [e, ih]
    split <;> rfl

theorem wakeLines_dies (s : State) (pas : List Nat) : (s.wakeLines pas).dies = s.dies := by
  unfold State.wakeLines
  dsimp only
  split <;> rfl

theorem storeHome_dies (s : State) (bytes : List (Nat × Byte)) : (s.storeHome bytes).dies = s.dies := by
  simp only [State.storeHome, wakeLines_dies, homeEvents_dies, writeRegisters_dies]

/-- The pending stores of each core. -/
def State.pending (s : State) (c : Nat) : List PStore := (s.core c).stores

theorem pending_of_cores {s t : State} (h : t.cores = s.cores) : t.pending = s.pending :=
  funext fun c => by rw [State.pending, State.core, h]; rfl

theorem State.setCore_pending {s : State} {c : Nat} {k : Core} (h : k.stores = (s.core c).stores) :
    (s.setCore c k).pending = s.pending :=
  funext (State.forall_core_setCore (p := fun d k => k.stores = (s.core d).stores) h (fun _ _ => rfl))

theorem wakeLines_pending (s : State) (pas : List Nat) : (s.wakeLines pas).pending = s.pending := by
  unfold State.wakeLines
  dsimp only
  split
  · refine funext fun c =>
      Tbl.get_map_rel (R := fun k k' : Core => k.stores = k'.stores) Core.reset rfl _ ?_ ?_ s.cores c
    · intro e
      split <;> rfl
    · intro e
      split <;> rfl
  · rfl

theorem storeHome_pending (s : State) (bytes : List (Nat × Byte)) : (s.storeHome bytes).pending = s.pending := by
  obtain ⟨u, hu, hcores, _, _⟩ := storeHome_cores s bytes
  rw [hu, wakeLines_pending, pending_of_cores hcores]

theorem storeFor_pending (s : State) (m : Option Meter) (bytes : List (Nat × Byte)) :
    (s.storeFor m bytes).pending = s.pending :=
  (storeHome_pending _ _).trans (pending_of_cores (congrArg Prod.fst (touchLines_kernel _ s m)))

theorem storeFor_syncs (s : State) (m : Option Meter) (bytes : List (Nat × Byte)) :
    (s.storeFor m bytes).syncs = s.syncs := by
  refine Eq.trans (funext fun d => ?_) (touchLines_syncs (withoutRuns (bytes.map (fun e => e.1 / 64))) s m)
  rw [State.syncs, State.die, State.storeFor, storeHome_dies]
  rfl

theorem storeFor_mem {bytes : List (Nat × Byte)} (s : State) (m : Option Meter)
    (h : ∀ e ∈ bytes, isDevice e.1 = false) : (s.storeFor m bytes).mem = s.mem.setAll bytes := by
  have hall : bytes.filter (fun e => !isDevice e.1) = bytes :=
    List.filter_eq_self.2 fun e he => by rw [h e he, Bool.not_false]
  have hk := touchLines_kernel (withoutRuns (bytes.map (fun e => e.1 / 64))) s m
  rw [State.storeFor, storeHome_mem, hall]
  exact congrArg (fun p => p.2.setAll bytes) hk

end Sys2Proof.Machine

end

/-! What a piece of a load reads from bytes of memory that no RDC may hold, and what the whole load delivers (R155,
R156, R163, R164). -/

section

namespace Sys2Proof.Machine

/-! ### Bytes read at their home (R140, R163) -/

theorem State.core_of_kernel {s t : State} (h : t.kernel = s.kernel) (c : Nat) : t.core c = s.core c :=
  congrArg (fun p : Tbl Core × Memory => Tbl.get Core.reset p.1 c) h

theorem State.mem_of_kernel {s t : State} (h : t.kernel = s.kernel) : t.mem = s.mem := congrArg Prod.snd h

theorem State.homeByte_memory {s : State} {pa : Nat} (h : isDevice pa = false) : s.homeByte pa = s.mem.get pa :=
  if_neg (by rw [h]; decide)

/-- An access that no RDC may hold reads the home's byte. -/
theorem readByteFor_home {s : State} {c pa : Nat} {kind : OrderKind} (m : Option Meter) (hk : kind ≠ .so)
    (hd : isDevice pa = false) (hr : s.rdcMayHold (dieOf c) pa kind = false) :
    s.readByteFor m c pa kind = (s.touchLine (pa / 64) false m, s.mem.get pa) := by
  have hso : (kind == .so) = false := beq_eq_false_iff_ne.2 hk
  have hmem : (s.touchLine (pa / 64) false m).mem = s.mem := State.mem_of_kernel (touchLine_kernel s _ _ m)
  simp only [State.readByteFor, hr, hso, Bool.false_eq_true, if_false, State.homeByte_memory hd, hmem]

/-- An RC byte at its home, that no RDC may hold. -/
def State.RcHome (s : State) (c pa : Nat) : Prop :=
  isDevice pa = false ∧ s.rdcMayHold (dieOf c) pa .rc = false

theorem State.RcHome.congr {s t : State} {c pa : Nat} (h : s.RcHome c pa) (ht : t.syncs = s.syncs) : t.RcHome c pa :=
  ⟨h.1, (rdcMayHold_congr ht _ _ _).trans h.2⟩

/-- What a load reads of a byte: what its core has of it, else the home's. -/
def Core.loadedByte (k : Core) (mem : Memory) (st : Stream) (seq pa : Nat) : Byte :=
  (k.ownByte st seq pa .rc).getD (mem.get pa)

theorem readThrough_home {c : Nat} {st : Stream} {seq : Nat} (parts : List (Nat × Nat × OrderKind)) (s : State)
    (view : List (Nat × Byte)) (h : ∀ p ∈ parts, p.2.2 = .rc ∧ s.RcHome c p.2.1) :
    (s.readThrough c st seq view parts).1.kernel = s.kernel ∧
    (s.readThrough c st seq view parts).2 = parts.map (fun p => (p.1, (s.core c).loadedByte s.mem st seq p.2.1)) := by
  induction parts generalizing s with
  | nil => exact ⟨rfl, rfl⟩
  | cons p parts ih =>
    obtain ⟨ix, pa, kind⟩ := p
    obtain ⟨⟨rfl, hp⟩, hrest⟩ := List.forall_mem_cons.1 h
    cases hown : (s.core c).ownByte st seq pa .rc with
    | some b =>
      obtain ⟨hk, hb⟩ := ih s hrest
      simp [State.readThrough, hown, hk, hb, Core.loadedByte]
    | none =>
      have hread : s.readWith (s.meterOf c) c st pa .rc view =
          (s.touchLine (pa / 64) false (s.meterOf c), s.mem.get pa) :=
        readByteFor_home _ (by decide) hp.1 hp.2
      have hkern := touchLine_kernel s (pa / 64) false (s.meterOf c)
      have hcore : (s.touchLine (pa / 64) false (s.meterOf c)).core c = s.core c :=
        State.core_of_kernel hkern c
      have hmem : (s.touchLine (pa / 64) false (s.meterOf c)).mem = s.mem := State.mem_of_kernel hkern
      obtain ⟨hk, hb⟩ := ih (s.touchLine (pa / 64) false (s.meterOf c))
        (fun p hp => ⟨(hrest p hp).1, (hrest p hp).2.congr (touchLine_syncs _ _ _ _)⟩)
      rw [hcore, hmem] at hb
      simp [State.readThrough, hown, hread, hk.trans hkern, hb, Core.loadedByte]

theorem readParts_home {c : Nat} {st : Stream} {seq : Nat} {parts : List (Nat × Nat × OrderKind)} {s : State}
    (h : ∀ p ∈ parts, p.2.2 = .rc ∧ s.RcHome c p.2.1) :
    (s.readParts c st seq parts).1.kernel = s.kernel ∧
    (s.readParts c st seq parts).2 = parts.map (fun p => (p.1, (s.core c).loadedByte s.mem st seq p.2.1)) := by
  have hun : parts.filter (fun p => p.2.2 == .un) = [] :=
    List.filter_eq_nil_iff.2 fun p hp => by rw [(h p hp).1]; decide
  rw [State.readParts, hun]
  exact readThrough_home parts s [] h

theorem acquireFor_kernel (s : State) (c : Nat) (l : PLoad) : (s.acquireFor c l).kernel = s.kernel := by
  unfold State.acquireFor
  split
  · exact acquireRdc_kernel _ _ _
  · rfl

theorem acquireFor_syncs (s : State) (c : Nat) (l : PLoad) : (s.acquireFor c l).syncs = s.syncs := by
  unfold State.acquireFor
  split
  · exact acquireRdc_syncs _ _ _
  · rfl

/-- A piece of a load of RC bytes at their homes reads each of them, and leaves cores and memory as they were. -/
theorem loadPiece_home {s : State} {c : Nat} {l : PLoad} {q : Nat × Nat} (hamo : l.amo = none)
    (h : ∀ p ∈ (l.piece q true).parts, p.2.2 = .rc ∧ s.RcHome c p.2.1 ∧ p.2.1 / 64 ∉ s.badLines) :
    ∃ u : State, u.kernel = s.kernel ∧ s.loadPiece c l q = u.putLoad c { l.piece q false with
      got := l.got ++ (l.piece q true).parts.map (fun p =>
        (p.1, (s.core c).loadedByte s.mem l.st l.seq p.2.1)) } := by
  have hbad : ((l.piece q true).pas.zip (l.piece q true).origin).find? (fun e => s.badLines.contains (e.1 / 64)) =
      none := by
    refine List.find?_eq_none.2 fun e he => ?_
    obtain ⟨p, hp, hpe⟩ := List.mem_map.1 (List.of_mem_zip he).1
    have := (h p hp).2.2
    rw [← hpe, List.contains_iff_mem]
    exact this
  have hk := acquireFor_kernel s c (l.piece q true)
  obtain ⟨hread, hbytes⟩ := readParts_home (s := s.acquireFor c (l.piece q true)) (st := l.st) (seq := l.seq)
    (fun p hp => ⟨(h p hp).1, (h p hp).2.1.congr (acquireFor_syncs s c (l.piece q true))⟩)
  rw [State.core_of_kernel hk c, show (s.acquireFor c (l.piece q true)).mem = s.mem from
    State.mem_of_kernel hk] at hbytes
  refine ⟨_, (acquireFor_kernel _ c (l.piece q true)).trans (hread.trans hk), ?_⟩
  simp only [State.loadPiece, hbad, hamo, hbytes]

/-! ### What a whole load delivers (R155, R156, R212) -/

theorem assemble_eq_sum (bytes : List (Nat × Byte)) :
    assemble bytes = (bytes.map (fun e => e.2.toNat * 256 ^ e.1)).sum := by
  rw [List.sum_eq_foldl, List.foldl_map]
  rfl

theorem extendLoad_eq {n : Nat} (hn : 0 < n) (signed : Bool) (v : Nat) : extendLoad signed n v =
    if signed = true then (BitVec.ofNat (8 * n) v).signExtend 64 else BitVec.ofNat 64 v := by
  rw [extendLoad, sextInt_eq_toInt (Nat.mul_pos (by decide) hn)]
  rfl

theorem Core.deliver_reg {k : Core} {tick : Nat} {l : PLoad} {v n : Nat} {o : Operand} {signed : Bool}
    (hl : l.dest = .reg o signed n) (ho : isRegister o = true) (hs : o ≠ .s 0) (hp : o ≠ .p 0) :
    ((k.deliver tick l v).stream l.st).reg o = extendLoad signed n v := by
  rw [Core.deliver, hl]
  exact (congrArg (fun t => StreamState.reg t o) (Core.stream_modStream _ _ _)).trans
    (StreamState.reg_setReg_same (k.stream l.st) (extendLoad signed n v) ho hs hp)

theorem Core.deliver_entry {k : Core} {tick : Nat} {l : PLoad} {v n slot rid : Nat} (hl : l.dest = .entry n slot rid)
    (hr : Tbl.get 0 (k.queueReg n).rsv slot = rid) (hd : Tbl.get true (k.queueReg n).rdy slot = false) :
    Tbl.get 0 ((k.deliver tick l v).queueReg n).slots slot = BitVec.ofNat 1024 v ∧
      Tbl.get true ((k.deliver tick l v).queueReg n).rdy slot = true := by
  rw [Core.deliver, hl]
  dsimp only
  rw [Core.queueReg_setQueueReg]
  obtain ⟨hslot, hready, -⟩ := QueueReg.land_reserved (tick := tick) (k.queueReg n) (BitVec.ofNat 1024 v) hr hd
  exact ⟨hslot, hready⟩

theorem State.finishLoad_core {s : State} {c : Nat} {l : PLoad} (h : l.err = none) : (s.finishLoad c l).core c =
    ({ s.core c with loads := (s.core c).loads.filter (fun m => m.seq != l.seq) } : Core).deliver (s.tickOf c) l
      (assemble l.got) := by
  rw [State.finishLoad, h]
  exact (State.core_modCore _ _ _).trans (by rw [State.core_setCore, State.tickOf_setCore])

theorem State.putLoad_mem {s : State} {c : Nat} {l : PLoad} (h : l.err = none) : (s.putLoad c l).mem = s.mem := by
  unfold State.putLoad State.finishLoad
  rw [h]
  split <;> rfl

/-- Settles O17: the instructions by their bodies, a load's pieces by what each reads at its home. -/
theorem scalarMemory : Obligations.ScalarMemory := by
  refine ⟨⟨ld_hold_answers, lds_answers, ld_memory_answers⟩, st_hold_answers, st_memory_answers, ?_⟩
  intro s c l q hamo herr hparts k t got v
  obtain ⟨u, hu, ht⟩ := loadPiece_home (s := s) (c := c) (q := q) hamo
    (fun p hp => by
      obtain ⟨hrc, hdev, hrdc, hbad⟩ := hparts p hp
      exact ⟨hrc, ⟨hdev, hrdc⟩, hbad⟩)
  have hcore : u.core c = k := State.core_of_kernel hu c
  have hmem : u.mem = s.mem := State.mem_of_kernel hu
  let r : PLoad := { l.piece q false with got := got }
  have herr' : r.err = none := herr
  have ht : t = u.putLoad c r := ht
  refine ⟨?_, fun hleft => ?_, fun hdone => ?_⟩
  · rw [ht, State.putLoad_mem herr', hmem]
  · rw [ht, State.putLoad, if_neg (by simpa using hleft), State.core_modCore, hcore]
    rfl
  · have hfin : t.core c =
        ({ k with loads := k.loads.filter (fun m => m.seq != r.seq) } : Core).deliver (u.tickOf c) r v := by
      rw [ht, State.putLoad, if_pos (by simpa using hdone), State.finishLoad_core herr', hcore, assemble_eq_sum]
    refine ⟨fun o signed n hn hdest _ ho hs hp => ?_, fun n slot rid hdest hr hd => ?_⟩
    · have hpos : 0 < n := List.forall_mem_cons.2 ⟨by decide, by decide⟩ n hn
      rw [State.stream, hfin, ← extendLoad_eq hpos]
      exact Core.deliver_reg (l := r) hdest ho hs hp
    · rw [hfin]
      exact Core.deliver_entry (l := r) hdest hr hd

end Sys2Proof.Machine

end

/-! A pending store performed at the homes of its bytes, piece by piece (R141, R157, R163, R171). -/

section

namespace Sys2Proof.Machine

theorem Memory.get_setAll_nodup (l : List (Nat × Byte)) (m : Memory) (h : m.wf = true)
    (hn : (l.map (fun e => e.1)).Nodup) {e : Nat × Byte} (he : e ∈ l) : (m.setAll l).get e.1 = e.2 := by
  induction l generalizing m with
  | nil => cases he
  | cons f l ih =>
    obtain ⟨hf, hn⟩ := List.nodup_cons.1 hn
    obtain rfl | he := List.mem_cons.1 he
    · have hother : ∀ g ∈ l, g.1 ≠ e.1 := fun g hg hge => hf (List.mem_map.2 ⟨g, hg, hge⟩)
      exact (Memory.get_setAll_other l _ e.1 (m.set_wf _ _ h) hother).trans
        (by rw [Memory.get_set m e.1 e.1 e.2 h, if_pos rfl])
    · exact ih _ (m.set_wf _ _ h) hn he

/-- A memory that holds the parts of a store, and elsewhere what it held before. -/
def Memory.Stored (m m' : Memory) (parts : List (Nat × Byte × OrderKind)) : Prop :=
  (∀ p ∈ parts, m'.get p.1 = p.2.1) ∧ ∀ a, (∀ p ∈ parts, p.1 ≠ a) → m'.get a = m.get a

theorem Memory.stored_nil (m : Memory) : m.Stored m [] := ⟨fun _ hp => absurd hp List.not_mem_nil, fun _ _ => rfl⟩

theorem Memory.stored_setAll {m : Memory} (h : m.wf = true) {parts : List (Nat × Byte × OrderKind)}
    (hn : (parts.map (fun p => p.1)).Nodup) : m.Stored (m.setAll (parts.map (fun p => (p.1, p.2.1)))) parts :=
  ⟨fun _ hp => Memory.get_setAll_nodup _ m h (by rw [List.map_map]; exact hn) (List.mem_map_of_mem hp),
    fun a ha => Memory.get_setAll_other _ m a h (List.forall_mem_map.2 ha)⟩

/-- Parts stored one list after the other, at addresses of their own. -/
theorem Memory.Stored.trans {m m1 m2 : Memory} {a b parts : List (Nat × Byte × OrderKind)} (ha : m.Stored m1 a)
    (hb : m1.Stored m2 b) (hperm : (a ++ b).Perm parts) (hn : (parts.map (fun p => p.1)).Nodup) :
    m.Stored m2 parts := by
  have hab := (hperm.map (fun p => p.1)).nodup_iff.2 hn
  rw [List.map_append, List.nodup_append'] at hab
  obtain ⟨-, -, hdisj⟩ := hab
  refine ⟨fun p hp => ?_, fun x hx => ?_⟩
  · obtain hp | hp := List.mem_append.1 (hperm.symm.subset hp)
    · rw [hb.2 p.1 fun r hr hrp => hdisj (List.mem_map_of_mem hp) (List.mem_map.2 ⟨r, hr, hrp⟩)]
      exact ha.1 p hp
    · exact hb.1 p hp
  · rw [hb.2 x fun p hp => hx p (hperm.subset (List.mem_append_right _ hp))]
    exact ha.2 x fun p hp => hx p (hperm.subset (List.mem_append_left _ hp))

/-! ### The pieces of a store (R141, R157) -/

/-- Each part of a store has its origin. -/
def PStore.Whole (x : PStore) : Prop := x.origin.length = x.parts.length

theorem PStore.piece_whole (x : PStore) (q : Nat × Nat) (inside : Bool) : (x.piece q inside).Whole := by
  simp only [PStore.Whole, PStore.piece, List.length_map]

theorem inPiece_perm {α : Type} (q : Nat × Nat) (parts : List α) (l : List Origin) :
    (inPiece q true parts l ++ inPiece q false parts l).Perm (parts.zip l) := by
  have h := List.filter_append_perm (fun e : α × Origin => (e.2.lane, e.2.piece) == q) (parts.zip l)
  simpa only [inPiece, beq_true, beq_false] using h

theorem PStore.parts_perm {x : PStore} (h : x.Whole) (q : Nat × Nat) :
    ((x.piece q true).parts ++ (x.piece q false).parts).Perm x.parts := by
  have hp := (inPiece_perm q x.parts x.origin).map (fun e => e.1)
  rw [List.map_append, List.map_fst_zip (Nat.le_of_eq h.symm)] at hp
  exact hp

/-- A piece that may be performed holds a part, so fewer are left without it. -/
theorem PStore.rest_shorter {x : PStore} (h : x.Whole) {q : Nat × Nat} (hq : q ∈ piecesOf x.origin) :
    (x.piece q false).origin.length < x.origin.length := by
  obtain ⟨o, ho, hoq⟩ := List.mem_map.1 (List.mem_eraseDups.1 hq)
  obtain ⟨e, he, heo⟩ := List.mem_map.1 (show o ∈ (x.parts.zip x.origin).map Prod.snd by
    rw [List.map_snd_zip (Nat.le_of_eq h)]
    exact List.mem_of_mem_filter ho)
  have hin : e ∈ inPiece q true x.parts x.origin :=
    List.mem_filter.2 ⟨he, by rw [heo, hoq]; simp⟩
  have hlen := (inPiece_perm q x.parts x.origin).length_eq
  have hpos := List.length_pos_of_mem hin
  rw [List.length_append, List.length_zip, ← h, Nat.min_self] at hlen
  rw [PStore.piece, List.length_map]
  omega

/-- Where origins are left, a piece may be performed next. -/
theorem piecesOf_ne_nil {l : List Origin} (h : l ≠ []) : piecesOf l ≠ [] := by
  obtain ⟨o, ho⟩ := List.exists_mem_of_ne_nil l h
  suffices hf : ∃ r ∈ l, (!r.upper || l.all (fun p => p.lane != r.lane || p.upper)) = true by
    obtain ⟨r, hr, hcond⟩ := hf
    exact List.ne_nil_of_mem (List.mem_eraseDups.2 (List.mem_map_of_mem (List.mem_filter.2 ⟨hr, hcond⟩)))
  by_cases hall : l.all (fun p => p.lane != o.lane || p.upper) = true
  · exact ⟨o, ho, by rw [hall, Bool.or_true]⟩
  · obtain ⟨p, hp, hlow⟩ := List.all_eq_false.1 (Bool.eq_false_iff.2 hall)
    have hupper : p.upper = false := by simp_all
    exact ⟨p, hp, by rw [hupper]; rfl⟩

/-! ### Bytes stored at their home (R163, R171) -/

/-- Bytes of device memory that a store brings to their homes. -/
def State.StoresHome (s : State) (c : Nat) (parts : List (Nat × Byte × OrderKind)) : Prop :=
  ∀ p ∈ parts, p.2.2 ≠ .so ∧ isDevice p.1 = false ∧ s.rdcMayHold (dieOf c) p.1 p.2.2 = false

theorem State.StoresHome.congr {s t : State} {c : Nat} {parts : List (Nat × Byte × OrderKind)}
    (h : s.StoresHome c parts) (ht : t.syncs = s.syncs) : t.StoresHome c parts := fun p hp =>
  ⟨(h p hp).1, (h p hp).2.1, (rdcMayHold_congr ht _ _ _).trans (h p hp).2.2⟩

theorem writeByte_home {s : State} {c pa : Nat} {b : Byte} {kind : OrderKind} (hk : kind ≠ .so)
    (hr : s.rdcMayHold (dieOf c) pa kind = false) : s.writeByte c pa b kind = (s, [(pa, b)]) := by
  have hso : (kind == .so) = false := beq_eq_false_iff_ne.2 hk
  simp only [State.writeByte, hr, hso, Bool.false_eq_true, if_false]

theorem writeParts_home {s : State} {c : Nat} (parts : List (Nat × Byte × OrderKind)) (h : s.StoresHome c parts) :
    s.writeParts c parts = (s, parts.map (fun p => (p.1, p.2.1))) := by
  induction parts with
  | nil => rfl
  | cons p parts ih =>
    obtain ⟨⟨hk, -, hr⟩, hrest⟩ := List.forall_mem_cons.1 h
    rw [State.writeParts, writeByte_home hk hr]
    dsimp only
    rw [ih hrest]
    rfl

theorem reachHome_kernel (s : State) (d : Nat) (pas : List Nat) : (s.reachHome d pas).kernel = s.kernel := by
  unfold State.reachHome
  split <;> rfl

theorem reachHome_syncs (s : State) (d : Nat) (pas : List Nat) : (s.reachHome d pas).syncs = s.syncs := by
  unfold State.reachHome
  split <;> rfl

/-- What a store leaves in a state that its bytes reach at home: memory, sync variables, pending stores. -/
def State.stored (s : State) : Memory × (Nat → List Nat) × (Nat → List PStore) := (s.mem, s.syncs, s.pending)

theorem reachHome_stored (s : State) (d : Nat) (pas : List Nat) : (s.reachHome d pas).stored = s.stored := by
  have hk := reachHome_kernel s d pas
  rw [State.stored, reachHome_syncs, pending_of_cores (congrArg Prod.fst hk)]
  exact congrArg (fun m => (m, s.syncs, s.pending)) (congrArg Prod.snd hk)

theorem logUn_stored (s : State) (c : Nat) (st : Stream) (bytes : List (Nat × Byte)) :
    (s.logUn c st bytes).stored = s.stored := rfl

theorem storeFor_stored {bytes : List (Nat × Byte)} (s : State) (m : Option Meter)
    (h : ∀ e ∈ bytes, isDevice e.1 = false) :
    (s.storeFor m bytes).stored = (s.mem.setAll bytes, s.syncs, s.pending) := by
  rw [State.stored, storeFor_mem s m h, storeFor_syncs, storeFor_pending]

theorem writeBytes_home {s : State} {c : Nat} (st : Stream) {parts : List (Nat × Byte × OrderKind)}
    (h : s.StoresHome c parts) : (s.writeBytes c st parts).stored =
      (s.mem.setAll (parts.map (fun p => (p.1, p.2.1))), s.syncs, s.pending) := by
  have hdev : ∀ e ∈ parts.map (fun p => (p.1, p.2.1)), isDevice e.1 = false :=
    List.forall_mem_map.2 fun p hp => (h p hp).2.1
  unfold State.writeBytes
  dsimp only
  split
  · rw [writeParts_home parts h]
    exact storeFor_stored _ _ hdev
  · rw [writeParts_home (s := s.logUn c st (unParts parts)) parts (h.congr rfl), reachHome_stored]
    exact storeFor_stored _ _ hdev

theorem pending_setCore_same (s : State) (c : Nat) (k : Core) : (s.setCore c k).pending c = k.stores :=
  congrArg Core.stores (State.core_setCore s c k)

/-! ### A piece of a store performed (R141, R163) -/

theorem PStore.meets_eq (x one : PStore) (bad : List Nat) : ∃ e, x.meets one bad = { x with err := e } := by
  unfold PStore.meets
  split
  · exact ⟨x.err, rfl⟩
  · exact ⟨_, rfl⟩

theorem Core.replaceDcBytes_stores (k : Core) (st : Stream) (seq : Nat) (pas : List Nat) :
    (k.replaceDcBytes st seq pas).stores = k.stores := by
  unfold Core.replaceDcBytes
  dsimp only
  split <;> rfl

theorem State.modCore_stored {s : State} {c : Nat} {g : Core → Core} (h : (g (s.core c)).stores = (s.core c).stores) :
    (s.modCore c g).stored = s.stored :=
  congrArg (fun l => (s.mem, s.syncs, l)) (State.setCore_pending h)

theorem PStore.release_eq_none_iff {x : PStore} : x.release = none ↔ x.hasSo = false ∧ x.rel = none := by
  unfold PStore.release
  cases x.hasSo <;> simp

/-- Parts of a store that releases nothing still release nothing. -/
theorem PStore.piece_release {x : PStore} (hw : x.Whole) (h : x.release = none) (q : Nat × Nat) (inside : Bool) :
    (x.piece q inside).release = none := by
  obtain ⟨hso, hrel⟩ := PStore.release_eq_none_iff.1 h
  refine PStore.release_eq_none_iff.2 ⟨List.any_eq_false.2 fun p hp => List.any_eq_false.1 hso p ?_, hrel⟩
  refine (PStore.parts_perm hw q).subset (List.mem_append.2 ?_)
  cases inside
  · exact .inr hp
  · exact .inl hp

/-- The stores that a core keeps when a piece of one is performed. -/
def storesLeft (x rest : PStore) (l : List PStore) : List PStore :=
  if rest.parts.isEmpty then l.filter (fun y => y.seq != x.seq) else l.map (fun y => if y.seq = x.seq then rest else y)

/-- A core when a piece of one of its stores goes home. -/
def Core.lessPiece (k : Core) (x one rest : PStore) : Core :=
  ({ k with stores := storesLeft x rest k.stores } : Core).replaceDcBytes x.st x.seq
    ((one.parts.filter (fun p => p.2.2 != .un)).map (fun p => p.1))

/-- The errors of a performed piece, logged and, with the last piece, told to the store's stream. -/
def State.logPiece (s : State) (c : Nat) (x one rest : PStore) : State :=
  let s := match one.pas.find? (fun a => s.badLines.contains (a / 64)) with
    | some a => s.logUncorr c a
    | none => s
  match rest.err with
  | some o =>
    if rest.parts.isEmpty then (s.noteUncorr c x.st true o x.bundle).modCore c (fun k => k.toldDc x.st x.seq) else s
  | none => s

theorem storePiece_eq (s : State) (c : Nat) (x : PStore) (q : Nat × Nat) :
    let one := x.piece q true
    let rest := (x.piece q false).meets one s.badLines
    s.storePiece c x q = ((((s.setCore c ((s.core c).lessPiece x one rest)).releaseStore c one.release).writeBytes
      c x.st one.parts).releaseStore c one.release).logPiece c x one rest := rfl

theorem logPiece_stored (s : State) (c : Nat) (x one rest : PStore) : (s.logPiece c x one rest).stored = s.stored := by
  have hlog : ∀ o : Option Nat, (match o with | some a => s.logUncorr c a | none => s).stored = s.stored := by
    rintro (_ | _) <;> rfl
  unfold State.logPiece
  dsimp only
  split
  · split
    · exact (State.modCore_stored rfl).trans ((State.modCore_stored rfl).trans (hlog _))
    · exact hlog _
  · exact hlog _

/-- A piece at its home that releases nothing: its bytes are in memory, and the rest of its store is left. -/
theorem storePiece_home {s : State} {c : Nat} {x : PStore} {q : Nat × Nat} (hrel : (x.piece q true).release = none)
    (h : s.StoresHome c (x.piece q true).parts) :
    (s.storePiece c x q).mem = s.mem.setAll ((x.piece q true).parts.map (fun p => (p.1, p.2.1))) ∧
    (s.storePiece c x q).syncs = s.syncs ∧
    ((s.storePiece c x q).core c).stores =
      storesLeft x ((x.piece q false).meets (x.piece q true) s.badLines) (s.core c).stores := by
  have hwrite := writeBytes_home (s := s.setCore c ((s.core c).lessPiece x (x.piece q true)
    ((x.piece q false).meets (x.piece q true) s.badLines))) x.st (h.congr rfl)
  have hs : (s.storePiece c x q).stored = _ :=
    (congrArg State.stored (storePiece_eq s c x q)).trans (logPiece_stored _ _ _ _ _)
  rw [hrel] at hs
  replace hs := hs.trans hwrite
  rw [State.stored, Prod.mk.injEq, Prod.mk.injEq] at hs
  obtain ⟨hmem, hsyncs, hstores⟩ := hs
  refine ⟨hmem, hsyncs, (congrFun hstores c).trans ?_⟩
  rw [pending_setCore_same, Core.lessPiece, Core.replaceDcBytes_stores]

/-! ### The whole store (R141, R163) -/

/-- A store is performed by one piece after the other. -/
def State.performNext (s : State) (c seq : Nat) : State :=
  match (s.core c).stores.find? (fun y => y.seq == seq) with
  | none => s
  | some y =>
    match piecesOf y.origin with
    | [] => s
    | q :: _ => s.storePiece c y q

theorem performStore_eq (s : State) (c : Nat) (x : PStore) :
    s.performStore c x = x.origin.foldl (fun s _ => s.performNext c x.seq) s := rfl

theorem performNext_absent {s : State} {c seq : Nat} (h : (s.core c).stores.find? (fun y => y.seq == seq) = none)
    (l : List Origin) : l.foldl (fun s _ => s.performNext c seq) s = s := by
  have hnext : s.performNext c seq = s := by rw [State.performNext, h]
  induction l with
  | nil => rfl
  | cons o l ih => rw [List.foldl_cons, hnext, ih]

theorem storesLeft_find_none {x rest : PStore} {l : List PStore} (h : rest.parts = []) :
    (storesLeft x rest l).find? (fun y => y.seq == x.seq) = none := by
  rw [storesLeft, if_pos (by rw [h]; rfl), List.find?_eq_none]
  intro y hy
  have := (List.mem_filter.1 hy).2
  simpa using this

theorem storesLeft_find {x rest : PStore} {l : List PStore} (h : rest.parts ≠ []) (hseq : rest.seq = x.seq)
    (hl : l.find? (fun y => y.seq == x.seq) = some x) :
    (storesLeft x rest l).find? (fun y => y.seq == x.seq) = some rest := by
  rw [storesLeft, if_neg (by simpa using h), List.find?_map]
  have hcomp : ((fun y : PStore => y.seq == x.seq) ∘ fun y => if y.seq = x.seq then rest else y) =
      fun y => y.seq == x.seq := by
    funext y
    by_cases hy : y.seq = x.seq <;> simp [hy, hseq]
  rw [hcomp, hl]
  simp

/-- A store of parts at their homes that releases nothing, each part with its origin and at an address of its own. -/
structure State.Storing (s : State) (c : Nat) (y : PStore) : Prop where
  wf : s.MemoryWf
  whole : y.Whole
  quiet : y.release = none
  apart : (y.parts.map (fun p => p.1)).Nodup
  home : s.StoresHome c y.parts

/-- A piece leaves the rest of its store to be performed in the same way. -/
theorem State.Storing.rest {s : State} {c : Nat} {y : PStore} (h : s.Storing c y) (q : Nat × Nat) (e : Option Origin) :
    (s.storePiece c y q).Storing c { y.piece q false with err := e } ∧
    s.mem.Stored (s.storePiece c y q).mem (y.piece q true).parts := by
  have hperm := PStore.parts_perm h.whole q
  have hn := (hperm.map (fun p => p.1)).nodup_iff.2 h.apart
  rw [List.map_append, List.nodup_append'] at hn
  obtain ⟨hin, hout, -⟩ := hn
  obtain ⟨hmem, hsyncs, -⟩ := storePiece_home (PStore.piece_release h.whole h.quiet q true)
    (fun p hp => h.home p (hperm.subset (List.mem_append_left _ hp)))
  refine ⟨⟨?_, PStore.piece_whole y q false, PStore.piece_release h.whole h.quiet q false, hout, ?_⟩, ?_⟩
  · rw [State.MemoryWf, hmem]
    exact Memory.setAll_wf _ _ h.wf
  · exact State.StoresHome.congr (fun p hp => h.home p (hperm.subset (List.mem_append_right _ hp))) hsyncs
  · rw [hmem]
    exact Memory.stored_setAll h.wf hin

/-- Performing a store at its home in as many steps as it has parts. -/
theorem performSteps_home (l : List Origin) (s : State) (c : Nat) (y : PStore) (h : s.Storing c y)
    (hlen : y.origin.length ≤ l.length) (hy : (s.core c).stores.find? (fun z => z.seq == y.seq) = some y) :
    s.mem.Stored (l.foldl (fun s _ => s.performNext c y.seq) s).mem y.parts := by
  induction l generalizing s y with
  | nil =>
    have hnil : y.parts = [] := List.length_eq_zero_iff.1 (h.whole.symm.trans (Nat.le_zero.1 hlen))
    rw [hnil]
    exact Memory.stored_nil _
  | cons o l ih =>
    rw [List.foldl_cons]
    cases hq : piecesOf y.origin with
    | nil =>
      have hnil : y.origin = [] := by_contra fun hne => piecesOf_ne_nil hne hq
      have hnext : s.performNext c y.seq = s := by simp only [State.performNext, hy, hq]
      rw [hnext]
      exact ih s y h (by simp [hnil]) hy
    | cons q qs =>
      have hnext : s.performNext c y.seq = s.storePiece c y q := by simp only [State.performNext, hy, hq]
      obtain ⟨e, he⟩ := PStore.meets_eq (y.piece q false) (y.piece q true) s.badLines
      have hperm := PStore.parts_perm h.whole q
      have hstores := (storePiece_home (PStore.piece_release h.whole h.quiet q true)
        (fun p hp => h.home p (hperm.subset (List.mem_append_left _ hp)))).2.2
      rw [he] at hstores
      obtain ⟨hrest, hpiece⟩ := h.rest q e
      rw [hnext]
      refine Memory.Stored.trans hpiece ?_ hperm h.apart
      by_cases hdone : (y.piece q false).parts = []
      · rw [performNext_absent (by rw [hstores]; exact storesLeft_find_none hdone), hdone]
        exact Memory.stored_nil _
      · refine ih _ { y.piece q false with err := e } hrest ?_
          (by rw [hstores]; exact storesLeft_find (x := y) hdone rfl hy)
        have hshort := PStore.rest_shorter h.whole (q := q) (by rw [hq]; exact List.mem_cons_self)
        exact Nat.le_of_lt_succ (Nat.lt_of_lt_of_le hshort hlen)

/-- Settles O55, by performing piece after piece. -/
theorem storesPerformed : Obligations.StoresPerformed := by
  intro s c y hm hrel hy hw hn hh
  have hso := (PStore.release_eq_none_iff.1 hrel).1
  have hkind : ∀ p ∈ y.parts, p.2.2 ≠ .so := fun p hp hk => List.any_eq_false.1 hso p hp (beq_iff_eq.2 hk)
  exact performSteps_home y.origin s c y ⟨hm, hw, hrel, hn, fun p hp => ⟨hkind p hp, hh p hp⟩⟩ le_rfl hy

end Sys2Proof.Machine

end

/-! PF and PF.FR in the background (R149, R150, R158). -/

section

namespace Sys2Proof.Machine

/-! ### The end of a prefetch (R149, R158) -/

theorem leaveWalksIf_eq (s : State) (c who : Nat) (sel : Walk → Bool) :
    ∃ ds, s.leaveWalksIf c who sel = { s with dies := ds } := by
  unfold State.leaveWalksIf
  dsimp only
  split
  · exact ⟨_, rfl⟩
  · exact ⟨s.dies, rfl⟩

/-- A prefetch that is over leaves its walks and its core's list, and nothing else. -/
theorem endPrefetch_eq (s : State) (c : Nat) (p : Prefetch) : ∃ ds ws, s.endPrefetch c p =
    ({ s with dies := ds, pageWaits := ws } : State).modCore c (fun k =>
      { k with prefetches := k.prefetches.filter (fun q => q.who != p.who) }) := by
  obtain ⟨ds, hds⟩ := leaveWalksIf_eq
    { s with pageWaits := s.pageWaits.filter (fun w => !(w.core == c && w.who == p.who)) } c p.who (fun _ => true)
  refine ⟨ds, s.pageWaits.filter (fun w => !(w.core == c && w.who == p.who)), ?_⟩
  rw [State.endPrefetch, State.dropPageWaits, State.leaveWalks, hds]

theorem endPrefetch_mem (s : State) (c : Nat) (p : Prefetch) : (s.endPrefetch c p).mem = s.mem := by
  obtain ⟨ds, ws, h⟩ := endPrefetch_eq s c p
  rw [h]
  rfl

theorem endPrefetch_pager (s : State) (c : Nat) (p : Prefetch) : (s.endPrefetch c p).pager = s.pager := by
  obtain ⟨ds, ws, h⟩ := endPrefetch_eq s c p
  rw [h]
  rfl

theorem endPrefetch_prefetches (s : State) (c : Nat) (p : Prefetch) :
    ((s.endPrefetch c p).core c).prefetches = (s.core c).prefetches.filter (fun q => q.who != p.who) := by
  obtain ⟨ds, ws, h⟩ := endPrefetch_eq s c p
  rw [h, State.core_modCore]
  rfl

/-! ### A prefetch by what it finds (R158) -/

section

variable {s : State} {c : Nat} {p : Prefetch}

/-- What a prefetch finds of its page. -/
def State.prefetchLook (s : State) (c : Nat) (p : Prefetch) : Look :=
  s.look c p.who p.root (isFirmware c) .load (s.redirect (rootAsid p.root) p.va false)

theorem stepPrefetch_walk (h : s.prefetchLook c p = .walk) :
    s.stepPrefetch c p = s.joinWalk c p.who p.root (s.redirect (rootAsid p.root) p.va false) := by
  rw [State.prefetchLook] at h
  simp only [State.stepPrefetch, h]

theorem stepPrefetch_stale (h : s.prefetchLook c p = .stale) : s.stepPrefetch c p =
    (s.leaveWalks c p.who).joinWalk c p.who p.root (s.redirect (rootAsid p.root) p.va false) := by
  rw [State.prefetchLook] at h
  simp only [State.stepPrefetch, h]

theorem stepPrefetch_busy {leaf : Nat} (h : s.prefetchLook c p = .busy leaf) :
    s.stepPrefetch c p = s.endPrefetch c p := by
  rw [State.prefetchLook] at h
  simp only [State.stepPrefetch, h]

theorem stepPrefetch_fault {f : TransFault} (h : s.prefetchLook c p = .fault f) (hf : f.cause ≠ .memUncorr) :
    s.stepPrefetch c p = s.endPrefetch c p := by
  rw [State.prefetchLook] at h
  simp only [State.stepPrefetch, h, State.logWalk, if_neg hf]

/-- A page in flash is paged in for PF.FR, and for PF nothing is done. -/
theorem stepPrefetch_away {leaf : Nat} (h : s.prefetchLook c p = .away leaf) : s.stepPrefetch c p =
    if p.ahead = true then
      { (s.endPrefetch c p).markEntry p.meter leaf (2 ^ 12) 0 with
        pager := s.pager ++ [{ leaf := leaf, pageIn := true, ahead := some c }] }
    else s.endPrefetch c p := by
  rw [State.prefetchLook] at h
  simp only [State.stepPrefetch, h, State.startPageIn, endPrefetch_pager]

/-- A page that is known: PF marks and caches its leaf and brings the line. -/
theorem stepPrefetch_known {m : Mapped} {l : Option Leaf} (h : s.prefetchLook c p = .ok m l) : s.stepPrefetch c p =
    if p.ahead = true then s.endPrefetch c p
    else (match l with
      | some l => (s.endPrefetch c p).markLeaf c p.root .load (s.redirect (rootAsid p.root) p.va false) l
      | none => s.endPrefetch c p).bringLine c p m := by
  rw [State.prefetchLook] at h
  cases l <;> simp only [State.stepPrefetch, h]

end

/-! ### The turn of a prefetch -/

theorem prefetchTurn_of_find {s : State} {c : Nat} {p : Prefetch}
    (h : (s.core c).prefetches.find? (fun q => q.who == p.who) = some p) :
    s.prefetchTurn c p.who = s.stepPrefetch c p := by
  rw [State.prefetchTurn, h]

theorem step_prefetch {s : State} {c who : Nat} {turns : List Turn} (h : s.agenda = .prefetch c who :: turns) :
    step s = .next ((({ s with agenda := turns } : State).catchUp).prefetchTurn c who) := by
  simp only [step, State.nextTurn, h, State.runTurn]

/-- Settles O20, by what a prefetch finds. -/
theorem prefetches : Obligations.Prefetches := by
  unfold Obligations.Prefetches
  intro moves
  have hmoves : ∀ s c p t, moves s c p t → s.stepPrefetch c p = t := by
    intro s c p t h
    obtain ⟨hw, rfl⟩ | ⟨hs, rfl⟩ | ⟨⟨leaf, hb⟩ | ⟨f, hf, hc⟩, rfl⟩ | ⟨leaf, ha, rfl⟩ | ⟨m, l, hk, rfl⟩ := h
    · exact stepPrefetch_walk hw
    · exact stepPrefetch_stale hs
    · exact stepPrefetch_busy hb
    · exact stepPrefetch_fault hf hc
    · exact stepPrefetch_away ha
    · exact stepPrefetch_known hk
  refine ⟨?_, fun s t c p turns ha hp ht => ?_, fun s c p => ⟨endPrefetch_mem s c p, endPrefetch_prefetches s c p⟩⟩
  · rw [List.forall_mem_cons, List.forall_mem_singleton]
    refine ⟨answers_of_done pfBody (fun _ _ _ => rfl) ?_, answers_of_done pfFrBody (fun _ _ _ => rfl) ?_⟩
    · intro x u v _ h
      rw [← hmoves _ _ _ _ h]
      rfl
    · intro x u v _ h
      rw [← hmoves _ _ _ _ h]
      rfl
  · rw [step_prefetch ha, prefetchTurn_of_find hp, hmoves _ _ _ _ ht]

end Sys2Proof.Machine

end

/-! DRAIN and what its start reads; EPI, EPI.OUT and MASKLD (R138, R261 to R268). -/

section

namespace Sys2Proof.Machine

/-! ### Bytes of a list, in blocks of one length -/

theorem getElem?_bytesOfNum (v n i : Nat) :
    (bytesOfNum v n)[i]? = if i < n then some (BitVec.ofNat 8 (v / 256 ^ i)) else none := by
  induction n generalizing v i with
  | zero => rfl
  | succ n ih =>
    cases i with
    | zero => simp [bytesOfNum]
    | succ i => simp [bytesOfNum, ih, Nat.div_div_eq_div_mul, Nat.pow_succ']

/-- The element of a place in blocks of one length. -/
theorem getElem?_flatMap_blocks {α β : Type} {f : α → List β} {b : Nat} (l : List α) (h : ∀ a ∈ l, (f a).length = b)
    {i : Nat} (hi : i < b) (j : Nat) : (l.flatMap f)[j * b + i]? = l[j]?.bind (fun a => (f a)[i]?) := by
  induction l generalizing j with
  | nil => rfl
  | cons a l ih =>
    obtain ⟨ha, hl⟩ := List.forall_mem_cons.1 h
    rw [List.flatMap_cons]
    cases j with
    | zero => rw [Nat.zero_mul, Nat.zero_add, List.getElem?_append_left (ha.symm ▸ hi)]; rfl
    | succ j =>
      have hle : (f a).length ≤ (j + 1) * b + i := by rw [ha, Nat.succ_mul]; omega
      have hsub : (j + 1) * b + i - (f a).length = j * b + i := by rw [ha, Nat.succ_mul]; omega
      rw [List.getElem?_append_right hle, hsub, ih hl]
      rfl

theorem Memory.get_unlisted {m : Memory} {a : Nat} (h : ∀ e ∈ m, e.1 ≠ a) : m.get a = Memory.blank := by
  induction m with
  | nil => rfl
  | cons e m ih =>
    obtain ⟨he, hm⟩ := List.forall_mem_cons.1 h
    exact (if_neg he).trans (ih hm)

theorem get_memoryOf_from (bs : List Byte) (a j : Nat) :
    Memory.get ((bs.mapIdx (fun i b => (a + i, b))).filter (fun c => c.2 != Memory.blank)) (a + j) =
      (bs[j]?).getD Memory.blank := by
  induction bs generalizing a j with
  | nil => rfl
  | cons b bs ih =>
    have hshift : bs.mapIdx (fun i b => (a + (i + 1), b)) = bs.mapIdx (fun i b => (a + 1 + i, b)) := by
      simp only [Nat.add_comm 1, Nat.add_assoc]
    rw [List.mapIdx_cons, hshift, List.filter_cons]
    cases j with
    | zero =>
      have hlater : Memory.get ((bs.mapIdx (fun i b => (a + 1 + i, b))).filter (fun c => c.2 != Memory.blank)) (a + 0) =
          Memory.blank := by
        refine Memory.get_unlisted fun e he hea => ?_
        obtain ⟨i, hi, rfl⟩ := List.mem_mapIdx.1 (List.mem_of_mem_filter he)
        omega
      split
      · exact if_pos rfl
      next hb =>
        have hblank : b = Memory.blank := by simpa only [bne_iff_ne, ne_eq, not_not] using hb
        rw [hlater, hblank]
        rfl
    | succ j =>
      have hj : a + (j + 1) = a + 1 + j := by omega
      rw [hj, List.getElem?_cons_succ]
      split
      · exact (if_neg (by omega)).trans (ih (a + 1) j)
      · exact ih (a + 1) j

theorem get_memoryOf (bs : List Byte) (j : Nat) : (memoryOf bs).get j = (bs[j]?).getD 0 := by
  have h := get_memoryOf_from bs 0 j
  simp only [Nat.zero_add] at h
  exact h

/-! ### The start of a drain (R262) -/

/-- The converted bytes of an element of a drain's accumulator. -/
def Core.cellBytes (k : Core) (cp : Copy) (e : Nat × Nat) : List Byte :=
  bytesOfNum (convert .f32 cp.typ (cp.mod &&& 7) (Tbl.get 0 (k.accOf cp.accNum) (accIx e.1 e.2)).toNat).1.toNat
    cp.elemBytes

/-- Without its epilogue a drain converts each element by itself. -/
theorem drainElems_plain {k : Core} {cp : Copy} (h : cp.epi = false) (acc : DrainAcc) (l : List (Nat × Nat)) :
    (drainElems k cp acc l).2 = l.flatMap (k.cellBytes cp) := by
  induction l generalizing acc with
  | nil => rfl
  | cons e l ih => simp only [drainElems, h, Bool.false_eq_true, if_false, ih, List.flatMap_cons, Core.cellBytes]

theorem getElem?_drainCells {m n w : Nat} (hm : m < 64) (hn : n < w) : (drainCells w)[m * w + n]? = some (m, n) := by
  rw [drainCells, getElem?_flatMap_blocks _ (fun _ _ => by simp) hn, List.getElem?_range hm]
  simp [hn]

/-- The byte of a drain's image. -/
theorem image_byte (k : Core) (cp : Copy) {m n i : Nat} (hm : m < 64) (hn : n < cp.columns) (hi : i < cp.elemBytes) :
    (memoryOf ((drainCells cp.columns).flatMap (k.cellBytes cp))).get ((m * cp.columns + n) * cp.elemBytes + i) =
      BitVec.ofNat 8 ((convert .f32 cp.typ (cp.mod &&& 7)
        (Tbl.get 0 (k.accOf cp.accNum) (m * 512 + n)).toNat).1.toNat / 256 ^ i) := by
  rw [get_memoryOf, getElem?_flatMap_blocks (f := k.cellBytes cp) _ (fun _ _ => length_bytesOfNum _ _) hi,
    getElem?_drainCells hm hn,
    Option.bind_some, Core.cellBytes, getElem?_bytesOfNum, if_pos hi]
  rfl

/-- A start without a wait semaphore marks the drain, and then reads the accumulator. -/
theorem startCopy_drain {s : State} {c : Nat} {cp : Copy} (hd : cp.isDrain = true) (hw : cp.wsem = false) :
    ∃ t : State, s.startCopy c cp = t.beginDrain c { cp with started := true, shadow := s.shadowSlots c cp } ∧
      t.core c = { s.core c with copies := (s.core c).copies.map (fun q =>
        if q.id = cp.id then { cp with started := true, shadow := s.shadowSlots c cp } else q) } := by
  have hcount (slots : List Nat) (t : State) : (t.countShadow slots true).core c = t.core c := by
    unfold State.countShadow
    refine foldl_leaves (fun t => t.core c) _ ?_ slots t
    exact fun _ _ => rfl
  refine ⟨(s.setCore c { s.core c with copies := (s.core c).copies.map (fun q =>
    if q.id = cp.id then { cp with started := true, shadow := s.shadowSlots c cp } else q) }).countShadow
    (s.shadowSlots c cp) true, ?_, ?_⟩
  · simp only [State.startCopy, hw, hd, Bool.false_eq_true, if_false, if_true]
  · rw [hcount, State.core_setCore]

theorem beginDrain_copies {s : State} {c : Nat} {cp : Copy} (he : cp.epi = false) : ∃ fl : Flags,
    ((s.beginDrain c cp).core c).copies = (s.core c).copies.map (fun q => if q.id = cp.id then
      { cp with started := true, flags := fl,
                image := memoryOf ((drainCells cp.columns).flatMap ((s.core c).cellBytes cp)) } else q) := by
  refine ⟨(drainElems (s.core c) cp { heap := (s.core c).eheap, hist := (s.core c).ehist, flags := 0 }
    (drainCells cp.columns)).1.flags, ?_⟩
  simp only [State.beginDrain, State.core_setCore, drainElems_plain he]

/-- A drain that has started holds the image of its accumulator. -/
theorem startCopy_drain_copy {s : State} {c : Nat} {cp q : Copy} (hd : cp.isDrain = true) (hw : cp.wsem = false)
    (he : cp.epi = false) (hq : q ∈ ((s.startCopy c cp).core c).copies) (hid : q.id = cp.id) :
    ∃ fl, q = { cp with
      started := true, shadow := s.shadowSlots c cp, flags := fl,
      image := memoryOf ((drainCells cp.columns).flatMap ((s.core c).cellBytes cp)) } := by
  obtain ⟨t, ht, hk⟩ := startCopy_drain (s := s) (c := c) hd hw
  obtain ⟨fl, hc⟩ := beginDrain_copies (s := t) (c := c)
    (cp := { cp with started := true, shadow := s.shadowSlots c cp }) he
  rw [ht, hc] at hq
  obtain ⟨p, hp, rfl⟩ := List.mem_map.1 hq
  split at hid
  next hpid => exact ⟨fl, by rw [if_pos hpid, hk]; rfl⟩
  next hpid => exact absurd hid hpid

/-! ### Blocks of the hold and the images of EPI.OUT (R138, R263, R264, R267) -/

theorem Core.epiDrains_eq_false_iff {k : Core} :
    k.epiDrains = false ↔ ∀ c ∈ k.copies, ¬ (c.epi = true ∧ c.started = true) := by
  simp only [Core.epiDrains, List.any_eq_false, Bool.and_eq_true]

theorem Ctx.holdBlock_go {x : Ctx} {u : State} {size : Nat} (go : Memory → Res)
    (hd : ∀ c ∈ (u.core x.c).copies, ¬ (c.epi = true ∧ c.started = true)) (hf : (u.core x.c).epiFree ≤ x.now)
    (hp : (u.core x.c).acquirePending x.st = false) (ha : x.ea u % 8 = 0)
    (hr : x.ea u + size ≤ (u.core x.c).holdLimit) (hb : (u.core x.c).badByte (addrsFrom (x.ea u) size) = none) :
    x.holdBlock u size go = go (memoryOf ((u.core x.c).holdBytes (x.ea u) size)) := by
  have hfit : x.holdFits u (x.ea u) size = true := (x.holdFits_iff u _ _).2 hr
  simp [Ctx.holdBlock, Core.epiDrains_eq_false_iff.2 hd, Nat.not_lt.2 hf, ha, hfit, hp, hb]

/-- The epilogue is free for EPI.OUT. -/
def Ctx.epiFree (x : Ctx) (u : State) : Prop :=
  (∀ c ∈ (u.core x.c).copies, ¬ (c.epi = true ∧ c.started = true)) ∧ (u.core x.c).epiFree ≤ x.now ∧
    x.pending u 0 Effect.onEpi = false

/-- The images that EPI.OUT writes. -/
def Core.imageRanges (k : Core) : List (Nat × Nat) := [(k.eparam.read 0x10 8, 32768), (k.eparam.read 0x18 8, 65536)]

theorem beyond_inside {limit a n : Nat} (l : List (Nat × Nat)) (h : a + n ≤ limit) :
    beyond limit ((a, n) :: l) = beyond limit l := if_pos h

theorem beyond_past {limit a n : Nat} (l : List (Nat × Nat)) (h : limit < a + n) : beyond limit ((a, n) :: l) =
    some ((beyond limit l).elim (max a limit) (fun b => min b (max a limit))) := by
  rw [beyond, if_neg (Nat.not_le.2 h)]
  cases beyond limit l <;> rfl

theorem epiOutBody_done {x : Ctx} {u : State} (h : x.epiFree u)
    (hin : beyond (u.core x.c).holdLimit (u.core x.c).imageRanges = none)
    (hl : ((u.core x.c).acquirePending x.st || (u.core x.c).loadsBefore x.st) = false) : epiOutBody x u =
      .done ((x.matrix u 100 0 [.epiOut (u.core x.c).epiImages (x.f.mod.getLsbD 0)]).modCore x.c
        (fun k => { k with epiFree := x.now + 96 })) .seq := by
  obtain ⟨hd, hf, hp⟩ := h
  rw [Core.imageRanges] at hin
  simp only [epiOutBody, Core.epiDrains_eq_false_iff.2 hd, Nat.not_lt.2 hf, hp, hin, hl, decide_false, Bool.or_self,
    Bool.false_eq_true, if_false, x.bit_mod]

theorem epiOutBody_trap {x : Ctx} {u : State} (h : x.epiFree u) {a : Nat}
    (ha : beyond (u.core x.c).holdLimit (u.core x.c).imageRanges = some a) :
    epiOutBody x u = .trap u { cause := .holdRange, addr0 := a, fdet := 39 } := by
  obtain ⟨hd, hf, hp⟩ := h
  rw [Core.imageRanges] at ha
  simp only [epiOutBody, Core.epiDrains_eq_false_iff.2 hd, Nat.not_lt.2 hf, hp, ha, decide_false, Bool.or_self,
    Bool.false_eq_true, if_false]
  rfl

theorem epiOut_traps {g : Ctx → State → Prop} {a : Ctx → State → Nat} (hg : ∀ x u, g x u → x.epiFree u ∧
      beyond (u.core x.c).holdLimit (u.core x.c).imageRanges = some (a x u)) :
    Traps .epiOut .epiOut g (fun x u => { cause := .holdRange, addr0 := a x u, fdet := 39 }) :=
  traps_of_trap epiOutBody (fun _ _ _ => rfl) fun x u _ h => epiOutBody_trap (hg x u h).1 (hg x u h).2

/-- Settles O30: the start by what it makes of its copy, the instructions by their bodies. -/
theorem drainAndEpilogue : Obligations.DrainAndEpilogue := by
  unfold Obligations.DrainAndEpilogue
  refine ⟨?_, ?_, ?_, ?_, ?_, ?_, ?_, ?_⟩
  · intro s c cp hd hw he q hq hid
    obtain ⟨fl, rfl⟩ := startCopy_drain_copy hd hw he hq hid
    refine ⟨hd, rfl, fun m hm n hn i hi => image_byte (s.core c) cp hm hn hi, fun w e hg => ?_⟩
    simp only [State.sourceByte, hg]
    exact if_pos hd
  · refine answers_of_done drainBody (fun _ _ _ => rfl) ?_
    rintro x u v - ⟨ht, hf, rfl⟩
    simp only [drainBody, ht, Ctx.startOrWait, hf, Bool.false_eq_true, if_false]
  · refine answers_of_done epiBody (fun _ _ _ => rfl) ?_
    rintro x u v - ⟨m, ⟨hd, hf, hp, ha, hr, hb, hm⟩, hok, hheap, hhist, hv⟩
    rw [epiBody, Ctx.holdBlock_go _ hd hf hp ha hr hb, ← hm, hv]
    simp only [hok, Bool.not_true, Bool.false_eq_true, if_false, if_neg (Nat.not_lt.2 hheap),
      if_neg (Nat.not_lt.2 hhist), x.bit_mod]
  · refine answers_of_done maskldBody (fun _ _ _ => rfl) ?_
    rintro x u v - ⟨m, ⟨hd, hf, hp, ha, hr, hb, hm⟩, hok, hv⟩
    rw [maskldBody, Ctx.holdBlock_go _ hd hf hp ha hr hb, ← hm, hv]
    simp only [hok, Bool.not_true, Bool.false_eq_true, if_false]
  · refine answers_of_done epiOutBody (fun _ _ _ => rfl) ?_
    rintro x u v - ⟨hd, hf, hp, hheap, hhist, hfree, hv⟩
    rw [epiOutBody_done ⟨hd, hf, hp⟩ ((beyond_inside _ hheap).trans (beyond_inside _ hhist)) (Core.storeFree hfree), hv]
  · exact epiOut_traps fun x u ⟨hfree, hheap, hhist⟩ =>
      ⟨hfree, (beyond_past _ hheap).trans (by rw [beyond_inside _ hhist]; rfl)⟩
  · exact epiOut_traps fun x u ⟨hfree, hheap, hhist⟩ =>
      ⟨hfree, (beyond_inside _ hheap).trans (beyond_past _ hhist)⟩
  · refine epiOut_traps fun x u ⟨hfree, hheap, hhist⟩ => ⟨hfree, (beyond_past _ hheap).trans ?_⟩
    rw [beyond_past _ hhist]
    exact congrArg some ((max_min_distrib_right _ _ _).trans (min_comm _ _)).symm

end Sys2Proof.Machine

end

/-! The entry that bytes of the hold form, lane by lane (R156, R157, R211). -/

section

namespace Sys2Proof.Machine

/-! ### Sums of digits at places of their own -/

/-- A digit added at a place where there is none. -/
theorem digit_add_at {w n v i : Nat} (hv : v < 2 ^ w) (h : n / 2 ^ (w * i) % 2 ^ w = 0) (p : Nat) :
    (n + v * 2 ^ (w * i)) / 2 ^ (w * p) % 2 ^ w = if p = i then v else n / 2 ^ (w * p) % 2 ^ w := by
  have hw : 0 < 2 ^ w := by positivity
  obtain hlt | rfl | hgt := Nat.lt_trichotomy p i
  · obtain ⟨d, rfl⟩ := Nat.exists_eq_add_of_lt hlt
    have hshift : v * 2 ^ (w * (p + d + 1)) = 2 ^ (w * p) * (2 ^ w * (2 ^ (w * d) * v)) := by ring
    rw [if_neg (Nat.ne_of_lt hlt), hshift, Nat.add_mul_div_left _ _ (by positivity), Nat.add_mul_mod_self_left]
  · rw [if_pos rfl, Nat.add_mul_div_right _ _ (by positivity), Nat.add_mod, h, Nat.zero_add, Nat.mod_mod,
      Nat.mod_eq_of_lt hv]
  · obtain ⟨d, rfl⟩ := Nat.exists_eq_add_of_lt hgt
    obtain ⟨m, hm⟩ := Nat.dvd_of_mod_eq_zero h
    have hplace (a : Nat) : a / 2 ^ (w * (i + d + 1)) = a / 2 ^ (w * i) / 2 ^ w / 2 ^ (w * d) := by
      rw [Nat.div_div_eq_div_mul, Nat.div_div_eq_div_mul]
      congr 1
      ring
    rw [if_neg (Nat.ne_of_gt hgt), hplace, hplace, Nat.add_mul_div_right _ _ (by positivity), hm,
      Nat.mul_add_div hw, Nat.div_eq_of_lt hv, Nat.mul_div_cancel_left _ hw, Nat.add_zero]

/-- The number that digits of `w` bits at some places form. -/
def digitSum (w : Nat) (ps : List Nat) (g : Nat → Nat) : Nat := (ps.map (fun p => g p * 2 ^ (w * p))).sum

/-- Each place named once holds its digit, the others nothing. -/
theorem digitSum_digit {w : Nat} {ps : List Nat} {g : Nat → Nat} (hn : ps.Nodup) (hg : ∀ p, g p < 2 ^ w) (p : Nat) :
    digitSum w ps g / 2 ^ (w * p) % 2 ^ w = if p ∈ ps then g p else 0 := by
  induction ps generalizing p with
  | nil => simp [digitSum]
  | cons a ps ih =>
    obtain ⟨ha, hn⟩ := List.nodup_cons.1 hn
    have hsum : digitSum w (a :: ps) g = digitSum w ps g + g a * 2 ^ (w * a) := Nat.add_comm _ _
    rw [hsum, digit_add_at (hg a) ((ih hn a).trans (if_neg ha)), ih hn]
    by_cases hp : p = a
    · rw [if_pos hp, hp, if_pos List.mem_cons_self]
    · simp only [hp, List.mem_cons, false_or, if_false]

/-! ### Lanes of entries -/

theorem laneOf_ofNat {w i : Nat} (v : Nat) (h : i < 1024 / w) :
    laneOf (BitVec.ofNat 1024 v) w i = v / 2 ^ (w * i) % 2 ^ w := by
  have hw : w * i + w ≤ 1024 := by
    rw [← Nat.mul_succ]
    exact (Nat.mul_le_mul_left w h).trans (Nat.mul_div_le 1024 w)
  refine Nat.eq_of_testBit_eq fun j => ?_
  simp only [laneOf, bits, BitVec.toNat_ofNat, Nat.testBit_mod_two_pow, Nat.testBit_div_two_pow]
  by_cases hj : j < w
  · rw [decide_eq_true (show j + w * i < 1024 by omega), Bool.true_and]
  · rw [decide_eq_false hj, Bool.false_and, Bool.false_and]

/-- Entries are equal where all their lanes are. -/
theorem entry_ext {w : Nat} (hw : w ∣ 1024) {a b : Entry} (h : ∀ i < 1024 / w, laneOf a w i = laneOf b w i) :
    a = b := by
  have hpos : 0 < w := Nat.pos_of_dvd_of_pos hw (by decide)
  refine BitVec.eq_of_getLsbD_eq fun j hj => ?_
  have hbit (e : Entry) : (laneOf e w (j / w)).testBit (j % w) = e.getLsbD j := by
    rw [laneOf, bits_testBit, decide_eq_true (Nat.mod_lt j hpos), Bool.true_and, Nat.div_add_mod]
    rfl
  rw [← hbit a, ← hbit b, h _ (Nat.div_lt_div_of_lt_of_dvd hw hj)]

theorem laneOf_digitSum {w : Nat} {ps : List Nat} {g : Nat → Nat} (hn : ps.Nodup) (hg : ∀ p, g p < 2 ^ w) {i : Nat}
    (hi : i < 1024 / w) : laneOf (BitVec.ofNat 1024 (digitSum w ps g)) w i = if i ∈ ps then g i else 0 := by
  rw [laneOf_ofNat _ hi, digitSum_digit hn hg]

/-! ### Numbers of the hold's bytes -/

theorem numOfBytes_lt (l : List Byte) : numOfBytes l < 2 ^ (8 * l.length) := by
  induction l with
  | nil => exact Nat.one_pos
  | cons b l ih =>
    have hb := b.isLt
    rw [numOfBytes, List.length_cons, Nat.mul_succ, Nat.pow_add]
    omega

theorem length_holdBytes (k : Core) (off n : Nat) : (k.holdBytes off n).length = n := by
  induction n generalizing off with
  | zero => rfl
  | succ n ih => exact congrArg Nat.succ (ih (off + 1))

theorem holdRead_lt (k : Core) (off n : Nat) : k.holdRead off n < 2 ^ (8 * n) := by
  have h := numOfBytes_lt (k.holdBytes off n)
  rwa [length_holdBytes] at h

theorem holdRead_eq_sum (k : Core) (off n : Nat) :
    k.holdRead off n = ((List.range n).map (fun j => (k.holdByte (off + j)).toNat * 256 ^ j)).sum := by
  induction n generalizing off with
  | zero => rfl
  | succ n ih =>
    have hstep : k.holdRead off (n + 1) = (k.holdByte off).toNat + 256 * k.holdRead (off + 1) n := rfl
    rw [hstep, ih, List.range_succ_eq_map, List.map_cons, List.sum_cons, List.map_map, ← List.sum_map_mul_left]
    refine congrArg₂ _ (Nat.mul_one _).symm (congrArg List.sum (List.map_congr_left fun j _ => ?_))
    rw [Function.comp_apply, Nat.add_assoc, Nat.add_comm 1 j, Nat.pow_succ]
    ring

theorem two_pow_eight_mul (i : Nat) : 2 ^ (8 * i) = 256 ^ i := Nat.pow_mul 2 8 i

/-- The entry of hold bytes at listed places. -/
theorem holdEntry_bytes (k : Core) (ps : List Nat) (a : Nat → Nat) : k.holdEntry (ps.map (fun p => (p, a p))) =
    BitVec.ofNat 1024 (digitSum 8 ps (fun p => (k.holdByte (a p)).toNat)) := by
  rw [Core.holdEntry, assemble_eq_sum, digitSum, List.map_map, List.map_map]
  simp only [Function.comp_def, two_pow_eight_mul]

/-- The entry of elements of the hold at listed lanes, each read byte by byte. -/
theorem holdEntry_elements (k : Core) (n : Nat) (ps : List Nat) (a : Nat → Nat) :
    k.holdEntry (ps.flatMap (fun i => (List.range n).map (fun j => (i * n + j, a i + j)))) =
      BitVec.ofNat 1024 (digitSum (8 * n) ps (fun i => k.holdRead (a i) n)) := by
  rw [Core.holdEntry, assemble_eq_sum, digitSum]
  refine congrArg (BitVec.ofNat 1024) ?_
  induction ps with
  | nil => rfl
  | cons i ps ih =>
    rw [List.flatMap_cons, List.map_append, List.map_append, List.sum_append, ih, List.map_cons, List.sum_cons]
    refine congrArg (· + _) ?_
    simp only [Function.comp_def, List.map_map, holdRead_eq_sum, ← List.sum_map_mul_right]
    refine congrArg List.sum (List.map_congr_left fun j _ => ?_)
    rw [Nat.mul_assoc 8, two_pow_eight_mul, Nat.pow_add, Nat.mul_comm n]
    ring

end Sys2Proof.Machine

end

/-! LDQ, STQ, LDGQ and STSQ: what their bodies answer (R156, R157, R160, R175, R216). -/

section

namespace Sys2Proof.Machine

/-! ### Operations that rest on the field checks of their entry (R57, R58) -/

theorem answers_of_legal {i : Bundle → Fields → Instr} {o : Op} {R : Ctx → State → State → Prop}
    (body : Ctx → State → Res) (hi : ∀ b f s, exec (i b f) s = issue o b f body s)
    (h : ∀ x u v, x.o = o → o.legal x.f = true → R x u v → body x u = .done v .seq) : Answers i o R := by
  intro b f s u v hr hR
  have hl := Ctx.legal_of_ready hr
  exact exec_of_done body hi hr (h (Ctx.of o b f s) u v rfl hl hR)

/-- The types of lanes have 1, 2 or 4 bytes. -/
theorem Typ.bytes_of_lanes {t : Typ} (h : t.code ∈ TypSet.lanes.codes) : 8 * (t.width / 8) ∣ 1024 := by
  revert h
  cases t <;> decide

theorem Typ.bytes_of_lanes2 {t : Typ} (h : t.code ∈ TypSet.lanes2.codes) : 8 * (t.width / 8) ∣ 1024 :=
  Typ.bytes_of_lanes (List.mem_cons_of_mem _ h)

section
variable {x : Ctx} {u : State}

theorem Ctx.size_pos (h : 8 * x.size ∣ 1024) : 0 < x.size :=
  Nat.pos_of_mul_pos_left (Nat.pos_of_dvd_of_pos h (by decide))

theorem Ctx.queueGate_ok {o : Op} {k : Core} {es : List (Nat × Entry)} (go : (Operand → Entry) → Res) (ho : x.o = o)
    (h : x.takeQueues u (sourcePositions o x.f) (pushPosition o x.f) = .ok k es) :
    x.queueGate u go = go (takenEntry es) := by
  rw [Ctx.queueGate, ho, h]

/-! ### LDQ (R156) -/

theorem Core.badByte_eq_none_iff {k : Core} {l : List Nat} : k.badByte l = none ↔ ∀ a ∈ l, k.badByte [a] = none := by
  simp [Core.badByte, List.find?_eq_none]

theorem Ctx.mem_bytesOn (h : 0 < x.size) {p : Nat} : p ∈ x.bytesOn u ↔ p / x.size ∈ x.lanesOn u := by
  simp only [Ctx.bytesOn, List.mem_flatMap, List.mem_map, List.mem_range]
  constructor
  · rintro ⟨j, hj, i, hi, rfl⟩
    rwa [Nat.mul_comm, Nat.mul_add_div h, Nat.div_eq_of_lt hi, Nat.add_zero]
  · exact fun hp => ⟨_, hp, p % x.size, Nat.mod_lt p h, Nat.div_add_mod' p x.size⟩

theorem Ctx.bytesOn_nodup (h : 0 < x.size) : (x.bytesOn u).Nodup := by
  refine List.nodup_flatMap.2 ⟨fun j _ => List.nodup_range.map fun a b hab => Nat.add_left_cancel hab, ?_⟩
  refine (List.nodup_range.filter _).imp fun {a b} hab => List.disjoint_left.2 fun p hpa hpb => hab ?_
  obtain ⟨i, hi, rfl⟩ := List.mem_map.1 hpa
  obtain ⟨i', hi', hii⟩ := List.mem_map.1 hpb
  have hdiv := congrArg (· / x.size) hii
  simp only [Nat.mul_comm _ x.size, Nat.mul_add_div h, Nat.div_eq_of_lt (List.mem_range.1 hi),
    Nat.div_eq_of_lt (List.mem_range.1 hi'), Nat.add_zero] at hdiv
  exact hdiv.symm

theorem Ctx.laneOut_none (h : ∀ j ∈ x.lanesOn u, x.ea u + j * x.size + x.size ≤ (u.core x.c).holdLimit) :
    x.laneOut u (x.ea u) = none := by
  refine List.find?_eq_none.2 (List.forall_mem_map.2 fun j hj => ?_)
  rw [(x.holdFits_iff u _ _).2 (h j hj)]
  decide

theorem ldqHold_done (ha : x.ea u % 128 = 0)
    (hr : ∀ j ∈ x.lanesOn u, x.ea u + j * x.size + x.size ≤ (u.core x.c).holdLimit)
    (hacq : (u.core x.c).acquirePending x.st = false)
    (hbad : ∀ j ∈ x.lanesOn u, ∀ i < x.size, (u.core x.c).badByte [x.ea u + (j * x.size + i)] = none) :
    ldqHold x u = .done (x.pushLoaded u 6 (queueOf x.f.dst)
      ((u.core x.c).holdEntry ((x.bytesOn u).map (fun i => (i, x.ea u + i))))) .seq := by
  have hread : (u.core x.c).badByte (((x.bytesOn u).map (fun i => (i, x.ea u + i))).map (fun e => e.2)) = none := by
    rw [Core.badByte_eq_none_iff, List.map_map]
    refine List.forall_mem_map.2 fun p hp => ?_
    obtain ⟨j, hj, hp⟩ := List.mem_flatMap.1 hp
    obtain ⟨i, hi, rfl⟩ := List.mem_map.1 hp
    exact hbad j hj i (List.mem_range.1 hi)
  simp only [ldqHold, ha, Ctx.laneOut_none hr, hacq, hread, ne_eq, not_true_eq_false, Bool.false_eq_true, if_false]

/-- The entry of a queue load's bytes is the one whose bytes are the hold's in the enabled lanes, and zeros
elsewhere. -/
theorem holdEntry_bytesOn (h : 0 < x.size) (k : Core) (a : Nat) {e : Entry} (he : ∀ i < 128, laneOf e 8 i =
      if i / x.size ∈ x.lanesOn u then (k.holdByte (a + i)).toNat else 0) :
    k.holdEntry ((x.bytesOn u).map (fun i => (i, a + i))) = e := by
  rw [holdEntry_bytes]
  refine entry_ext (w := 8) (by decide) fun i hi => ?_
  rw [laneOf_digitSum (Ctx.bytesOn_nodup h) (fun _ => BitVec.isLt _) hi, he i hi]
  simp only [Ctx.mem_bytesOn h]

theorem ldqMem_done {m : State} {ms : List Mapped} (ha : x.ea u % 16 = 0)
    (hok : x.mapBytes u .load ((x.bytesOn u).map (fun i => (x.ea u + i) % 2 ^ 64)) = .ok m ms) :
    ldqMem x u = .done (x.loadEntry m (((x.bytesOn u).zip ms).map (fun e => (e.1, e.2.pa, e.2.kind)))
      (originOf (x.ea u) 128 0 ((x.bytesOn u).map (fun i => (x.ea u + i) % 2 ^ 64)))) .seq := by
  simp only [ldqMem, ha, hok, ne_eq, not_true_eq_false, if_false]

/-! ### STQ (R156, R175) -/

theorem entryByte_eq (e : Entry) (i : Nat) : entryByte e i = BitVec.ofNat 8 (laneOf e 8 i) := by
  rw [entryByte, laneOf, bits, two_pow_eight_mul]
  exact BitVec.eq_of_toNat_eq (by simp)

theorem stqHold_done (e : Entry) (ha : x.ea u % 128 = 0)
    (hr : ∀ j ∈ x.lanesOn u, x.ea u + j * x.size + x.size ≤ (u.core x.c).holdLimit)
    (hfree : ((u.core x.c).acquirePending x.st || (u.core x.c).loadsBefore x.st) = false) :
    stqHold x u e = .done ((x.bytesOn u).foldl (fun s i => s.holdStore x.c x.st (x.ea u + i)
      [BitVec.ofNat 8 (laneOf e 8 i)]) (x.popSources u)) .seq := by
  simp only [stqHold, ha, Ctx.laneOut_none hr, hfree, Ctx.holdPut, List.foldl_map, entryByte_eq, ne_eq,
    not_true_eq_false, Bool.false_eq_true, if_false]

theorem stqMem_done (e : Entry) {m : State} {ms : List Mapped} (ha : x.ea u % 16 = 0)
    (hok : x.mapBytes u .store ((x.bytesOn u).map (fun i => (x.ea u + i) % 2 ^ 64)) = .ok m ms)
    (hdc : (m.core x.c).DcFree x.st ms) :
    stqMem x u e = .done (x.putStore (x.popSources m) none
      ((x.bytesOn u).map (fun i => BitVec.ofNat 8 (laneOf e 8 i))) ms
      (originOf (x.ea u) 128 0 ((x.bytesOn u).map (fun i => (x.ea u + i) % 2 ^ 64)))) .seq := by
  have hbytes : (x.bytesOn u).map (entryByte e) = (x.bytesOn u).map (fun i => BitVec.ofNat 8 (laneOf e 8 i)) :=
    List.map_congr_left fun i _ => entryByte_eq e i
  simp only [stqMem, ha, hok, Core.dcHeld_of_dcFree hdc, hbytes, ne_eq, not_true_eq_false, Bool.false_eq_true, if_false]

/-! ### The lanes of a gather or scatter (R157) -/

/-- The enabled lanes. -/
def Ctx.lanesEnabled (x : Ctx) (u : State) : List Nat := (List.range 32).filter (fun i => (x.mask u).getLsbD i)

/-- The address of a lane's element. -/
def Ctx.element (x : Ctx) (u : State) (idx : Entry) (i : Nat) : Nat :=
  (((x.ea u : Int) + sextInt (laneOf idx 32 i) 32 * x.size) % 2 ^ 64).toNat

theorem Ctx.lanesEnabled_pairwise : (x.lanesEnabled u).Pairwise (· < ·) := List.pairwise_lt_range.filter _

theorem Ctx.lanesEnabled_nodup : (x.lanesEnabled u).Nodup := List.nodup_range.filter _

theorem Ctx.laneAddrs_eq (idx : Entry) :
    x.laneAddrs u idx = (x.lanesEnabled u).map (fun i => (i, x.element u idx i)) := by
  refine List.map_congr_left fun i _ => ?_
  rw [Ctx.element, lowBits]
  congr 1
  omega

theorem Ctx.laneTrap_none {store : Bool} {e : Nat × Nat} (ha : e.2 % x.size = 0)
    (hr : e.2 + x.size ≤ (u.core x.c).holdLimit) : x.laneTrap u store e = none := by
  simp only [Ctx.laneTrap, ha, (x.holdFits_iff u _ _).2 hr, ne_eq, not_true_eq_false, Bool.not_true, Bool.and_false,
    Bool.false_eq_true, if_false]

theorem Ctx.lanesUpTo_all {store : Bool} {ls : List (Nat × Nat)} (h : ∀ e ∈ ls, x.laneTrap u store e = none) :
    x.lanesUpTo u store ls = (ls, none) := by
  induction ls with
  | nil => rfl
  | cons e ls ih =>
    obtain ⟨he, hls⟩ := List.forall_mem_cons.1 h
    simp only [Ctx.lanesUpTo, he, ih hls]

theorem Ctx.lanesUpTo_fst {store : Bool} {ls : List (Nat × Nat)} (h : (x.lanesUpTo u store ls).2 = none) :
    (x.lanesUpTo u store ls).1 = ls := by
  induction ls with
  | nil => rfl
  | cons e ls ih =>
    rw [Ctx.lanesUpTo] at h ⊢
    split at h
    · exact nomatch h
    · exact congrArg (e :: ·) (ih h)

theorem splitLanes_nil (n : Nat) (ls : List (Nat × Nat)) :
    splitLanes n ls [] = ls.map (fun e => { i := e.1, a := e.2, ms := [] }) := by
  induction ls with
  | nil => rfl
  | cons e ls ih =>
    rw [splitLanes, List.take_nil, List.drop_nil, ih]
    rfl

theorem splitLanes_lanes (n : Nat) (ls : List (Nat × Nat)) (ms : List Mapped) :
    (splitLanes n ls ms).map (fun e => e.i) = ls.map (fun e => e.1) := by
  induction ls generalizing ms with
  | nil => rfl
  | cons e ls ih => exact congrArg _ (ih _)

/-- Lanes in the hold, each without a trap. -/
theorem Ctx.checkLanes_hold {k : AccessKind} {ls : List (Nat × Nat)} (hh : x.f.mod.getLsbD 0 = true)
    (h : ∀ e ∈ ls, e.2 % x.size = 0 ∧ e.2 + x.size ≤ (u.core x.c).holdLimit) :
    x.checkLanes u k ls = .ok u (ls.map (fun e => { i := e.1, a := e.2, ms := [] })) := by
  have hall := Ctx.lanesUpTo_all (store := k == .store) fun e he => Ctx.laneTrap_none (h e he).1 (h e he).2
  simp only [Ctx.checkLanes, x.inHold_eq, hh, hall, if_true, splitLanes_nil]

/-- Lanes that pass all checks are those of the access. -/
theorem Ctx.checkLanes_lanes {k : AccessKind} {ls : List (Nat × Nat)} {m : State} {l : List Lane}
    (h : x.checkLanes u k ls = .ok m l) : l.map (fun e => e.i) = ls.map (fun e => e.1) := by
  unfold Ctx.checkLanes at h
  dsimp only at h
  split at h
  · split at h <;> exact nomatch h
  · exact nomatch h
  · split at h
    · exact nomatch h
    next hbad =>
      rw [LaneEnd.ok.injEq] at h
      rw [← h.2, splitLanes_lanes, Ctx.lanesUpTo_fst hbad]

/-- The lanes that have passed are in rising order. -/
theorem Ctx.checkLanes_pairwise {k : AccessKind} {idx : Entry} {m : State} {l : List Lane}
    (h : x.checkLanes u k (x.laneAddrs u idx) = .ok m l) : l.Pairwise (fun a b => a.i < b.i) := by
  have hi := Ctx.checkLanes_lanes h
  rw [Ctx.laneAddrs_eq, List.map_map, show (fun e : Nat × Nat => e.1) ∘ (fun i => (i, x.element u idx i)) = id from rfl,
    List.map_id] at hi
  rw [← List.pairwise_map (f := fun e : Lane => e.i) (R := (· < ·)), hi]
  exact Ctx.lanesEnabled_pairwise

theorem topLanes_eq_filter {l : List Lane} (h : l.Pairwise (fun a b => a.i < b.i)) :
    topLanes l = l.filter (fun e => l.all (fun e' => e'.i ≤ e.i || e'.a != e.a)) := by
  induction l with
  | nil => rfl
  | cons e l ih =>
    obtain ⟨he, hl⟩ := List.pairwise_cons.1 h
    have hrest : l.filter (fun f => (e :: l).all (fun e' => e'.i ≤ f.i || e'.a != f.a)) = topLanes l := by
      rw [ih hl]
      refine List.filter_congr fun f hf => ?_
      rw [List.all_cons, decide_eq_true (he f hf).le, Bool.true_or, Bool.true_and]
    have hfirst : (e :: l).all (fun e' => e'.i ≤ e.i || e'.a != e.a) = !l.any (fun f => f.a == e.a) := by
      rw [List.all_cons, decide_eq_true le_rfl, Bool.true_or, Bool.true_and, List.not_any_eq_all_not]
      rw [Bool.eq_iff_iff, List.all_eq_true, List.all_eq_true]
      refine forall₂_congr fun f hf => ?_
      rw [decide_eq_false (Nat.not_le.2 (he f hf)), Bool.false_or]
      rfl
    rw [topLanes, List.filter_cons, hrest, hfirst]
    cases l.any (fun f => f.a == e.a) <;> rfl

/-! ### LDGQ and STSQ (R157, R175) -/

/-- The elements of the enabled lanes lie in the hold, aligned. -/
def Ctx.ElementsFit (x : Ctx) (u : State) (idx : Entry) : Prop := ∀ i ∈ x.lanesEnabled u,
  x.element u idx i % x.size = 0 ∧ x.element u idx i + x.size ≤ (u.core x.c).holdLimit

/-- The lane of an element in the hold. -/
def Ctx.holdLane (x : Ctx) (u : State) (idx : Entry) (i : Nat) : Lane := { i, a := x.element u idx i, ms := [] }

theorem Ctx.checkLanes_elements {k : AccessKind} {idx : Entry} (hh : x.f.mod.getLsbD 0 = true)
    (h : x.ElementsFit u idx) :
    x.checkLanes u k (x.laneAddrs u idx) = .ok u ((x.lanesEnabled u).map (x.holdLane u idx)) := by
  rw [Ctx.laneAddrs_eq, Ctx.checkLanes_hold hh (List.forall_mem_map.2 fun i hi => h i hi), List.map_map]
  rfl

/-- What LDGQ does with the entry of its indices. -/
theorem ldgqBody_hold {k : Core} {es : List (Nat × Entry)} (ho : x.o = .ldgq)
    (hq : x.takeQueues u (sourcePositions .ldgq x.f) (pushPosition .ldgq x.f) = .ok k es)
    (hh : x.f.mod.getLsbD 0 = true) (hacq : (u.core x.c).acquirePending x.st = false)
    (hfit : x.ElementsFit u (takenEntry es x.f.sb)) (hbad : ∀ i ∈ x.lanesEnabled u,
      (u.core x.c).badByte (addrsFrom (x.element u (takenEntry es x.f.sb) i) x.size) = none) :
    ldgqBody x u = .done (x.pushLoaded (x.popSources u) 8 (queueOf x.f.dst) ((u.core x.c).holdEntry
      ((x.lanesEnabled u).flatMap (fun i => (List.range x.size).map (fun j =>
        (i * x.size + j, x.element u (takenEntry es x.f.sb) i + j)))))) .seq := by
  have hread : ((x.lanesEnabled u).map (x.holdLane u (takenEntry es x.f.sb))).find?
      (fun e => ((u.core x.c).badByte (addrsFrom e.a x.size)).isSome) = none := by
    refine List.find?_eq_none.2 (List.forall_mem_map.2 fun i hi => ?_)
    rw [Ctx.holdLane, hbad i hi]
    decide
  rw [ldgqBody, Ctx.queueGate_ok _ ho hq, Ctx.checkLanes_elements hh hfit]
  simp only [x.inHold_eq, hh, hacq, hread, List.flatMap_map, if_true, Bool.false_eq_true, if_false]
  rfl

theorem ldgqBody_memory {k : Core} {es : List (Nat × Entry)} {m : State} {l : List Lane} (ho : x.o = .ldgq)
    (hq : x.takeQueues u (sourcePositions .ldgq x.f) (pushPosition .ldgq x.f) = .ok k es)
    (hm : x.f.mod.getLsbD 0 = false)
    (hok : x.checkLanes u .load (x.laneAddrs u (takenEntry es x.f.sb)) = .ok m l) :
    ldgqBody x u = .done (x.loadEntry (x.popSources m)
      (l.flatMap (fun e => e.ms.mapIdx (fun j p => (e.i * x.size + j, p.pa, p.kind))))
      (l.flatMap (fun e => originOf e.a x.size e.i (addrsFrom e.a x.size)))) .seq := by
  rw [ldgqBody, Ctx.queueGate_ok _ ho hq, hok]
  simp only [x.inHold_eq, hm, Bool.false_eq_true, if_false]

/-- The entry of a gather's elements is the one that holds them in the enabled lanes, and zeros elsewhere. -/
theorem holdEntry_lanesEnabled (h : 8 * x.size ∣ 1024) (k : Core) (idx : Entry) {e : Entry}
    (he : ∀ i < 1024 / (8 * x.size), laneOf e (8 * x.size) i =
      if i ∈ x.lanesEnabled u then k.holdRead (x.element u idx i) x.size else 0) :
    k.holdEntry ((x.lanesEnabled u).flatMap (fun i => (List.range x.size).map (fun j =>
      (i * x.size + j, x.element u idx i + j)))) = e := by
  rw [holdEntry_elements]
  refine entry_ext h fun i hi => ?_
  rw [laneOf_digitSum Ctx.lanesEnabled_nodup (fun _ => holdRead_lt _ _ _) hi, he i hi]

/-- The bytes that STSQ stores of a lane. -/
def Ctx.datum (x : Ctx) (e : Entry) (i : Nat) : List Byte := bytesOfNum (laneOf e (8 * x.size) i) x.size

/-- A lane that no higher lane on its element follows. -/
def Ctx.LastLane (x : Ctx) (u : State) (idx : Entry) (i : Nat) : Prop :=
  i ∈ x.lanesEnabled u ∧ ∀ j ∈ x.lanesEnabled u, i < j → x.element u idx j ≠ x.element u idx i

/-- The lanes of a scatter that are performed are the last ones on their elements. -/
theorem topLanes_hold {idx : Entry} {top : List Nat} (ht : top.Pairwise (· < ·))
    (hlast : ∀ i, i ∈ top ↔ x.LastLane u idx i) :
    topLanes ((x.lanesEnabled u).map (x.holdLane u idx)) = top.map (x.holdLane u idx) := by
  rw [topLanes_eq_filter (List.pairwise_map.2 Ctx.lanesEnabled_pairwise), List.filter_map]
  refine congrArg (List.map _) ((Ctx.lanesEnabled_pairwise.filter _).eq_of_mem_iff ht fun i => ?_)
  rw [hlast, List.mem_filter, Ctx.LastLane]
  refine and_congr_right fun _ => ?_
  simp only [Function.comp_apply, List.all_map, List.all_eq_true, Bool.or_eq_true, bne_iff_ne, Ctx.holdLane,
    or_iff_not_imp_left]
  exact forall₂_congr fun j _ => imp_congr_left ((not_congr decide_eq_true_iff).trans Nat.not_le)

theorem stsqBody_hold {k : Core} {es : List (Nat × Entry)} {top : List Nat} (ho : x.o = .stsq)
    (hq : x.takeQueues u (sourcePositions .stsq x.f) (pushPosition .stsq x.f) = .ok k es)
    (hh : x.f.mod.getLsbD 0 = true)
    (hfree : ((u.core x.c).acquirePending x.st || (u.core x.c).loadsBefore x.st) = false)
    (hfit : x.ElementsFit u (takenEntry es x.f.sb)) (ht : top.Pairwise (· < ·))
    (hlast : ∀ i, i ∈ top ↔ x.LastLane u (takenEntry es x.f.sb) i) :
    stsqBody x u = .done (top.foldl (fun s i => s.holdStore x.c x.st (x.element u (takenEntry es x.f.sb) i)
      (x.datum (takenEntry es x.f.sc) i)) (x.popSources u)) .seq := by
  rw [stsqBody, Ctx.queueGate_ok _ ho hq, Ctx.checkLanes_elements hh hfit]
  simp only [x.inHold_eq, hh, hfree, topLanes_hold ht hlast, List.foldl_map, if_true, Bool.false_eq_true, if_false]
  rfl

theorem stsqBody_memory {k : Core} {es : List (Nat × Entry)} {m : State} {l : List Lane} (ho : x.o = .stsq)
    (hq : x.takeQueues u (sourcePositions .stsq x.f) (pushPosition .stsq x.f) = .ok k es)
    (hm : x.f.mod.getLsbD 0 = false)
    (hok : x.checkLanes u .store (x.laneAddrs u (takenEntry es x.f.sb)) = .ok m l)
    (hdc : (m.core x.c).DcFree x.st (l.flatMap (fun e => e.ms))) :
    stsqBody x u = .done (x.putStore (x.popSources m) none
      ((topLanes l).flatMap (fun e => x.datum (takenEntry es x.f.sc) e.i)) ((topLanes l).flatMap (fun e => e.ms))
      ((topLanes l).flatMap (fun e => originOf e.a x.size e.i (addrsFrom e.a x.size)))) .seq := by
  rw [stsqBody, Ctx.queueGate_ok _ ho hq, hok]
  simp only [x.inHold_eq, hm, Core.dcHeld_of_dcFree hdc, Bool.false_eq_true, if_false]
  rfl

end

/-- Settles O19: each instruction by its body. -/
theorem queueMemory : Obligations.QueueMemory := by
  unfold Obligations.QueueMemory
  refine ⟨⟨?_, ?_, ?_, ?_⟩, ?_, ?_, ?_, ?_⟩
  · refine answers_of_legal ldqBody (fun _ _ _ => rfl) ?_
    rintro x u v ho hl ⟨k, es, e, hq, hh, ha, hfree, hr, hbad, he, rfl⟩
    have hpos := Ctx.size_pos (Typ.bytes_of_lanes (Op.legal_typ hl))
    rw [ldqBody, Ctx.queueGate_ok _ ho hq, x.inHold_eq, if_pos hh,
      ldqHold_done ha hr (Core.acquirePending_eq_false_iff.2 hfree) hbad, holdEntry_bytesOn hpos _ _ he]
  · refine answers_of_done ldqBody (fun _ _ _ => rfl) ?_
    rintro x u v ho ⟨k, es, m, ms, hq, hm, ha, hok, rfl⟩
    rw [ldqBody, Ctx.queueGate_ok _ ho hq, x.inHold_eq, hm]
    exact ldqMem_done ha hok
  · refine answers_of_legal ldgqBody (fun _ _ _ => rfl) ?_
    rintro x u v ho hl ⟨k, es, e, hq, hh, hfree, hon, he, rfl⟩
    have hfit : x.ElementsFit u (takenEntry es x.f.sb) := fun i hi => ⟨(hon i hi).1, (hon i hi).2.1⟩
    have hbad := fun i hi => (hon i hi).2.2
    rw [ldgqBody_hold ho hq hh (Core.acquirePending_eq_false_iff.2 hfree) hfit hbad, holdEntry_lanesEnabled (Typ.bytes_of_lanes2 (Op.legal_typ hl)) _ _ he]
  · refine answers_of_done ldgqBody (fun _ _ _ => rfl) ?_
    rintro x u v ho ⟨k, es, m, l, hq, hm, hok, rfl⟩
    exact ldgqBody_memory ho hq hm ((congrArg _ (Ctx.laneAddrs_eq _)).trans hok)
  · refine answers_of_done stqBody (fun _ _ _ => rfl) ?_
    rintro x u v ho ⟨k, es, hq, hh, ha, hfree, hr, rfl⟩
    rw [stqBody, Ctx.queueGate_ok _ ho hq, x.inHold_eq, if_pos hh]
    exact stqHold_done _ ha hr (Core.storeFree hfree)
  · refine answers_of_done stqBody (fun _ _ _ => rfl) ?_
    rintro x u v ho ⟨k, es, m, ms, hq, hm, ha, hok, hdc, rfl⟩
    rw [stqBody, Ctx.queueGate_ok _ ho hq, x.inHold_eq, hm]
    exact (stqMem_done _ ha hok hdc).trans (by rw [Ctx.putStore_eq]; rfl)
  · refine answers_of_done stsqBody (fun _ _ _ => rfl) ?_
    rintro x u v ho ⟨k, es, top, hq, hh, hfree, hon, ht, hlast, rfl⟩
    exact stsqBody_hold ho hq hh (Core.storeFree hfree) hon ht hlast
  · refine answers_of_done stsqBody (fun _ _ _ => rfl) ?_
    rintro x u v ho ⟨k, es, m, l, top, hq, hm, hok, hdc, htop, rfl⟩
    have hok' := (congrArg (x.checkLanes u .store) (Ctx.laneAddrs_eq (takenEntry es x.f.sb))).trans hok
    have hso : (∃ p ∈ top.flatMap (fun e => e.ms), p.kind = .so) ↔ ∃ e ∈ top, ∃ p ∈ e.ms, p.kind = .so := by
      simp only [List.mem_flatMap, ← exists_and_right, and_assoc]
      exact exists_comm.trans (by simp only [exists_and_left])
    rw [stsqBody_memory ho hq hm hok' hdc, topLanes_eq_filter (Ctx.checkLanes_pairwise hok'), ← htop, Ctx.putStore_eq]
    simp only [hso]
    rfl

end Sys2Proof.Machine

end

section
/-!
PROOFS. What each function of the state leaves of the memory's canonical form (`State.MemoryWf`), in the order of the
model: `_mem` where it leaves the memory as it was, `_wf` where it may store.
-/
namespace Sys2Proof.Machine

/-- The state with which the body of an operation ends. -/
def Res.state : Res → State
  | .done s _ | .final s | .broke s | .wait s _ | .trap s _ => s

@[simp] theorem Res.state_done (s : State) (f : Flow) : (Res.done s f).state = s := rfl
@[simp] theorem Res.state_final (s : State) : (Res.final s).state = s := rfl
@[simp] theorem Res.state_broke (s : State) : (Res.broke s).state = s := rfl
@[simp] theorem Res.state_wait (s : State) (w : Wait) : (Res.wait s w).state = s := rfl
@[simp] theorem Res.state_trap (s : State) (t : TrapInfo) : (Res.trap s t).state = s := rfl

@[simp] theorem Res.state_plain (s : State) (c : Cause) : (Res.plain s c).state = s := rfl

@[simp] theorem Memory.wf_ite (c : Prop) [Decidable c] (a b : Memory) :
    Memory.wf (if c then a else b) = if c then a.wf else b.wf := apply_ite _ _ _ _

@[simp] theorem State.mem_ite (c : Prop) [Decidable c] (a b : State) :
    (if c then a else b).mem = if c then a.mem else b.mem := apply_ite _ _ _ _

@[simp] theorem foldl_mem {α : Type} {f : State → α → State} (hf : ∀ s a, (f s a).mem = s.mem) (s : State)
    (l : List α) : (l.foldl f s).mem = s.mem := foldl_leaves State.mem f hf l s

theorem State.ite_wf {c : Prop} [Decidable c] {a b : State} (ha : a.mem.wf = true) (hb : b.mem.wf = true) :
    (if c then a else b).mem.wf = true :=
  iteInduction (motive := fun s : State => s.mem.wf = true) (fun _ => ha) (fun _ => hb)

theorem Res.ite_wf {c : Prop} [Decidable c] {a b : Res} (ha : a.state.mem.wf = true) (hb : b.state.mem.wf = true) :
    (if c then a else b).state.mem.wf = true :=
  iteInduction (motive := fun r : Res => r.state.mem.wf = true) (fun _ => ha) (fun _ => hb)

theorem foldl_wf {α : Type} {f : State → α → State} {s : State} {l : List α}
    (hf : ∀ s a, s.mem.wf = true → (f s a).mem.wf = true) (h : s.mem.wf = true) : (l.foldl f s).mem.wf = true := by
  induction l generalizing s with
  | nil => exact h
  | cons a l ih => exact ih (hf _ _ h)

/-- The memory of the state that a translation leaves is in canonical form. -/
def Trans.Wf : Trans → Prop
  | .ok s _ | .wait s => s.mem.wf = true
  | _ => True

theorem Trans.Wf.ok {r : Trans} {s m} (h : r.Wf) (e : r = .ok s m) : s.mem.wf = true := by
  subst e
  exact h

theorem Trans.Wf.wait {r : Trans} {s} (h : r.Wf) (e : r = .wait s) : s.mem.wf = true := by
  subst e
  exact h

/-- The memory of the state that translations leaves is in canonical form. -/
def TransAll.Wf : TransAll → Prop
  | .ok s _ | .wait s => s.mem.wf = true
  | _ => True

theorem TransAll.Wf.ok {r : TransAll} {s m} (h : r.Wf) (e : r = .ok s m) : s.mem.wf = true := by
  subst e
  exact h

theorem TransAll.Wf.wait {r : TransAll} {s} (h : r.Wf) (e : r = .wait s) : s.mem.wf = true := by
  subst e
  exact h

/-- The memory of the state that the fetch of a word leaves is in canonical form. -/
def WordFetch.Wf : WordFetch → Prop
  | .ok s _ _ | .wait s => s.mem.wf = true
  | _ => True

theorem WordFetch.Wf.ok {r : WordFetch} {s w pte} (h : r.Wf) (e : r = .ok s w pte) : s.mem.wf = true := by
  subst e
  exact h

theorem WordFetch.Wf.wait {r : WordFetch} {s} (h : r.Wf) (e : r = .wait s) : s.mem.wf = true := by
  subst e
  exact h

/-- The memory of the state that the fetch of a bundle leaves is in canonical form. -/
def Fetched.Wf : Fetched → Prop
  | .ok s _ _ _ | .wait s => s.mem.wf = true
  | _ => True

theorem Fetched.Wf.ok {r : Fetched} {s ws fl bh} (h : r.Wf) (e : r = .ok s ws fl bh) : s.mem.wf = true := by
  subst e
  exact h

theorem Fetched.Wf.wait {r : Fetched} {s} (h : r.Wf) (e : r = .wait s) : s.mem.wf = true := by
  subst e
  exact h

/-- The memory of the state that the fetch behind a call leaves is in canonical form. -/
def LinkEnd.Wf : LinkEnd → Prop
  | .known s _ | .wait s => s.mem.wf = true
  | _ => True

theorem LinkEnd.Wf.known {r : LinkEnd} {s a} (h : r.Wf) (e : r = .known s a) : s.mem.wf = true := by
  subst e
  exact h

theorem LinkEnd.Wf.wait {r : LinkEnd} {s} (h : r.Wf) (e : r = .wait s) : s.mem.wf = true := by
  subst e
  exact h

/-- The memory of the state that the lanes of an access leaves is in canonical form. -/
def LaneEnd.Wf : LaneEnd → Prop
  | .ok s _ | .wait s _ => s.mem.wf = true
  | _ => True

theorem LaneEnd.Wf.ok {r : LaneEnd} {s l} (h : r.Wf) (e : r = .ok s l) : s.mem.wf = true := by
  subst e
  exact h

theorem LaneEnd.Wf.wait {r : LaneEnd} {s w} (h : r.Wf) (e : r = .wait s w) : s.mem.wf = true := by
  subst e
  exact h

/-- The memory of the state that an access leaves is in canonical form. -/
def PlainEnd.Wf : PlainEnd → Prop
  | .ok s _ | .wait s => s.mem.wf = true
  | _ => True

theorem PlainEnd.Wf.ok {r : PlainEnd} {s ms} (h : r.Wf) (e : r = .ok s ms) : s.mem.wf = true := by
  subst e
  exact h

theorem PlainEnd.Wf.wait {r : PlainEnd} {s} (h : r.Wf) (e : r = .wait s) : s.mem.wf = true := by
  subst e
  exact h

/-- The memory of the state that the read of a range leaves is in canonical form. -/
def RangeEnd.Wf : RangeEnd → Prop
  | .ok s _ | .wait s => s.mem.wf = true
  | _ => True

theorem RangeEnd.Wf.ok {r : RangeEnd} {s b} (h : r.Wf) (e : r = .ok s b) : s.mem.wf = true := by
  subst e
  exact h

theorem RangeEnd.Wf.wait {r : RangeEnd} {s} (h : r.Wf) (e : r = .wait s) : s.mem.wf = true := by
  subst e
  exact h

/-- The memory of the state that the read of a manifest leaves is in canonical form. -/
def ManifestEnd.Wf : ManifestEnd → Prop
  | .ok s _ _ | .bad s | .wait s => s.mem.wf = true
  | _ => True

theorem ManifestEnd.Wf.ok {r : ManifestEnd} {s m v} (h : r.Wf) (e : r = .ok s m v) : s.mem.wf = true := by
  subst e
  exact h

theorem ManifestEnd.Wf.bad {r : ManifestEnd} {s} (h : r.Wf) (e : r = .bad s) : s.mem.wf = true := by
  subst e
  exact h

theorem ManifestEnd.Wf.wait {r : ManifestEnd} {s} (h : r.Wf) (e : r = .wait s) : s.mem.wf = true := by
  subst e
  exact h

/-- The memory of the state that the write of a range leaves is in canonical form. -/
def WriteEnd.Wf : WriteEnd → Prop
  | .ok s | .fault s _ _ | .wait s => s.mem.wf = true

theorem WriteEnd.Wf.ok {r : WriteEnd} {s} (h : r.Wf) (e : r = .ok s) : s.mem.wf = true := by
  subst e
  exact h

theorem WriteEnd.Wf.fault {r : WriteEnd} {s f a} (h : r.Wf) (e : r = .fault s f a) : s.mem.wf = true := by
  subst e
  exact h

theorem WriteEnd.Wf.wait {r : WriteEnd} {s} (h : r.Wf) (e : r = .wait s) : s.mem.wf = true := by
  subst e
  exact h

theorem ManifestEnd.wf_ok {s : State} {m : Manifest} {v : Option Manifest} (h : s.mem.wf = true) :
    (ManifestEnd.ok s m v).Wf := by
  unfold ManifestEnd.Wf
  exact h

theorem ManifestEnd.ite_wf {c : Prop} [Decidable c] {a b : ManifestEnd} (ha : a.Wf) (hb : b.Wf) :
    (if c then a else b).Wf :=
  iteInduction (motive := ManifestEnd.Wf) (fun _ => ha) (fun _ => hb)

/-! #### Registers, holds and landings -/

@[simp] theorem State.claimBerth_wf {s : State} (h : s.mem.wf = true) {c n : Nat} :
    (s.claimBerth c n).mem.wf = true := by
  unfold State.claimBerth
  dsimp only
  repeat' split
  all_goals simp [h]

@[simp] theorem State.holdStore_wf {s : State} (h : s.mem.wf = true) {c : Nat} {st : Stream} {off : Nat}
    {l : List Byte} :
    (s.holdStore c st off l).mem.wf = true := by
  induction l generalizing s off with
  | nil => exact h
  | cons b l ih =>
    have hb := State.claimBerth_wf h (c := c) (n := off / 65536)
    unfold State.holdStore
    refine ih ?_
    split
    · exact hb
    · split
      · exact hb
      · simpa using hb

@[simp] theorem State.holdWrite_wf {s : State} (h : s.mem.wf = true) {c : Nat} {st : Stream} {off n v : Nat} :
    (s.holdWrite c st off n v).mem.wf = true := by simp [State.holdWrite, h]

@[simp] theorem State.holdSetAll_wf {s : State} (h : s.mem.wf = true) {c : Nat} {l : List (Nat × Byte)} :
    (s.holdSetAll c l).mem.wf = true := by
  induction l generalizing s with
  | nil => exact h
  | cons e l ih =>
    unfold State.holdSetAll
    dsimp only
    repeat' split
    all_goals simp [ih, h]

@[simp] theorem State.applyLength_mem (s : State) (e : Effect) : (s.applyLength e).mem = s.mem := by
  unfold State.applyLength
  split <;> simp

@[simp] theorem State.landOne_wf {s : State} (h : s.mem.wf = true) {c : Nat} {l : Landing} :
    (s.landOne c l).mem.wf = true := by
  unfold State.landOne
  dsimp only
  rw [State.modCore_mem, foldl_mem State.applyLength_mem]
  have hf : (l.holdBytes.foldl (fun s e => s.holdStore c l.st e.1 [e.2]) s).mem.wf = true :=
    foldl_wf (fun _ _ h => State.holdStore_wf h) h
  split <;> exact hf

@[simp] theorem State.landList_wf {s : State} (h : s.mem.wf = true) {c : Nat} {l : List Landing} :
    (s.landList c l).mem.wf = true := by
  induction l generalizing s with
  | nil => exact h
  | cons e l ih => simp [State.landList, ih, h]

@[simp] theorem State.landDue_wf {s : State} (h : s.mem.wf = true) {c : Nat} {sel : Landing → Bool} :
    (s.landDue c sel).mem.wf = true := by simp [State.landDue, h]

@[simp] theorem State.landAll_wf {s : State} (h : s.mem.wf = true) {c : Nat} : (s.landAll c).mem.wf = true := by
  simp [State.landAll, h]

@[simp] theorem State.launchResult_mem (s : State) (c : Nat) (st : Stream) (fl : Bool) (lat : Nat) (matrix : Bool)
    (unit : Nat) (locked : Bool) (es : List Effect) :
    (s.launchResult c st fl lat matrix unit locked es).mem = s.mem := (rfl)

/-! #### Budgets and writes on their way -/

@[simp] theorem State.warn_mem (s : State) (c : Nat) : (s.warn c).mem = s.mem := (rfl)

@[simp] theorem State.throttleCheck_mem (s : State) (i : Nat) : (s.throttleCheck i).mem = s.mem := by
  simp [State.throttleCheck]

@[simp] theorem State.countVector_mem (s : State) (i : Nat) : (s.countVector i).mem = s.mem := (rfl)

@[simp] theorem State.tideIsland_mem (s : State) (i : Nat) : (s.tideIsland i).mem = s.mem := by
  simp [State.tideIsland]

@[simp] theorem State.stepNow_mem (s : State) (i : Nat) : (s.stepNow i).mem = s.mem := by simp [State.stepNow]

@[simp] theorem State.nextTide_mem (s : State) (d : Nat) : (s.nextTide d).mem = s.mem := by simp [State.nextTide]

@[simp] theorem State.tides_mem (s : State) (d l : Nat) : (s.tides d l).mem = s.mem := by
  induction l generalizing s with
  | zero => rfl
  | succ l ih => simp [State.tides, ih]

@[simp] theorem State.catchTides_mem (s : State) (d : Nat) : (s.catchTides d).mem = s.mem := by
  simp [State.catchTides]

@[simp] theorem State.closeWindow_mem (s : State) (i : Nat) : (s.closeWindow i).mem = s.mem := by
  simp [State.closeWindow]

@[simp] theorem State.govern_mem (s : State) : (s.govern).mem = s.mem := by simp [State.govern]

@[simp] theorem State.receive_mem (s : State) (i : Nat) : (s.receive i).mem = s.mem := by simp [State.receive]

@[simp] theorem State.sendWrite_mem (s : State) (c i : Nat) (w : IslandWrite) : (s.sendWrite c i w).mem = s.mem := by
  simp [State.sendWrite]

@[simp] theorem State.changeBal_mem (s : State) (i : Nat) (d : Int) : (s.changeBal i d).mem = s.mem := by
  simp [State.changeBal]

@[simp] theorem State.charge_mem (s : State) (i : Nat) (t0 : Bool) (c : Nat) : (s.charge i t0 c).mem = s.mem := by
  simp [State.charge]

@[simp] theorem State.act_mem (s : State) (i : Nat) : (s.act i).mem = s.mem := (rfl)

@[simp] theorem State.drawLines_mem (s : State) (i n : Nat) : (s.drawLines i n).mem = s.mem := by
  simp [State.drawLines]

@[simp] theorem State.meterCore_mem (s : State) (c : Nat) (t : Task) : (s.meterCore c t).mem = s.mem := by
  simp [State.meterCore]

@[simp] theorem State.meterSaved_wf {s : State} (h : s.mem.wf = true) {i : Nat} {v : SavedContext} :
    (s.meterSaved i v).mem.wf = true := by
  unfold State.meterSaved
  dsimp only
  rw [State.drawLines_mem]
  have hm {m : Memory} {a : Nat} {t : Task} (hm : m.wf = true) : (saveCounters m a t).wf = true :=
    Memory.write_wf _ _ _ _ (Memory.write_wf _ _ _ _ (Memory.write_wf _ _ _ _ hm))
  dsimp only
  refine hm ?_
  rw [State.catchTides_mem]
  exact h

@[simp] theorem State.meterEnded_mem (s : State) (i : Nat) : (s.meterEnded i).mem = s.mem := by
  simp [State.meterEnded]

@[simp] theorem State.meterTo_wf {s : State} (h : s.mem.wf = true) {m : Option Meter} :
    (s.meterTo m).mem.wf = true := by
  unfold State.meterTo
  repeat' split
  all_goals simp [h]

/-! #### Lines at home and in the caches -/

@[simp] theorem writeQueueRegister_mem (s : State) (q off : Nat) (v : Word) :
    (writeQueueRegister s q off v).mem = s.mem := by
  unfold writeQueueRegister
  split <;> simp

@[simp] theorem State.homeEvents_mem (s : State) (store : Bool) (pas l : List Nat) :
    (s.homeEvents store pas l).mem = s.mem := by
  induction l generalizing s with
  | nil => rfl
  | cons e l ih => simp [State.homeEvents, ih]

@[simp] theorem State.writeRegisters_mem (s : State) (bytes : List (Nat × Byte)) (l : List Nat) :
    (s.writeRegisters bytes l).mem = s.mem := by
  induction l generalizing s with
  | nil => rfl
  | cons e l ih =>
    unfold State.writeRegisters
    split <;> simp [ih]

@[simp] theorem State.storeHome_wf {s : State} (h : s.mem.wf = true) {bytes : List (Nat × Byte)} :
    (s.storeHome bytes).mem.wf = true := by simp [State.storeHome, h]

@[simp] theorem State.noteLine_mem (s : State) (m : Option Meter) : (s.noteLine m).mem = s.mem := by
  unfold State.noteLine
  split <;> simp

@[simp] theorem State.meterLines_wf {s : State} (h : s.mem.wf = true) : (s.meterLines).mem.wf = true := by
  unfold State.meterLines
  split
  · exact h
  · refine foldl_wf (fun _ _ h => State.meterTo_wf h) ?_
    simpa using h

@[simp] theorem State.dropL2_mem (s : State) (line : Nat) : (s.dropL2 line).mem = s.mem := by
  unfold State.dropL2
  dsimp only
  split <;> simp

@[simp] theorem State.roomL2_mem (s : State) (d : Nat) : (s.roomL2 d).mem = s.mem := by simp [State.roomL2]

@[simp] theorem State.touchLine_mem (s : State) (line : Nat) (store : Bool) (m : Option Meter) :
    (s.touchLine line store m).mem = s.mem := by
  unfold State.touchLine
  dsimp only
  repeat' split
  all_goals simp

@[simp] theorem State.storeFor_wf {s : State} (h : s.mem.wf = true) {m : Option Meter} {bytes : List (Nat × Byte)} :
    (s.storeFor m bytes).mem.wf = true := by simp [State.storeFor, h]

@[simp] theorem State.reachHome_mem (s : State) (d : Nat) (pas : List Nat) : (s.reachHome d pas).mem = s.mem := by
  simp [State.reachHome]

@[simp] theorem State.writeBackLine_wf {s : State} (h : s.mem.wf = true) {d : Nat} {l : RdcLine} :
    (s.writeBackLine d l).mem.wf = true := by simp [State.writeBackLine, h]

@[simp] theorem State.writeBackList_wf {s : State} (h : s.mem.wf = true) {d : Nat} {l : List RdcLine} :
    (s.writeBackList d l).mem.wf = true := by
  induction l generalizing s with
  | nil => exact h
  | cons e l ih => simp [State.writeBackList, ih, h]

@[simp] theorem State.writeBackIf_wf {s : State} (h : s.mem.wf = true) {d : Nat} {sel : RdcLine → Bool} :
    (s.writeBackIf d sel).mem.wf = true := by simp [State.writeBackIf, h]

@[simp] theorem State.writeBack_wf {s : State} (h : s.mem.wf = true) {d : Nat} {kinds : List OrderKind} :
    (s.writeBack d kinds).mem.wf = true := by simp [State.writeBack, h]

@[simp] theorem State.invalidate_mem (s : State) (d : Nat) (kinds : List OrderKind) :
    (s.invalidate d kinds).mem = s.mem := (rfl)

@[simp] theorem State.dropLines_wf {s : State} (h : s.mem.wf = true) {d : Nat} {sel : RdcLine → Bool} :
    (s.dropLines d sel).mem.wf = true := by simp [State.dropLines, h]

@[simp] theorem State.evictLine_wf {s : State} (h : s.mem.wf = true) {d line : Nat} :
    (s.evictLine d line).mem.wf = true := by simp [State.evictLine, h]

@[simp] theorem State.bypassRdc_wf {s : State} (h : s.mem.wf = true) {d pa : Nat} :
    (s.bypassRdc d pa).mem.wf = true := by simp [State.bypassRdc, h]

@[simp] theorem State.acquireRdc_mem (s : State) (c : Nat) (sc : Scope) : (s.acquireRdc c sc).mem = s.mem := by
  unfold State.acquireRdc
  split <;> simp

@[simp] theorem State.releaseRdc_wf {s : State} (h : s.mem.wf = true) {c : Nat} {sc : Scope} :
    (s.releaseRdc c sc).mem.wf = true := by
  unfold State.releaseRdc
  split <;> simp [h]

@[simp] theorem State.roomRdc_wf {s : State} (h : s.mem.wf = true) {d : Nat} : (s.roomRdc d).mem.wf = true := by
  simp [State.roomRdc, h]

@[simp] theorem State.rdcOpen_wf {s : State} (h : s.mem.wf = true) {c pa : Nat} {un : Bool} :
    (s.rdcOpen c pa un).1.mem.wf = true := by
  unfold State.rdcOpen
  dsimp only
  repeat' split
  all_goals simp [h]

@[simp] theorem State.rdcFetchFor_wf {s : State} (h : s.mem.wf = true) {m : Option Meter} {c pa : Nat}
    {kind : OrderKind} :
    (s.rdcFetchFor m c pa kind).1.mem.wf = true := by
  unfold State.rdcFetchFor
  dsimp only
  split <;> simp [h]

@[simp] theorem State.rdcFetch_wf {s : State} (h : s.mem.wf = true) {c pa : Nat} {kind : OrderKind} :
    (s.rdcFetch c pa kind).1.mem.wf = true := by simp [State.rdcFetch, h]

@[simp] theorem State.readByteFor_wf {s : State} (h : s.mem.wf = true) {m : Option Meter} {c pa : Nat}
    {kind : OrderKind} :
    (s.readByteFor m c pa kind).1.mem.wf = true := by
  unfold State.readByteFor
  split <;> simp [h]

@[simp] theorem State.readByte_wf {s : State} (h : s.mem.wf = true) {c pa : Nat} {kind : OrderKind} :
    (s.readByte c pa kind).1.mem.wf = true := by simp [State.readByte, h]

@[simp] theorem State.writeByte_wf {s : State} (h : s.mem.wf = true) {c pa : Nat} {b : Byte} {kind : OrderKind} :
    (s.writeByte c pa b kind).1.mem.wf = true := by
  unfold State.writeByte
  split <;> simp [h]

@[simp] theorem State.syncWord_mem (s : State) (pa : Nat) : (s.syncWord pa).mem = s.mem := by simp [State.syncWord]

@[simp] theorem State.leaveRdcs_wf {s : State} (h : s.mem.wf = true) {pa : Nat} : (s.leaveRdcs pa).mem.wf = true :=
  foldl_wf (fun _ _ h => State.evictLine_wf h) h

@[simp] theorem State.atomic_wf {s : State} (h : s.mem.wf = true) {m : Option Meter} {pa : Nat} {w : AmoWork} :
    (s.atomic m pa w).1.mem.wf = true := by
  unfold State.atomic
  dsimp only
  split <;> simp [h]

@[simp] theorem State.markEntry_wf {s : State} (h : s.mem.wf = true) {m : Option Meter} {addr set clear : Nat} :
    (s.markEntry m addr set clear).mem.wf = true := by simp [State.markEntry, h]

/-! #### Walks and translation -/

@[simp] theorem State.cachePage_mem (s : State) (c : Nat) (e : TlbEntry) : (s.cachePage c e).mem = s.mem := (rfl)

@[simp] theorem State.joinWalk_mem (s : State) (c who : Nat) (root : Word) (va : Nat) :
    (s.joinWalk c who root va).mem = s.mem := by simp [State.joinWalk]

@[simp] theorem State.leaveWalksIf_mem (s : State) (c who : Nat) (sel : Walk → Bool) :
    (s.leaveWalksIf c who sel).mem = s.mem := by simp [State.leaveWalksIf]

@[simp] theorem State.leaveWalks_mem (s : State) (c who : Nat) : (s.leaveWalks c who).mem = s.mem := by
  simp [State.leaveWalks]

@[simp] theorem State.leavePages_mem (s : State) (c who asid : Nat) (vas : List Nat) :
    (s.leavePages c who asid vas).mem = s.mem := by simp [State.leavePages]

@[simp] theorem State.walkRead_wf {s : State} (h : s.mem.wf = true) {d addr : Nat} {m : Option Meter} :
    (s.walkRead d addr m).1.mem.wf = true := by simp [State.walkRead, h]

@[simp] theorem State.walkLevel_wf {s : State} (h : s.mem.wf = true) {d : Nat} {m : Option Meter} {va lvl tbl : Nat} :
    (s.walkLevel d m va lvl tbl).1.mem.wf = true := by simp [State.walkLevel, h]

@[simp] theorem State.stepWalk_wf {s : State} (h : s.mem.wf = true) {d n : Nat} : (s.stepWalk d n).mem.wf = true := by
  unfold State.stepWalk
  split <;> simp [h]

@[simp] theorem State.endWalks_wf {s : State} (h : s.mem.wf = true) : (s.endWalks).mem.wf = true := by
  unfold State.endWalks
  exact foldl_wf (fun _ _ h => foldl_wf (fun _ _ h =>
    State.stepWalk_wf (State.stepWalk_wf (State.stepWalk_wf (State.stepWalk_wf h)))) h) h

@[simp] theorem State.waitPage_mem (s : State) (c who leaf page : Nat) :
    (s.waitPage c who leaf page).mem = s.mem := by simp [State.waitPage]

@[simp] theorem State.dropPageWaits_mem (s : State) (c who : Nat) : (s.dropPageWaits c who).mem = s.mem := by
  simp [State.dropPageWaits]

@[simp] theorem State.startPageIn_wf {s : State} (h : s.mem.wf = true) {m : Option Meter} {leaf : Nat}
    {ahead : Option Nat} :
    (s.startPageIn m leaf ahead).mem.wf = true := by simp [State.startPageIn, h]

@[simp] theorem State.markLeaf_wf {s : State} (h : s.mem.wf = true) {c : Nat} {root : Word} {k : AccessKind}
    {va : Nat} {l : Leaf} :
    (s.markLeaf c root k va l).mem.wf = true := by simp [State.markLeaf, h]

@[simp] theorem State.await_wf {s : State} (h : s.mem.wf = true) {c who : Nat} {root : Word} {va : Nat} {l : Look} :
    (s.await c who root va l).mem.wf = true := by
  unfold State.await
  split <;> simp [h]

@[simp] theorem State.markLeaves_wf {s : State} (h : s.mem.wf = true) {c : Nat} {root : Word} {k : AccessKind}
    {l : List (Nat × Mapped × Option Leaf)} :
    (s.markLeaves c root k l).mem.wf = true := by
  induction l generalizing s with
  | nil => exact h
  | cons e l ih =>
    obtain ⟨va, m, _ | lf⟩ := e
    · exact ih h
    · refine ih ?_
      split
      · exact h
      · exact State.markLeaf_wf h

@[simp] theorem State.translateList_wf {s : State} (h : s.mem.wf = true) {c who : Nat} {root : Word}
    {firmware : Bool} {k : AccessKind} {shadow : Bool} {vas : List Nat} :
    (s.translateList c who root firmware k shadow vas).Wf := by
  unfold State.translateList
  dsimp only
  split
  · trivial
  · exact State.await_wf h
  · exact State.markLeaves_wf (by simp [h])

@[simp] theorem State.translateAll_wf {s : State} (h : s.mem.wf = true) {c who : Nat} {k : AccessKind}
    {vas : List Nat} :
    (s.translateAll c who k vas).Wf := by simp [State.translateAll, h]

@[simp] theorem State.translateAs_wf {s : State} (h : s.mem.wf = true) {c who : Nat} {root : Word} {firmware : Bool}
    {k : AccessKind} {shadow : Bool} {va : Nat} :
    (s.translateAs c who root firmware k shadow va).Wf := by
  unfold State.translateAs
  split
  · next e => exact (State.translateList_wf h).ok e
  · next e => exact (State.translateList_wf h).ok e
  · trivial
  · next e => exact (State.translateList_wf h).wait e

@[simp] theorem State.translate_wf {s : State} (h : s.mem.wf = true) {c who : Nat} {k : AccessKind} {va : Nat} :
    (s.translate c who k va).Wf := by simp [State.translate, h]

@[simp] theorem State.logWalk_mem (s : State) (c : Nat) (p : Prefetch) (f : TransFault) :
    (s.logWalk c p f).mem = s.mem := by simp [State.logWalk]

@[simp] theorem State.bringLine_wf {s : State} (h : s.mem.wf = true) {c : Nat} {p : Prefetch} {m : Mapped} :
    (s.bringLine c p m).mem.wf = true := by simp [State.bringLine, h]

@[simp] theorem State.stepPrefetch_wf {s : State} (h : s.mem.wf = true) {c : Nat} {p : Prefetch} :
    (s.stepPrefetch c p).mem.wf = true := by
  unfold State.stepPrefetch
  dsimp only
  split
  · simp [h]
  · simp [h]
  · simpa [endPrefetch_mem] using h
  · split <;> simp [endPrefetch_mem, h]
  · simp [endPrefetch_mem, h]
  · split
    · simpa [endPrefetch_mem] using h
    · split <;> simp [endPrefetch_mem, h]

@[simp] theorem State.enterPrefetch_wf {s : State} (h : s.mem.wf = true) {c bundle va : Nat} {ahead : Bool} :
    (s.enterPrefetch c bundle va ahead).mem.wf = true := by simp [State.enterPrefetch, h]

@[simp] theorem State.prefetchTurn_wf {s : State} (h : s.mem.wf = true) {c who : Nat} :
    (s.prefetchTurn c who).mem.wf = true := by
  unfold State.prefetchTurn
  split <;> simp [h]

/-! #### Loads, stores and the promotion log -/

@[simp] theorem State.noteUncorr_mem (s : State) (c : Nat) (st : Stream) (store : Bool) (o : Origin) (bundle : Nat) :
    (s.noteUncorr c st store o bundle).mem = s.mem := (rfl)

@[simp] theorem State.logUncorr_mem (s : State) (c pa : Nat) : (s.logUncorr c pa).mem = s.mem := (rfl)

@[simp] theorem State.tellError_mem (s : State) (c : Nat) (e : DcOrigin) : (s.tellError c e).mem = s.mem := by
  simp [State.tellError]

@[simp] theorem State.commitErrors_mem (s : State) (c : Nat) (dc : Tbl Byte) (src : Tbl DcOrigin) :
    (s.commitErrors c dc src).mem = s.mem := by
  unfold State.commitErrors
  dsimp only
  rw [foldl_mem (fun s e => State.tellError_mem s c e), foldl_mem (fun s l => State.logUncorr_mem s c (l * 64))]

@[simp] theorem State.commitAll_wf {s : State} (h : s.mem.wf = true) {d : Nat}
    {bufs : List (Option Meter × Tbl Byte)} :
    (s.commitAll d bufs).mem.wf = true := by
  unfold State.commitAll
  simp [foldl_mem (fun (s : State) (b : Option Meter × Tbl Byte) => foldl_mem (fun s l => State.touchLine_mem s l
      true b.1) s _), h]

@[simp] theorem State.choose_mem {α : Type} (s : State) (l : List α) : (s.choose l).2.mem = s.mem := by
  unfold State.choose
  split <;> simp

@[simp] theorem State.writeParts_wf {s : State} (h : s.mem.wf = true) {c : Nat} {l : List (Nat × Byte × OrderKind)} :
    (s.writeParts c l).1.mem.wf = true := by
  induction l generalizing s with
  | nil => exact h
  | cons e l ih => simp [State.writeParts, ih, h]

@[simp] theorem State.releaseStore_wf {s : State} (h : s.mem.wf = true) {c : Nat} {sc : Option Scope} :
    (s.releaseStore c sc).mem.wf = true := by
  unfold State.releaseStore
  split <;> simp [h]

@[simp] theorem State.logUn_mem (s : State) (c : Nat) (st : Stream) (bytes : List (Nat × Byte)) :
    (s.logUn c st bytes).mem = s.mem := (rfl)

@[simp] theorem State.writeBytes_wf {s : State} (h : s.mem.wf = true) {c : Nat} {st : Stream}
    {parts : List (Nat × Byte × OrderKind)} :
    (s.writeBytes c st parts).mem.wf = true := by simp [State.writeBytes, h]

@[simp] theorem State.storePiece_wf {s : State} (h : s.mem.wf = true) {c : Nat} {x : PStore} {q : Nat × Nat} :
    (s.storePiece c x q).mem.wf = true := by
  have hw {k r q} : ((((s.setCore c k).releaseStore c r).writeBytes c x.st q).releaseStore c r).mem.wf = true := by
    refine State.releaseStore_wf (State.writeBytes_wf (State.releaseStore_wf ?_))
    exact h
  unfold State.storePiece
  dsimp only
  split
  · split
    · split <;> simpa using hw
    · split <;> simpa using hw
  · split <;> simpa using hw

@[simp] theorem State.performStore_wf {s : State} (h : s.mem.wf = true) {c : Nat} {x : PStore} :
    (s.performStore c x).mem.wf = true := by
  refine foldl_wf (fun s _ h => ?_) h
  split
  · exact h
  · split
    · exact h
    · exact State.storePiece_wf h

@[simp] theorem State.seeUn_mem (s : State) (c : Nat) (st : Stream) (u : UnStore) (pa : Nat) :
    (s.seeUn c st u pa).mem = s.mem := by
  unfold State.seeUn
  split <;> simp

@[simp] theorem State.renewUn_wf {s : State} (h : s.mem.wf = true) {c pa n : Nat} :
    (s.renewUn c pa n).mem.wf = true := by
  unfold State.renewUn
  split <;> simp [h]

@[simp] theorem State.unView_wf {s : State} (h : s.mem.wf = true) {c : Nat} {st : Stream} {pas : List Nat} :
    (s.unView c st pas).1.mem.wf = true := by
  unfold State.unView
  split
  · exact h
  · split
    · exact h
    · dsimp only
      split
      · exact h
      · exact foldl_wf (fun _ _ h => by simp [h]) h

@[simp] theorem State.readUn_wf {s : State} (h : s.mem.wf = true) {m : Option Meter} {c : Nat} {st : Stream}
    {pa : Nat} :
    (s.readUn m c st pa).1.mem.wf = true := by
  unfold State.readUn
  dsimp only
  split <;> simp [h]

@[simp] theorem State.readWith_wf {s : State} (h : s.mem.wf = true) {m : Option Meter} {c : Nat} {st : Stream}
    {pa : Nat} {kind : OrderKind} {view : List (Nat × Byte)} :
    (s.readWith m c st pa kind view).1.mem.wf = true := by
  unfold State.readWith
  repeat' split
  all_goals simp [h]

@[simp] theorem State.readFor_wf {s : State} (h : s.mem.wf = true) {m : Option Meter} {c : Nat} {st : Stream}
    {pa : Nat} {kind : OrderKind} :
    (s.readFor m c st pa kind).1.mem.wf = true := by simp [State.readFor, h]

@[simp] theorem State.readThrough_wf {s : State} (h : s.mem.wf = true) {c : Nat} {st : Stream} {seq : Nat}
    {view : List (Nat × Byte)} {l : List (Nat × Nat × OrderKind)} :
    (s.readThrough c st seq view l).1.mem.wf = true := by
  induction l generalizing s with
  | nil => exact h
  | cons e l ih =>
    unfold State.readThrough
    dsimp only
    repeat' split
    all_goals simp [ih, h]

@[simp] theorem State.readParts_wf {s : State} (h : s.mem.wf = true) {c : Nat} {st : Stream} {seq : Nat}
    {parts : List (Nat × Nat × OrderKind)} :
    (s.readParts c st seq parts).1.mem.wf = true := by simp [State.readParts, h]

@[simp] theorem State.loadError_mem (s : State) (c : Nat) (l : PLoad) (o : Origin) :
    (s.loadError c l o).mem = s.mem := by
  unfold State.loadError
  split <;> simp

@[simp] theorem State.acquireFor_mem (s : State) (c : Nat) (l : PLoad) : (s.acquireFor c l).mem = s.mem := by
  unfold State.acquireFor
  split <;> simp

@[simp] theorem State.logAmo_wf {s : State} (h : s.mem.wf = true) {c : Nat} {l : PLoad} {w : AmoWork} :
    (s.logAmo c l w).mem.wf = true := by
  have hf {pa} : (l.pas.foldl (fun s a => ((s.unShown c a).map (fun u => s.seeUn c l.st u a)).getD s)
      (s.leaveRdcs pa)).mem.wf = true := by
    refine foldl_wf (fun s a h => ?_) (State.leaveRdcs_wf h)
    cases s.unShown c a with
    | none => exact h
    | some u => simpa using h
  unfold State.logAmo
  dsimp only
  split
  · simp [hf]
  · exact hf

@[simp] theorem State.performAmo_wf {s : State} (h : s.mem.wf = true) {c : Nat} {l : PLoad} {w : AmoWork} :
    (s.performAmo c l w).mem.wf = true := by
  have hr {o : Option Scope} : (match o with | some sc => s.releaseRdc c sc | none => s).mem.wf = true := by
    split
    · exact State.releaseRdc_wf h
    · exact h
  unfold State.performAmo
  dsimp only
  rw [State.modCore_mem, State.acquireFor_mem]
  refine State.atomic_wf ?_
  split
  · exact State.logAmo_wf hr
  · exact hr

@[simp] theorem State.finishLoad_mem (s : State) (c : Nat) (l : PLoad) : (s.finishLoad c l).mem = s.mem := by
  unfold State.finishLoad
  split <;> simp

@[simp] theorem State.putLoad_memory (s : State) (c : Nat) (l : PLoad) : (s.putLoad c l).mem = s.mem := by
  unfold State.putLoad
  split <;> simp

@[simp] theorem State.loadPiece_wf {s : State} (h : s.mem.wf = true) {c : Nat} {l : PLoad} {q : Nat × Nat} :
    (s.loadPiece c l q).mem.wf = true := by
  unfold State.loadPiece
  dsimp only
  split
  · simpa using h
  · split
    · refine State.performAmo_wf ?_
      simpa using h
    · simp [h]

@[simp] theorem State.performLoad_wf {s : State} (h : s.mem.wf = true) {c : Nat} {l : PLoad} :
    (s.performLoad c l).mem.wf = true := by
  unfold State.performLoad
  split
  · simp [h]
  · refine foldl_wf (fun s _ h => ?_) h
    split
    · exact h
    · split
      · exact h
      · exact State.loadPiece_wf h

@[simp] theorem State.issueLoad_mem (s : State) (c : Nat) (l : PLoad) : (s.issueLoad c l).mem = s.mem := (rfl)

@[simp] theorem State.issueStore_mem (s : State) (c : Nat) (st : Stream) (parts : List (Nat × Byte × OrderKind))
    (rel : Option Scope) (origin : List Origin) (bundle : Nat) :
    (s.issueStore c st parts rel origin bundle).mem = s.mem := (rfl)

@[simp] theorem State.bump_mem (s : State) (c : Nat) : (s.bump c).mem = s.mem := (rfl)

@[simp] theorem State.widen_wf {s : State} (h : s.mem.wf = true) {c n : Nat} : (s.widen c n).mem.wf = true := by
  simp [State.widen, h]

@[simp] theorem State.performWhere_wf {s : State} (h : s.mem.wf = true) {c : Nat} {sel : Stream → Nat → Bool}
    {l : Nat} :
    (s.performWhere c sel l).mem.wf = true := by
  induction l generalizing s with
  | zero => exact h
  | succ l ih =>
    unfold State.performWhere
    split <;> simp [ih, h]

@[simp] theorem State.performAll_wf {s : State} (h : s.mem.wf = true) {c : Nat} : (s.performAll c).mem.wf = true := by
  simp [State.performAll, h]

@[simp] theorem State.performBefore_wf {s : State} (h : s.mem.wf = true) {c : Nat} {st : Stream} {seq : Nat} :
    (s.performBefore c st seq).mem.wf = true := by simp [State.performBefore, h]

@[simp] theorem State.performForDc_wf {s : State} (h : s.mem.wf = true) {c : Nat} :
    (s.performForDc c).mem.wf = true := by simp [State.performForDc, h]

@[simp] theorem State.commitOwn_wf {s : State} (h : s.mem.wf = true) {c : Nat} : (s.commitOwn c).mem.wf = true := by
  simp [State.commitOwn, h]

@[simp] theorem State.logRelease_wf {s : State} (h : s.mem.wf = true) {c : Nat} {st : Stream} :
    (s.logRelease c st).mem.wf = true := by simp [State.logRelease, h]

@[simp] theorem State.logScope_wf {s : State} (h : s.mem.wf = true) {c : Nat} {st : Stream} {sc : Scope} :
    (s.logScope c st sc).mem.wf = true := by simp [State.logScope, h]

@[simp] theorem State.release_wf {s : State} (h : s.mem.wf = true) {c : Nat} {st : Stream} {sc : Scope} :
    (s.release c st sc).mem.wf = true := by
  unfold State.release
  rw [State.bump_mem]
  exact State.logScope_wf (State.releaseRdc_wf (State.commitOwn_wf h))

/-! #### Operands and results -/

@[simp] theorem Ctx.result_mem (x : Ctx) (s : State) (lat : Nat) (es : List Effect) :
    (x.result s lat es).mem = s.mem := (rfl)

@[simp] theorem Ctx.locked_mem (x : Ctx) (s : State) (lat : Nat) (es : List Effect) :
    (x.locked s lat es).mem = s.mem := (rfl)

@[simp] theorem Ctx.lockedNext_mem (x : Ctx) (s : State) (es : List Effect) : (x.lockedNext s es).mem = s.mem :=
  (rfl)

@[simp] theorem Ctx.pushEntry_mem (x : Ctx) (s : State) (lat q : Nat) (v : Entry) (es : List Effect) :
    (x.pushEntry s lat q v es).mem = s.mem := (rfl)

@[simp] theorem Ctx.pushLoaded_mem (x : Ctx) (s : State) (lat q : Nat) (v : Entry) :
    (x.pushLoaded s lat q v).mem = s.mem := (rfl)

/-! #### The sequencer -/

@[simp] theorem State.spillWrite_wf {s : State} (h : s.mem.wf = true) {c : Nat} {st : Stream} {slot : Nat}
    {v : Word} :
    (s.spillWrite c st slot v).mem.wf = true := by simp [State.spillWrite, h]

@[simp] theorem Ctx.sideOp_wf {s : State} (h : s.mem.wf = true) {x : Ctx} : (x.sideOp s).mem.wf = true := by
  unfold Ctx.sideOp
  split <;> simp [h]

@[simp] theorem State.pushTokens_wf {s : State} (h : s.mem.wf = true) {c : Nat} {a b : Stream} {n : Nat} :
    (s.pushTokens c a b n).mem.wf = true := by simp [State.pushTokens, h]

@[simp] theorem State.pushBundle_wf {s : State} (h : s.mem.wf = true) {c : Nat} {st : Stream} {b : Bundle} :
    (s.pushBundle c st b).mem.wf = true := by
  unfold State.pushBundle
  split <;> simp [h]

@[simp] theorem Ctx.sequence_mem (x : Ctx) (s : State) (flow : Flow) : (x.sequence s flow).mem = s.mem := by
  unfold Ctx.sequence
  dsimp only
  repeat' split
  all_goals simp

@[simp] theorem Ctx.finish_wf {s : State} (h : s.mem.wf = true) {x : Ctx} {flow : Flow} {ran : Bool} :
    (x.finish s flow ran).mem.wf = true := by simp [Ctx.finish, h]

/-! #### Copies, queues and mail -/

@[simp] theorem State.dropPage_wf {s : State} (h : s.mem.wf = true) {page : Nat} :
    (s.dropPage page).mem.wf = true := by
  unfold State.dropPage
  exact foldl_wf (fun _ _ h => State.dropLines_wf h) h

@[simp] theorem State.forgetUn_mem (s : State) (page : Nat) : (s.forgetUn page).mem = s.mem := by
  simp [State.forgetUn]

@[simp] theorem State.dropLeaf_mem (s : State) (leaf : Nat) : (s.dropLeaf leaf).mem = s.mem := (rfl)

@[simp] theorem State.endPageIn_wf {s : State} (h : s.mem.wf = true) {leaf : Nat} {ok : Bool} :
    (s.endPageIn leaf ok).mem.wf = true := by
  unfold State.endPageIn
  dsimp only
  split
  · refine State.markEntry_wf (Memory.setAll_wf _ _ (Memory.clear_wf _ _ _ ?_))
    rw [State.forgetUn_mem]
    refine State.dropPage_wf ?_
    simpa using h
  · refine State.markEntry_wf ?_
    simpa using h

@[simp] theorem State.startPageOut_wf {s : State} (h : s.mem.wf = true) {leaf : Nat} :
    (s.startPageOut leaf).mem.wf = true := by simp [State.startPageOut, h]

@[simp] theorem State.endPageOut_wf {s : State} (h : s.mem.wf = true) {leaf : Nat} :
    (s.endPageOut leaf).mem.wf = true := by simp [State.endPageOut, h]

@[simp] theorem State.tryPageOut_wf {s : State} (h : s.mem.wf = true) {leaf : Nat} :
    (s.tryPageOut leaf).mem.wf = true := by simp [State.tryPageOut, h]

@[simp] theorem State.completeHeld_wf {s : State} (h : s.mem.wf = true) {c : Nat} {o : Op} {w : HeldBundle}
    {v : Word} :
    (s.completeHeld c o w v).mem.wf = true := by simp [State.completeHeld, h]

@[simp] theorem State.completeSemw_wf {s : State} (h : s.mem.wf = true) {c old : Nat} :
    (s.completeSemw c old).mem.wf = true := by
  unfold State.completeSemw
  split <;> simp [h]

@[simp] theorem State.serve_wf {s : State} (h : s.mem.wf = true) {c n l : Nat} : (s.serve c n l).mem.wf = true := by
  induction l generalizing s with
  | zero => exact h
  | succ l ih =>
    unfold State.serve
    dsimp only
    repeat' split
    all_goals simp [ih, h]

@[simp] theorem State.semAdd_wf {s : State} (h : s.mem.wf = true) {c n v : Nat} : (s.semAdd c n v).mem.wf = true := by
  simp [State.semAdd, h]

@[simp] theorem State.enterMail_mem (s : State) (c n : Nat) (v : Word) : (s.enterMail c n v).mem = s.mem := (rfl)

@[simp] theorem State.arrive_wf {s : State} (h : s.mem.wf = true) {c : Nat} {m : Mail} :
    (s.arrive c m).mem.wf = true := by simp [State.arrive, h]

@[simp] theorem State.withdrawMail_mem (s : State) (c : Nat) : (s.withdrawMail c).mem = s.mem := by
  simp [State.withdrawMail]

@[simp] theorem State.setConvoy_mem (s : State) (v : Convoy) : (s.setConvoy v).mem = s.mem := (rfl)

@[simp] theorem State.commitConvoy_wf {s : State} (h : s.mem.wf = true) {v : Convoy} :
    (s.commitConvoy v).mem.wf = true := by
  unfold State.commitConvoy
  dsimp only
  rw [State.invalidate_mem, foldl_mem (fun _ _ => State.commitErrors_mem _ _ _ _)]
  refine State.commitAll_wf ?_
  rw [foldl_mem (fun _ _ => State.modCore_mem _ _ _)]
  exact h

@[simp] theorem State.passMember_wf {s : State} (h : s.mem.wf = true) {v : Convoy} {g c : Nat} :
    (s.passMember v g c).mem.wf = true := by
  unfold State.passMember
  split <;> simp [h]

@[simp] theorem State.passBarrier_wf {s : State} (h : s.mem.wf = true) {id n : Nat} :
    (s.passBarrier id n).mem.wf = true := by
  unfold State.passBarrier
  split
  · exact h
  · refine foldl_wf (fun _ _ h => State.passMember_wf h) ?_
    rw [State.setConvoy_mem]
    exact State.commitConvoy_wf h

@[simp] theorem State.reaimCopies_mem (s : State) (c : Nat) : (s.reaimCopies c).mem = s.mem := (rfl)

@[simp] theorem State.noteLost_mem (s : State) (c : Nat) : (s.noteLost c).mem = s.mem := (rfl)

@[simp] theorem State.savedHoldWrite_wf {s : State} (h : s.mem.wf = true) {r : SavedContext} {off : Nat} {b : Byte} :
    (s.savedHoldWrite r off b).mem.wf = true := by
  unfold State.savedHoldWrite
  dsimp only
  split
  · exact h
  · refine Memory.set_wf _ _ _ ?_
    split
    · exact h
    · exact Memory.write_wf _ _ _ _ (Memory.clear_wf _ _ _ h)

@[simp] theorem State.aimWrite_wf {s : State} (h : s.mem.wf = true) {a : Aim} {off : Nat} {b : Byte} :
    (s.aimWrite a off b).mem.wf = true := by
  unfold State.aimWrite
  repeat' split
  all_goals simp [h]

@[simp] theorem State.noteCopyLine_mem (s : State) (c id line : Nat) : (s.noteCopyLine c id line).mem = s.mem :=
  (rfl)

@[simp] theorem State.engineRead_wf {s : State} (h : s.mem.wf = true) {c : Nat} {cp : Copy} {a : Nat} :
    (s.engineRead c cp a).1.mem.wf = true := by
  unfold State.engineRead
  split
  · dsimp only
    repeat' split
    all_goals exact h
  · split
    · next e => exact (State.translate_wf h).wait e
    · exact h
    · next e =>
      have hm := (State.translate_wf h).ok e
      split
      · exact hm
      · simp [hm]

@[simp] theorem State.sourceByte_wf {s : State} (h : s.mem.wf = true) {c : Nat} {cp : Copy} {e : Nat × Nat} :
    (s.sourceByte c cp e).1.mem.wf = true := by
  unfold State.sourceByte
  repeat' split
  all_goals simp [h]

@[simp] theorem State.engineReads_wf {s : State} (h : s.mem.wf = true) {c : Nat} {cp : Copy} {l : List (Nat × Nat)} :
    (s.engineReads c cp l).1.mem.wf = true := by
  induction l generalizing s with
  | nil => exact h
  | cons e l ih => simp [State.engineReads, ih, h]

@[simp] theorem State.engineDestMem_wf {s : State} (h : s.mem.wf = true) {c : Nat} {cp : Copy} {a : Nat} :
    (s.engineDestMem c cp a).1.mem.wf = true := by
  unfold State.engineDestMem
  dsimp only
  split
  · exact h
  · split
    · next e => exact (State.translateAs_wf h).wait e
    · exact h
    · next e => exact (State.translateAs_wf h).ok e

@[simp] theorem State.engineDests_wf {s : State} (h : s.mem.wf = true) {c : Nat} {cp : Copy} {l : List Nat} :
    (s.engineDests c cp l).1.mem.wf = true := by
  induction l generalizing s with
  | nil => exact h
  | cons e l ih =>
    unfold State.engineDests
    dsimp only
    repeat' split
    all_goals simp [ih, h]

@[simp] theorem State.engineRelease_wf {s : State} (h : s.mem.wf = true) {c : Nat} {kind : OrderKind} :
    (s.engineRelease c kind).mem.wf = true := by simp [State.engineRelease, h]

@[simp] theorem State.engineWrite_wf {s : State} (h : s.mem.wf = true) {c : Nat} {cp : Copy} {d : DestByte}
    {b : Byte} :
    (s.engineWrite c cp d b).mem.wf = true := by
  unfold State.engineWrite
  split
  · simp [h]
  · simp [h]
  · exact h
  · exact State.engineRelease_wf (State.writeBytes_wf (State.engineRelease_wf h))
  · exact h

@[simp] theorem State.tryWrite_wf {s : State} (h : s.mem.wf = true) {c : Nat} {cp : Copy} {failing : Bool}
    {d : DestByte} {b : Byte} :
    (s.tryWrite c cp failing d b).mem.wf = true := by simp [State.tryWrite, h]

@[simp] theorem State.engineWrites_wf {s : State} (h : s.mem.wf = true) {c : Nat} {cp : Copy} {failing : Bool}
    {l : List (SourceByte × List DestByte)} :
    (s.engineWrites c cp failing l).mem.wf = true := by
  induction l generalizing s with
  | nil => exact h
  | cons e l ih =>
    obtain ⟨b | _ | _, ds⟩ := e
    · exact ih (foldl_wf (fun _ _ h => State.tryWrite_wf h) h)
    · exact ih h
    · exact ih h

@[simp] theorem State.logWrites_mem (s : State) (c : Nat) (ds : List DestByte) : (s.logWrites c ds).mem = s.mem := by
  simp [State.logWrites]

@[simp] theorem State.writeToken_mem (s : State) (c : Nat) (st : Stream) (n : Nat) (v : Word) (sc : Scope) :
    (s.writeToken c st n v sc).mem = s.mem := by simp [State.writeToken]

@[simp] theorem State.writeStatus_mem (s : State) (c : Nat) (st : Stream) (n : Nat) (v : Word) (sc : Scope) :
    (s.writeStatus c st n v sc).mem = s.mem := by simp [State.writeStatus]

@[simp] theorem State.logFailure_mem (s : State) (c : Nat) (cause : Cause) (addr : Nat) :
    (s.logFailure c cause addr).mem = s.mem := (rfl)

@[simp] theorem State.countShadow_mem (s : State) (slots : List Nat) (up : Bool) :
    (s.countShadow slots up).mem = s.mem := by
  unfold State.countShadow
  exact foldl_mem (fun _ _ => by split <;> rfl) s slots

@[simp] theorem State.leaveFlight_wf {s : State} (h : s.mem.wf = true) {c : Nat} {cp : Copy} {state cause : Nat}
    {haddr : Bool} {addr : Nat} :
    (s.leaveFlight c cp state cause haddr addr).mem.wf = true := by
  have hf {k v} : (((((s.commitOwn c).releaseRdc c cp.scope).modCore c k).countShadow cp.shadow false).dropPageWaits c
      cp.who |>.writeStatus c cp.st cp.token v cp.scope).mem.wf = true := by
    simp [h]
  unfold State.leaveFlight
  dsimp only
  split
  · exact State.semAdd_wf hf
  · exact hf

@[simp] theorem State.failCopy_wf {s : State} (h : s.mem.wf = true) {c : Nat} {cp : Copy} {f : EngineFail} :
    (s.failCopy c cp f).mem.wf = true := by simp [State.failCopy, h]

@[simp] theorem State.cancelCopy_wf {s : State} (h : s.mem.wf = true) {c : Nat} {cp : Copy} :
    (s.cancelCopy c cp).mem.wf = true := by
  have hl {k a b d e} : (((s.performBefore c cp.st cp.seq).modCore c k).leaveFlight c cp a b d e).mem.wf = true := by
    refine State.leaveFlight_wf ?_
    simpa using State.performBefore_wf h
  unfold State.cancelCopy
  dsimp only
  split
  · exact State.serve_wf hl
  · exact hl

@[simp] theorem State.orderCopy_wf {s : State} (h : s.mem.wf = true) {c : Nat} {cp : Copy} :
    (s.orderCopy c cp).mem.wf = true := by simp [State.orderCopy, h]

@[simp] theorem State.beginDrain_mem (s : State) (c : Nat) (cp : Copy) : (s.beginDrain c cp).mem = s.mem := (rfl)

@[simp] theorem State.startCopy_wf {s : State} (h : s.mem.wf = true) {c : Nat} {cp : Copy} :
    (s.startCopy c cp).mem.wf = true := by simp [State.startCopy, h]

@[simp] theorem State.setCopy_mem (s : State) (c : Nat) (cp : Copy) : (s.setCopy c cp).mem = s.mem := (rfl)

@[simp] theorem State.pushCopied_mem (s : State) (c q : Nat) (bs : List SourceByte) :
    (s.pushCopied c q bs).mem = s.mem := (rfl)

@[simp] theorem State.deliverEntry_wf {s : State} (h : s.mem.wf = true) {c : Nat} {cp : Copy} {q : Nat} :
    (s.deliverEntry c cp q).mem.wf = true := by
  unfold State.deliverEntry
  dsimp only
  repeat' split
  all_goals simp [h]

@[simp] theorem State.endQueueCopy_wf {s : State} (h : s.mem.wf = true) {c : Nat} {cp : Copy} :
    (s.endQueueCopy c cp).mem.wf = true := by
  unfold State.endQueueCopy
  repeat' split
  all_goals simp [h]

@[simp] theorem State.lostWrites_wf {s : State} (h : s.mem.wf = true) {aims : List Aim} {first off : Nat}
    {l : List (Nat × SourceByte)} :
    (s.lostWrites aims first off l).mem.wf = true := by
  induction l generalizing s with
  | nil => exact h
  | cons e l ih =>
    obtain ⟨i, b | _ | _⟩ := e
    · refine ih ?_
      split
      · exact foldl_wf (fun _ _ h => State.aimWrite_wf h) h
      · exact h
    · exact ih h
    · exact ih h

@[simp] theorem State.endLost_wf {s : State} (h : s.mem.wf = true) {cp : Copy} {bs : List SourceByte} :
    (s.endLost cp bs).1.mem.wf = true := by
  unfold State.endLost
  dsimp only
  split <;> simp [h]

@[simp] theorem State.endFails_mem (s : State) (c : Nat) (cp : Copy) (late : List EngineFail) :
    (s.endFails c cp late).1.mem = s.mem := by
  unfold State.endFails
  split <;> simp

@[simp] theorem State.endPlainCopy_wf {s : State} (h : s.mem.wf = true) {c : Nat} {cp : Copy} :
    (s.endPlainCopy c cp).mem.wf = true := by
  have hs {cp₁ n} : (((s.orderCopy c cp₁).engineReads c cp₁ cp₁.places).1.engineDests c cp₁ n).1.mem.wf = true :=
    State.engineDests_wf (State.engineReads_wf (State.orderCopy_wf h))
  have he {cp₁ bs fs b bds n} : ((State.endLost (((s.orderCopy c cp₁).engineReads c cp₁ cp₁.places).1.engineDests
      c cp₁ n |>.1.endFails c cp₁ fs).1 cp₁ bs).1.engineWrites c cp₁ b bds).mem.wf = true := by
    refine State.engineWrites_wf (State.endLost_wf ?_)
    rw [State.endFails_mem]
    exact hs
  unfold State.endPlainCopy
  dsimp only
  split
  · rw [State.setCopy_mem]
    exact hs
  · split
    · refine State.failCopy_wf ?_
      rw [State.mem_ite, State.modCore_mem, ite_self, State.logWrites_mem]
      exact he
    · refine State.leaveFlight_wf ?_
      rw [State.mem_ite, State.modCore_mem, ite_self, State.logWrites_mem]
      exact he

@[simp] theorem State.endCopy_wf {s : State} (h : s.mem.wf = true) {c : Nat} {cp : Copy} :
    (s.endCopy c cp).mem.wf = true := by
  unfold State.endCopy
  repeat' split
  all_goals simp [h]

@[simp] theorem State.copyEntry_mem (s : State) (c : Nat) (cp : Copy) : (s.copyEntry c cp).mem = s.mem := by
  unfold State.copyEntry
  repeat' split
  all_goals simp

@[simp] theorem State.copyByte_wf {s : State} (h : s.mem.wf = true) {c id : Nat} {own : Bool} {e : Nat × Nat} :
    (s.copyByte c id own e).mem.wf = true := by
  unfold State.copyByte
  split
  · exact h
  · next cp _ =>
    split
    · exact h
    · split
      · exact h
      · split
        · exact h
        · have hr := State.engineRead_wf (State.orderCopy_wf h (c := c) (cp := cp)) (c := c) (cp := cp) (a := e.2)
          split <;> simp_all

@[simp] theorem State.copyRun_wf {s : State} (h : s.mem.wf = true) {c id first n : Nat} {own : Bool} :
    (s.copyRun c id first n own).mem.wf = true := by
  unfold State.copyRun
  split
  · exact h
  · exact foldl_wf (fun _ _ h => State.copyByte_wf h) h

/-! #### The chart unit -/

@[simp] theorem State.setChart_mem (s : State) (c n : Nat) (t : ChartSlot) : (s.setChart c n t).mem = s.mem := (rfl)

@[simp] theorem State.closeChart_mem (s : State) (v : Word) : (s.closeChart v).mem = s.mem := (rfl)

@[simp] theorem Ctx.holdError_mem (x : Ctx) (s : State) (off lane : Nat) (quay : Bool) :
    (x.holdError s off lane quay).mem = s.mem := (rfl)

@[simp] theorem Ctx.holdPut_wf {s : State} (h : s.mem.wf = true) {x : Ctx} {l : List (Nat × Byte)} :
    (x.holdPut s l).mem.wf = true := by
  unfold Ctx.holdPut
  exact foldl_wf (fun _ _ h => State.holdStore_wf h) h

@[simp] theorem State.chartToken_mem (s : State) (m : ChartMove) (v : Word) : (s.chartToken m v).mem = s.mem := by
  simp [State.chartToken]

@[simp] theorem State.closeTransfer_wf {s : State} (h : s.mem.wf = true) {die : Nat} {m : ChartMove}
    {slot : ChartSlot} {fail : Option EngineFail} {addr : Nat} :
    (s.closeTransfer die m slot fail addr).mem.wf = true := by
  unfold State.closeTransfer
  split <;> simp [h]

@[simp] theorem State.endTransfer_wf {s : State} (h : s.mem.wf = true) {die : Nat} {m : ChartMove} :
    (s.endTransfer die m).mem.wf = true := by
  have hr {n} : (s.releaseRdc n .dev).mem.wf = true := State.releaseRdc_wf h
  have hd {n cp l} : ((s.releaseRdc n .dev).engineReads n cp l).1.mem.wf = true := State.engineReads_wf hr
  unfold State.endTransfer
  dsimp only
  split
  · exact h
  · split
    · split
      · refine State.engineDests_wf ?_
        simpa using hr
      · refine State.closeTransfer_wf ?_
        rw [State.logWrites_mem]
        refine State.engineWrites_wf (State.engineDests_wf ?_)
        simpa using hr
    · split
      · exact hd
      · split
        · exact State.closeTransfer_wf hd
        · split
          · exact State.closeTransfer_wf hd
          · split
            · exact State.engineReads_wf hd
            · split <;> exact State.closeTransfer_wf (State.engineReads_wf hd)

@[simp] theorem State.chartRun_wf {s : State} (h : s.mem.wf = true) {die n first len : Nat} :
    (s.chartRun die n first len).mem.wf = true := by
  unfold State.chartRun
  dsimp only
  split <;> simp [h]

@[simp] theorem Ctx.chartAnswer_mem (x : Ctx) (s : State) (v : Word) : (x.chartAnswer s v).mem = s.mem := (rfl)

@[simp] theorem Ctx.chartAppend_mem (x : Ctx) (s : State) : (x.chartAppend s).mem = s.mem := by
  unfold Ctx.chartAppend
  dsimp only
  split <;> simp

@[simp] theorem Ctx.chartClose_mem (x : Ctx) (s : State) : (x.chartClose s).mem = s.mem := (rfl)

@[simp] theorem Ctx.chartPropose_wf {s : State} (h : s.mem.wf = true) {block : Ctx → ChartSlot → List Byte × Nat}
    {x : Ctx} :
    (Ctx.chartPropose block x s).mem.wf = true := by simp [Ctx.chartPropose, h]

@[simp] theorem Ctx.chartEffect_wf {s : State} (h : s.mem.wf = true) {x : Ctx} : (x.chartEffect s).mem.wf = true := by
  unfold Ctx.chartEffect
  split <;> simp [h]

@[simp] theorem State.leaveCharts_mem (s : State) (c : Nat) : (s.leaveCharts c).mem = s.mem := by
  simp [State.leaveCharts]

@[simp] theorem Ctx.joinChart_mem (x : Ctx) (s : State) (n : Nat) (t : ChartSlot) :
    (x.joinChart s n t).mem = s.mem := (rfl)

@[simp] theorem State.completeChart_wf {s : State} (h : s.mem.wf = true) {c : Nat} :
    (s.completeChart c).mem.wf = true := by
  unfold State.completeChart
  split <;> simp [h]

@[simp] theorem State.endPages_wf {s : State} (h : s.mem.wf = true) : (s.endPages).mem.wf = true := by
  unfold State.endPages
  refine foldl_wf (fun s j h => ?_) h
  split
  · refine State.endPageIn_wf ?_
    simpa using h
  · exact State.tryPageOut_wf h

@[simp] theorem State.forceHead_wf {s : State} (h : s.mem.wf = true) {d n : Nat} :
    (s.forceHead d n).mem.wf = true := by
  unfold State.forceHead
  split
  · exact h
  · split
    · exact State.completeChart_wf h
    · exact State.endPages_wf (State.endWalks_wf (State.endTransfer_wf (State.performBefore_wf h)))

@[simp] theorem State.forceLine_wf {s : State} (h : s.mem.wf = true) {d n : Nat} {sel : ChartMove → Bool} {l : Nat} :
    (s.forceLine d n sel l).mem.wf = true := by
  induction l generalizing s with
  | zero => exact h
  | succ l ih => simp [State.forceLine, ih, h]

@[simp] theorem State.forceCharts_wf {s : State} (h : s.mem.wf = true) {d : Nat} {sel : ChartMove → Bool} :
    (s.forceCharts d sel).mem.wf = true := by
  unfold State.forceCharts
  refine foldl_wf (fun s e h => ?_) h
  split
  · exact State.forceLine_wf h
  · exact h

@[simp] theorem Ctx.chartOpen_mem (x : Ctx) (s : State) : (x.chartOpen s).mem = s.mem := by
  unfold Ctx.chartOpen
  dsimp only
  split <;> simp

@[simp] theorem State.completeIssued_wf {s : State} (h : s.mem.wf = true) {c : Nat} :
    (s.completeIssued c).mem.wf = true := by
  have hp {n} : (s.performBefore c .P n).mem.wf = true := State.performBefore_wf h
  unfold State.completeIssued
  split
  · exact h
  · split
    · exact h
    · dsimp only
      have hf {t : State} (ht : t.mem.wf = true) : (match t.chartAwaits c with
          | some n => t.forceLine (dieOf c) n (fun _ => true) (lineFuel ((t.die (dieOf c)).chart n))
          | none => t).mem.wf = true := by
        split
        · exact State.forceLine_wf ht
        · exact ht
      refine State.ite_wf (hf hp) (State.ite_wf (Ctx.finish_wf ?_) (State.ite_wf (hf hp) (Ctx.finish_wf
        (Ctx.chartEffect_wf (hf hp)))))
      rw [Ctx.chartOpen_mem]
      exact hf hp

/-! #### Traps, saves and the issue of an operation -/

@[simp] theorem State.returnPop_mem (s : State) (c : Nat) (st : Stream) : (s.returnPop c st).mem = s.mem := by
  unfold State.returnPop
  dsimp only
  split <;> simp

@[simp] theorem State.stopStreams_wf {s : State} (h : s.mem.wf = true) {c : Nat} :
    (s.stopStreams c).mem.wf = true := by simp [State.stopStreams, h]

@[simp] theorem State.forceCopy_wf {s : State} (h : s.mem.wf = true) {c id l : Nat} :
    (s.forceCopy c id l).mem.wf = true := by
  induction l generalizing s with
  | zero => exact h
  | succ n ih =>
    unfold State.forceCopy
    split
    · exact h
    · exact ih (State.endPages_wf (State.endWalks_wf (State.endCopy_wf h)))

@[simp] theorem State.forceEntry_wf {s : State} (h : s.mem.wf = true) {c id q done l : Nat} :
    (s.forceEntry c id q done l).mem.wf = true := by
  induction l generalizing s with
  | zero => exact h
  | succ n ih =>
    unfold State.forceEntry
    split
    · exact h
    · split
      · exact ih (State.endPages_wf (State.endWalks_wf (State.deliverEntry_wf h)))
      · exact State.endCopy_wf h

@[simp] theorem State.settleCopy_wf {s : State} (h : s.mem.wf = true) {c : Nat} {cp : Copy} :
    (s.settleCopy c cp).mem.wf = true := by
  unfold State.settleCopy
  repeat' split
  all_goals simp [h]

@[simp] theorem State.settle_wf {s : State} (h : s.mem.wf = true) {c : Nat} : (s.settle c).mem.wf = true := by
  unfold State.settle
  refine State.forceCharts_wf ?_
  rw [State.noteLost_mem]
  exact foldl_wf (fun _ _ h => State.settleCopy_wf h) (State.landAll_wf (State.performAll_wf h))

@[simp] theorem State.revokeLease_mem (s : State) (c : Nat) : (s.revokeLease c).mem = s.mem := by
  unfold State.revokeLease
  split <;> simp

@[simp] theorem State.forgetWaits_mem (s : State) (c : Nat) : (s.forgetWaits c).mem = s.mem := (rfl)

@[simp] theorem State.freeKept_mem (s : State) (id : Option Nat) : (s.freeKept id).mem = s.mem := by
  unfold State.freeKept
  split <;> simp

@[simp] theorem State.saveContext_wf {s : State} (h : s.mem.wf = true) {c area : Nat} {frameValid forCause : Bool}
    {frame : Frame} :
    (s.saveContext c area frameValid forCause frame).mem.wf = true := by
  unfold State.saveContext
  split
  · exact h
  · have hw : ((s.widen c (s.core c).log.length).forgetWaits c).mem.wf = true := by simp [h]
    dsimp only
    rw [State.freeKept_mem]
    refine State.releaseRdc_wf (saveArea_wf _ _ _ _ ?_)
    split
    · exact State.writeBack_wf hw
    · exact hw

@[simp] theorem State.strike_wf {s : State} (h : s.mem.wf = true) {c : Nat} : (s.strike c).mem.wf = true := by
  unfold State.strike
  exact State.settle_wf (State.landAll_wf (State.stopStreams_wf h))

@[simp] theorem State.preemptInto_wf {s : State} (h : s.mem.wf = true) {cs : List (Nat × Nat)} :
    (s.preemptInto cs).mem.wf = true := by
  unfold State.preemptInto
  exact foldl_wf (fun _ _ h => State.saveContext_wf h) (foldl_wf (fun _ _ h => State.strike_wf h) h)

@[simp] theorem State.markSaved_mem (s : State) (areas : List Nat) (id : Option Nat) :
    (s.markSaved areas id).mem = s.mem := by
  unfold State.markSaved
  split <;> simp

@[simp] theorem State.preemptUnit_wf {s : State} (h : s.mem.wf = true) {c : Nat} :
    (s.preemptUnit c).mem.wf = true := by simp [State.preemptUnit, h]

@[simp] theorem State.bootFirmware_wf {s : State} (h : s.mem.wf = true) {d : Nat} :
    (s.bootFirmware d).mem.wf = true := by simp [State.bootFirmware, h]

@[simp] theorem State.deliverToDuwen_wf {s : State} (h : s.mem.wf = true) {c : Nat} {st : Stream} {t : TrapInfo} :
    (s.deliverToDuwen c st t).mem.wf = true := by simp [State.deliverToDuwen, h]

@[simp] theorem State.raise_wf {s : State} (h : s.mem.wf = true) {c : Nat} {st : Stream} {t : TrapInfo} :
    (s.raise c st t).mem.wf = true := by
  have hl : (((s.stopStreams c).landAll c).dropPageWaits c st.num).mem.wf = true := by simp [h]
  unfold State.raise
  dsimp only
  split
  · exact State.bootFirmware_wf hl
  · split
    · rw [State.setCore_mem]
      exact hl
    · exact State.deliverToDuwen_wf hl

@[simp] theorem State.raiseOrWait_wf {s : State} (h : s.mem.wf = true) {c : Nat} {st : Stream} {t : TrapInfo}
    {n : Note} :
    (s.raiseOrWait c st t n).mem.wf = true := by simp [State.raiseOrWait, h]

@[simp] theorem State.eret_mem (s : State) (c : Nat) : (s.eret c).mem = s.mem := (rfl)

@[simp] theorem State.deliverUncorr_wf {s : State} (h : s.mem.wf = true) {c : Nat} {st : Stream} {a b d : Nat} :
    (s.deliverUncorr c st a b d).mem.wf = true := by simp [State.deliverUncorr, h]

@[simp] theorem State.deliverWarn_wf {s : State} (h : s.mem.wf = true) {c : Nat} :
    (s.deliverWarn c).mem.wf = true := by simp [State.deliverWarn, h]

@[simp] theorem State.holdWarn_mem (s : State) (c : Nat) : (s.holdWarn c).mem = s.mem := (rfl)

theorem Ctx.takePop_mem {x : Ctx} {s u : State} (h : x.takePop s = some u) : u.mem = s.mem := by
  unfold Ctx.takePop at h
  dsimp only at h
  split at h
  · cases h
    rfl
  · split at h
    · cases h
      rfl
    · split at h
      · cases h
        rfl
      · cases h

@[simp] theorem Ctx.tokenReads_mem (x : Ctx) (s : State) : (x.tokenReads s).mem = s.mem := by
  unfold Ctx.tokenReads
  dsimp only
  have hf {l : List Nat} {g : Nat → Option (Nat × Scope)} : (l.foldl (fun s n => match g n with
      | some e => s.acquireRdc x.c e.2
      | none => s) s).mem = s.mem := foldl_mem (fun s n => by split <;> simp) s l
  rw [State.mem_ite, State.modStream_mem, ite_self]
  exact hf

@[simp] theorem Ctx.waits_mem (x : Ctx) (s : State) (w : Wait) : (x.waits s w).mem = s.mem := (rfl)

@[simp] theorem Ctx.traps_wf {s : State} (h : s.mem.wf = true) {x : Ctx} {t : TrapInfo} :
    (x.traps s t).mem.wf = true := by simp [Ctx.traps, h]

@[simp] theorem Ctx.conclude_wf {x : Ctx} {r : Res} (h : r.state.mem.wf = true) : (x.conclude r).mem.wf = true := by
  cases r with
  | done s flow => exact Ctx.finish_wf h
  | final s => exact h
  | broke s => exact h
  | wait s w => exact (congrArg Memory.wf (Ctx.waits_mem x s w)).trans h
  | trap s t => exact Ctx.traps_wf h

@[simp] theorem Ctx.waitsOrMisses_wf {s : State} (h : s.mem.wf = true) {x : Ctx} {late : Bool} {w : Wait} :
    (x.waitsOrMisses s late w).mem.wf = true := by simp [Ctx.waitsOrMisses, h]

@[simp] theorem Ctx.issueEnabled_wf {x : Ctx} {s : State} {body : Ctx → State → Res}
    (hb : ∀ x u, u.mem.wf = true → (body x u).state.mem.wf = true) (h : s.mem.wf = true) :
    (x.issueEnabled s body).mem.wf = true := by
  unfold Ctx.issueEnabled
  refine State.ite_wf (Ctx.waitsOrMisses_wf h) (State.ite_wf (Ctx.waitsOrMisses_wf h) (State.ite_wf (Ctx.traps_wf h)
    (State.ite_wf (Ctx.traps_wf (State.ite_wf h ?_)) (Ctx.conclude_wf (hb _ _ ?_)))))
  · rw [State.modCore_mem]
    exact h
  · rw [Ctx.tokenReads_mem]
    exact h

@[simp] theorem Ctx.issueDisabled_wf {s : State} (h : s.mem.wf = true) {x : Ctx} :
    (x.issueDisabled s).mem.wf = true := by simp [Ctx.issueDisabled, h]

@[simp] theorem Ctx.issue_wf {x : Ctx} {s : State} {body : Ctx → State → Res}
    (hb : ∀ x u, u.mem.wf = true → (body x u).state.mem.wf = true) (h : s.mem.wf = true) :
    (x.issue s body).mem.wf = true := by
  unfold Ctx.issue
  split
  · exact Ctx.traps_wf h
  · split
    · exact Ctx.waitsOrMisses_wf h
    · next u e =>
      have hu : u.mem.wf = true := (congrArg Memory.wf (Ctx.takePop_mem e)).trans h
      refine State.ite_wf ?_ (State.ite_wf (Ctx.issueEnabled_wf hb hu) (Ctx.issueDisabled_wf hu))
      rw [Ctx.waits_mem]
      exact hu

@[simp] theorem queueBody_wf {s : State} (h : s.mem.wf = true) {lat : Nat}
    {g : Ctx → State → (Operand → Entry) → Entry × List Effect} {x : Ctx} :
    (queueBody lat g x s).state.mem.wf = true := by
  unfold queueBody
  repeat' split
  all_goals simp [h]

/-! #### Fetch -/

@[simp] theorem State.lineBytes_wf {s : State} (h : s.mem.wf = true) {c pa : Nat} {kind : OrderKind} :
    (s.lineBytes c pa kind).1.mem.wf = true := by
  unfold State.lineBytes
  split <;> simp [h]

@[simp] theorem State.fillCode_wf {s : State} (h : s.mem.wf = true) {c : Nat} {st : Stream} {va : Nat} {m : Mapped} :
    (s.fillCode c st va m).1.mem.wf = true := by simp [State.fillCode, h]

@[simp] theorem State.fetchWord_wf {s : State} (h : s.mem.wf = true) {c : Nat} {st : Stream} {va : Nat} :
    (s.fetchWord c st va).Wf := by
  unfold State.fetchWord
  split
  · trivial
  · next e => exact (State.translate_wf h).wait e
  · next e =>
    have ht := (State.translate_wf h).ok e
    split
    · exact ht
    · split
      · trivial
      · exact State.fillCode_wf ht

@[simp] theorem State.fetchAhead_wf {s : State} (h : s.mem.wf = true) {c : Nat} {st : Stream} {line : Nat} :
    (s.fetchAhead c st line).mem.wf = true := by
  unfold State.fetchAhead
  dsimp only
  repeat' split
  all_goals simp [h]

@[simp] theorem State.fetchRest_wf {s : State} (h : s.mem.wf = true) {c : Nat} {st : Stream} {pc : Nat}
    {fl bh : Bool} {l : Nat} {l1 : List W32} :
    (s.fetchRest c st pc fl bh l l1).Wf := by
  induction l generalizing s l1 with
  | zero => exact h
  | succ n ih =>
    unfold State.fetchRest
    split
    · exact h
    · dsimp only
      split
      · trivial
      · next e => exact (State.fetchWord_wf h).wait e
      · next e => exact ih ((State.fetchWord_wf h).ok e)

@[simp] theorem State.fetchBundle_wf {s : State} (h : s.mem.wf = true) {c : Nat} {st : Stream} :
    (s.fetchBundle c st).Wf := by
  unfold State.fetchBundle
  dsimp only
  split
  · trivial
  · next e => exact (State.fetchWord_wf h).wait e
  · next e => exact State.fetchRest_wf ((State.fetchWord_wf h).ok e)

/-! #### Control instructions -/

@[simp] theorem nopBody_wf {s : State} (h : s.mem.wf = true) {_x : Ctx} : (nopBody _x s).state.mem.wf = true := h

@[simp] theorem transferTo_wf {s : State} (h : s.mem.wf = true) {t : Nat} {leaves : Bool} :
    (transferTo s t leaves).state.mem.wf = true := by
  unfold transferTo
  split <;> simp [h]

@[simp] theorem brBody_wf {s : State} (h : s.mem.wf = true) {x : Ctx} : (brBody x s).state.mem.wf = true := by
  simp [brBody, h]

@[simp] theorem brzBody_wf {s : State} (h : s.mem.wf = true) {x : Ctx} : (brzBody x s).state.mem.wf = true := by
  unfold brzBody
  split <;> simp [h]

@[simp] theorem jmpBody_wf {s : State} (h : s.mem.wf = true) {x : Ctx} : (jmpBody x s).state.mem.wf = true := by
  simp [jmpBody, h]

theorem State.bundleEnd_wf {s : State} (h : s.mem.wf = true) {c : Nat} {st : Stream} {a : Nat} :
    (s.bundleEnd c st a).1.Wf := by
  unfold State.bundleEnd
  split
  · trivial
  · next e => exact (State.fetchWord_wf h).wait e
  · next e =>
    have hr {b₁ b₂ n ws} := State.fetchRest_wf ((State.fetchWord_wf h).ok e) (c := c) (st := st) (pc := a) (fl := b₁)
      (bh := b₂) (l := n) (l1 := ws)
    split
    · next e => exact hr.ok e
    · exact hr

@[simp] theorem Ctx.nativeLink_wf {s : State} (h : s.mem.wf = true) {x : Ctx} : (x.nativeLink s).Wf := by
  have hb {t : State} {a} (ht : t.mem.wf = true) := State.bundleEnd_wf ht (c := x.c) (st := x.st) (a := a)
  unfold Ctx.nativeLink
  split
  · next e => exact (hb h).wait (congrArg Prod.fst e)
  · trivial
  · next e =>
    have ht := (hb h).ok (congrArg Prod.fst e)
    split
    · next e => exact (hb ht).wait (congrArg Prod.fst e)
    · trivial
    · next e => exact (hb ht).ok (congrArg Prod.fst e)

@[simp] theorem Ctx.callTo_wf {s : State} (h : s.mem.wf = true) {x : Ctx} {t : Nat} :
    (x.callTo s t).state.mem.wf = true := by
  unfold Ctx.callTo
  refine Res.ite_wf h (Res.ite_wf h ?_)
  split
  · next e => simpa using (Ctx.nativeLink_wf h).known e
  · next e => exact (Ctx.nativeLink_wf h).wait e
  · exact h

@[simp] theorem jalBody_wf {s : State} (h : s.mem.wf = true) {x : Ctx} : (jalBody x s).state.mem.wf = true := by
  simp [jalBody, h]

@[simp] theorem jalrBody_wf {s : State} (h : s.mem.wf = true) {x : Ctx} : (jalrBody x s).state.mem.wf = true := by
  simp [jalrBody, h]

@[simp] theorem loopBody_wf {s : State} (h : s.mem.wf = true) {x : Ctx} : (loopBody x s).state.mem.wf = true := by
  unfold loopBody
  dsimp only
  repeat' split
  all_goals simp [h]

@[simp] theorem Ctx.startStream_mem (x : Ctx) (s : State) (st : Stream) (entry : Nat) :
    (x.startStream s st entry).mem = s.mem := (rfl)

@[simp] theorem forkBody_wf {s : State} (h : s.mem.wf = true) {x : Ctx} : (forkBody x s).state.mem.wf = true := by
  unfold forkBody
  dsimp only
  repeat' split
  all_goals simp [h]

@[simp] theorem qbindBody_wf {s : State} (h : s.mem.wf = true) {x : Ctx} : (qbindBody x s).state.mem.wf = true := by
  unfold qbindBody
  dsimp only
  split <;> simp [h]

@[simp] theorem State.discardQueues_mem (s : State) (c : Nat) : (s.discardQueues c).mem = s.mem := by
  simp [State.discardQueues]

@[simp] theorem Ctx.joinThen_wf {x : Ctx} {s : State} (h : s.mem.wf = true) {fin : State → Res}
    (hf : ∀ t, t.mem.wf = true → (fin t).state.mem.wf = true) : (x.joinThen s fin).state.mem.wf = true := by
  unfold Ctx.joinThen
  refine Res.ite_wf h (Res.ite_wf h (Res.ite_wf h (hf _ ?_)))
  rw [State.setCore_mem]
  exact h

@[simp] theorem joinBody_wf {s : State} (h : s.mem.wf = true) {x : Ctx} : (joinBody x s).state.mem.wf = true := by
  unfold joinBody
  exact Ctx.joinThen_wf h (fun t ht => ht)

@[simp] theorem joinDBody_wf {s : State} (h : s.mem.wf = true) {x : Ctx} : (joinDBody x s).state.mem.wf = true := by
  have hc {l : List Copy} {t : State} (ht : t.mem.wf = true) : (l.foldl (fun s c => s.cancelCopy x.c c) t).mem.wf =
      true :=
    foldl_wf (fun _ _ h => State.cancelCopy_wf h) ht
  have hd : (s.discardQueues x.c).mem.wf = true := by simpa using h
  unfold joinDBody
  dsimp only
  refine Res.ite_wf h (Res.ite_wf h (Res.ite_wf ?_ ?_))
  · rw [Res.state_wait]
    exact hd
  · rw [Res.state_done, State.setCore_mem]
    exact hc hd

@[simp] theorem State.noteParent_mem (s : State) (c : Nat) : (s.noteParent c).mem = s.mem := (rfl)

@[simp] theorem Ctx.haltTask_wf {s : State} (h : s.mem.wf = true) {x : Ctx} : (x.haltTask s).state.mem.wf = true := by
  unfold Ctx.haltTask
  dsimp only
  repeat' split
  all_goals simp [h]

@[simp] theorem haltBody_wf {s : State} (h : s.mem.wf = true) {x : Ctx} : (haltBody x s).state.mem.wf = true := by
  unfold haltBody
  refine Res.ite_wf (Ctx.joinThen_wf h (fun t ht => Ctx.haltTask_wf ht)) ?_
  rw [Res.state_final, State.modCore_mem]
  exact Ctx.finish_wf (State.commitOwn_wf h)

@[simp] theorem tokpBody_wf {s : State} (h : s.mem.wf = true) {x : Ctx} : (tokpBody x s).state.mem.wf = true := by
  unfold tokpBody
  dsimp only
  repeat' split
  all_goals simp [h]

@[simp] theorem tokwBody_wf {s : State} (h : s.mem.wf = true) {x : Ctx} : (tokwBody x s).state.mem.wf = true := by
  unfold tokwBody
  dsimp only
  repeat' split
  all_goals simp [h]

@[simp] theorem tmplBody_wf {s : State} (h : s.mem.wf = true) {x : Ctx} : (tmplBody x s).state.mem.wf = true := by
  unfold tmplBody
  dsimp only
  repeat' split
  all_goals simp [h]

/-! #### Memory instructions -/

@[simp] theorem Ctx.mapBytes_wf {s : State} (h : s.mem.wf = true) {x : Ctx} {k : AccessKind} {addrs : List Nat} :
    (x.mapBytes s k addrs).Wf := by simp [Ctx.mapBytes, h]

@[simp] theorem Ctx.putStore_wf {s : State} (h : s.mem.wf = true) {x : Ctx} {rel : Option Scope} {bytes : List Byte}
    {ms : List Mapped} {origin : List Origin} :
    (x.putStore s rel bytes ms origin).mem.wf = true := by simp [Ctx.putStore, h]

@[simp] theorem ldHold_wf {s : State} (h : s.mem.wf = true) {x : Ctx} : (ldHold x s).state.mem.wf = true := by
  unfold ldHold
  dsimp only
  repeat' split
  all_goals simp [h]

@[simp] theorem ldBody_wf {s : State} (h : s.mem.wf = true) {x : Ctx} : (ldBody x s).state.mem.wf = true := by
  unfold ldBody
  refine Res.ite_wf (ldHold_wf h) ?_
  dsimp only
  split
  · exact h
  · next e => exact (Ctx.mapBytes_wf h).wait e
  · next e =>
    rw [Res.state_done, State.issueLoad_mem]
    exact (Ctx.mapBytes_wf h).ok e

@[simp] theorem stHold_wf {s : State} (h : s.mem.wf = true) {x : Ctx} : (stHold x s).state.mem.wf = true := by
  unfold stHold
  dsimp only
  repeat' split
  all_goals simp [h]

@[simp] theorem stBody_wf {s : State} (h : s.mem.wf = true) {x : Ctx} : (stBody x s).state.mem.wf = true := by
  unfold stBody
  refine Res.ite_wf (stHold_wf h) ?_
  dsimp only
  split
  · exact h
  · next e => exact (Ctx.mapBytes_wf h).wait e
  · next e =>
    have ht := (Ctx.mapBytes_wf h).ok e
    exact Res.ite_wf ht (Ctx.putStore_wf ht)

@[simp] theorem Ctx.popSources_mem (x : Ctx) (s : State) : (x.popSources s).mem = s.mem := by
  unfold Ctx.popSources
  exact foldl_mem (fun _ _ => State.modCore_mem _ _ _) s _

@[simp] theorem Ctx.queueGate_wf {x : Ctx} {s : State} (h : s.mem.wf = true) {go : (Operand → Entry) → Res}
    (hg : ∀ e, (go e).state.mem.wf = true) : (x.queueGate s go).state.mem.wf = true := by
  unfold Ctx.queueGate
  split
  · exact h
  · exact h
  · exact hg _

@[simp] theorem Ctx.loadEntry_mem (x : Ctx) (s : State) (parts : List (Nat × Nat × OrderKind))
    (origin : List Origin) :
    (x.loadEntry s parts origin).mem = s.mem := (rfl)

@[simp] theorem ldqHold_wf {s : State} (h : s.mem.wf = true) {x : Ctx} : (ldqHold x s).state.mem.wf = true := by
  unfold ldqHold
  dsimp only
  repeat' split
  all_goals simp [h]

@[simp] theorem ldqMem_wf {s : State} (h : s.mem.wf = true) {x : Ctx} : (ldqMem x s).state.mem.wf = true := by
  unfold ldqMem
  dsimp only
  split
  · exact h
  · split
    · exact h
    · next e => exact (Ctx.mapBytes_wf h).wait e
    · next e =>
      rw [Res.state_done, Ctx.loadEntry_mem]
      exact (Ctx.mapBytes_wf h).ok e

@[simp] theorem ldqBody_wf {s : State} (h : s.mem.wf = true) {x : Ctx} : (ldqBody x s).state.mem.wf = true := by
  unfold ldqBody
  exact Ctx.queueGate_wf h (fun e => Res.ite_wf (ldqHold_wf h) (ldqMem_wf h))

@[simp] theorem stqHold_wf {s : State} (h : s.mem.wf = true) {x : Ctx} {e : Entry} :
    (stqHold x s e).state.mem.wf = true := by
  unfold stqHold
  dsimp only
  repeat' split
  all_goals simp [h]

@[simp] theorem stqMem_wf {s : State} (h : s.mem.wf = true) {x : Ctx} {e : Entry} :
    (stqMem x s e).state.mem.wf = true := by
  unfold stqMem
  dsimp only
  split
  · exact h
  · split
    · exact h
    · next e => exact (Ctx.mapBytes_wf h).wait e
    · next e =>
      have ht := (Ctx.mapBytes_wf h).ok e
      refine Res.ite_wf ht (Ctx.putStore_wf ?_)
      rw [Ctx.popSources_mem]
      exact ht

@[simp] theorem stqBody_wf {s : State} (h : s.mem.wf = true) {x : Ctx} : (stqBody x s).state.mem.wf = true := by
  unfold stqBody
  exact Ctx.queueGate_wf h (fun e => Res.ite_wf (stqHold_wf h) (stqMem_wf h))

@[simp] theorem Ctx.checkLanes_wf {s : State} (h : s.mem.wf = true) {x : Ctx} {k : AccessKind}
    {ls : List (Nat × Nat)} :
    (x.checkLanes s k ls).Wf := by
  have hm {l : List Nat} : (if x.inHold then TransAll.ok s [] else x.mapBytes s k l).Wf :=
    iteInduction (motive := TransAll.Wf) (fun _ => h) (fun _ => Ctx.mapBytes_wf h)
  unfold Ctx.checkLanes
  dsimp only
  split
  · split
    · trivial
    · exact h
  · next e => exact hm.wait e
  · next e =>
    split
    · trivial
    · exact hm.ok e

@[simp] theorem ldgqBody_wf {s : State} (h : s.mem.wf = true) {x : Ctx} : (ldgqBody x s).state.mem.wf = true := by
  unfold ldgqBody
  refine Ctx.queueGate_wf h (fun e => ?_)
  split
  · exact h
  · next e => exact (Ctx.checkLanes_wf h).wait e
  · next e =>
    have ht := (Ctx.checkLanes_wf h).ok e
    refine Res.ite_wf (Res.ite_wf ht ?_) ?_
    · split <;> simpa using ht
    · simpa using ht

@[simp] theorem stsqBody_wf {s : State} (h : s.mem.wf = true) {x : Ctx} : (stsqBody x s).state.mem.wf = true := by
  unfold stsqBody
  refine Ctx.queueGate_wf h (fun e => ?_)
  split
  · exact h
  · next e => exact (Ctx.checkLanes_wf h).wait e
  · next e =>
    have ht := (Ctx.checkLanes_wf h).ok e
    have hp {t : State} (ht : t.mem.wf = true) : (x.popSources t).mem.wf = true := by simpa using ht
    exact Res.ite_wf (Res.ite_wf ht (foldl_wf (fun _ _ h => State.holdStore_wf h) (hp ht)))
      (Res.ite_wf ht (Ctx.putStore_wf (hp ht)))

@[simp] theorem pfBody_wf {s : State} (h : s.mem.wf = true) {x : Ctx} : (pfBody x s).state.mem.wf = true := by
  simp [pfBody, h]

@[simp] theorem pfFrBody_wf {s : State} (h : s.mem.wf = true) {x : Ctx} : (pfFrBody x s).state.mem.wf = true := by
  simp [pfFrBody, h]

@[simp] theorem ldsBody_wf {s : State} (h : s.mem.wf = true) {x : Ctx} : (ldsBody x s).state.mem.wf = true := by
  unfold ldsBody
  dsimp only
  repeat' split
  all_goals simp [h]

/-! #### Ordering instructions -/

@[simp] theorem State.fenceUn_wf {s : State} (h : s.mem.wf = true) {c : Nat} {st : Stream} {wide : Bool} :
    (s.fenceUn c st wide).mem.wf = true := by
  have hl {l : List (Nat × Nat)} {t : State} (ht : t.mem.wf = true) :
      (l.foldl (fun s e => s.renewUn c e.1 e.2) t).mem.wf
      = true := foldl_wf (fun _ _ h => State.renewUn_wf h) ht
  unfold State.fenceUn
  dsimp only
  refine State.ite_wf (State.ite_wf h h) ?_
  rw [State.modStream_mem]
  exact hl (State.ite_wf h h)

@[simp] theorem State.fenceRdc_wf {s : State} (h : s.mem.wf = true) {c : Nat} : (s.fenceRdc c).mem.wf = true := by
  simp [State.fenceRdc, h]

@[simp] theorem fenceBody_wf {s : State} (h : s.mem.wf = true) {sc : Scope} {x : Ctx} :
    (fenceBody sc x s).state.mem.wf = true := by
  unfold fenceBody
  split <;> simp [h]

@[simp] theorem Ctx.plainAccess_wf {s : State} (h : s.mem.wf = true) {x : Ctx} {k : AccessKind} {ea n : Nat} :
    (x.plainAccess s k ea n).Wf := by
  unfold Ctx.plainAccess
  split
  · trivial
  · split
    · trivial
    · next e => exact (Ctx.mapBytes_wf h).wait e
    · next e =>
      split
      · trivial
      · exact (Ctx.mapBytes_wf h).ok e

@[simp] theorem Ctx.acquireLoad_mem (x : Ctx) (s : State) (sc : Scope) (ea : Nat) (ms : List Mapped) :
    (x.acquireLoad s sc ea ms).mem = s.mem := (rfl)

@[simp] theorem acqBody_wf {s : State} (h : s.mem.wf = true) {sc : Scope} {x : Ctx} :
    (acqBody sc x s).state.mem.wf = true := by
  unfold acqBody
  dsimp only
  split
  · exact h
  · next e => exact (Ctx.plainAccess_wf h).wait e
  · next e =>
    rw [Res.state_done, Ctx.acquireLoad_mem]
    exact (Ctx.plainAccess_wf h).ok e

@[simp] theorem relBody_wf {s : State} (h : s.mem.wf = true) {sc : Scope} {x : Ctx} :
    (relBody sc x s).state.mem.wf = true := by
  unfold relBody
  dsimp only
  split
  · exact h
  · next e => exact (Ctx.plainAccess_wf h).wait e
  · next e =>
    have ht := (Ctx.plainAccess_wf h).ok e
    exact Res.ite_wf ht (Ctx.putStore_wf (State.logScope_wf (State.commitOwn_wf ht)))

@[simp] theorem acqpBody_wf {s : State} (h : s.mem.wf = true) {x : Ctx} : (acqpBody x s).state.mem.wf = true := by
  unfold acqpBody
  dsimp only
  split
  · exact h
  · split
    · exact h
    · next e => exact (Ctx.plainAccess_wf h).wait e
    · next e =>
      have ht := (Ctx.plainAccess_wf h).ok e
      refine Res.ite_wf ht ?_
      rw [Res.state_done, State.modCore_mem, Ctx.acquireLoad_mem]
      exact ht

@[simp] theorem dbbBody_wf {s : State} (h : s.mem.wf = true) {x : Ctx} : (dbbBody x s).state.mem.wf = true := by
  unfold dbbBody
  dsimp only
  repeat' split
  all_goals simp [h]

@[simp] theorem State.flushPages_wf {s : State} (h : s.mem.wf = true) {pages : List (Nat × Nat)} :
    (s.flushPages pages).mem.wf = true := by
  unfold State.flushPages
  exact foldl_wf (fun _ _ h => State.dropLines_wf h) h

@[simp] theorem State.replaceAs_wf {s : State} (h : s.mem.wf = true) {c : Nat} {root : Word} {k : AccessKind}
    {d : DbbSlot} {shadow : Bool} {va pa : Nat} {kind : OrderKind} :
    (s.replaceAs c root k d shadow va pa kind).1.mem.wf = true := by
  unfold State.replaceAs
  dsimp only
  repeat' split
  all_goals simp [h]

@[simp] theorem State.replace_wf {s : State} (h : s.mem.wf = true) {c : Nat} {k : AccessKind} {d : DbbSlot}
    {va pa : Nat} {kind : OrderKind} :
    (s.replace c k d va pa kind).1.mem.wf = true := by simp [State.replace, h]

@[simp] theorem State.replaceLoad_wf {s : State} (h : s.mem.wf = true) {c : Nat} {d : DbbSlot} {k : AccessKind}
    {l : List ((Nat × Nat × OrderKind) × Origin)} :
    (s.replaceLoad c d k l).1.mem.wf = true := by
  induction l generalizing s with
  | nil => exact h
  | cons e l ih => simp [State.replaceLoad, ih, h]

@[simp] theorem State.replaceStore_wf {s : State} (h : s.mem.wf = true) {c : Nat} {d : DbbSlot}
    {l : List ((Nat × Byte × OrderKind) × Origin)} :
    (s.replaceStore c d l).1.mem.wf = true := by
  induction l generalizing s with
  | nil => exact h
  | cons e l ih => simp [State.replaceStore, ih, h]

@[simp] theorem State.newPlaces_wf {s : State} (h : s.mem.wf = true) {c : Nat} {root : Word} {d : DbbSlot}
    {src : Tbl DcOrigin} {l : List (Nat × Byte)} :
    (s.newPlaces c root d src l).1.mem.wf = true := by
  induction l generalizing s with
  | nil => exact h
  | cons e l ih =>
    unfold State.newPlaces
    split <;> simp [ih, h]

@[simp] theorem State.replaceDc_wf {s : State} (h : s.mem.wf = true) {c : Nat} {root : Word} {d : DbbSlot}
    {dc : Tbl Byte} {src : Tbl DcOrigin} :
    (s.replaceDc c root d dc src).1.mem.wf = true := by simp [State.replaceDc, h]

@[simp] theorem State.unbuffer_wf {s : State} (h : s.mem.wf = true) {c : Nat} {e : Buffered} :
    (s.unbuffer c e).mem.wf = true := by
  unfold State.unbuffer
  split <;> simp [h]

@[simp] theorem State.bufferStores_mem (s : State) (c : Nat) (l : List PStore) :
    (s.bufferStores c l).mem = s.mem := by
  induction l generalizing s with
  | nil => rfl
  | cons e l ih =>
    unfold State.bufferStores
    split <;> simp [ih]

@[simp] theorem State.followSwitch_wf {s : State} (h : s.mem.wf = true) {d : DbbSlot} {c : Nat} :
    (s.followSwitch d c).mem.wf = true := by
  have hl {l : List PLoad} {r : State × List PLoad} (hr : r.1.mem.wf = true) :
      (l.foldl (fun (r : State × List PLoad) l =>
      let (s, ps) := r.1.replaceLoad c d (if l.amo.isSome then .amo else .load) (l.parts.zip l.origin)
      (s, r.2 ++ [{ l with parts := ps }])) r).1.mem.wf = true := by
    induction l generalizing r with
    | nil => exact hr
    | cons e l ih =>
      rw [List.foldl_cons]
      exact ih (State.replaceLoad_wf hr)
  have hs {l : List PStore} {r : State × List PStore} (hr : r.1.mem.wf = true) :
      (l.foldl (fun (r : State × List PStore) x =>
      let (s, ps) := r.1.replaceStore c d (x.parts.zip x.origin)
      (s, r.2 ++ [{ x with parts := ps.map (fun e => e.1) }])) r).1.mem.wf = true := by
    induction l generalizing r with
    | nil => exact hr
    | cons e l ih =>
      rw [List.foldl_cons]
      exact ih (State.replaceStore_wf hr)
  have hu {l : List Buffered} {t : State} (ht : t.mem.wf = true) : (l.foldl (fun s e => s.unbuffer c e) t).mem.wf =
      true :=
    foldl_wf (fun _ _ h => State.unbuffer_wf h) ht
  unfold State.followSwitch
  dsimp only
  rw [State.modCore_mem]
  refine State.performForDc_wf (hu ?_)
  rw [State.bufferStores_mem, State.modCore_mem]
  refine State.newPlaces_wf ?_
  rw [State.modCore_mem]
  exact hs (hl h)

@[simp] theorem State.followSaved_wf {s : State} (h : s.mem.wf = true) {d : DbbSlot} {r : SavedContext} :
    (s.followSaved d r).mem.wf = true := by simp [State.followSaved, h]

@[simp] theorem State.followEnded_wf {s : State} (h : s.mem.wf = true) {d : DbbSlot} {v : Convoy} :
    (s.followEnded d v).mem.wf = true := by
  unfold State.followEnded
  split
  · exact h
  · exact foldl_wf (fun _ _ h => State.replaceDc_wf h) h

@[simp] theorem State.followSlot_wf {s : State} (h : s.mem.wf = true) {d : DbbSlot} :
    (s.followSlot d).mem.wf = true := by
  unfold State.followSlot
  exact foldl_wf (fun _ _ h => State.followEnded_wf h) (foldl_wf (fun _ _ h => State.followSaved_wf h)
    (foldl_wf (fun _ _ h => State.followSwitch_wf h) h))

@[simp] theorem State.switchSlot_wf {s : State} (h : s.mem.wf = true) {n : Nat} : (s.switchSlot n).mem.wf = true := by
  simp [State.switchSlot, h]

@[simp] theorem dbbUBody_wf {s : State} (h : s.mem.wf = true) {x : Ctx} : (dbbUBody x s).state.mem.wf = true := by
  unfold dbbUBody
  dsimp only
  repeat' split
  all_goals simp [h]

@[simp] theorem publishBody_wf {s : State} (h : s.mem.wf = true) {x : Ctx} :
    (publishBody x s).state.mem.wf = true := by
  unfold publishBody
  refine Res.ite_wf h (Res.ite_wf h (Res.ite_wf h ?_))
  dsimp only
  rw [Res.state_done, Ctx.locked_mem]
  refine State.switchSlot_wf (State.flushPages_wf (State.release_wf ?_))
  rw [State.setSlot_mem]
  exact h

@[simp] theorem State.startWidening_mem (s : State) (c n : Nat) : (s.startWidening c n).mem = s.mem := (rfl)

@[simp] theorem State.endWidening_wf {s : State} (h : s.mem.wf = true) {c n : Nat} :
    (s.endWidening c n).mem.wf = true := by simp [State.endWidening, h]

/-! #### Copy instructions -/

@[simp] theorem Ctx.enterCopy_wf {s : State} (h : s.mem.wf = true) {x : Ctx} {cp : Copy} :
    (x.enterCopy s cp).mem.wf = true := by simp [Ctx.enterCopy, h]

@[simp] theorem Ctx.startOrWait_wf {s : State} (h : s.mem.wf = true) {x : Ctx} {cp : Copy} :
    (x.startOrWait s cp).state.mem.wf = true := by
  unfold Ctx.startOrWait
  split <;> simp [h]

@[simp] theorem cpy1Body_wf {s : State} (h : s.mem.wf = true) {x : Ctx} : (cpy1Body x s).state.mem.wf = true := by
  unfold cpy1Body
  dsimp only
  split <;> simp [h]

@[simp] theorem cpyShaped_wf {s : State} (h : s.mem.wf = true) {dims : Nat} {x : Ctx} :
    (cpyShaped dims x s).state.mem.wf = true := by
  unfold cpyShaped
  dsimp only
  repeat' split
  all_goals simp [h]

@[simp] theorem cpygBody_wf {s : State} (h : s.mem.wf = true) {x : Ctx} : (cpygBody x s).state.mem.wf = true := by
  unfold cpygBody
  dsimp only
  repeat' split
  all_goals simp [h]

@[simp] theorem cpymcBody_wf {s : State} (h : s.mem.wf = true) {x : Ctx} : (cpymcBody x s).state.mem.wf = true := by
  unfold cpymcBody
  dsimp only
  split <;> simp [h]

@[simp] theorem cpycBody_wf {s : State} (h : s.mem.wf = true) {x : Ctx} : (cpycBody x s).state.mem.wf = true := by
  have hc {l : List Copy} : (l.foldl (fun s c => s.cancelCopy x.c c) s).mem.wf = true :=
    foldl_wf (fun _ _ h => State.cancelCopy_wf h) h
  unfold cpycBody
  dsimp only
  split
  · simpa using hc
  · split
    · simpa using h
    · split
      · simpa using h
      · simpa using State.cancelCopy_wf h

@[simp] theorem cpysBody_wf {s : State} (h : s.mem.wf = true) {x : Ctx} : (cpysBody x s).state.mem.wf = true := by
  unfold cpysBody
  dsimp only
  split <;> simp [h]

@[simp] theorem waitBody_wf {s : State} (h : s.mem.wf = true) {x : Ctx} : (waitBody x s).state.mem.wf = true := by
  unfold waitBody
  dsimp only
  repeat' split
  all_goals simp [h]

/-! #### Matrix instructions -/

@[simp] theorem Ctx.matrix_mem (x : Ctx) (s : State) (lat unit : Nat) (es : List Effect) :
    (x.matrix s lat unit es).mem = s.mem := (rfl)

@[simp] theorem Ctx.unitResult_mem (x : Ctx) (s : State) (lat unit : Nat) (es : List Effect) (r : Option MatrixRead) :
    (x.unitResult s lat unit es r).mem = s.mem := (rfl)

@[simp] theorem State.tileRead_mem (s : State) (c seq i first n : Nat) :
    (s.tileRead c seq i first n).mem = s.mem := by
  unfold State.tileRead
  repeat' split
  all_goals simp

@[simp] theorem Ctx.mmaRun_wf {s : State} (h : s.mem.wf = true) {x : Ctx} {fam : Family} :
    (x.mmaRun s fam).state.mem.wf = true := by
  unfold Ctx.mmaRun
  dsimp only
  repeat' split
  all_goals simp [h]

@[simp] theorem mmaBody_wf {s : State} (h : s.mem.wf = true) {fam : Family} {x : Ctx} :
    (mmaBody fam x s).state.mem.wf = true := by
  unfold mmaBody
  repeat' split
  all_goals simp [h]

@[simp] theorem scacBody_wf {s : State} (h : s.mem.wf = true) {x : Ctx} : (scacBody x s).state.mem.wf = true := by
  unfold scacBody
  dsimp only
  split <;> simp [h]

@[simp] theorem acczBody_wf {s : State} (h : s.mem.wf = true) {x : Ctx} : (acczBody x s).state.mem.wf = true := by
  unfold acczBody
  split <;> simp [h]

@[simp] theorem accldBody_wf {s : State} (h : s.mem.wf = true) {x : Ctx} : (accldBody x s).state.mem.wf = true := by
  unfold accldBody
  dsimp only
  repeat' split
  all_goals simp [h]

@[simp] theorem drainBody_wf {s : State} (h : s.mem.wf = true) {x : Ctx} : (drainBody x s).state.mem.wf = true := by
  unfold drainBody
  dsimp only
  split <;> simp [h]

@[simp] theorem Ctx.holdBlock_wf {x : Ctx} {s : State} (h : s.mem.wf = true) {size : Nat} {go : Memory → Res}
    (hg : ∀ m, (go m).state.mem.wf = true) : (x.holdBlock s size go).state.mem.wf = true := by
  unfold Ctx.holdBlock
  dsimp only
  split
  · exact h
  · split
    · exact h
    · split
      · exact h
      · split
        · exact h
        · split
          · simpa using h
          · exact hg _

@[simp] theorem epiBody_wf {s : State} (h : s.mem.wf = true) {x : Ctx} : (epiBody x s).state.mem.wf = true := by
  unfold epiBody
  exact Ctx.holdBlock_wf h (fun m => Res.ite_wf h (Res.ite_wf h (Res.ite_wf h h)))

@[simp] theorem epiOutBody_wf {s : State} (h : s.mem.wf = true) {x : Ctx} : (epiOutBody x s).state.mem.wf = true := by
  unfold epiOutBody
  dsimp only
  repeat' split
  all_goals simp [h]

@[simp] theorem maskldBody_wf {s : State} (h : s.mem.wf = true) {x : Ctx} : (maskldBody x s).state.mem.wf = true := by
  unfold maskldBody
  exact Ctx.holdBlock_wf h (fun m => Res.ite_wf h h)

@[simp] theorem sagBody_wf {s : State} (h : s.mem.wf = true) {x : Ctx} : (sagBody x s).state.mem.wf = true := by
  unfold sagBody
  dsimp only
  repeat' split
  all_goals simp [h]

@[simp] theorem sagRdBody_wf {s : State} (h : s.mem.wf = true) {x : Ctx} : (sagRdBody x s).state.mem.wf = true := by
  unfold sagRdBody
  split <;> simp [h]

@[simp] theorem mstatBody_wf {s : State} (h : s.mem.wf = true) {x : Ctx} : (mstatBody x s).state.mem.wf = true := by
  unfold mstatBody
  dsimp only
  split <;> simp [h]

@[simp] theorem mstmpGive_wf {s : State} (h : s.mem.wf = true) {x : Ctx} {v : Word} :
    (mstmpGive x s v).state.mem.wf = true := h

@[simp] theorem mstmpBody_wf {s : State} (h : s.mem.wf = true) {x : Ctx} : (mstmpBody x s).state.mem.wf = true :=
  mstmpGive_wf h

@[simp] theorem mstmpAbsBody_wf {s : State} (h : s.mem.wf = true) {x : Ctx} :
    (mstmpAbsBody x s).state.mem.wf = true := mstmpGive_wf h

/-! #### Synchronisation instructions -/

@[simp] theorem Ctx.sendAmo_mem (x : Ctx) (s : State) (fn ea : Nat) (ms : List Mapped) (vb vc : Word) :
    (x.sendAmo s fn ea ms vb vc).mem = s.mem := (rfl)

@[simp] theorem amoBody_wf {s₀ : State} (h : s₀.mem.wf = true) {fn : Nat} {x : Ctx} :
    (amoBody fn x s₀).state.mem.wf = true := by
  unfold amoBody
  dsimp only
  split
  · exact h
  · next e => exact (Ctx.plainAccess_wf h).wait e
  · next e =>
    have ht := (Ctx.plainAccess_wf h).ok e
    split
    · exact h
    · split
      · exact ht
      · rw [Res.state_done, Ctx.sendAmo_mem]
        exact State.ite_wf (State.logScope_wf (State.ite_wf (State.commitOwn_wf ht) ht))
            (State.ite_wf (State.commitOwn_wf ht) ht)

@[simp] theorem Ctx.give_wf {s : State} (h : s.mem.wf = true) {x : Ctx} {v : Nat} :
    (x.give s v).state.mem.wf = true := h

@[simp] theorem semiBody_wf {s : State} (h : s.mem.wf = true) {x : Ctx} : (semiBody x s).state.mem.wf = true := by
  unfold semiBody
  split
  · exact h
  · dsimp only
    split
    · exact h
    · exact State.semAdd_wf (State.release_wf h)

@[simp] theorem semwBody_wf {s : State} (h : s.mem.wf = true) {x : Ctx} : (semwBody x s).state.mem.wf = true := by
  unfold semwBody
  dsimp only
  repeat' split
  all_goals simp [h]

@[simp] theorem semsBody_wf {s : State} (h : s.mem.wf = true) {x : Ctx} : (semsBody x s).state.mem.wf = true := by
  simp [semsBody, h]

@[simp] theorem semsRBody_wf {s : State} (h : s.mem.wf = true) {x : Ctx} : (semsRBody x s).state.mem.wf = true := h

@[simp] theorem barBody_wf {s : State} (h : s.mem.wf = true) {x : Ctx} : (barBody x s).state.mem.wf = true := by
  unfold barBody
  dsimp only
  repeat' split
  all_goals simp [h]

@[simp] theorem Ctx.mailOwn_wf {s : State} (h : s.mem.wf = true) {x : Ctx} : (x.mailOwn s).state.mem.wf = true := by
  unfold Ctx.mailOwn
  repeat' split
  all_goals simp [h]

@[simp] theorem Ctx.sendMail_mem (x : Ctx) (s : State) (t : Nat) : (x.sendMail s t).mem = s.mem := (rfl)

@[simp] theorem Ctx.awaitMail_wf {s : State} (h : s.mem.wf = true) {x : Ctx} {v : Convoy} {m : Nat} :
    (x.awaitMail s v m).state.mem.wf = true := by
  unfold Ctx.awaitMail
  dsimp only
  repeat' split
  all_goals simp [h]

@[simp] theorem mbsBody_wf {s : State} (h : s.mem.wf = true) {x : Ctx} : (mbsBody x s).state.mem.wf = true := by
  unfold mbsBody
  repeat' split
  all_goals simp [h]

@[simp] theorem mbrBody_wf {s : State} (h : s.mem.wf = true) {x : Ctx} : (mbrBody x s).state.mem.wf = true := by
  unfold mbrBody
  dsimp only
  repeat' split
  all_goals simp [h]

/-! #### Chart instructions -/

@[simp] theorem Ctx.withChart_wf {x : Ctx} {s : State} (h : s.mem.wf = true) {v : Word} {go : ChartSlot → Res}
    (hg : ∀ t, (go t).state.mem.wf = true) : (x.withChart s v go).state.mem.wf = true := by
  unfold Ctx.withChart
  split
  · exact h
  · exact hg _

@[simp] theorem Ctx.chartTurn_wf {s : State} (h : s.mem.wf = true) {x : Ctx} {n : Nat} {t : ChartSlot} :
    (x.chartTurn s n t).state.mem.wf = true := by
  unfold Ctx.chartTurn
  repeat' split
  all_goals simp [h]

@[simp] theorem chtOpenBody_wf {s : State} (h : s.mem.wf = true) {x : Ctx} :
    (chtOpenBody x s).state.mem.wf = true := by
  unfold chtOpenBody
  dsimp only
  repeat' split
  all_goals simp [h]

@[simp] theorem chtAppendBody_wf {s : State} (h : s.mem.wf = true) {x : Ctx} :
    (chtAppendBody x s).state.mem.wf = true := by
  unfold chtAppendBody
  dsimp only
  split
  · exact h
  · refine Ctx.withChart_wf h (fun t => ?_)
    split
    · exact h
    · split
      · exact h
      · exact Ctx.chartTurn_wf h

@[simp] theorem chtCloseBody_wf {s : State} (h : s.mem.wf = true) {x : Ctx} :
    (chtCloseBody x s).state.mem.wf = true := by
  unfold chtCloseBody
  refine Ctx.withChart_wf h (fun t => ?_)
  split
  · exact h
  · exact Ctx.chartTurn_wf h

@[simp] theorem proposeBody_wf {s : State} (h : s.mem.wf = true) {size : Nat} {x : Ctx} :
    (proposeBody size x s).state.mem.wf = true := by
  unfold proposeBody
  dsimp only
  split
  · exact h
  · refine Ctx.withChart_wf h (fun t => ?_)
    split
    · exact h
    · exact Ctx.chartTurn_wf h

@[simp] theorem transferBody_wf {s : State} (h : s.mem.wf = true) {save : Bool} {x : Ctx} :
    (transferBody save x s).state.mem.wf = true := by
  unfold transferBody
  dsimp only
  split
  · exact h
  · exact Ctx.withChart_wf h (fun t => by simpa using h)

/-! #### Conversions -/

@[simp] theorem cvtBody_wf {s : State} (h : s.mem.wf = true) {x : Ctx} : (cvtBody x s).state.mem.wf = true := h

@[simp] theorem qtagBody_wf {s : State} (h : s.mem.wf = true) {x : Ctx} : (qtagBody x s).state.mem.wf = true := by
  unfold qtagBody
  split <;> simp [h]

@[simp] theorem fflagBody_wf {s : State} (h : s.mem.wf = true) {x : Ctx} : (fflagBody x s).state.mem.wf = true := by
  unfold fflagBody
  split <;> simp [h]

@[simp] theorem fclsBody_wf {s : State} (h : s.mem.wf = true) {x : Ctx} : (fclsBody x s).state.mem.wf = true := h

/-! #### Governors and ballast -/

@[simp] theorem State.startBallast_mem (s : State) (c : Nat) : (s.startBallast c).mem = s.mem := by
  simp [State.startBallast]

@[simp] theorem State.stopBallast_mem (s : State) (c : Nat) : (s.stopBallast c).mem = s.mem := by
  simp [State.stopBallast]

@[simp] theorem State.rebalance_mem (s : State) (i : Nat) : (s.rebalance i).mem = s.mem := by
  unfold State.rebalance
  dsimp only
  split <;> simp

/-! #### Energy instructions and time -/

@[simp] theorem Ctx.withIsland_wf {x : Ctx} {s : State} (h : s.mem.wf = true) {go : State → Nat → Res}
    (hg : ∀ t i, t.mem.wf = true → (go t i).state.mem.wf = true) : (x.withIsland s go).state.mem.wf = true := by
  unfold Ctx.withIsland
  dsimp only
  split
  · exact h
  · split
    · exact hg _ _ (by simpa using h)
    · exact h

@[simp] theorem Ctx.energyResult_wf {s : State} (h : s.mem.wf = true) {x : Ctx} {i : Nat} {v : Word} :
    (x.energyResult s i v).state.mem.wf = true := by
  unfold Ctx.energyResult
  split <;> simp [h]

@[simp] theorem ebudBody_wf {s : State} (h : s.mem.wf = true) {x : Ctx} : (ebudBody x s).state.mem.wf = true := by
  unfold ebudBody
  exact Ctx.withIsland_wf h (fun t i ht => Ctx.energyResult_wf ht)

@[simp] theorem ebudWBody_wf {s : State} (h : s.mem.wf = true) {x : Ctx} : (ebudWBody x s).state.mem.wf = true := by
  unfold ebudWBody
  refine Ctx.withIsland_wf h (fun t i ht => Res.ite_wf h (Ctx.energyResult_wf ?_))
  rw [State.sendWrite_mem]
  exact ht

@[simp] theorem Ctx.taskValue_wf {s : State} (h : s.mem.wf = true) {x : Ctx} {g : Task → Word} :
    (x.taskValue s g).state.mem.wf = true := by
  unfold Ctx.taskValue
  split <;> simp [h]

@[simp] theorem evarBody_wf {s : State} (h : s.mem.wf = true) {x : Ctx} : (evarBody x s).state.mem.wf = true := by
  simp [evarBody, h]

@[simp] theorem ejrdBody_wf {s : State} (h : s.mem.wf = true) {x : Ctx} : (ejrdBody x s).state.mem.wf = true := by
  simp [ejrdBody, h]

@[simp] theorem ejrdIBody_wf {s : State} (h : s.mem.wf = true) {x : Ctx} : (ejrdIBody x s).state.mem.wf = true := by
  unfold ejrdIBody
  exact Ctx.withIsland_wf h (fun t i ht => Ctx.energyResult_wf ht)

@[simp] theorem ejrdBBody_wf {s : State} (h : s.mem.wf = true) {x : Ctx} : (ejrdBBody x s).state.mem.wf = true := by
  simp [ejrdBBody, h]

@[simp] theorem eclsBody_wf {s : State} (h : s.mem.wf = true) {x : Ctx} : (eclsBody x s).state.mem.wf = true := by
  unfold eclsBody
  exact Ctx.withIsland_wf h (fun t i ht => Ctx.energyResult_wf ht)

@[simp] theorem eclsWBody_wf {s : State} (h : s.mem.wf = true) {x : Ctx} : (eclsWBody x s).state.mem.wf = true := by
  unfold eclsWBody
  refine Ctx.withIsland_wf h (fun t i ht => Res.ite_wf h (Ctx.energyResult_wf ?_))
  rw [State.sendWrite_mem]
  exact ht

@[simp] theorem ethrBody_wf {s : State} (h : s.mem.wf = true) {x : Ctx} : (ethrBody x s).state.mem.wf = true := by
  unfold ethrBody
  exact Ctx.withIsland_wf h (fun t i ht => Ctx.energyResult_wf ht)

@[simp] theorem ethrWBody_wf {s : State} (h : s.mem.wf = true) {x : Ctx} : (ethrWBody x s).state.mem.wf = true := by
  unfold ethrWBody
  refine Ctx.withIsland_wf h (fun t i ht => Res.ite_wf h (Ctx.energyResult_wf ?_))
  rw [State.sendWrite_mem]
  exact ht

@[simp] theorem State.passTime_mem (s : State) (ns : Nat) : (s.passTime ns).mem = s.mem := (rfl)

/-! #### Tasks, launches and the dispatcher -/

@[simp] theorem State.readBytes_wf {s : State} (h : s.mem.wf = true) {c : Nat} {l : List Mapped} :
    (s.readBytes c l).1.mem.wf = true := by
  induction l generalizing s with
  | nil => exact h
  | cons e l ih => simp [State.readBytes, ih, h]

@[simp] theorem State.readRange_wf {s : State} (h : s.mem.wf = true) {c who : Nat} {root : Word} {fw : Bool}
    {va n : Nat} :
    (s.readRange c who root fw va n).Wf := by
  unfold State.readRange
  dsimp only
  split
  · trivial
  · next e => exact (State.translateList_wf h).wait e
  · next e =>
    split
    · trivial
    · exact State.readBytes_wf (by simpa using (State.translateList_wf h).ok e)

@[simp] theorem State.readManifest_wf {s : State} (h : s.mem.wf = true) {c who : Nat} {root : Word} {fw : Bool}
    {addr : Nat} {o : Overrides} :
    (s.readManifest c who root fw addr o).Wf := by
  unfold State.readManifest
  split
  · trivial
  · trivial
  · next e => exact (State.readRange_wf h).wait e
  · next t bs e =>
    have ht : t.mem.wf = true := (State.readRange_wf h).ok e
    dsimp only
    generalize parseManifest addr (memoryOf bs) = m
    refine ManifestEnd.ite_wf ht (ManifestEnd.ite_wf (ManifestEnd.wf_ok ht) (ManifestEnd.ite_wf ht ?_))
    split
    · trivial
    · trivial
    · next e => exact (State.readRange_wf ht).wait e
    · next e =>
      have hu := (State.readRange_wf ht).ok e
      exact ManifestEnd.ite_wf hu (ManifestEnd.wf_ok hu)

@[simp] theorem State.setLaunch_mem (s : State) (l : Launch) : (s.setLaunch l).mem = s.mem := (rfl)

@[simp] theorem State.grantSlots_mem (s : State) (l : Launch) : (s.grantSlots l).mem = s.mem := by
  unfold State.grantSlots
  split
  · rfl
  · split
    · rw [State.setLaunch_mem, foldl_mem (fun _ _ => State.setSlot_mem _ _ _)]
    · rfl

@[simp] theorem State.enterLaunch_mem (s : State) (m : Manifest) (v : Option Manifest) (root : Word) (die : Nat)
    (source : Option Nat) (srcSeq : Nat) :
    (s.enterLaunch m v root die source srcSeq).1.mem = s.mem := by simp [State.enterLaunch]

@[simp] theorem State.writeRange_wf {s : State} (h : s.mem.wf = true) {c who : Nat} {root : Word} {va : Nat}
    {bytes : List Byte} :
    (s.writeRange c who root va bytes).Wf := by
  unfold State.writeRange
  split
  · next e => exact (State.translateList_wf h).wait e
  · exact (congrArg Memory.wf (State.dropPageWaits_mem s c who)).trans h
  · next e => exact State.storeFor_wf (State.writeBack_wf ((State.translateList_wf h).ok e))

@[simp] theorem State.writeRecord_wf {s : State} (h : s.mem.wf = true) {c who : Nat} {root : Word} {va info : Nat}
    {bytes : List Byte} :
    (s.writeRecord c who root va info bytes).2.mem.wf = true := by
  unfold State.writeRecord
  split
  · exact h
  · split
    · next e => exact (State.writeRange_wf h).wait e
    · next e =>
      have hf := (State.writeRange_wf h).fault e
      exact hf
    · next e => exact (State.writeRange_wf h).ok e

@[simp] theorem State.closeLaunch_wf {s : State} (h : s.mem.wf = true) {n : Nat} :
    (s.closeLaunch n).mem.wf = true := by
  unfold State.closeLaunch
  split
  · exact h
  · next l _ =>
    split
    · have hr := State.writeRecord_wf h (c := 48 * l.die) (who := recordWaiter l.number) (root := l.root)
        (va := l.completion)
        (info := l.number) (bytes := l.record (s.dieTime l.die))
      split
      · next e => simpa [e] using hr
      · next e =>
        rw [e] at hr
        refine (congrArg Memory.wf (foldl_mem (fun s n => ?_) _ _)).trans hr
        split <;> rfl
    · exact h

@[simp] theorem State.closeLaunches_wf {s : State} (h : s.mem.wf = true) : (s.closeLaunches).mem.wf = true := by
  unfold State.closeLaunches
  exact foldl_wf (fun _ _ h => State.closeLaunch_wf h) h

@[simp] theorem State.dropChart_wf {s : State} (h : s.mem.wf = true) {v : Word} : (s.dropChart v).mem.wf = true := by
  unfold State.dropChart
  dsimp only
  split
  · simpa using State.forceCharts_wf h
  · exact h

@[simp] theorem State.tearDown_wf {s : State} (h : s.mem.wf = true) {asid : Nat} :
    (s.tearDown asid).mem.wf = true := by
  unfold State.tearDown
  split
  · exact h
  · exact foldl_wf (fun _ _ h => foldl_wf (fun _ _ h => State.dropChart_wf h) h) h

@[simp] theorem State.leaveConvoy_wf {s : State} (h : s.mem.wf = true) {t : Task} {m : Meter} {dc : Tbl Byte}
    {src : Tbl DcOrigin} {keep : Bool} :
    (s.leaveConvoy t m dc src keep).mem.wf = true := by
  unfold State.leaveConvoy
  split
  · exact h
  · dsimp only
    have hc {v} : (s.setConvoy v).mem.wf = true := by simpa using h
    refine State.ite_wf (State.commitConvoy_wf hc) (foldl_wf (fun s n h => ?_) hc)
    exact State.ite_wf (State.passBarrier_wf h) h

@[simp] theorem State.childEnded_wf {s : State} (h : s.mem.wf = true) {parent : Option Nat} :
    (s.childEnded parent).mem.wf = true := by
  unfold State.childEnded
  repeat' split
  all_goals simp [h]

@[simp] theorem State.countEnd_mem (s : State) (t : Task) (fail : Option Nat) : (s.countEnd t fail).mem = s.mem :=
  (rfl)

@[simp] theorem State.endTask_wf {s : State} (h : s.mem.wf = true) {c : Nat} {fail : Option Nat} :
    (s.endTask c fail).mem.wf = true := by
  unfold State.endTask
  split
  · exact h
  · have hc {l : List Copy} : (l.foldl (fun s q => s.cancelCopy c q) (s.strike c)).mem.wf = true :=
      foldl_wf (fun _ _ h => State.cancelCopy_wf h) (State.strike_wf h)
    have hd {t : State} {l : List Word} (ht : t.mem.wf = true) :
        ((l.foldl State.dropChart t).meterLines.forgetWaits c).mem.wf = true := by
      rw [State.forgetWaits_mem]
      exact State.meterLines_wf (foldl_wf (fun _ _ h => State.dropChart_wf h) ht)
    have hr {n} := State.releaseRdc_wf (c := c) (sc := .dev) (State.commitOwn_wf (c := c) (State.widen_wf (hc (l :=
      ((s.strike c).core c).copies)) (c := c) (n := n)))
    dsimp only
    split
    · exact hd hr
    · refine State.closeLaunch_wf ?_
      rw [State.rebalance_mem, State.countEnd_mem]
      refine State.childEnded_wf ?_
      rw [State.freeKept_mem]
      refine State.leaveConvoy_wf ?_
      rw [State.setCore_mem]
      exact hd hr

@[simp] theorem State.endSaved_wf {s : State} (h : s.mem.wf = true) {r : SavedContext} {fail : Option Nat} :
    (s.endSaved r fail).mem.wf = true := by
  unfold State.endSaved
  dsimp only
  refine State.closeLaunch_wf ?_
  rw [State.countEnd_mem]
  refine State.childEnded_wf (State.leaveConvoy_wf ?_)
  have hd {l : List Word} {t : State} (ht : t.mem.wf = true) : (l.foldl State.dropChart t).mem.wf = true :=
    foldl_wf (fun _ _ h => State.dropChart_wf h) ht
  refine State.ite_wf ?_ (hd ?_)
  · rw [State.commitErrors_mem]
    refine State.commitAll_wf (hd ?_)
    rw [State.modCore_mem]
    exact h
  · rw [State.modCore_mem]
    exact h

@[simp] theorem State.placeTask_mem (s : State) (c : Nat) (i : StartInfo) : (s.placeTask c i).mem = s.mem := by
  simp [State.placeTask]

@[simp] theorem State.recordSlips_mem (s : State) (n c : Nat) (rs : List Nat) :
    (s.recordSlips n c rs).mem = s.mem := (rfl)

@[simp] theorem State.readImage_wf {s : State} (h : s.mem.wf = true) {c : Nat} {root : Word} {addr n : Nat} :
    (s.readImage c root addr n).Wf := by
  unfold State.readImage
  split
  · exact h
  · exact State.readRange_wf h

@[simp] theorem State.beginTask_wf {s : State} (h : s.mem.wf = true) {c : Nat} {tmpl hold sem : List Byte} :
    (s.beginTask c tmpl hold sem).mem.wf = true := by simp [State.beginTask, h]

@[simp] theorem State.failStart_mem (s : State) (c : Nat) (cause : Cause) (addr : Nat) :
    (s.failStart c cause addr).mem = s.mem := by simp [State.failStart]

@[simp] theorem State.loadTask_wf {s : State} (h : s.mem.wf = true) {c : Nat} : (s.loadTask c).mem.wf = true := by
  unfold State.loadTask
  dsimp only
  split
  · split
    · exact h
    · split
      · simpa using h
      · simpa using h
      · next e => exact (State.readImage_wf h).wait e
      · next e =>
        have h := (State.readImage_wf h).ok e
        split
        · simpa using h
        · simpa using h
        · next e => exact (State.readImage_wf h).wait e
        · next e =>
          have h := (State.readImage_wf h).ok e
          split
          · simpa using h
          · simpa using h
          · next e => exact (State.readImage_wf h).wait e
          · next e => exact State.beginTask_wf ((State.readImage_wf h).ok e)
  · exact h

@[simp] theorem State.finishStart_wf {s : State} (h : s.mem.wf = true) {c l : Nat} :
    (s.finishStart c l).mem.wf = true := by
  induction l generalizing s with
  | zero => exact h
  | succ n ih =>
    unfold State.finishStart
    split
    · exact ih (State.endPages_wf (State.endWalks_wf (State.loadTask_wf h)))
    · exact h

@[simp] theorem State.prepareSave_wf {s : State} (h : s.mem.wf = true) {c : Nat} :
    (s.prepareSave c).mem.wf = true := by simp [State.prepareSave, h]

@[simp] theorem State.evictUnit_wf {s : State} (h : s.mem.wf = true) {c : Nat} : (s.evictUnit c).mem.wf = true := by
  have hp {l : List Nat} : (l.foldl State.prepareSave s).mem.wf = true := foldl_wf
      (fun _ _ h => State.prepareSave_wf h) h
  unfold State.evictUnit
  dsimp only
  split
  · exact hp
  · exact State.preemptUnit_wf hp

@[simp] theorem State.pullBerths_wf {s : State} (h : s.mem.wf = true) {v area : Nat} :
    (s.pullBerths v area).mem.wf = true := by
  have hf {l : List (Nat × Nat)} {m : Memory} (hm : m.wf = true) :
      (l.foldl (fun m e => saveBerth m (s.core v) area e.1 (e.2 - 1)) m).wf = true := by
    induction l generalizing m with
    | nil => exact hm
    | cons e l ih =>
      rw [List.foldl_cons]
      exact ih (saveBerth_wf _ _ _ _ _ hm)
  unfold State.pullBerths
  dsimp only
  rw [State.setCore_mem]
  exact hf h

@[simp] theorem State.readBerths_wf {s : State} (h : s.mem.wf = true) {c area : Nat} :
    (s.readBerths c area).mem.wf = true := by
  unfold State.readBerths
  refine Memory.write_wf _ _ _ _ (foldl_wf (fun s n h => ?_) h)
  have hb := State.claimBerth_wf h (c := c) (n := n)
  dsimp only
  split
  · exact hb
  · simpa using hb

@[simp] theorem State.restoreBerths_wf {s : State} (h : s.mem.wf = true) {c area : Nat} :
    (s.restoreBerths c area).mem.wf = true := by
  unfold State.restoreBerths
  split
  · split
    · refine State.readBerths_wf ?_
      simpa using h
    · exact State.readBerths_wf (State.pullBerths_wf h)
  · exact State.readBerths_wf h

@[simp] theorem State.keepCores_mem (s : State) (id : Nat) (cs : List Nat) : (s.keepCores id cs).mem = s.mem :=
  (rfl)

@[simp] theorem State.rejoin_mem (s : State) (c area : Nat) (t : Task) (whole : Bool) :
    (s.rejoin c area t whole).mem = s.mem := by
  unfold State.rejoin
  split <;> simp

@[simp] theorem State.restoreContext_wf {s : State} (h : s.mem.wf = true) {area c cost : Nat} :
    (s.restoreContext area c cost).mem.wf = true := by simp [State.restoreContext, h]

@[simp] theorem State.acquireStart_wf {s : State} (h : s.mem.wf = true) {l : Launch} {c : Nat} :
    (s.acquireStart l c).mem.wf = true := by
  unfold State.acquireStart
  split <;> simp [h]

@[simp] theorem State.startFresh_wf {s : State} (h : s.mem.wf = true) {l : Launch} {n : Nat} {p : Plan} :
    (s.startFresh l n p).mem.wf = true := by
  unfold State.startFresh
  dsimp only
  refine foldl_wf (fun s e h => ?_) (State.ite_wf h h)
  refine State.ite_wf ?_ ?_
  · rw [State.recordSlips_mem, State.placeTask_mem]
    exact State.acquireStart_wf h
  · rw [State.placeTask_mem]
    exact State.acquireStart_wf h

@[simp] theorem State.startRecord_mem (s : State) (l : Launch) (r : SpawnRecord) (t : Task) (c : Nat) :
    (s.startRecord l r t c).mem = s.mem := by simp [State.startRecord]

@[simp] theorem State.restoreUnit_wf {s : State} (h : s.mem.wf = true) {rs : List SavedContext} {p : Plan} :
    (s.restoreUnit rs p).mem.wf = true := by
  have hr {l : List (SavedContext × Nat)} {f : State → SavedContext × Nat → Nat} : (l.foldl (fun s e =>
      s.restoreContext e.1.area e.2 (f s e)) s).mem.wf = true := foldl_wf (fun _ _ h => State.restoreContext_wf h) h
  unfold State.restoreUnit
  dsimp only
  rw [foldl_mem (fun _ _ => State.reaimCopies_mem _ _)]
  split
  · rw [State.keepCores_mem]
    exact hr
  · exact hr

@[simp] theorem State.runPlan_wf {s : State} (h : s.mem.wf = true) {l : Launch} {v : Head} {p : Plan} :
    (s.runPlan l v p).mem.wf = true := by
  have hm {t : State} (ht : t.mem.wf = true) : (p.victims.foldl (fun s c => if (s.core c).task.isSome then
      s.evictUnit c else
      s) t).mem.wf = true := foldl_wf (fun _ _ h => State.ite_wf (State.evictUnit_wf h) h) ht
  have hc {t : State} (ht : t.mem.wf = true) {l₁ l₂ l₃ : List Nat} {b : Bool} {n : State → Nat → Nat} :
      (l₃.foldl (fun s i => s.charge i b (n s i)) (l₂.foldl State.startBallast (l₁.foldl State.stopBallast
          t))).mem.wf =
      true := by
    rw [foldl_mem (fun _ _ => State.charge_mem _ _ _ _), foldl_mem State.startBallast_mem, foldl_mem
        State.stopBallast_mem]
    exact ht
  unfold State.runPlan
  dsimp only
  split
  · refine State.startFresh_wf ?_
    exact hc (hm h)
  · rw [State.startRecord_mem]
    exact hc (hm (by rwa [State.modCore_mem]))
  · refine State.restoreUnit_wf ?_
    exact hc (hm h)

@[simp] theorem State.prepareAll_wf {s : State} (h : s.mem.wf = true) {cs : List Nat} :
    (s.prepareAll cs).mem.wf = true := by
  unfold State.prepareAll
  exact foldl_wf (fun _ _ h => State.prepareSave_wf h) h

@[simp] theorem State.chooseReady_wf {s : State} (h : s.mem.wf = true) {i l : Nat} :
    (s.chooseReady i l).1.mem.wf = true := by
  induction l generalizing s with
  | zero => exact h
  | succ l ih =>
    unfold State.chooseReady
    dsimp only
    repeat' split
    all_goals simp [ih, h]

@[simp] theorem State.dispatch_wf {s : State} (h : s.mem.wf = true) {i : Nat} : (s.dispatch i).mem.wf = true := by
  have hc := State.chooseReady_wf (s := s.launches.foldl State.grantSlots s) (i := i) (l := coreCount + 1) (by
    rw [foldl_mem State.grantSlots_mem]
    exact h)
  unfold State.dispatch
  dsimp only
  split
  · exact hc
  · exact State.runPlan_wf hc

/-! #### Task instructions -/

@[simp] theorem Ctx.holds_wf {s : State} (h : s.mem.wf = true) {x : Ctx} : (x.holds s).state.mem.wf = true := h

@[simp] theorem Ctx.freed_mem (x : Ctx) (s : State) : (x.freed s).mem = s.mem := (rfl)

@[simp] theorem State.resumeHeld_wf {s : State} (h : s.mem.wf = true) {c : Nat} {o : Op} {body : Ctx → State → Res}
    (hb : ∀ x u, u.mem.wf = true → (body x u).state.mem.wf = true) : (s.resumeHeld c o body).mem.wf = true := by
  unfold State.resumeHeld
  split
  · dsimp only
    split
    · exact Ctx.conclude_wf (hb _ _ h)
    · exact h
  · exact h

@[simp] theorem Ctx.spawn_wf {s : State} (h : s.mem.wf = true) {x : Ctx} {r : SpawnRecord} :
    (x.spawn s r).mem.wf = true := by simp [Ctx.spawn, h]

@[simp] theorem spawnBody_wf {s : State} (h : s.mem.wf = true) {x : Ctx} : (spawnBody x s).state.mem.wf = true := by
  unfold spawnBody
  dsimp only
  repeat' split
  all_goals simp [h]

@[simp] theorem joinwBody_wf {s : State} (h : s.mem.wf = true) {x : Ctx} : (joinwBody x s).state.mem.wf = true := by
  unfold joinwBody
  dsimp only
  split <;> simp [h]

@[simp] theorem Ctx.memError_mem (x : Ctx) (s : State) (va : Nat) : (x.memError s va).mem = s.mem := (rfl)

@[simp] theorem Ctx.enterRead_wf {s : State} (h : s.mem.wf = true) {x : Ctx} {m : Manifest} {v : Option Manifest} :
    (x.enterRead s m v).state.mem.wf = true := by
  unfold Ctx.enterRead
  refine Res.ite_wf h (Res.ite_wf h ?_)
  have hr {k m v r d o q} : (((s.modCore x.c k).release x.c x.st .die).enterLaunch m v r d o q).1.mem.wf = true := by
    rw [State.enterLaunch_mem]
    refine State.release_wf ?_
    rw [State.modCore_mem]
    exact h
  exact Ctx.give_wf (State.ite_wf (State.closeLaunch_wf hr) hr)

@[simp] theorem launchBody_wf {s : State} (h : s.mem.wf = true) {x : Ctx} : (launchBody x s).state.mem.wf = true := by
  unfold launchBody
  dsimp only
  split
  · exact Ctx.enterRead_wf h
  · split
    · exact h
    · split
      · exact h
      · split
        · exact h
        · simpa using h
        · next e => exact (State.readManifest_wf h).wait e
        · next e => exact (State.readManifest_wf h).bad e
        · next e =>
          refine Ctx.enterRead_wf ?_
          rw [State.modCore_mem]
          exact (State.readManifest_wf h).ok e

@[simp] theorem yieldBody_wf {s : State} (h : s.mem.wf = true) {x : Ctx} : (yieldBody x s).state.mem.wf = true := by
  unfold yieldBody
  split <;> simp [h]

@[simp] theorem State.checkSlip_mem (s : State) (c : Nat) (t : Task) : (s.checkSlip c t).mem = s.mem := by
  simp [State.checkSlip]

@[simp] theorem ttrelBody_wf {s : State} (h : s.mem.wf = true) {x : Ctx} : (ttrelBody x s).state.mem.wf = true := by
  unfold ttrelBody
  dsimp only
  repeat' split
  all_goals simp [h]

@[simp] theorem Ctx.waitValue_wf {s : State} (h : s.mem.wf = true) {x : Ctx} {b win t0 line v : Nat} :
    (x.waitValue s b win t0 line v).state.mem.wf = true := by
  unfold Ctx.waitValue
  repeat' split
  all_goals simp [h]

@[simp] theorem waitbBody_wf {s : State} (h : s.mem.wf = true) {x : Ctx} : (waitbBody x s).state.mem.wf = true := by
  unfold waitbBody
  dsimp only
  split
  · exact h
  · split
    · exact h
    · next e => exact (Ctx.plainAccess_wf h).wait e
    · next e =>
      have ht := (Ctx.plainAccess_wf h).ok e
      split
      · exact ht
      · split
        · simpa using ht
        · refine Ctx.waitValue_wf ?_
          rw [State.bump_mem, State.acquireFor_mem]
          refine State.readParts_wf ?_
          rw [State.acquireFor_mem]
          exact ht

@[simp] theorem State.endLaunch_wf {s : State} (h : s.mem.wf = true) {l : Launch} {cause : Nat} :
    (s.endLaunch l cause).mem.wf = true := by
  unfold State.endLaunch
  dsimp only
  refine State.closeLaunch_wf (foldl_wf (fun _ _ h => State.endSaved_wf h) (foldl_wf (fun _ _ h => State.endTask_wf
      h) ?_))
  rw [State.setLaunch_mem]
  exact h

/-! #### System instructions and agents -/

@[simp] theorem trapBody_wf {s : State} (h : s.mem.wf = true) {svc : Bool} {x : Ctx} :
    (trapBody svc x s).state.mem.wf = true := by
  unfold trapBody
  dsimp only
  split <;> simp [h]

@[simp] theorem eretBody_wf {s : State} (h : s.mem.wf = true) {x : Ctx} : (eretBody x s).state.mem.wf = true := by
  simp [eretBody, h]

@[simp] theorem sregBody_wf {s : State} (h : s.mem.wf = true) {x : Ctx} : (sregBody x s).state.mem.wf = true := h

@[simp] theorem swregBody_wf {s : State} (h : s.mem.wf = true) {x : Ctx} : (swregBody x s).state.mem.wf = true := by
  unfold swregBody
  dsimp only
  repeat' split
  all_goals simp [h]

@[simp] theorem State.restartWalks_mem (s : State) (d : Nat) (cores : List Nat) (sel : Walk → Bool) :
    (s.restartWalks d cores sel).mem = s.mem := by simp [State.restartWalks]

@[simp] theorem Ctx.invalidate_mem (x : Ctx) (s : State) : (x.invalidate s).mem = s.mem := by
  unfold Ctx.invalidate
  dsimp only
  rw [State.modCore_mem, foldl_mem (fun _ _ => State.restartWalks_mem _ _ _ _), foldl_mem (fun _ _ =>
      State.setDie_mem _ _ _),
    foldl_mem (fun _ _ => by split <;> rfl)]

@[simp] theorem tlbiBody_wf {s : State} (h : s.mem.wf = true) {x : Ctx} : (tlbiBody x s).state.mem.wf = true := by
  unfold tlbiBody
  dsimp only
  repeat' split
  all_goals simp [h]

@[simp] theorem Ctx.enterOp_wf {s : State} (h : s.mem.wf = true) {x : Ctx} {save : Bool} {a : Nat}
    {targets tasks : List Nat} :
    (x.enterOp s save a targets tasks).state.mem.wf = true := h

@[simp] theorem Ctx.withArea_wf {x : Ctx} {s : State} (h : s.mem.wf = true) {k : AccessKind} {go : Nat → Nat → Res}
    (hg : ∀ a c, (go a c).state.mem.wf = true) : (x.withArea s k go).state.mem.wf = true := by
  unfold Ctx.withArea
  dsimp only
  split
  · exact h
  · split
    · exact h
    · exact hg _ _

@[simp] theorem ctxsBody_wf {s : State} (h : s.mem.wf = true) {x : Ctx} : (ctxsBody x s).state.mem.wf = true := by
  unfold ctxsBody
  exact Ctx.withArea_wf h (fun a c => Res.ite_wf h (Ctx.enterOp_wf h))

@[simp] theorem ctxlBody_wf {s : State} (h : s.mem.wf = true) {x : Ctx} : (ctxlBody x s).state.mem.wf = true := by
  unfold ctxlBody
  refine Ctx.withArea_wf h (fun a c => ?_)
  refine Res.ite_wf h (Res.ite_wf h (Res.ite_wf h (Res.ite_wf ?_ (Ctx.enterOp_wf h))))
  split
  · exact h
  · refine Ctx.enterOp_wf ?_
    exact h

@[simp] theorem State.endOp_wf {s : State} (h : s.mem.wf = true) {k : Nat} {o : CtxOp} {bytes : Nat} :
    (s.endOp k o bytes).mem.wf = true := by simp [State.endOp, h]

@[simp] theorem State.runSave_wf {s : State} (h : s.mem.wf = true) {k : Nat} {o : CtxOp} :
    (s.runSave k o).mem.wf = true := by
  have hl {l : List Nat} {t : State} (ht : t.mem.wf = true) : (l.foldl State.prepareSave t).mem.wf = true :=
    foldl_wf (fun _ _ h => State.prepareSave_wf h) ht
  have hk {l : List Nat} {t : State} (ht : t.mem.wf = true) : (l.foldl State.strike t).mem.wf = true :=
    foldl_wf (fun _ _ h => State.strike_wf h) ht
  unfold State.runSave
  dsimp only
  refine State.endOp_wf (State.ite_wf ?_ ?_)
  · rw [foldl_mem (fun _ _ => State.markSaved_mem _ _ _)]
    refine foldl_wf (fun _ _ h => State.saveContext_wf h) (State.ite_wf (hk (hl h)) ?_)
    rw [foldl_mem (fun _ _ => State.modCore_mem _ _ _)]
    exact hk (hl h)
  · refine foldl_wf (fun _ _ h => State.saveContext_wf h) (State.ite_wf (hk (hl h)) ?_)
    rw [foldl_mem (fun _ _ => State.modCore_mem _ _ _)]
    exact hk (hl h)

@[simp] theorem State.runLoad_wf {s : State} (h : s.mem.wf = true) {k : Nat} {o : CtxOp} :
    (s.runLoad k o).mem.wf = true := by
  unfold State.runLoad
  dsimp only
  refine State.endOp_wf ?_
  have hm {l : List (Nat × Nat)} {g : State → Nat × Nat → State} (hg : ∀ s e, (g s e).mem = s.mem)
      {a : Nat × Nat → Nat} {cost : State → Nat × Nat → Nat} :
      (l.foldl (fun s e => (g s e).restoreContext (a e) e.2 (cost s e)) s).mem.wf = true :=
    foldl_wf (fun s e h => State.restoreContext_wf ((congrArg Memory.wf (hg s e)).trans h)) h
  rw [foldl_mem (fun s n => State.reaimCopies_mem s n)]
  split
  · rw [State.keepCores_mem, foldl_mem (fun s n => State.stopBallast_mem s n)]
    exact hm (g := fun s e => s.charge _ _ _) (fun s e => State.charge_mem _ _ _ _)
  · exact hm (g := fun s e => s.charge _ _ _) (fun s e => State.charge_mem _ _ _ _)

@[simp] theorem State.restoreOn_wf {s : State} (h : s.mem.wf = true) {c : Nat} : (s.restoreOn c).mem.wf = true := by
  unfold State.restoreOn
  repeat' split
  all_goals simp [h]

@[simp] theorem idleBody_wf {s : State} (h : s.mem.wf = true) {x : Ctx} : (idleBody x s).state.mem.wf = true := by
  unfold idleBody
  split <;> simp [h]

@[simp] theorem idleMBody_wf {s : State} (h : s.mem.wf = true) {x : Ctx} : (idleMBody x s).state.mem.wf = true := by
  unfold idleMBody
  split <;> simp [h]

@[simp] theorem State.peerWrite_wf {s : State} (h : s.mem.wf = true) {w off : Nat} {data : List Byte} :
    (s.peerWrite w off data).mem.wf = true := by
  unfold State.peerWrite
  split <;> simp [h]

@[simp] theorem State.endMooring_wf {s : State} (h : s.mem.wf = true) : (s.endMooring).mem.wf = true := by
  unfold State.endMooring
  split
  · have hp {l : List (Nat × Nat × List Byte)} {t : State} (ht : t.mem.wf = true) :
        (l.foldl (fun s e => s.peerWrite e.1 e.2.1 e.2.2) t).mem.wf = true :=
      foldl_wf (fun _ _ h => State.peerWrite_wf h) ht
    dsimp only
    split
    · refine State.completeHeld_wf ?_
      rw [State.modCore_mem]
      exact hp h
    · exact hp h
  · exact h

@[simp] theorem State.startDies_wf {s : State} (h : s.mem.wf = true) : (s.startDies).mem.wf = true := by
  unfold State.startDies
  refine foldl_wf (fun _ _ h => State.bootFirmware_wf h) ?_
  simpa using h

@[simp] theorem State.writeParked_wf {s : State} (h : s.mem.wf = true) : (s.writeParked).mem.wf = true := by
  unfold State.writeParked
  exact foldl_wf (fun _ _ h => foldl_wf (fun _ _ h => State.pullBerths_wf h) h) h

@[simp] theorem State.resetDies_wf {s : State} (h : s.mem.wf = true) : (s.resetDies).mem.wf = true := by
  simp [State.resetDies, h]

@[simp] theorem State.saveAll_wf {s : State} (h : s.mem.wf = true) : (s.saveAll).mem.wf = true := by
  unfold State.saveAll
  dsimp only
  refine foldl_wf (fun _ _ h => State.writeBack_wf h) ?_
  rw [foldl_mem (fun _ _ => State.markSaved_mem _ _ _)]
  exact State.preemptInto_wf (foldl_wf (fun _ _ h => State.prepareSave_wf h) h)

@[simp] theorem State.dropLaunches_mem (s : State) : (s.dropLaunches).mem = s.mem := by simp [State.dropLaunches]

/-! #### Host queues -/

@[simp] theorem State.stopQueue_mem (s : State) (q : Nat) (cause : Cause) : (s.stopQueue q cause).mem = s.mem := by
  simp [State.stopQueue]

@[simp] theorem State.copyHead_mem (s : State) (q : Nat) (g : Memory) : (s.copyHead q g).mem = s.mem := (rfl)

@[simp] theorem State.examineQueue_wf {s : State} (h : s.mem.wf = true) {q l : Nat} :
    (s.examineQueue q l).mem.wf = true := by
  induction l generalizing s with
  | zero => exact h
  | succ n ih =>
    unfold State.examineQueue
    dsimp only
    split
    · exact h
    · split
      · next e => exact (State.readRange_wf h).wait e
      · simpa using h
      · simpa using h
      · next e =>
        have ht := (State.readRange_wf h).ok e
        split
        · rw [State.setQueue_mem]
          exact ht
        · split
          · next e => exact (State.writeRange_wf ht).wait e
          · next e =>
            rw [State.stopQueue_mem]
            exact (State.writeRange_wf ht).fault e
          · next e =>
            refine ih ?_
            rw [State.copyHead_mem]
            exact (State.writeRange_wf ht).ok e

@[simp] theorem State.examineHeads_wf {s : State} (h : s.mem.wf = true) : (s.examineHeads).mem.wf = true := by
  unfold State.examineHeads
  exact foldl_wf (fun _ _ h => State.examineQueue_wf h) h

@[simp] theorem State.finishPacket_mem (s : State) (q : Nat) (p : Packet) : (s.finishPacket q p).mem = s.mem :=
  (rfl)

@[simp] theorem State.applyCompletions_mem (s : State) : (s.applyCompletions).mem = s.mem := by
  unfold State.applyCompletions
  exact foldl_mem (fun s n => by split <;> rfl) _ _

@[simp] theorem State.packetCompletion_wf {s : State} (h : s.mem.wf = true) {q : Nat} {p : Packet} :
    (s.packetCompletion q p).2.mem.wf = true := by
  unfold State.packetCompletion
  split
  · exact h
  · split
    · next e => exact (State.readRange_wf h).ok e
    · next e => exact (State.readRange_wf h).wait e
    · exact h

@[simp] theorem State.failPacket_wf {s : State} (h : s.mem.wf = true) {q : Nat} {p : Packet} {cause : Cause} :
    (s.failPacket q p cause).2.mem.wf = true := by
  have hp := State.packetCompletion_wf h (q := q) (p := p)
  unfold State.failPacket
  split
  · next e => simpa [e] using hp
  · next t e =>
    have ht : t.mem.wf = true := by simpa [e] using hp
    have hw {va b} := State.writeRecord_wf ht (c := 0) (who := packetWaiter p.age) (root := (t.queue q).root)
        (va := va)
      (info := 64 + q) (bytes := b)
    split
    · next e => exact (congrArg (fun r : Bool × State => r.2.mem.wf) e).symm.trans hw
    · next e =>
      have hu := (congrArg (fun r : Bool × State => r.2.mem.wf) e).symm.trans hw
      simpa using hu

@[simp] theorem State.startTokens_wf {s : State} (h : s.mem.wf = true) {q : Nat} {p : Packet} :
    (s.startTokens q p).2.mem.wf = true := by
  have hw := State.writeRecord_wf h (c := 0) (who := packetWaiter p.age) (root := (s.queue q).root)
      (va := p.completion)
    (info := 64 + q) (bytes := packetRecord 1 0 (s.timeWith s.ioSkew))
  unfold State.startTokens
  split
  · next e => simpa [e] using hw
  · next e =>
    rw [e] at hw
    exact (congrArg Memory.wf (State.finishPacket_mem _ _ _)).trans hw

@[simp] theorem State.enterPacket_wf {s : State} (h : s.mem.wf = true) {q : Nat} {p : Packet} {m : Manifest}
    {v : Option Manifest} {d : Nat} :
    (s.enterPacket q p m v d).mem.wf = true := by simp [State.enterPacket, h]

@[simp] theorem State.startLaunch_wf {s : State} (h : s.mem.wf = true) {q : Nat} {p : Packet} :
    (s.startLaunch q p).2.mem.wf = true := by
  unfold State.startLaunch
  split
  · next e => exact (State.readManifest_wf h).wait e
  · exact State.failPacket_wf h
  · exact State.failPacket_wf h
  · next e => exact State.failPacket_wf ((State.readManifest_wf h).bad e)
  · next e =>
    have h := (State.readManifest_wf h).ok e
    split
    · exact State.failPacket_wf h
    · split
      · exact h
      · exact State.enterPacket_wf h

@[simp] theorem State.startPacket_wf {s : State} (h : s.mem.wf = true) {q : Nat} {p : Packet} {first : List Nat} :
    (s.startPacket q p first).2.mem.wf = true := by
  unfold State.startPacket
  repeat' split
  all_goals simp [h]

@[simp] theorem State.runStarts_wf {s : State} (h : s.mem.wf = true) {first l : List Nat} :
    (s.runStarts first l).mem.wf = true := by
  induction l generalizing s with
  | nil => exact h
  | cons n l ih =>
    unfold State.runStarts
    split
    · exact ih h
    · next q p _ =>
      have hp := State.startPacket_wf h (q := q) (p := p) (first := first)
      split
      · next e => simpa [e] using hp
      · next e => exact ih (by simpa [e] using hp)

/-! #### Sampling instructions -/

@[simp] theorem smpTempBody_wf {s : State} (h : s.mem.wf = true) {x : Ctx} :
    (smpTempBody x s).state.mem.wf = true := by
  unfold smpTempBody
  split <;> simp [h]

@[simp] theorem rngBody_wf {s : State} (h : s.mem.wf = true) {x : Ctx} : (rngBody x s).state.mem.wf = true := h

@[simp] theorem Ctx.withRow_wf {x : Ctx} {s : State} (h : s.mem.wf = true) {size align : Nat} {store : Bool}
    {go : Core → Nat → Res} (hg : ∀ k o, (go k o).state.mem.wf = true) :
    (x.withRow s size align store go).state.mem.wf = true := by
  unfold Ctx.withRow
  dsimp only
  split
  · exact h
  · split
    · exact h
    · split
      · exact h
      · exact hg _ _

@[simp] theorem Ctx.smpResult_wf {s : State} (h : s.mem.wf = true) {x : Ctx} {v : Nat} :
    (x.smpResult s v).state.mem.wf = true := h

@[simp] theorem smpFiltBody_wf {s : State} (h : s.mem.wf = true) {x : Ctx} :
    (smpFiltBody x s).state.mem.wf = true := by
  unfold smpFiltBody
  refine Ctx.withRow_wf h (fun k o => Res.ite_wf h (Res.ite_wf h (Res.ite_wf h ?_)))
  exact Ctx.smpResult_wf (Ctx.holdPut_wf h)

@[simp] theorem smpPickBody_wf {s : State} (h : s.mem.wf = true) {x : Ctx} :
    (smpPickBody x s).state.mem.wf = true := by
  unfold smpPickBody
  refine Ctx.withRow_wf h (fun k o => ?_)
  dsimp only
  split <;> exact h

@[simp] theorem smpVerBody_wf {s : State} (h : s.mem.wf = true) {x : Ctx} : (smpVerBody x s).state.mem.wf = true := by
  unfold smpVerBody
  refine Ctx.withRow_wf h (fun k o => ?_)
  dsimp only
  split <;> exact h

@[simp] theorem smpStopBody_wf {s : State} (h : s.mem.wf = true) {x : Ctx} :
    (smpStopBody x s).state.mem.wf = true := by
  unfold smpStopBody
  refine Ctx.withRow_wf h (fun k o => Res.ite_wf h ?_)
  dsimp only
  split <;> exact Ctx.smpResult_wf (Ctx.holdPut_wf h)

/-! #### Scalar instructions -/

@[simp] theorem writeBody_wf {s : State} (h : s.mem.wf = true) {lat : Nat} {g : Ctx → State → Word} {x : Ctx} :
    (writeBody lat g x s).state.mem.wf = true := h

@[simp] theorem divideBody_wf {s : State} (h : s.mem.wf = true) {g : Ctx → State → Word} {x : Ctx} :
    (divideBody g x s).state.mem.wf = true := by
  unfold divideBody
  split <;> simp [h]

/-! #### Vector instructions -/

@[simp] theorem vectorUnit_wf {x : Ctx} {s : State} {busy : Nat} {body : Ctx → State → Res}
    (hb : (body x s).state.mem.wf = true) (h : s.mem.wf = true) : (vectorUnit busy body x s).state.mem.wf = true := by
  unfold vectorUnit
  split
  · exact h
  · split
    · next e => simpa [e] using hb
    · exact hb

@[simp] theorem vectorBody_wf {lat : Nat} {g : Ctx → State → (Operand → Entry) → Entry × List Effect} {x : Ctx}
    {s : State}
    (h : s.mem.wf = true) : (vectorBody lat g x s).state.mem.wf = true := by
  unfold vectorBody
  exact vectorUnit_wf (queueBody_wf h) h

@[simp] theorem elemBody_wf {s : State} (h : s.mem.wf = true) {k : Elem} {x : Ctx} :
    (elemBody k x s).state.mem.wf = true := by
  unfold elemBody
  exact vectorUnit_wf (queueBody_wf h) h

@[simp] theorem vcutBody_wf {s : State} (h : s.mem.wf = true) {x : Ctx} : (vcutBody x s).state.mem.wf = true := by
  unfold vcutBody
  dsimp only
  split <;> simp [h]

/-! #### The turn of a stream -/

@[simp] theorem State.holdBack_mem (s : State) (c : Nat) (st : Stream) (w : Wait) :
    (s.holdBack c st w).mem = s.mem := (rfl)

@[simp] theorem State.letGo_mem (s : State) (c : Nat) : (s.letGo c).mem = s.mem := by
  unfold State.letGo
  exact foldl_mem (fun _ _ => State.modStream_mem _ _ _ _) s _

/-! #### Ticks and turns -/

@[simp] theorem State.nextTurn_mem (s : State) : (s.nextTurn).2.mem = s.mem := by
  unfold State.nextTurn
  split <;> simp

@[simp] theorem State.beginTick_wf {s : State} (h : s.mem.wf = true) {c : Nat} : (s.beginTick c).mem.wf = true := by
  simp [State.beginTick, h]

@[simp] theorem State.countTick_mem (s : State) (i : Nat) : (s.countTick i).mem = s.mem := (rfl)

@[simp] theorem State.evictPage_mem (s : State) (c page : Nat) : (s.evictPage c page).mem = s.mem := (rfl)

@[simp] theorem State.enableQueue_mem (s : State) (q : Nat) : (s.enableQueue q).mem = s.mem := by
  simp [State.enableQueue]

@[simp] theorem State.openWindow_mem (s : State) (w base size : Nat) : (s.openWindow w base size).mem = s.mem := by
  simp [State.openWindow]

@[simp] theorem State.catchUp_wf {s : State} (h : s.mem.wf = true) : (s.catchUp).mem.wf = true := by
  simp [State.catchUp, h]

end Sys2Proof.Machine
end

section
/-!
PROOFS. Every instruction, every event and every turn keeps the canonical form of the memory (O50).
-/
namespace Sys2Proof.Machine

/-! ### Outcomes -/

/-- The state that an outcome answers has its memory in canonical form. -/
def KeepsWf : Host.Outcome State Fault Refusal → Prop
  | .next t => t.mem.wf = true
  | _ => True

theorem KeepsWf.next {o : Host.Outcome State Fault Refusal} {t : State} (h : KeepsWf o) (e : o = .next t) :
    t.mem.wf = true := by
  subst e
  exact h

theorem KeepsWf.ite {c : Prop} [Decidable c] {a b : Host.Outcome State Fault Refusal} (ha : KeepsWf a)
    (hb : KeepsWf b) : KeepsWf (if c then a else b) :=
  iteInduction (fun _ => ha) (fun _ => hb)

/-- An event of an agent: a fault where there is none. -/
theorem KeepsWf.agent {c : Prop} [Decidable c] {a : Host.Outcome State Fault Refusal} {f : Fault} (ha : KeepsWf a) :
    KeepsWf (if c then a else .fault f) :=
  .ite ha trivial

theorem outcomeState_wf {o : Host.Outcome State Fault Refusal} {s : State} (ho : KeepsWf o) (h : s.mem.wf = true) :
    (outcomeState o s).mem.wf = true := by
  unfold outcomeState
  split
  · exact ho
  · exact h

theorem mem_of_choose {α : Type} {s u : State} {l : List α} {o : Option α} (e : s.choose l = (o, u)) :
    u.mem = s.mem := by
  rw [← State.choose_mem s l, e]

/-! ### Instructions -/

theorem issue_keepsWf {o : Op} {b : Bundle} {f : Fields} {body : Ctx → State → Res} {s : State}
    (hb : ∀ x u, u.mem.wf = true → (body x u).state.mem.wf = true) (h : s.mem.wf = true) :
    KeepsWf (issue o b f body s) :=
  Ctx.issue_wf hb h

/-! ### Events -/

section
variable {s : State} (h : s.mem.wf = true)
include h

theorem onCopy_keepsWf {c id : Nat} {go : Copy → State} (hg : ∀ cp, (go cp).mem.wf = true) :
    KeepsWf (onCopy c id s go) := by
  refine .agent ?_
  split
  · exact hg _
  · exact h

theorem execCrewDeadlock_keepsWf {c : Nat} : KeepsWf (execCrewDeadlock c s) :=
  .agent (State.ite_wf (State.raise_wf h) h)

theorem execPageOut_keepsWf {leaf : Nat} : KeepsWf (execPageOut leaf s) :=
  State.ite_wf (State.tryPageOut_wf h) (State.ite_wf (State.startPageOut_wf h) h)

theorem execLoadDataLanding_keepsWf {c n : Nat} {st : Stream} : KeepsWf (execLoadDataLanding c st n s) := by
  refine .agent ?_
  dsimp only
  split
  · exact h
  · refine .ite h (.ite (State.ite_wf ?_ h) ?_)
    · rwa [State.finishLoad_mem]
    · split
      · next e => rwa [KeepsWf, mem_of_choose e]
      · next e =>
        refine State.loadPiece_wf ?_
        rwa [mem_of_choose e]

theorem execStorePerformed_keepsWf {c n : Nat} {st : Stream} : KeepsWf (execStorePerformed c st n s) := by
  refine .agent ?_
  dsimp only
  split
  · exact h
  · split
    · next e => rwa [KeepsWf, mem_of_choose e]
    · next e =>
      refine State.storePiece_wf ?_
      rwa [mem_of_choose e]

theorem execMemUncorr_keepsWf {c : Nat} {st : Stream} : KeepsWf (execMemUncorr c st s) := by
  refine .agent ?_
  split
  · exact h
  · exact .ite h (State.deliverUncorr_wf h)

theorem execPromotionRequest_keepsWf {c : Nat} : KeepsWf (execPromotionRequest c s) := by
  refine .agent ?_
  dsimp only
  split
  · refine .ite (State.endWidening_wf h) (.ite ?_ h)
    simpa [KeepsWf] using h
  · refine .ite ?_ h
    simpa [KeepsWf] using h

theorem execWideningWaitBound_keepsWf {c : Nat} : KeepsWf (execWideningWaitBound c s) := by
  refine .agent ?_
  split
  · refine .ite ?_ h
    simpa [KeepsWf] using h
  · exact h

theorem execCopyEntryDelivery_keepsWf {c id : Nat} : KeepsWf (execCopyEntryDelivery c id s) := by
  refine onCopy_keepsWf h (fun cp => ?_)
  split
  · exact State.ite_wf (State.deliverEntry_wf h) h
  · exact h

theorem execMailboxArrival_keepsWf {c : Nat} : KeepsWf (execMailboxArrival c s) := by
  refine .ite h (.agent ?_)
  dsimp only
  split
  · refine State.arrive_wf ?_
    exact h
  · exact h

theorem execWaitbExpiry_keepsWf {c : Nat} : KeepsWf (execWaitbExpiry c s) := by
  refine .agent ?_
  split
  · exact .ite (State.resumeHeld_wf h (fun _ _ hu => waitbBody_wf hu)) h
  · exact h

theorem execDispatchSlot_keepsWf {i : Nat} : KeepsWf (execDispatchSlot i s) := by
  refine .agent (.ite (State.dispatch_wf ?_) h)
  simpa using h

theorem execParentPreemptTimeout_keepsWf {c : Nat} : KeepsWf (execParentPreemptTimeout c s) := by
  have hc : (s.catchTides (dieOf c)).mem.wf = true := by rwa [State.catchTides_mem]
  refine .agent ?_
  dsimp only
  split
  · exact hc
  · split
    · exact hc
    · exact State.ite_wf hc (State.ite_wf (State.runPlan_wf (State.prepareAll_wf hc)) (State.prepareAll_wf hc))

theorem execTaskEnd_keepsWf {c : Nat} : KeepsWf (execTaskEnd c s) := by
  refine .agent (.ite h (.ite (State.endTask_wf h) ?_))
  split
  · exact State.endSaved_wf h
  · exact h

theorem execLaunchDeadline_keepsWf {n : Nat} : KeepsWf (execLaunchDeadline n s) := by
  unfold execLaunchDeadline
  split
  · exact h
  · exact State.ite_wf (State.endLaunch_wf h) h

theorem writeQueueRegister_keepsWf {c : Prop} [Decidable c] {q off : Nat} {v : Word} {f : Fault} :
    KeepsWf (if c then .next (writeQueueRegister s.endMooring q off v) else .fault f) := by
  refine .agent ?_
  rw [KeepsWf, writeQueueRegister_mem]
  exact State.endMooring_wf h

theorem execDoorbellFold_keepsWf {q : Nat} : KeepsWf (execDoorbellFold q s) := by
  refine .agent ?_
  split
  · exact h
  · rw [KeepsWf, State.setQueue_mem]
    exact State.endMooring_wf h

theorem execLfeCycle_keepsWf : KeepsWf (execLfeCycle s) := by
  unfold execLfeCycle
  split
  · exact State.ite_wf h (State.runStarts_wf h)
  · have he : s.closeLaunches.applyCompletions.examineHeads.mem.wf = true := by
      refine State.examineHeads_wf ?_
      rw [State.applyCompletions_mem]
      exact State.closeLaunches_wf h
    exact State.ite_wf he (State.runStarts_wf he)

theorem execThrottleWarn_keepsWf {c : Nat} : KeepsWf (execThrottleWarn c s) := by
  refine .agent (.ite h (.ite ?_ (.ite (State.deliverWarn_wf h) h)))
  rwa [KeepsWf, State.holdWarn_mem]

theorem execThermalResume_keepsWf : KeepsWf (execThermalResume s) := by
  refine .ite ?_ h
  rwa [KeepsWf, foldl_mem State.stepNow_mem]

theorem execTimeCorrection_keepsWf {region value : Nat} : KeepsWf (execTimeCorrection region value s) := by
  refine .ite ?_ (.ite ?_ (.agent ?_))
  · split
    · rwa [KeepsWf, State.setIsland_mem]
    · exact h
  · split
    · rwa [KeepsWf, State.setDie_mem]
    · exact h
  · split <;> exact h

theorem execChartTransferEnd_keepsWf {die slot : Nat} : KeepsWf (execChartTransferEnd die slot s) := by
  refine .agent ?_
  split
  · exact State.ite_wf h (State.endTransfer_wf h)
  · exact h

theorem execPreemption_keepsWf {c : Nat} : KeepsWf (execPreemption c s) := by
  refine .agent (.ite h (.ite (State.ite_wf (State.evictUnit_wf h) h) ?_))
  split
  · exact State.ite_wf (State.runSave_wf h) h
  · exact h

theorem execMoorWake_keepsWf {cause : WakeCause} : KeepsWf (execMoorWake cause s) := by
  unfold execMoorWake
  split
  · split
    · exact State.ite_wf (State.endMooring_wf h) h
    · exact h
  · exact State.endMooring_wf h

theorem execHostPortAccess_keepsWf {addr : Nat} {access : PortAccess} :
    KeepsWf (execHostPortAccess addr access s) := by
  have hm := State.endMooring_wf h
  cases access with
  | read n =>
    refine .ite ?_ hm
    dsimp only [KeepsWf]
    rwa [foldl_mem (fun _ _ => State.touchLine_mem _ _ _ _)]
  | write data => exact .ite (State.storeFor_wf hm) hm

theorem execWarmStart_keepsWf {orderly : Bool} : KeepsWf (execWarmStart orderly s) := by
  refine .ite h (.ite (State.ite_wf (State.resetDies_wf (State.saveAll_wf h)) h) ?_)
  refine State.closeLaunches_wf (State.resetDies_wf ?_)
  rwa [State.dropLaunches_mem]

end

theorem execMeteredLine_keepsWf {s : State} (h : s.mem.wf = true) {c : Nat} {ended : Bool} :
    KeepsWf (execMeteredLine c ended s) := by
  refine .agent (.ite h ?_)
  dsimp only [KeepsWf]
  exact foldl_wf (fun _ _ hu => State.meterTo_wf hu) h

theorem execColdStart_keepsWf {a b : Bool} {s : State} : KeepsWf (execColdStart a b s) := by
  unfold execColdStart
  refine .ite ?_ State.reset_mem_wf
  dsimp only [KeepsWf]
  exact State.startDies_wf State.reset_mem_wf

theorem exec_keepsWf {s : State} (h : s.mem.wf = true) (i : Instr) : KeepsWf (exec i s) := by
  cases i with
  | crewDeadlock c => exact execCrewDeadlock_keepsWf h
  | pageIn leaf ok => exact State.ite_wf (State.endPageIn_wf h) h
  | pageOut leaf => exact execPageOut_keepsWf h
  | loadDataLanding c st n => exact execLoadDataLanding_keepsWf h
  | memUncorr c st => exact execMemUncorr_keepsWf h
  | meteredLine c ended => exact execMeteredLine_keepsWf h
  | promotionRequest c => exact execPromotionRequest_keepsWf h
  | wideningWaitBound c => exact execWideningWaitBound_keepsWf h
  | copyStart c id | drainStart c id => exact onCopy_keepsWf h (fun _ => State.ite_wf (State.startCopy_wf h) h)
  | copyEntryDelivery c id => exact execCopyEntryDelivery_keepsWf h
  | copyEnd c id => exact onCopy_keepsWf h (fun _ => State.endCopy_wf h)
  | resultLanding c | matrixLanding c => exact .agent (State.landDue_wf h)
  | mailboxArrival c => exact execMailboxArrival_keepsWf h
  | waitbExpiry c => exact execWaitbExpiry_keepsWf h
  | dispatchSlot i => exact execDispatchSlot_keepsWf h
  | parentPreemptTimeout c => exact execParentPreemptTimeout_keepsWf h
  | taskEnd c => exact execTaskEnd_keepsWf h
  | launchDeadline n => exact execLaunchDeadline_keepsWf h
  | kick q v | tokset q v | tokclr q v => exact writeQueueRegister_keepsWf h
  | doorbellFold q => exact execDoorbellFold_keepsWf h
  | hostQueueReservedWrite q off v => exact .agent (State.endMooring_wf h)
  | lfeCycle => exact execLfeCycle_keepsWf h
  | tideBoundary die => exact .agent (by rwa [KeepsWf, State.nextTide_mem])
  | throttleWarn c => exact execThrottleWarn_keepsWf h
  | throttleStep i => exact .agent (by rwa [KeepsWf, State.stepNow_mem, State.catchTides_mem])
  | boostWindowEnd i => exact .agent (by rwa [KeepsWf, State.closeWindow_mem, State.catchTides_mem])
  | powerLimitStretch i => exact .agent (by rwa [KeepsWf, State.setIsland_mem])
  | thermalTrip => exact h
  | thermalResume => exact execThermalResume_keepsWf h
  | timeCorrection r v => exact execTimeCorrection_keepsWf h
  | chartTransferEnd d n => exact execChartTransferEnd_keepsWf h
  | preemption c => exact execPreemption_keepsWf h
  | moorWake cause => exact execMoorWake_keepsWf h
  | walrisPeerWrite w off data =>
    exact .ite (.ite (State.endMooring_wf h) (State.peerWrite_wf h)) h
  | coldStart a b => exact execColdStart_keepsWf
  | warmStart orderly => exact execWarmStart_keepsWf h
  | attestationRequest nonce => exact .ite (State.endMooring_wf h) h
  | idleTickLimit c => exact .agent (State.resumeHeld_wf h (fun _ _ hu => idleBody_wf hu))
  | nextRelease c => exact .agent (State.resumeHeld_wf h (fun _ _ hu => ttrelBody_wf hu))
  | storePerformed c st n => exact execStorePerformed_keepsWf h
  | hostPortAccess addr access => exact execHostPortAccess_keepsWf h
  | _ => exact issue_keepsWf (fun x u hu => by simp [hu]) h

/-! ### The turn of a stream -/

theorem State.recordWaits_mem (s : State) (c : Nat) (l : List (Stream × State)) : (s.recordWaits c l).mem = s.mem :=
  foldl_mem (fun _ _ => by rw [State.mem_ite, State.modStream_mem, ite_self]) s l

section
variable {s : State} (h : s.mem.wf = true) {c : Nat} {st : Stream}
include h

theorem State.fetchAndRun_keepsWf : KeepsWf (s.fetchAndRun c st) := by
  have hf : (s.fetchBundle c st).Wf := State.fetchBundle_wf h
  unfold State.fetchAndRun
  split
  · next e => rw [KeepsWf, State.holdBack_mem]; exact hf.wait e
  · exact State.raiseOrWait_wf h
  · next u ws fl bh e =>
    have hu := hf.ok e
    dsimp only
    split
    · rw [KeepsWf, State.holdBack_mem, State.modStream_mem]
      exact hu
    · refine .ite ?_ ?_
      · rwa [KeepsWf, State.holdBack_mem]
      · split
        · exact State.raiseOrWait_wf hu
        · exact State.raiseOrWait_wf hu
        · refine exec_keepsWf ?_ _
          exact hu

theorem State.attempt_keepsWf : KeepsWf (s.attempt c st) := by
  unfold State.attempt
  split
  · refine exec_keepsWf ?_ _
    exact h
  · exact State.fetchAndRun_keepsWf h

theorem State.tryBundle_keepsWf : KeepsWf (s.tryBundle c st) := by
  unfold State.tryBundle
  split
  · exact State.deliverUncorr_wf h
  · exact State.attempt_keepsWf h

theorem State.trials_wf {e : Stream × State} (he : e ∈ s.trials c) : e.2.mem.wf = true := by
  obtain ⟨st, -, rfl⟩ := List.mem_map.1 he
  exact outcomeState_wf (State.tryBundle_keepsWf (by rwa [State.letGo_mem])) h

theorem State.issueAll_wf {l : List Stream} : (s.issueAll c l).1.mem.wf = true := by
  induction l generalizing s with
  | nil => exact h
  | cons st l ih =>
    have ht := outcomeState_wf (State.attempt_keepsWf h (c := c) (st := st)) h
    unfold State.issueAll
    dsimp only
    split
    · exact ht
    · exact ih ht

theorem State.rendezvous_wf : (s.rendezvous c).mem.wf = true := by
  unfold State.rendezvous
  dsimp only
  refine State.ite_wf h (State.ite_wf ?_ ?_)
  · rw [State.recordWaits_mem]
    exact h
  · split
    · next e he => exact State.trials_wf h (List.mem_of_find?_eq_some he)
    · split
      · rwa [State.modStream_mem]
      · next t e =>
        have ht : t.mem.wf = true := by
          have ha := State.issueAll_wf (s := s.letGo c) (c := c)
            (l := ((s.trials c).filter (fun e => e.2.note != .late)).map (fun e => e.1)) (by rwa [State.letGo_mem])
          rw [e] at ha
          exact ha
        have hs (l : List (Stream × State)) : (l.foldl (fun s e => s.modStream c e.1 (fun t =>
            { t with syncDone := true })) t).mem.wf = true := by
          rwa [foldl_mem (fun _ _ => State.modStream_mem _ _ _ _)]
        split
        · exact hs _
        · exact outcomeState_wf (State.attempt_keepsWf (hs _)) (hs _)

theorem State.issueBundle_keepsWf : KeepsWf (s.issueBundle c st) := by
  have hb := State.tryBundle_keepsWf h (c := c) (st := st)
  unfold State.issueBundle
  split
  · next t e => exact .ite (State.rendezvous_wf (hb.next e)) (hb.next e)
  · exact hb

theorem State.issueFirst_keepsWf : KeepsWf (s.issueFirst c st) := by
  have hb := State.issueBundle_keepsWf h (c := c) (st := st)
  unfold State.issueFirst
  split
  · next t e =>
    refine .ite ?_ (hb.next e)
    split
    · exact State.issueBundle_keepsWf h
    · exact hb.next e
  · exact hb

theorem State.issueTurn_keepsWf : KeepsWf (s.issueTurn c st) := by
  have hw : (s.holdWarn c).mem.wf = true := by rwa [State.holdWarn_mem]
  unfold State.issueTurn
  refine .ite h (.ite (State.issueFirst_keepsWf hw) (.ite ?_ (State.issueFirst_keepsWf h)))
  split
  · exact State.issueBundle_keepsWf hw
  · exact State.deliverWarn_wf h

theorem State.warnTurn_keepsWf {i : Instr} : KeepsWf (s.warnTurn c i) := by
  refine .ite ?_ (exec_keepsWf h i)
  split
  · exact State.issueTurn_keepsWf h
  · exact exec_keepsWf h i

theorem State.uncorrTurn_keepsWf {i : Instr} : KeepsWf (s.uncorrTurn c st i) := by
  unfold State.uncorrTurn
  split
  · exact .ite (exec_keepsWf h i) (State.issueBundle_keepsWf h)
  · exact exec_keepsWf h i

/-! ### Ticks and turns -/

theorem State.stampTurn_wf : (s.stampTurn c).mem.wf = true := by
  unfold State.stampTurn
  split
  · exact h
  · exact foldl_wf (fun _ _ hu => outcomeState_wf (State.issueTurn_keepsWf hu) hu) h

theorem State.refreshWaits_wf : (s.refreshWaits c).mem.wf = true := by
  refine foldl_wf (fun u st hu => State.ite_wf (outcomeState_wf (State.issueTurn_keepsWf ?_) hu) ?_) h
  · exact hu
  · rwa [State.modStream_mem]

theorem State.checkDeadlock_wf : (s.checkDeadlock c).mem.wf = true :=
  State.ite_wf h (State.ite_wf (outcomeState_wf (execCrewDeadlock_keepsWf (State.refreshWaits_wf h)) h) h)

theorem State.endTick_wf : (s.endTick c).mem.wf = true := State.checkDeadlock_wf (State.stampTurn_wf h)

theorem State.edge_wf {i : Nat} : (s.edge i).mem.wf = true := by
  unfold State.edge
  refine State.ite_wf ?_ (foldl_wf (fun _ _ hu => State.beginTick_wf hu) ?_)
  · rwa [State.setIsland_mem]
  · rw [State.receive_mem, State.closeWindow_mem, State.catchTides_mem, State.countTick_mem]
    exact foldl_wf (fun _ _ hu => State.endTick_wf hu) h

theorem State.endActed_wf {i n : Nat} : (s.endActed i n).mem.wf = true := by
  induction n generalizing s with
  | zero => exact h
  | succ n ih => exact State.ite_wf (ih (State.edge_wf h)) h

theorem State.endTicks_wf {is : List Nat} : (s.endTicks is).mem.wf = true :=
  foldl_wf (fun _ _ hu => State.endActed_wf hu) h

theorem State.runTurn_keepsWf (t : Turn) : KeepsWf (s.runTurn t) := by
  have hs : s.catchUp.mem.wf = true := State.catchUp_wf h
  unfold State.runTurn
  generalize s.catchUp = u at hs
  dsimp only
  cases t with
  | issue c st => exact State.issueTurn_keepsWf hs
  | event i =>
    refine .ite ?_ hs
    split
    · exact exec_keepsWf (State.refreshWaits_wf hs) _
    · exact State.warnTurn_keepsWf hs
    · exact State.uncorrTurn_keepsWf hs
    · exact exec_keepsWf (State.endTicks_wf hs) _
    · exact exec_keepsWf (State.ite_wf hs (State.endTicks_wf hs)) _
    · exact exec_keepsWf hs _
  | tick i => exact State.ite_wf hs (State.edge_wf hs)
  | time ns =>
    dsimp only [KeepsWf]
    rw [State.passTime_mem]
    exact State.endTicks_wf hs
  | load c => exact State.ite_wf hs (State.loadTask_wf hs)
  | restore c => exact State.restoreOn_wf hs
  | enableQueue q => rwa [KeepsWf, State.enableQueue_mem]
  | openWindow w b n => rwa [KeepsWf, State.openWindow_mem]
  | evictLine d l => exact State.evictLine_wf hs
  | tearDown a => exact State.tearDown_wf hs
  | evictPage c p => rwa [KeepsWf, State.evictPage_mem]
  | evictCode c st l => rwa [KeepsWf, State.modStream_mem]
  | fetchCode c st l => exact State.ite_wf hs (State.fetchAhead_wf hs)
  | walk d n => exact State.stepWalk_wf hs
  | prefetch c w => exact State.prefetchTurn_wf hs
  | copyList c id =>
    dsimp only [KeepsWf]
    split
    · rwa [State.copyEntry_mem]
    · exact hs
  | copyRead c id first n own => exact State.copyRun_wf hs
  | tileRead c seq i first n => rwa [KeepsWf, State.tileRead_mem]
  | chartRead d slot first n => exact State.chartRun_wf hs
  | lineError l b => exact hs
  | holdError c p b => rwa [KeepsWf, State.modCore_mem]

end

/-- Settles O50, turn by turn: every change of the memory is a change of one byte, of one line or of a list of bytes,
and each of these keeps the canonical form. -/
theorem stepKeepsMemory : Obligations.StepKeepsMemory := by
  unfold Obligations.StepKeepsMemory
  intro s t hs ht
  refine (State.runTurn_keepsWf (?_ : s.nextTurn.2.mem.wf = true) _).next ht
  rwa [State.nextTurn_mem]

end Sys2Proof.Machine
end

section
/-!
PROOFS. Fences, ordering accesses and dual-backed buffers: what their bodies answer (O21, O22, O23).
-/
namespace Sys2Proof.Machine

/-! ### Releases (R173, R182) -/

theorem Ctx.logWaits_eq_false {x : Ctx} {s : State} {sc : Scope}
    (h : sc.narrow = true → s.logStalls x.c x.st = false) : x.logWaits s sc = false := by
  unfold Ctx.logWaits
  cases hn : sc.narrow
  · rfl
  · exact h hn

theorem State.release_narrow {sc : Scope} (h : sc.narrow = true) (s : State) (c : Nat) (st : Stream) :
    s.release c st sc = ((s.commitOwn c).logRelease c st).bump c := by
  cases sc with
  | core | clus | die => rfl
  | dev | sys => cases h

theorem State.release_wide {sc : Scope} (h : sc.narrow = false) (s : State) (c : Nat) (st : Stream) :
    s.release c st sc = ((s.commitOwn c).writeBack (dieOf c) [.rc]).bump c := by
  cases sc with
  | core | clus | die => cases h
  | dev | sys => rfl

/-! ### Fences (R180) -/

theorem fenceBody_done {sc : Scope} {x : Ctx} {u : State} (hq : (u.core x.c).quiet x.st = true)
    (hl : sc.narrow = true → u.logStalls x.c x.st = false) :
    fenceBody sc x u = .done ((if sc.narrow then u.release x.c x.st sc
      else (u.release x.c x.st sc).fenceRdc x.c).fenceUn x.c x.st !sc.narrow) .seq := by
  simp [fenceBody, hq, Ctx.logWaits_eq_false hl]

/-- Settles O21, by the two cases of the scope: below DEV the fence enters the log, else it writes the RDC back. -/
theorem fences : Obligations.Fences := by
  unfold Obligations.Fences
  refine fun sc => ⟨answers_of_done (fenceBody sc) (fun _ _ _ => rfl) ?_,
    waits_of_wait (fenceBody sc) (fun _ _ _ => rfl) ?_⟩
  · rintro x u v - ⟨hq, hl, rfl⟩
    rw [fenceBody_done hq hl]
    cases hn : sc.narrow
    · rw [State.release_wide hn]
      rfl
    · rw [State.release_narrow hn]
      rfl
  · intro x u _ hq
    simp [fenceBody, hq]

/-! ### Ordering accesses (R176, R177, R181, R184) -/

section
variable {x : Ctx} {u : State}

theorem orderScope_eq (sc : Scope) (ms : List Mapped) :
    orderScope sc ms = if ∀ p ∈ ms, p.kind = .un then none else some sc := by
  simp [orderScope]

theorem Ctx.plainAccess_misaligned {k : AccessKind} {ea n : Nat} (h : ea % n ≠ 0) :
    x.plainAccess u k ea n = .trap (alignTrap ea 0 k) := by
  simp [Ctx.plainAccess, h]

theorem Ctx.plainAccess_dc {k : AccessKind} {ea n : Nat} (ha : ea % n = 0) {m : State} {ms : List Mapped}
    (hm : x.mapBytes u k (addrsFrom ea n) = .ok m ms) (hd : ∃ p ∈ ms, p.kind = .dc) :
    x.plainAccess u k ea n = .trap (dcTrap ea k) := by
  simp [Ctx.plainAccess, ha, hm, hd]

/-- What an acquiring load of the bytes at `ea` puts in flight. -/
theorem Ctx.acquireLoad_eq (m : State) (sc : Scope) (ea : Nat) (ms : List Mapped) :
    x.acquireLoad m sc ea ms = m.issueLoad x.c {
      st := x.st, seq := 0, parts := ms.mapIdx (fun i p => (i, p.pa, p.kind)),
      dest := .reg x.f.dst x.f.typ.signed (x.f.typ.width / 8),
      acq := if ∀ p ∈ ms, p.kind = .un then none else some sc,
      origin := originOf ea (x.f.typ.width / 8) 0 (addrsFrom ea (x.f.typ.width / 8)), bundle := x.a } := by
  rw [← orderScope_eq]
  rfl

theorem acqBody_done {sc : Scope} {m : State} {ms : List Mapped}
    (hp : x.plainAccess u .load (x.ea u) x.size = .ok m ms) :
    acqBody sc x u = .done (x.acquireLoad m sc (x.ea u) ms) .seq := by
  simp [acqBody, hp]

theorem acqBody_trap {sc : Scope} {t : TrapInfo} (hp : x.plainAccess u .load (x.ea u) x.size = .trap t) :
    acqBody sc x u = .trap u t := by
  simp [acqBody, hp]

theorem relBody_done {sc : Scope} {m : State} {ms : List Mapped}
    (hp : x.plainAccess u .store (x.ea u) x.size = .ok m ms)
    (hl : sc.narrow = true → m.logStalls x.c x.st = false) :
    relBody sc x u = .done (x.putStore ((m.commitOwn x.c).logScope x.c x.st sc) (orderScope sc ms)
      (bytesOfNum (x.reg u x.f.sb).toNat x.size) ms
      (originOf (x.ea u) x.size 0 (addrsFrom (x.ea u) x.size))) .seq := by
  simp [relBody, hp, Ctx.logWaits_eq_false hl]

theorem relBody_trap {sc : Scope} {t : TrapInfo} (hp : x.plainAccess u .store (x.ea u) x.size = .trap t) :
    relBody sc x u = .trap u t := by
  simp [relBody, hp]

theorem acqpBody_done {m : State} {ms : List Mapped} (hc : (x.reg u x.f.sb).toNat ≤ 191)
    (hp : x.plainAccess u .load (x.ea u) x.size = .ok m ms) (hq : ∀ l ∈ (m.core x.c).loads, l.st ≠ x.st) :
    acqpBody x u = .done ((x.acquireLoad m .dev (x.ea u) ms).modCore (x.reg u x.f.sb).toNat (fun k =>
      { k with requests := k.requests ++ [{ source := x.c, seq := (m.core x.c).seq, covers := none }] })) .seq := by
  have hl : (m.core x.c).loadsQuiet x.st = true := by simpa [Core.loadsQuiet] using hq
  simp [acqpBody, Nat.not_lt.2 hc, hp, hl]

theorem acqpBody_trap {t : TrapInfo} (hc : (x.reg u x.f.sb).toNat ≤ 191)
    (hp : x.plainAccess u .load (x.ea u) x.size = .trap t) : acqpBody x u = .trap u t := by
  simp [acqpBody, Nat.not_lt.2 hc, hp]

theorem acqpBody_core (hc : 191 < (x.reg u x.f.sb).toNat) :
    acqpBody x u = .trap u { cause := .access, addr0 := x.ea u, fdet := 7 } := by
  rw [acqpBody, if_pos hc]
  rfl

end

/-- Settles O22, by the end of the access that each of the three makes. -/
theorem acquireRelease : Obligations.AcquireRelease := by
  unfold Obligations.AcquireRelease
  refine ⟨⟨fun sc => answers_of_done (acqBody sc) (fun _ _ _ => rfl) ?_,
      fun sc => answers_of_done (relBody sc) (fun _ _ _ => rfl) ?_, answers_of_done acqpBody (fun _ _ _ => rfl) ?_⟩,
    ?_, traps_of_trap acqpBody (fun _ _ _ => rfl) ?_,
    ⟨fun sc => traps_of_trap (acqBody sc) (fun _ _ _ => rfl) ?_,
      fun sc => traps_of_trap (relBody sc) (fun _ _ _ => rfl) ?_, traps_of_trap acqpBody (fun _ _ _ => rfl) ?_⟩,
    traps_of_trap acqpBody (fun _ _ _ => rfl) ?_⟩
  · rintro x u v - ⟨m, ms, hp, rfl⟩
    rw [acqBody_done hp, Ctx.acquireLoad_eq]
  · rintro x u v - ⟨m, ms, hp, hl, rfl⟩
    rw [relBody_done hp hl, orderScope_eq]
    rfl
  · rintro x u v - ⟨m, ms, hc, hp, hq, rfl⟩
    rw [acqpBody_done hc hp hq, Ctx.acquireLoad_eq]
  · intro sc p hmem
    simp only [List.mem_cons, List.not_mem_nil, or_false] at hmem
    rcases hmem with rfl | rfl
    · exact traps_of_trap (acqBody sc) (fun _ _ _ => rfl)
        (fun x u _ ha => acqBody_trap (Ctx.plainAccess_misaligned ha))
    · exact traps_of_trap (relBody sc) (fun _ _ _ => rfl)
        (fun x u _ ha => relBody_trap (Ctx.plainAccess_misaligned ha))
  · rintro x u - ⟨hc, ha⟩
    exact acqpBody_trap hc (Ctx.plainAccess_misaligned ha)
  · rintro x u - ⟨ha, m, ms, hm, hd⟩
    exact acqBody_trap (Ctx.plainAccess_dc ha hm hd)
  · rintro x u - ⟨ha, m, ms, hm, hd⟩
    exact relBody_trap (Ctx.plainAccess_dc ha hm hd)
  · rintro x u - ⟨hc, ha, m, ms, hm, hd⟩
    exact acqpBody_trap hc (Ctx.plainAccess_dc ha hm hd)
  · exact fun x u _ hc => acqpBody_core hc

/-! ### Dual-backed buffers (R188 to R191) -/

section
variable {x : Ctx} {u : State}

theorem Ctx.slotNum_eq : x.slotNum = x.f.imm.toNat % 64 := by simp [Ctx.slotNum, bits]

theorem Ctx.slotGranted_iff : x.slotGranted u = true ↔
    ∃ t, (u.core x.c).task = some t ∧ (u.slot (x.f.imm.toNat % 64)).launch = some t.launch := by
  rw [← Ctx.slotNum_eq, Ctx.slotGranted]
  split <;> simp_all

theorem Ctx.slotDenied_eq_false (hg : ∃ t, (u.core x.c).task = some t ∧
    (u.slot (x.f.imm.toNat % 64)).launch = some t.launch) (hb : (u.slot (x.f.imm.toNat % 64)).bound = true)
    (ha : (u.slot (x.f.imm.toNat % 64)).asid = rootAsid (u.core x.c).ptroot) : x.slotDenied u = false := by
  simp [Ctx.slotDenied, Ctx.slotGranted_iff.2 hg, Ctx.slotNum_eq, hb, ha, Ctx.asid]

theorem rangesMeet_eq_false {a la b lb : Nat} (h : a + la ≤ b ∨ b + lb ≤ a) : rangesMeet a la b lb = false := by
  simp only [rangesMeet, Bool.and_eq_false_iff, decide_eq_false_iff_not, Nat.not_lt]
  exact h.symm

end

/-- Settles O23, each of the three past its checks. -/
theorem dualBackedBuffers : Obligations.DualBackedBuffers := by
  unfold Obligations.DualBackedBuffers
  refine ⟨answers_of_done dbbBody (fun _ _ _ => rfl) ?_, answers_of_done dbbUBody (fun _ _ _ => rfl) ?_,
    answers_of_done publishBody (fun _ _ _ => rfl) ?_⟩
  · rintro x u v - ⟨hg, hb, hf, ha, hl, hpos, hmax, hfl, hal, hmeet, hmf, hma, hset, rfl⟩
    have hz : ((x.rawZ u x.f.sc).toNat == 0) = false := by simp; omega
    simp [dbbBody, Ctx.slotNum_eq, Ctx.asid, Ctx.slotGranted_iff.2 hg, hb, hf, ha, hl, hz, hmf, hma, hset,
      rangesMeet_eq_false hmeet]
    exact ⟨⟨hmax, hfl⟩, hal⟩
  · rintro x u v - ⟨⟨hg, hb, ha⟩, hi, rfl⟩
    simp [dbbUBody, Ctx.slotDenied_eq_false hg hb ha, Ctx.slotNum_eq, hi]
  · rintro x u v - ⟨⟨hg, hb, ha⟩, hi, hset, rfl⟩
    have hcore (d : DbbSlot) : (u.setSlot (x.f.imm.toNat % 64) d).core x.c = u.core x.c := rfl
    simp [publishBody, Ctx.slotDenied_eq_false hg hb ha, Ctx.slotNum_eq, hi, hcore, hset, State.switchSlot,
      Ctx.writes]

end Sys2Proof.Machine
end

section
/-!
PROOFS. System and trap instructions: what their bodies answer (O39).
-/
namespace Sys2Proof.Machine

/-! ### Operations that end or wait on by themselves -/

theorem ends_of_broke {i : Bundle → Fields → Instr} {o : Op} {R : Ctx → State → State → Prop}
    (body : Ctx → State → Res) (hi : ∀ b f s, exec (i b f) s = issue o b f body s)
    (h : ∀ x u v, x.o = o → R x u v → body x u = .broke v) : Ends i o .late R := by
  intro b f s u v hr hR
  rw [hi]
  simp only [issue, issue_ready hr, h _ u v rfl hR, Ctx.conclude]

section
variable {x : Ctx} {u : State}

/-! ### TRAP (R379, R186) -/

/-- The trap that TRAP and TRAP.FW raise. -/
def Ctx.brk (x : Ctx) (svc : Bool) : TrapInfo :=
  { cause := .brk, code := x.f.imm.toNat % 65536, svc := svc, async := true }

theorem trapBody_eq (svc : Bool) : trapBody svc x u =
    if u.mustDefer x.c (x.brk svc) then .wait u .access
    else .broke ((x.finish u .seq true).raise x.c x.st (x.brk svc)) := by
  have hcode : bits x.f.imm.toNat 0 16 = x.f.imm.toNat % 65536 := by simp [bits]
  rw [trapBody, hcode]
  rfl

theorem traps_break {i : Bundle → Fields → Instr} {o : Op} (svc : Bool)
    (hi : ∀ b f s, exec (i b f) s = issue o b f (trapBody svc) s) :
    Ends i o .late (fun x u v => u.mustDefer x.c (x.brk svc) = false ∧
      v = (x.finish u .seq true).raise x.c x.st (x.brk svc)) ∧
    Waits i o (fun x u => u.mustDefer x.c (x.brk svc) = true) (fun _ _ => .access) := by
  refine ⟨ends_of_broke _ hi ?_, waits_of_wait _ hi ?_⟩
  · rintro x u v - ⟨hd, rfl⟩
    rw [trapBody_eq, hd]
    rfl
  · intro x u _ hd
    rw [trapBody_eq, hd]
    rfl

/-! ### SWREG (R371) -/

theorem swregBody_misaligned (hlo : 14 ≤ specialNum x.f.dst) (hhi : specialNum x.f.dst ≤ 17)
    (ha : (x.rawZ u x.f.sa).toNat % 4 ≠ 0) :
    swregBody x u = .trap u { cause := .align, addr0 := (x.rawZ u x.f.sa).toNat } := by
  simp [swregBody, hlo, hhi, ha]

theorem swregBody_tide (hn : specialNum x.f.dst = 6) (hlo : 20 ≤ (x.rawZ u x.f.sa).toNat)
    (hhi : (x.rawZ u x.f.sa).toNat ≤ 1000) :
    swregBody x u = .done (x.result { u with fresh := u.fresh + 1 } 2 [.special 6 (x.rawZ u x.f.sa)]) .seq := by
  simp [swregBody, hn, tideValue, hlo, hhi]

theorem swregBody_done (hn : specialNum x.f.dst ≠ 6)
    (ha : 14 ≤ specialNum x.f.dst → specialNum x.f.dst ≤ 17 → (x.rawZ u x.f.sa).toNat % 4 = 0) :
    swregBody x u = .done (x.result u 2 (.special (specialNum x.f.dst) (x.rawZ u x.f.sa) ::
      x.handlerWrite u (specialNum x.f.dst))) .seq := by
  have hnot : ¬ (14 ≤ specialNum x.f.dst ∧ specialNum x.f.dst ≤ 17 ∧ (x.rawZ u x.f.sa).toNat % 4 ≠ 0) :=
    fun ⟨hlo, hhi, hm⟩ => hm (ha hlo hhi)
  simp [swregBody, hnot, hn]

/-! ### TLBI (R385) -/

theorem tlbiBody_done {w : State} (hw : w = if (u.core x.c).tlbWait.isNone then x.invalidate u else u)
    (ho : ∀ e ∈ (w.core x.c).tlbWait.getD [], w.accessOpen e = false) :
    tlbiBody x u = .done (w.modCore x.c (fun k => { k with tlbWait := none })) .seq := by
  have hany : ((w.core x.c).tlbWait.getD []).any w.accessOpen = false := by
    simpa only [List.any_eq_false, Bool.not_eq_true] using ho
  rw [tlbiBody, ← hw]
  simp only [hany, Bool.false_eq_true, if_false]

/-! ### CTXS and CTXL (R384) -/

theorem Ctx.withArea_go {k : AccessKind} {go : Nat → Nat → Res} (ha : (x.reg u x.f.sa).toNat % 65536 = 0)
    (hc : (x.reg u x.f.sb).toNat ≤ 191) (hf : isFirmware (x.reg u x.f.sb).toNat = false) :
    x.withArea u k go = go (x.reg u x.f.sa).toNat (x.reg u x.f.sb).toNat := by
  simp [Ctx.withArea, ha, Nat.not_lt.2 hc, hf]

theorem ctxsBody_go (ha : (x.reg u x.f.sa).toNat % 65536 = 0) (hc : (x.reg u x.f.sb).toNat ≤ 191)
    (hf : isFirmware (x.reg u x.f.sb).toNat = false) (ht : (u.core (x.reg u x.f.sb).toNat).task.isSome = true) :
    ctxsBody x u =
      let cs := if x.f.mod.getLsbD 0 then u.unitCores (x.reg u x.f.sb).toNat else [(x.reg u x.f.sb).toNat]
      x.enterOp u true (x.reg u x.f.sa).toNat cs (cs.map u.taskOn) := by
  rw [ctxsBody, Ctx.withArea_go ha hc hf, if_neg (by simp [Option.isSome_iff_ne_none.1 ht]), x.bit_mod]

section
variable (ha : (x.reg u x.f.sa).toNat % 65536 = 0) (hc : (x.reg u x.f.sb).toNat ≤ 191)
  (hf : isFirmware (x.reg u x.f.sb).toNat = false) (ht : (u.core (x.reg u x.f.sb).toNat).task = none)
  (hcl : u.claimed (x.reg u x.f.sb).toNat = false)
include ha hc hf ht hcl

theorem ctxlBody_one (hm : x.f.mod.getLsbD 0 = false)
    (hfit : u.areaFits (x.reg u x.f.sa).toNat (x.reg u x.f.sb).toNat = true)
    (hch : u.chartsFit (x.reg u x.f.sa).toNat (x.reg u x.f.sb).toNat = true) :
    ctxlBody x u = x.enterOp u false (x.reg u x.f.sa).toNat [(x.reg u x.f.sb).toNat] [] := by
  rw [ctxlBody, Ctx.withArea_go ha hc hf]
  simp [(x.bit_mod 0).trans hm, ht, hcl, hfit, hch]

theorem ctxlBody_convoy {cs : List Nat} (hm : x.f.mod.getLsbD 0 = true)
    (hfit : u.areaFits (u.firstArea (x.reg u x.f.sa).toNat) (x.reg u x.f.sb).toNat = true)
    (hch : u.chartsFit (u.firstArea (x.reg u x.f.sa).toNat) (x.reg u x.f.sb).toNat = true)
    (hp : u.placeFrom (x.reg u x.f.sa).toNat (x.reg u x.f.sb).toNat = some cs) :
    ctxlBody x u = x.enterOp { u with fresh := u.fresh + 64 } false (x.reg u x.f.sa).toNat cs [] := by
  rw [ctxlBody, Ctx.withArea_go ha hc hf]
  simp [(x.bit_mod 0).trans hm, ht, hcl, hfit, hch, hp]

end

/-! ### IDLE and IDLE.M (R386, R387) -/

theorem idleBody_gives {r : Nat} (h : idleReason (u.core x.c).evl (x.idleOver u) = some r) :
    idleBody x u = x.give ((x.freed u).modCore x.c (fun k => { k with evl := 0 })) r := by
  rw [idleBody, h]

theorem idleBody_waits (h : idleReason (u.core x.c).evl (x.idleOver u) = none) : idleBody x u = x.holds u := by
  rw [idleBody, h]

end

/-- Settles O39, instruction by instruction. -/
theorem systemInstructions : Obligations.SystemInstructions := by
  unfold Obligations.SystemInstructions
  refine ⟨?_, ends_of_final eretBody (fun _ _ _ => rfl) ?_, acts_of_done sregBody (fun _ _ _ => rfl) ?_,
    acts_of_done swregBody (fun _ _ _ => rfl) ?_, acts_of_done swregBody (fun _ _ _ => rfl) ?_,
    traps_of_trap swregBody (fun _ _ _ => rfl) ?_, answers_of_done tlbiBody (fun _ _ _ => rfl) ?_,
    answers_of_done ctxsBody (fun _ _ _ => rfl) ?_, answers_of_done ctxlBody (fun _ _ _ => rfl) ?_,
    answers_of_done idleBody (fun _ _ _ => rfl) ?_, holds_of_wait idleBody (fun _ _ _ => rfl) ?_,
    acts_of_done idleMBody (fun _ _ _ => rfl) ?_, holds_of_wait idleMBody (fun _ _ _ => rfl) ?_⟩
  · intro p hp
    simp only [List.mem_cons, List.not_mem_nil, or_false] at hp
    rcases hp with rfl | rfl
    · exact traps_break false (fun _ _ _ => rfl)
    · exact traps_break true (fun _ _ _ => rfl)
  · rintro x u v - rfl
    rfl
  · exact fun _ _ _ _ _ _ => rfl
  · rintro b f s u - ⟨hn, ha⟩
    exact swregBody_done hn ha
  · rintro b f s u - ⟨hn, hlo, hhi⟩
    exact swregBody_tide hn hlo hhi
  · rintro x u - ⟨hlo, hhi, ha⟩
    exact swregBody_misaligned hlo hhi ha
  · rintro x u v - ⟨w, hw, ho, rfl⟩
    exact tlbiBody_done hw ho
  · rintro x u v - ⟨⟨ha, hc, hf⟩, ht, rfl⟩
    rw [ctxsBody_go ha hc hf ht, Ctx.enterOp, x.bit_mod]
    rfl
  · rintro x u v - ⟨⟨ha, hc, hf⟩, ht, hcl, hfit, hch, ⟨hm, rfl⟩ | ⟨cs, hm, hp, rfl⟩⟩
    · simp only [hm, Bool.false_eq_true, if_false] at hfit hch
      rw [ctxlBody_one ha hc hf ht hcl hm hfit hch, Ctx.enterOp, x.bit_mod]
      rfl
    · rw [if_pos hm] at hfit hch
      rw [ctxlBody_convoy ha hc hf ht hcl hm hfit hch hp, Ctx.enterOp, x.bit_mod]
      rfl
  · rintro x u v - ⟨r, hr, rfl⟩
    exact idleBody_gives hr
  · rintro x u v - ⟨hr, rfl⟩
    rw [idleBody_waits hr]
    rfl
  · rintro b f s u - hm
    rw [idleMBody, hm]
    rfl
  · rintro x u v - ⟨hm, rfl⟩
    rw [idleMBody, hm]
    rfl

end Sys2Proof.Machine
end

section
/-!
PROOFS. Copies at their issue and at their end, where their bytes lie and what they move (O24).
-/
namespace Sys2Proof.Machine

/-! ### The issue of a copy (R193, R198, R202 to R204) -/

section
variable {x : Ctx} {u : State}

/-- A checked copy for which the engines have room enters them. -/
theorem Ctx.startOrWait_enters {cp : Copy} (hn : (u.core x.c).copies.length < 256)
    (hl : cp.scope.narrow = true → u.logStalls x.c x.st = false) :
    x.startOrWait u cp = .done (x.enterCopy u cp) .seq := by
  have hfull : x.enginesFull u cp = false := by
    rw [Ctx.enginesFull, Ctx.logWaits_eq_false hl, Bool.or_false, decide_eq_false_iff_not]
    exact Nat.not_le.2 hn
  rw [Ctx.startOrWait, hfull, if_neg Bool.false_ne_true]

theorem cpyShaped_starts {dims : Nat} (ha : (x.reg u x.f.sc).toNat % 32 = 0)
    (hr : (x.reg u x.f.sc).toNat + 32 ≤ (u.core x.c).holdLimit) (hp : (u.core x.c).acquirePending x.st = false)
    (hb : (u.core x.c).badByte (addrsFrom (x.reg u x.f.sc).toNat 32) = none)
    (hs : shapeBad (dims == 2) ((u.core x.c).shapeAt (x.reg u x.f.sc).toNat) = false)
    (ht : x.copyTrap u (x.copyOf u (.linear dims) ((u.core x.c).shapeAt (x.reg u x.f.sc).toNat)) = none) :
    cpyShaped dims x u =
      x.startOrWait u (x.copyOf u (.linear dims) ((u.core x.c).shapeAt (x.reg u x.f.sc).toNat)) := by
  simp only [cpyShaped, ha, Nat.not_lt.2 hr, hp, hb, hs, ht, ne_eq, not_true_eq_false, Bool.false_eq_true, if_false]

theorem Ctx.copyOf_queue_isSome {kind : CopyKind} {shape : List (BitVec 32)} (h : ∀ q, x.f.sb ≠ .q q) :
    (x.copyOf u kind shape).queue.isSome = false := by
  have hq : (x.copyOf u kind shape).queue = match x.f.sb with | .q n => some n.val | _ => none := rfl
  rw [hq]
  split
  · next n hn => exact absurd hn (h n)
  · rfl

theorem cpygBody_starts (ha : (x.reg u x.f.sa).toNat % 16 = 0)
    (hr : (x.reg u x.f.sa).toNat + 16 * (x.reg u x.f.sc).toNat ≤ (u.core x.c).holdLimit)
    (hn : (x.reg u x.f.sc).toNat ≤ 4096)
    (hq : (∀ q, x.f.sb ≠ .q q) ∨
      ((((u.core x.c).gatherList (x.reg u x.f.sa).toNat (x.reg u x.f.sc).toNat).map (fun e => e.2)).sum % 128 = 0 ∧
        ∀ e ∈ (u.core x.c).gatherList (x.reg u x.f.sa).toNat (x.reg u x.f.sc).toNat,
          (x.copyOf u .gather []).misaligned e.1 = false))
    (hd : x.sourceDenied u (x.copyOf u .gather []) = false) :
    cpygBody x u = x.startOrWait u (x.copyOf u .gather []) := by
  have hsa : (x.copyOf u .gather []).sa = x.reg u x.f.sa := rfl
  have hsc : (x.copyOf u .gather []).sc = x.reg u x.f.sc := rfl
  have hentry : ((x.copyOf u .gather []).queue.isSome &&
      ((((u.core x.c).gatherList (x.reg u x.f.sa).toNat (x.reg u x.f.sc).toNat).map (fun e => e.2)).sum % 128 != 0 ||
        ((u.core x.c).gatherList (x.reg u x.f.sa).toNat (x.reg u x.f.sc).toNat).any
          (fun e => (x.copyOf u .gather []).misaligned e.1))) = false := by
    obtain hq | ⟨hsum, hal⟩ := hq
    · rw [Ctx.copyOf_queue_isSome hq, Bool.false_and]
    · have hany := List.any_eq_false.2 fun e he => Bool.eq_false_iff.1 (hal e he)
      rw [hsum, hany, bne_self_eq_false, Bool.or_self, Bool.and_false]
  simp only [cpygBody, hsa, hsc, ha, Nat.not_lt.2 hr, Nat.not_lt.2 hn, hentry, hd, ne_eq, not_true_eq_false,
    Bool.false_eq_true, if_false]

end

/-! ### Where the bytes of a copy lie (R198, R199) -/

theorem length_shapeOffsets (len n1 n2 : Nat) (s1 s2 : Int) :
    (shapeOffsets len n1 n2 s1 s2).length = len * n1 * n2 := by
  simp [shapeOffsets, List.length_flatMap, Nat.mul_comm, Nat.mul_left_comm]

theorem getElem?_shapeOffsets {len n1 n2 i j k : Nat} (s1 s2 : Int) (hi : i < len) (hj : j < n1) (hk : k < n2) :
    (shapeOffsets len n1 n2 s1 s2)[(k * n1 + j) * len + i]? = some (k * s2 + j * s1 + i) := by
  have hplane : (k * n1 + j) * len + i = k * (n1 * len) + (j * len + i) := by ring
  have hrow : j * len + i < n1 * len := calc
    j * len + i < (j + 1) * len := by rw [Nat.succ_mul]; exact Nat.add_lt_add_left hi _
    _ ≤ n1 * len := Nat.mul_le_mul_right len hj
  rw [shapeOffsets, hplane, getElem?_flatMap_blocks _ (fun _ _ => by simp [List.length_flatMap]) hrow,
    List.getElem?_range hk, Option.bind_some,
    getElem?_flatMap_blocks _ (fun _ _ => by rw [List.length_map, List.length_range]) hi, List.getElem?_range hj,
    Option.bind_some, List.getElem?_map, List.getElem?_range hi]
  rfl

theorem getElem?_offsetsFrom (base : Word) {l : List Int} {n : Nat} {o : Int} (h : l[n]? = some o) :
    (offsetsFrom base l)[n]? = some (((base.toNat + o) % 2 ^ 64 : Int).toNat) := by
  rw [offsetsFrom, List.getElem?_map, h]
  rfl

section
variable {cp : Copy} {d : Nat} (h : cp.kind = .linear d)
include h

theorem Copy.sources_linear : cp.sources = offsetsFrom cp.sa
    (shapeOffsets cp.dims.1 cp.dims.2.1 cp.dims.2.2 (cp.stride 4) (cp.stride 6)) := by
  simp only [Copy.sources, h]

theorem Copy.dests_linear (n : Nat) : cp.dests n = offsetsFrom cp.sb
    (shapeOffsets cp.dims.1 cp.dims.2.1 cp.dims.2.2 (cp.stride 5) (cp.stride 7)) := by
  simp only [Copy.dests, h]

end

theorem Copy.dims_linear_one {cp : Copy} (h : cp.kind = .linear 1) : cp.dims = (cp.sc.toNat, 1, 1) := by
  simp only [Copy.dims, h]

theorem Copy.sources_gather {cp : Copy} (h : cp.kind = .gather) :
    cp.sources = cp.list.flatMap (fun e => addrsFrom e.1 e.2) := by
  simp only [Copy.sources, h]

theorem Copy.dests_straight {cp : Copy} (h : cp.kind = .gather ∨ cp.kind = .multicast) (n : Nat) :
    cp.dests n = addrsFrom cp.sb.toNat n := by
  obtain h | h := h <;> simp only [Copy.dests, h]

/-! ### Bytes that an engine reads, and where it writes (R142, R199, R203) -/

section
variable {s w : State} {c a : Nat} {cp : Copy} {m : Mapped}

theorem State.engineRead_hold (hs : cp.shold = true) (hl : s.sourceLost c cp = false)
    (ha : a < (s.core (cp.srcCore c)).holdLimit) (hb : a / 64 ∉ (s.core (cp.srcCore c)).badHold) :
    s.engineRead c cp a = (s, .got ((s.core (cp.srcCore c)).holdByte a)) := by
  have hbad : (s.core (cp.srcCore c)).badHold.contains (a / 64) = false := by
    rwa [Bool.eq_false_iff, ne_eq, List.contains_iff_mem]
  simp only [State.engineRead, hs, hl, hbad, decide_eq_false (Nat.not_le.2 ha), Bool.or_self, Bool.false_eq_true,
    if_true, if_false]

theorem State.engineRead_home (hs : cp.shold = false) (ht : s.translate c cp.who .load a = .ok w m)
    (hk : m.kind = .rc) (hm : w.RcHome c m.pa) (hb : m.pa / 64 ∉ w.badLines) :
    (s.engineRead c cp a).2 = .got (w.mem.get m.pa) ∧ (s.engineRead c cp a).1.mem = w.mem := by
  have hbad : w.badLines.contains (m.pa / 64) = false := by rwa [Bool.eq_false_iff, ne_eq, List.contains_iff_mem]
  have hread (meter : Option Meter) : w.readFor meter c cp.st m.pa .rc =
      (w.touchLine (m.pa / 64) false meter, w.mem.get m.pa) := readByteFor_home meter (by decide) hm.1 hm.2
  have htouch (meter : Option Meter) : (w.touchLine (m.pa / 64) false meter).mem = w.mem :=
    State.mem_of_kernel (touchLine_kernel w _ _ meter)
  simp only [State.engineRead, hs, ht, hbad, hk, hread, Bool.false_eq_true, reduceCtorEq, if_false, true_and]
  split
  · exact htouch _
  · rw [State.noteCopyLine_mem, htouch]

theorem State.engineDestMem_plain (hs : cp.sh = false)
    (ht : s.translateAs c cp.who (s.core c).ptroot (isFirmware c) .store false a = .ok w m) :
    s.engineDestMem c cp a = (w, .mem m.pa m.kind a) := by
  simp only [State.engineDestMem, hs, ht, Bool.false_and, Bool.false_eq_true, if_false]

theorem State.engineDestHold_reached {t : Nat} (ht : t = c ∨ s.sameConvoy c t = true)
    (ha : a < (s.core t).holdLimit) : s.engineDestHold c a t = .hold t a := by
  have hreach : (t == c || s.sameConvoy c t) = true := by rwa [Bool.or_eq_true, beq_iff_eq]
  simp only [State.engineDestHold, hreach, decide_eq_true ha, Bool.and_self, if_true]

end

theorem State.engineDests_hold {s : State} {c : Nat} {cp : Copy} {as : List Nat} (hk : cp.kind ≠ .multicast)
    (hd : cp.dhold = true) (ha : ∀ a ∈ as, a < (s.core c).holdLimit) :
    s.engineDests c cp as = (s, as.map (fun a => [.hold c a])) := by
  induction as with
  | nil => rfl
  | cons a as ih =>
    obtain ⟨ha, has⟩ := List.forall_mem_cons.1 ha
    simp only [State.engineDests, hk, hd, ih has, State.engineDestHold_reached (.inl rfl) ha, if_true, if_false,
      List.map_cons]

theorem State.engineDests_multicast {s : State} {c : Nat} {cp : Copy} {as : List Nat} (hk : cp.kind = .multicast)
    (ht : ∀ t ∈ cp.aims, s.aimLost cp t = false ∧ s.aimRuns t = true ∧
      (t.core = c ∨ s.sameConvoy c t.core = true) ∧ ∀ a ∈ as, a < (s.core t.core).holdLimit) :
    s.engineDests c cp as = (s, as.map (fun a => cp.aims.map (fun t => .hold t.core a))) := by
  induction as with
  | nil => rfl
  | cons a as ih =>
    have hrest := ih fun t hm => by
      obtain ⟨hl, hr, hc, ha⟩ := ht t hm
      exact ⟨hl, hr, hc, fun b hb => ha b (List.mem_cons_of_mem _ hb)⟩
    have hkept : cp.aims.filter (fun t => !s.aimLost cp t) = cp.aims :=
      List.filter_eq_self.2 fun t hm => by rw [(ht t hm).1, Bool.not_false]
    have haims : cp.aims.map (s.engineDestAim c a) = cp.aims.map (fun t => .hold t.core a) :=
      List.map_congr_left fun t hm => by
        obtain ⟨-, hr, hc, ha⟩ := ht t hm
        rw [State.engineDestAim, if_pos hr, State.engineDestHold_reached hc (ha a List.mem_cons_self)]
    simp only [State.engineDests, hk, hkept, hrest, if_true, List.map_cons]
    rw [← haims]

/-! ### Bytes written into a hold (R137, R383) -/

/-- A berth of a hold in canonical form that the running context uses. -/
def Core.InUse (k : Core) (berth : Nat) : Prop := k.hold.wf = true ∧ Tbl.get 0 k.berths berth ≠ 0

/-- A core whose berth holds listed bytes, and elsewhere what it held before. -/
structure Core.Moved (k k' : Core) (berth : Nat) (l : List (Nat × Byte)) : Prop where
  inUse : k'.InUse berth
  written : ∀ e ∈ l, k'.holdByte e.1 = e.2
  other : ∀ a, a / 65536 = berth → (∀ e ∈ l, e.1 ≠ a) → k'.holdByte a = k.holdByte a

theorem Core.Moved.nil {k : Core} {berth : Nat} (h : k.InUse berth) : k.Moved k berth [] :=
  ⟨h, fun _ he => absurd he List.not_mem_nil, fun _ _ _ => rfl⟩

theorem Core.Moved.cons {k k1 k2 : Core} {berth : Nat} {e : Nat × Byte} {l : List (Nat × Byte)}
    (h1 : k.Moved k1 berth [e]) (h2 : k1.Moved k2 berth l) (he : e.1 / 65536 = berth) (hn : e.1 ∉ l.map (fun e => e.1)) :
    k.Moved k2 berth (e :: l) := by
  refine ⟨h2.inUse, List.forall_mem_cons.2 ⟨?_, h2.written⟩, fun a ha hl => ?_⟩
  · rw [h2.other e.1 he fun f hf hfe => hn (List.mem_map.2 ⟨f, hf, hfe⟩)]
    exact h1.written e List.mem_cons_self
  · obtain ⟨hne, hl⟩ := List.forall_mem_cons.1 hl
    rw [h2.other a ha hl, h1.other a ha (List.forall_mem_singleton.2 hne)]

/-- The core after a byte of a berth in use. -/
theorem Core.moved_set {k : Core} {off m : Nat} (b : Byte) (hw : k.hold.wf = true)
    (hm : Tbl.get 0 k.berths (off / 65536) = m + 1) :
    k.Moved { k with hold := k.hold.set (m * 65536 + off % 65536) b } (off / 65536) [(off, b)] := by
  have hbyte (a : Nat) (ha : a / 65536 = off / 65536) :
      Core.holdByte { k with hold := k.hold.set (m * 65536 + off % 65536) b } a =
        if a = off then b else k.holdByte a := by
    have hat : m * 65536 + a % 65536 = m * 65536 + off % 65536 ↔ a = off := by omega
    simp only [Core.holdByte, ha, hm, Memory.get_set _ _ _ _ hw, hat]
  refine ⟨⟨Memory.set_wf _ _ _ hw, fun h => ?_⟩, List.forall_mem_singleton.2 ?_, fun a ha hne => ?_⟩
  · exact Nat.succ_ne_zero m (hm.symm.trans h)
  · rw [hbyte off rfl, if_pos rfl]
  · rw [hbyte a ha, if_neg (Ne.symm (hne _ List.mem_cons_self))]

/-- One byte into a berth in use of one core: the other cores are as they were. -/
theorem State.holdSetAll_one {s : State} {t off : Nat} (b : Byte) (h : (s.core t).InUse (off / 65536)) :
    (s.core t).Moved ((s.holdSetAll t [(off, b)]).core t) (off / 65536) [(off, b)] ∧
    ∀ d ≠ t, (s.holdSetAll t [(off, b)]).core d = s.core d := by
  obtain ⟨hw, hb⟩ := h
  obtain ⟨m, hm⟩ := Nat.exists_eq_succ_of_ne_zero hb
  have hset : s.holdSetAll t [(off, b)] =
      s.setCore t { s.core t with hold := (s.core t).hold.set (m * 65536 + off % 65536) b } := by
    simp only [State.holdSetAll, State.claimBerth, hm, ne_eq, Nat.succ_ne_zero, not_false_eq_true, if_true]
  rw [hset, State.core_setCore]
  exact ⟨Core.moved_set b hw hm, fun d hd => State.core_setCore_other _ _ hd⟩

/-- One byte into the same berth of several cores. -/
theorem State.holdSetAll_targets (targets : List Nat) (s : State) {off : Nat} (b : Byte) (hn : targets.Nodup)
    (h : ∀ t ∈ targets, (s.core t).InUse (off / 65536)) :
    let v := targets.foldl (fun s t => s.holdSetAll t [(off, b)]) s
    (∀ t ∈ targets, (s.core t).Moved (v.core t) (off / 65536) [(off, b)]) ∧
    ∀ d ∉ targets, v.core d = s.core d := by
  induction targets generalizing s with
  | nil => exact ⟨fun _ ht => absurd ht List.not_mem_nil, fun _ _ => rfl⟩
  | cons t ts ih =>
    obtain ⟨hnt, hn⟩ := List.nodup_cons.1 hn
    obtain ⟨ht, hts⟩ := List.forall_mem_cons.1 h
    obtain ⟨hone, hother⟩ := s.holdSetAll_one b ht
    have hsame : ∀ d ∈ ts, (s.holdSetAll t [(off, b)]).core d = s.core d :=
      fun d hd => hother d fun hdt => hnt (hdt ▸ hd)
    obtain ⟨hmoved, hrest⟩ := ih (s.holdSetAll t [(off, b)]) hn fun d hd => (hsame d hd).symm ▸ hts d hd
    refine ⟨List.forall_mem_cons.2 ⟨?_, fun d hd => ?_⟩, fun d hd => ?_⟩
    · rw [List.foldl_cons, hrest t hnt]
      exact hone
    · rw [← hsame d hd]
      exact hmoved d hd
    · rw [List.mem_cons, not_or] at hd
      obtain ⟨hdt, hdts⟩ := hd
      exact (hrest d hdts).trans (hother d hdt)

/-- The bytes of a copy, each into the berth of every target. -/
theorem State.engineWrites_hold (l : List (Nat × Byte)) (s : State) {c berth : Nat} {cp : Copy} {targets : List Nat}
    (hn : targets.Nodup) (hl : (l.map (fun e => e.1)).Nodup) (hb : ∀ e ∈ l, e.1 / 65536 = berth)
    (h : ∀ t ∈ targets, (s.core t).InUse berth) : ∀ t ∈ targets, (s.core t).Moved
      ((s.engineWrites c cp false (l.map (fun e => (.got e.2, targets.map (fun t => .hold t e.1))))).core t) berth l := by
  induction l generalizing s with
  | nil => exact fun t ht => .nil (h t ht)
  | cons e l ih =>
    obtain ⟨hne, hl⟩ := List.nodup_cons.1 hl
    obtain ⟨rfl, hb⟩ := List.forall_mem_cons.1 hb
    obtain ⟨hmoved, -⟩ := State.holdSetAll_targets targets s e.2 hn h
    intro t ht
    have hstep : ((targets.map (fun t => .hold t e.1)).foldl (fun s d => s.tryWrite c cp false d e.2) s) =
        targets.foldl (fun s t => s.holdSetAll t [(e.1, e.2)]) s := List.foldl_map
    rw [List.map_cons, State.engineWrites, hstep]
    exact (hmoved t ht).cons (ih _ hl hb (fun d hd => (hmoved d hd).inUse) t ht) rfl hne

/-! ### Bytes written at their homes (R163, R171) -/

theorem State.tryWrite_rc (s : State) (c : Nat) (cp : Copy) (pa va : Nat) (b : Byte) :
    s.tryWrite c cp false (.mem pa .rc va) b = s.writeBytes c cp.st [(pa, b, .rc)] := by
  simp only [State.tryWrite, State.engineWrite, State.engineRelease, Bool.false_eq_true, reduceCtorEq, if_false]

/-- The bytes of a copy, each at its home in memory. -/
theorem State.engineWrites_home (l : List ((Nat × Nat) × Byte)) (s : State) {c : Nat} {cp : Copy}
    (h : ∀ e ∈ l, s.RcHome c e.1.1) :
    (s.engineWrites c cp false (l.map (fun e => (.got e.2, [.mem e.1.1 .rc e.1.2])))).mem =
      s.mem.setAll (l.map (fun e => (e.1.1, e.2))) := by
  induction l generalizing s with
  | nil => rfl
  | cons e l ih =>
    obtain ⟨he, hl⟩ := List.forall_mem_cons.1 h
    have hstored := writeBytes_home (s := s) (c := c) cp.st (parts := [(e.1.1, e.2, .rc)])
      (List.forall_mem_singleton.2 ⟨fun hk => OrderKind.noConfusion hk, he⟩)
    rw [State.stored, Prod.mk.injEq, Prod.mk.injEq] at hstored
    obtain ⟨hmem, hsyncs, -⟩ := hstored
    rw [List.map_cons, State.engineWrites, List.foldl_cons, List.foldl_nil, State.tryWrite_rc,
      ih _ fun f hf => (hl f hf).congr hsyncs, hmem]
    rfl

/-! ### The end of a copy (R205) -/

theorem State.logWrites_core (s : State) (c : Nat) (ds : List DestByte) (t : Nat) :
    (s.logWrites c ds).core t = s.core t := by
  unfold State.logWrites
  exact foldl_leaves (fun s => s.core t) (fun s l => s.logUncorr c (l * 64)) (fun _ _ => rfl) _ s

/-- The state in which a copy with no failure about has written its bytes, a drain its flags with them. -/
def State.afterWrites (w : State) (c : Nat) (cp : Copy) (bs : List Byte) (ds : List (List DestByte)) : State :=
  let v := (w.engineWrites c cp false ((bs.map .got).zip ds)).logWrites c ds.flatten
  if cp.isDrain then v.modCore c (fun k => { k with mflag := k.mflag ||| cp.flags }) else v

section
variable {w : State} {c : Nat} {cp : Copy} {bs : List Byte} {ds : List (List DestByte)}

theorem State.afterWrites_mem :
    (w.afterWrites c cp bs ds).mem = (w.engineWrites c cp false ((bs.map .got).zip ds)).mem := by
  unfold State.afterWrites
  dsimp only
  split
  · exact State.logWrites_mem _ _ _
  · exact State.logWrites_mem _ _ _

theorem State.afterWrites_holdByte (t a : Nat) : ((w.afterWrites c cp bs ds).core t).holdByte a =
    ((w.engineWrites c cp false ((bs.map .got).zip ds)).core t).holdByte a := by
  have hlog := State.logWrites_core (w.engineWrites c cp false ((bs.map .got).zip ds)) c ds.flatten t
  unfold State.afterWrites
  dsimp only
  split
  · rw [State.core_modCore_if, hlog]
    split
    · next h => rw [← hlog, h]; rfl
    · rfl
  · rw [hlog]

theorem sourceWaits_got : sourceWaits (bs.map .got) = false := by
  simp [sourceWaits]

theorem sourceFails_got : sourceFails (bs.map .got) = [] := by
  simp [sourceFails]

/-- A copy whose bytes are read and whose places are found, with no failure about, writes them and leaves flight as
done. -/
theorem State.endCopy_done {s u : State} {cp' : Copy} (hst : cp.started = true) (ho : (s.core c).copyOrdered cp = true)
    (hq : cp.queue = none) (hf : cp'.failed = none) (hlist : cp.readList (s.core c) (2 ^ 31) cp.sc.toNat = (cp', none))
    (hread : (s.orderCopy c cp').engineReads c cp' cp'.places = (u, bs.map .got))
    (hdest : u.engineDests c cp' (cp'.dests bs.length) = (w, ds)) (hlost : w.lostFail c cp' = none)
    (haims : ∀ a ∈ cp'.aims, w.aimLost cp' a = false)
    (hplaced : ∀ l ∈ ds, destWaits l = false ∧ destFails l = []) :
    s.endCopy c cp = (w.afterWrites c cp' bs ds).leaveFlight c cp' 1 0 false bs.length := by
  have hwaits : ds.any destWaits = false := List.any_eq_false.2 fun l hl => Bool.eq_false_iff.1 (hplaced l hl).1
  have hfails : ds.flatMap destFails = [] := List.flatMap_eq_nil_iff.2 fun l hl => (hplaced l hl).2
  have haimed : cp'.aims.filter (w.aimLost cp') = [] :=
    List.filter_eq_nil_iff.2 fun a ha => Bool.eq_false_iff.1 (haims a ha)
  have hend : w.endLost cp' (bs.map .got) = (w, []) := by
    simp only [State.endLost, haimed, List.isEmpty_nil, Bool.true_or, if_true]
  have hlate : w.endFails c cp' [] = (w, []) := by simp only [State.endFails, hf, hlost]
  simp only [State.endCopy, hst, ho, hq, Bool.and_self, if_true, State.endPlainCopy, hlist, hread, List.length_map,
    hdest, sourceWaits_got, hwaits, Bool.or_self, Bool.false_and, Bool.false_eq_true, if_false, sourceFails_got, hfails,
    Option.toList_none, List.append_nil, hlate, hend, List.isEmpty_nil, Bool.not_true, lowestFail]
  rfl

/-- The bytes of a copy beside their places. -/
theorem zip_got {α : Type} (l : List α) (bs : List Byte) (f : α → List DestByte) :
    (bs.map SourceByte.got).zip (l.map f) = (l.zip bs).map (fun e => (.got e.2, f e.1)) := by
  rw [List.zip_map, ← List.zip_swap, List.map_map]
  rfl

theorem exists_mem_zip {α : Type} {l : List α} {bs : List Byte} (h : l.length = bs.length) {i : Nat}
    (hi : i < bs.length) : ∃ a b, l[i]? = some a ∧ bs[i]? = some b ∧ (a, b) ∈ l.zip bs := by
  refine ⟨l[i], bs[i], List.getElem?_eq_getElem _, List.getElem?_eq_getElem _, ?_⟩
  rw [← List.getElem_zip (h := by rw [List.length_zip]; omega)]
  exact List.getElem_mem _

/-- A copy into the holds of some targets: each of its bytes stands at its place, and the rest of the berth as
before. -/
theorem State.afterWrites_hold {as targets : List Nat} {berth : Nat}
    (hds : ds = as.map (fun a => targets.map (fun t => .hold t a))) (hlen : as.length = bs.length) (ha : as.Nodup)
    (hn : targets.Nodup) (hb : ∀ a ∈ as, a / 65536 = berth) (hu : ∀ t ∈ targets, (w.core t).InUse berth) :
    ∀ t ∈ targets,
      (∀ i < bs.length, ∃ a b, as[i]? = some a ∧ bs[i]? = some b ∧
        ((w.afterWrites c cp bs ds).core t).holdByte a = b) ∧
      ∀ a, a / 65536 = berth → a ∉ as → ((w.afterWrites c cp bs ds).core t).holdByte a = (w.core t).holdByte a := by
  have hplaces : (as.zip bs).map (fun e => e.1) = as := List.map_fst_zip hlen.le
  have hmoved := State.engineWrites_hold (as.zip bs) w (c := c) (cp := cp) hn (hplaces.symm ▸ ha)
    (fun e he => hb _ (List.of_mem_zip he).1) hu
  subst hds
  intro t ht
  obtain ⟨-, hwritten, hother⟩ := hmoved t ht
  simp only [State.afterWrites_holdByte, zip_got]
  refine ⟨fun i hi => ?_, fun a hab hna => hother a hab fun e he hea => hna (hea ▸ (List.of_mem_zip he).1)⟩
  obtain ⟨a, b, hai, hbi, hm⟩ := exists_mem_zip hlen hi
  exact ⟨a, b, hai, hbi, hwritten _ hm⟩

/-- A copy into memory whose bytes no RDC may hold: each stands at its home, and the rest of memory as before. -/
theorem State.afterWrites_home {ps : List (Nat × Nat)} (hds : ds = ps.map (fun p => [.mem p.1 .rc p.2]))
    (hlen : ps.length = bs.length) (hn : (ps.map (fun p => p.1)).Nodup) (hw : w.MemoryWf)
    (hh : ∀ p ∈ ps, w.RcHome c p.1) :
    (∀ i < bs.length, ∃ p b, ps[i]? = some p ∧ bs[i]? = some b ∧ (w.afterWrites c cp bs ds).mem.get p.1 = b) ∧
    ∀ a, (∀ p ∈ ps, p.1 ≠ a) → (w.afterWrites c cp bs ds).mem.get a = w.mem.get a := by
  have hplaces : ((ps.zip bs).map (fun e => (e.1.1, e.2))).map (fun e => e.1) = ps.map (fun p => p.1) := by
    conv_rhs => rw [← List.map_fst_zip (l₁ := ps) (l₂ := bs) hlen.le]
    rw [List.map_map, List.map_map]
    rfl
  subst hds
  rw [State.afterWrites_mem, zip_got, State.engineWrites_home _ _ fun e he => hh _ (List.of_mem_zip he).1]
  refine ⟨fun i hi => ?_, fun a ha => ?_⟩
  · obtain ⟨p, b, hpi, hbi, hm⟩ := exists_mem_zip hlen hi
    exact ⟨p, b, hpi, hbi, Memory.get_setAll_nodup _ _ hw (hplaces.symm ▸ hn)
      (List.mem_map_of_mem (f := fun e : (Nat × Nat) × Byte => (e.1.1, e.2)) hm)⟩
  · exact Memory.get_setAll_other _ _ _ hw (List.forall_mem_map.2 fun e he => ha _ (List.of_mem_zip he).1)

end

/-! ### Entries that a copy delivers (R200, R212) -/

theorem numOfBytes_digit {bs : List Byte} {i : Nat} {b : Byte} (h : bs[i]? = some b) :
    numOfBytes bs / 2 ^ (8 * i) % 2 ^ 8 = b.toNat := by
  induction bs generalizing i with
  | nil => cases h
  | cons e bs ih =>
    have he := e.isLt
    cases i with
    | zero =>
      obtain rfl : e = b := by simpa using h
      rw [numOfBytes]
      omega
    | succ i =>
      have hrest : (e.toNat + 256 * numOfBytes bs) / 2 ^ 8 = numOfBytes bs := by omega
      rw [numOfBytes, Nat.mul_succ, Nat.add_comm (8 * i), Nat.pow_add, ← Nat.div_div_eq_div_mul, hrest]
      exact ih (by simpa using h)

theorem State.length_engineReads (s : State) (c : Nat) (cp : Copy) (l : List (Nat × Nat)) :
    (s.engineReads c cp l).2.length = l.length := by
  induction l generalizing s with
  | nil => rfl
  | cons e l ih => exact congrArg Nat.succ (ih _)

/-- An entry pushed by a copy: reserved at the tail, and landed there at once. -/
theorem State.pushCopied_queueReg (s : State) (c q : Nat) (bs : List Byte) :
    let r := (s.core c).queueReg q
    let r' := ((s.pushCopied c q (bs.map .got)).core c).queueReg q
    r'.head = r.head ∧ r'.cnt = r.cnt + 1 ∧ Tbl.get true r'.rdy ((r.head + r.cnt) % 4) = true ∧
      Tbl.get 0 r'.slots ((r.head + r.cnt) % 4) = BitVec.ofNat 1024 (numOfBytes bs) := by
  intro r r'
  have hr' : r' = (r.reserve ((s.core c).seq + 1)).1.land ((r.head + r.cnt) % 4) ((s.core c).seq + 1) (s.tickOf c)
      (BitVec.ofNat 1024 (numOfBytes bs)) := by
    have hbytes : s.pushCopied c q (bs.map .got) = s.setCore c { (s.core c).setQueueReg q
        ((r.reserve ((s.core c).seq + 1)).1.land ((r.head + r.cnt) % 4) ((s.core c).seq + 1) (s.tickOf c)
          (BitVec.ofNat 1024 (numOfBytes bs))) with seq := (s.core c).seq + 1 } := by
      simp only [State.pushCopied, List.map_map, Function.comp_def, List.map_id']
      rfl
    simp only [r', hbytes, State.core_setCore]
    exact Core.queueReg_setQueueReg _ _ _
  obtain ⟨hslot, hready, hhead, hcnt, -⟩ := QueueReg.land_reserved (tick := s.tickOf c)
    (r.reserve ((s.core c).seq + 1)).1 (BitVec.ofNat 1024 (numOfBytes bs))
    (Tbl.get_set_same _ _ ((r.head + r.cnt) % 4) _) (Tbl.get_set_same _ _ _ _)
  rw [hr']
  exact ⟨hhead, hcnt, hready, hslot⟩

theorem State.setCopy_queueReg (s : State) (c q : Nat) (cp : Copy) :
    ((s.setCopy c cp).core c).queueReg q = (s.core c).queueReg q := by
  rw [State.setCopy, State.core_modCore]
  rfl

theorem State.deliverEntry_pushes {s u : State} {c : Nat} (q : Nat) {cp cp' : Copy} {bad : Option EngineFail}
    {bs : List Byte} (hlist : cp.readList (s.core c) (cp.done + 127) cp.sc.toNat = (cp', bad))
    (hlen : ((cp'.places.drop cp'.done).take 128).length = 128)
    (hread : (s.orderCopy c cp').engineReads c cp' ((cp'.places.drop cp'.done).take 128) = (u, bs.map .got))
    (hlost : u.lostFail c cp' = none) :
    ∃ cp'', s.deliverEntry c cp q = (u.pushCopied c q (bs.map .got)).setCopy c cp'' := by
  have hne : ((cp'.places.drop cp'.done).take 128).isEmpty = false := by
    rw [Bool.eq_false_iff, ne_eq, List.isEmpty_iff_length_eq_zero, hlen]
    decide
  refine ⟨(({ cp' with done := cp'.done + 128 } : Copy).readList ((u.pushCopied c q (bs.map .got)).core c)
    (cp'.done + 128) cp'.sc.toNat).1, ?_⟩
  simp only [State.deliverEntry, hlist, hlen, hne, hread, hlost, sourceWaits_got, sourceFails_got, Option.elim_none,
    lowestFail, Nat.lt_irrefl, if_false, Bool.false_eq_true]

/-- Settles O24, each copy by its checks at issue, its places and its end. -/
theorem copiesMove : Obligations.CopiesMove := by
  unfold Obligations.CopiesMove
  intro enters shaped
  have hstart : ∀ {x : Ctx} {u v : State} {kind : CopyKind} {shape : List (BitVec 32)},
      enters x u kind shape v → x.startOrWait u (x.copyOf u kind shape) = .done v .seq := by
    rintro x u v kind shape
      ⟨cp, -, -, -, -, -, -, -, -, -, -, -, -, -, -, -, -, -, -, rfl, hn, hl, rfl⟩
    exact Ctx.startOrWait_enters hn hl
  have hshaped : ∀ {dims : Nat} {x : Ctx} {u v : State}, shaped dims x u v → cpyShaped dims x u = .done v .seq := by
    rintro dims x u v ⟨ha, hr, hp, hb, hs, ht, he⟩
    rw [cpyShaped_starts ha hr hp hb hs ht, hstart he]
  refine ⟨answers_of_done cpy1Body (fun _ _ _ => rfl) ?_,
    answers_of_done (cpyShaped 2) (fun _ _ _ => rfl) fun _ _ _ _ => hshaped,
    answers_of_done (cpyShaped 3) (fun _ _ _ => rfl) fun _ _ _ _ => hshaped,
    answers_of_done cpymcBody (fun _ _ _ => rfl) ?_, answers_of_done cpygBody (fun _ _ _ => rfl) ?_,
    ?_, fun cp => ⟨Copy.sources_gather, Copy.dests_straight⟩, ?_, ?_, ?_, ?_⟩
  · rintro x u v - ⟨ht, he⟩
    simp only [cpy1Body, ht, hstart he]
  · rintro x u v - ⟨ht, he⟩
    simp only [cpymcBody, ht, hstart he]
  · rintro x u v - ⟨ha, hr, hn, hq, hd, he⟩
    rw [cpygBody_starts ha hr hn hq hd, hstart he]
  · intro cp d h len n1 n2 spot
    refine ⟨?_, fun hd => Copy.dims_linear_one (hd ▸ h), fun i hi j hj k hk n => ⟨?_, ?_⟩⟩
    · rw [Copy.sources_linear h, offsetsFrom, List.length_map, length_shapeOffsets]
    · rw [Copy.sources_linear h, getElem?_offsetsFrom _ (getElem?_shapeOffsets _ _ hi hj hk), ← add_assoc, ← add_assoc]
    · rw [Copy.dests_linear h, getElem?_offsetsFrom _ (getElem?_shapeOffsets _ _ hi hj hk), ← add_assoc, ← add_assoc]
  · exact fun s w c cp a m => ⟨State.engineRead_hold,
      fun hs ht hk hd hr hb => State.engineRead_home hs ht hk ⟨hd, hr⟩ hb, State.engineDestMem_plain⟩
  · exact fun s c cp as => ⟨State.engineDests_hold, State.engineDests_multicast⟩
  · intro s u w c cp cp' bs ds hst ho hq hf hlist hread hdest hlost haims
    have hdone := State.endCopy_done hst ho hq hf hlist hread hdest hlost haims
    refine ⟨fun as targets berth hds hlen ha hn hb hu => ⟨_, hdone ?_, State.afterWrites_hold hds hlen ha hn hb hu⟩,
      fun ps hds hlen hn hw hh => ⟨_, hdone ?_, State.afterWrites_home hds hlen hn hw hh⟩⟩
    · rw [hds]
      exact List.forall_mem_map.2 fun a _ => by simp [destWaits, destFails]
    · rw [hds]
      exact List.forall_mem_map.2 fun p _ => by simp [destWaits, destFails]
  · intro s u c q cp cp' bad bs hlist hlen hread hlost r r' slot
    obtain ⟨cp'', hdeliver⟩ := State.deliverEntry_pushes q hlist hlen hread hlost
    have hr' : r' = ((u.pushCopied c q (bs.map .got)).core c).queueReg q := by
      simp only [r', hdeliver, State.setCopy_queueReg]
    have hbytes : bs.length = 128 := by
      have h := State.length_engineReads (s.orderCopy c cp') c cp' ((cp'.places.drop cp'.done).take 128)
      rwa [hread, List.length_map, hlen] at h
    obtain ⟨hhead, hcnt, hready, hslot⟩ := State.pushCopied_queueReg u c q bs
    rw [hr']
    refine ⟨hhead, hcnt, hready, fun i hi => ?_⟩
    have hget : bs[i]? = some bs[i] := List.getElem?_eq_getElem _
    refine ⟨bs[i], hget, ?_⟩
    rw [hslot, laneOf_ofNat _ (by omega), numOfBytes_digit hget]

end Sys2Proof.Machine
end

section
/-!
PROOFS. Copies that are cancelled, asked for and waited for: what the bodies answer (O25).
-/
namespace Sys2Proof.Machine

section
variable {x : Ctx} {u : State}

/-! ### CPYC and CPYS (R206, R207) -/

theorem Ctx.copyNames_eq : x.copyNames = (Stream.ofNum (x.f.imm.toNat % 4), x.f.imm.toNat / 4 % 32) := by
  simp [Ctx.copyNames, bits]

theorem cpycBody_all (hm : x.f.mod.getLsbD 0 = true) : cpycBody x u =
    let waiting := (u.core x.c).copies.filter (fun c => c.st == Stream.ofNum (x.f.imm.toNat % 4) && !c.started)
    .done (x.result (waiting.foldl (fun w c => w.cancelCopy x.c c) u) 2
      [.reg x.st x.f.dst (BitVec.ofNat 64 waiting.length)]) .seq := by
  simp only [cpycBody, Ctx.copyNames_eq, x.bit_mod, hm, if_true, Ctx.writes]

theorem cpycBody_named (hm : x.f.mod.getLsbD 0 = false) : cpycBody x u =
    match (u.core x.c).copyWith (Stream.ofNum (x.f.imm.toNat % 4)) (x.f.imm.toNat / 4 % 32) with
    | none => .done (x.result u 2 [.reg x.st x.f.dst 0]) .seq
    | some c =>
      if c.started then .done (x.result u 2 [.reg x.st x.f.dst 2]) .seq
      else .done (x.result (u.cancelCopy x.c c) 2 [.reg x.st x.f.dst 1]) .seq := by
  simp only [cpycBody, Ctx.copyNames_eq, x.bit_mod, hm, Bool.false_eq_true, if_false]
  rfl

theorem cpysBody_eq : cpysBody x u =
    match (u.core x.c).copyWith (Stream.ofNum (x.f.imm.toNat % 4)) (x.f.imm.toNat / 4 % 32) with
    | some c => .done (x.result u 2 [.reg x.st x.f.dst (statusWord 0 0 false false c.started 0)]) .seq
    | none =>
      let t := u.stream x.c (Stream.ofNum (x.f.imm.toNat % 4))
      let last := Tbl.get 0 t.tokenLast (x.f.imm.toNat / 4 % 32)
      .done (x.result (if last = 0 then u
        else u.acquireRdc x.c (Tbl.get .core t.tokenScope (x.f.imm.toNat / 4 % 32))) 2
        [.reg x.st x.f.dst last]) .seq := by
  simp only [cpysBody, Ctx.copyNames_eq]
  rfl

/-! ### WAIT (R208) -/

theorem Core.length_outstanding (k : Core) (st : Stream) : (k.outstanding st).length = 4 := rfl

theorem Ctx.length_waitLimits : x.waitLimits.length = 4 := rfl

theorem Ctx.getElem_waitLimits {i : Nat} (hi : i < x.waitLimits.length) :
    x.waitLimits[i] = x.f.imm.toNat / 256 ^ i % 256 := by
  simp only [Ctx.waitLimits, List.getElem_map, List.getElem_range, bits, two_pow_eight_mul]
  rfl

/-- The counters of a stream, cut off at 255, are within the limits of a WAIT. -/
def Ctx.WithinLimits (x : Ctx) (u : State) : Prop := ∀ i < 4,
  min (((u.core x.c).outstanding x.st)[i]?.getD 0) 255 ≤ x.f.imm.toNat / 256 ^ i % 256

theorem Ctx.all_limits_iff :
    (((u.core x.c).outstanding x.st).zip x.waitLimits).all (fun e => min e.1 255 ≤ e.2) = true ↔ x.WithinLimits u := by
  rw [List.all_eq_true, List.forall_mem_iff_getElem, Ctx.WithinLimits]
  simp only [List.length_zip, Core.length_outstanding, Ctx.length_waitLimits, List.getElem_zip,
    Ctx.getElem_waitLimits, decide_eq_true_iff, Nat.min_self]
  refine forall₂_congr fun i hi => ?_
  have hget : ((u.core x.c).outstanding x.st)[i]? = some ((u.core x.c).outstanding x.st)[i] :=
    List.getElem?_eq_getElem hi
  rw [hget]
  rfl

theorem waitBody_passes (h : x.WithinLimits u) : waitBody x u =
    .done (if x.f.imm.toNat / 65536 % 256 < 255 then
      u.acquireRdc x.c (Tbl.get .core (u.stream x.c x.st).tokenAcq 0) else u) .seq := by
  have hlim : (x.waitLimits[2]?).getD 255 = x.f.imm.toNat / 65536 % 256 := rfl
  simp only [waitBody, Ctx.all_limits_iff.2 h, hlim, Bool.not_true, Bool.false_eq_true, if_false]
  split <;> rfl

theorem waitBody_waits (h : ¬ x.WithinLimits u) : waitBody x u = .wait u .memory := by
  rw [← Ctx.all_limits_iff, Bool.not_eq_true] at h
  simp only [waitBody, h, Bool.not_false, if_true]

end

/-- Settles O25, each of the three by what it finds: the copies that it names, or the counters. -/
theorem copyControl : Obligations.CopyControl := by
  unfold Obligations.CopyControl
  refine ⟨acts_of_done cpycBody (fun _ _ _ => rfl) ?_, acts_of_done cpycBody (fun _ _ _ => rfl) ?_,
    acts_of_done cpysBody (fun _ _ _ => rfl) ?_, acts_of_done waitBody (fun _ _ _ => rfl) ?_,
    waits_of_wait waitBody (fun _ _ _ => rfl) ?_⟩
  · exact fun b f s u _ hm => cpycBody_all hm
  · intro b f s u _ hm
    rw [cpycBody_named hm, Core.copyWith]
    dsimp only
    generalize List.find? _ _ = found
    rcases found with _ | c
    · rfl
    · cases hs : c.started <;> simp [hs]
  · intro b f s u _ _
    rw [cpysBody_eq, Core.copyWith]
    dsimp only
    generalize List.find? _ _ = found
    cases found <;> rfl
  · exact fun b f s u _ h => waitBody_passes h
  · rintro x u - ⟨i, hi, hlt⟩
    exact waitBody_waits fun h => Nat.not_le.2 hlt (h i hi)

end Sys2Proof.Machine
end

/-! Vector instructions that work lane by lane (R218, R219, R222 to R228, R230, R231). -/

section

namespace Sys2Proof.Machine

/-! ### Lanes of sources (R218, R219) -/

theorem laneOf_lt (e : Entry) (w i : Nat) : laneOf e w i < 2 ^ w := Nat.mod_lt _ (Nat.two_pow_pos w)

theorem Ctx.lane_lt (x : Ctx) (u : State) (taken : Operand → Entry) (o : Operand) (i : Nat) :
    x.lane u taken o i < 2 ^ x.f.typ.width := by
  unfold Ctx.lane
  split
  · exact laneOf_lt _ _ _
  · exact laneOf_lt _ _ _
  · exact Nat.mod_lt _ (Nat.two_pow_pos _)
  · exact Nat.mod_lt _ (Nat.two_pow_pos _)

/-- A lane is the number of the vector of its bits. -/
theorem Ctx.toNat_ofNat_lane (x : Ctx) (u : State) (taken : Operand → Entry) (o : Operand) (i : Nat) :
    (BitVec.ofNat x.f.typ.width (x.lane u taken o i)).toNat = x.lane u taken o i := by
  rw [BitVec.toNat_ofNat, Nat.mod_eq_of_lt (x.lane_lt u taken o i)]

/-! ### Arithmetic (R222 to R224) -/

theorem satOfMod_eq (m : BitVec 5) : satOfMod m = m.getLsbD 2 := by
  rw [satOfMod, bit_eq_testBit, BitVec.testBit_toNat]

/-- An issue asks its body for its own fields only. -/
theorem issue_congr {o : Op} {b : Bundle} {f : Fields} {body body' : Ctx → State → Res}
    (h : ∀ x u, x.f = f → body x u = body' x u) (s : State) : issue o b f body s = issue o b f body' s := by
  simp only [issue, Ctx.issue, Ctx.issueEnabled, h (Ctx.of o b f s) _ rfl]

theorem issue_floatLat (o : Op) (b : Bundle) (f : Fields) (n : Nat)
    (g : Ctx → State → (Operand → Entry) → Entry × List Effect) (s : State) :
    issue o b f (vectorBody (floatLat f.typ n) g) s =
      issue o b f (fun x u => vectorBody (floatLat x.f.typ n) g x u) s :=
  issue_congr (fun x u hf => by rw [hf]) s

/-- Settles O10: each lane is a rounded float or a fitted integer. -/
theorem vectorArithmetic : Obligations.VectorArithmetic := by
  unfold Obligations.VectorArithmetic
  intro lanes lat
  have maps {i : Bundle → Fields → Instr} {o : Op} {n : Nat} {onFloat : Rounding → FVal → FVal → FVal → Exact}
      {onInt : Int → Int → Int → Int} (hi : ∀ b f s, exec (i b f) s =
        issue o b f (vectorBody (floatLat f.typ n) (mapLanes (laneOp onFloat onInt))) s) :
      MapsLanes i o (lat n) (fun _ => 1) Typ.isFloat (lanes onFloat onInt) := by
    refine mapsLanes_of (fun b f s => (hi b f s).trans (issue_floatLat o b f n _ s)) fun x u taken j _ => ?_
    simp only [lanes, laneOp, roundLane, satOfMod_eq, fitLane_eq]
    split
    · exact ⟨rfl, rfl⟩
    · exact ⟨Nat.mod_mod _ _, rfl⟩
  clear_value lanes lat -- opaque, so that they unify by their arguments
  exact ⟨maps fun _ _ _ => rfl, maps fun _ _ _ => rfl, maps fun _ _ _ => rfl, maps fun _ _ _ => rfl⟩

/-! ### Minimum, maximum and sign (R225, R226) -/

/-- A lane with its sign changed: the code of a float, or the fitted value of an integer. -/
def signLane (onCode : Nat → Nat → Nat) (onInt : Int → Int) (t : Typ) (mod : BitVec 5) (a _ _ : Nat) : Nat × Flags :=
  if t.isFloat then (onCode t.width a, 0) else (fitLane t mod (onInt (t.value a)), 0)

theorem absLane_eq_signLane : absLane = signLane (fun w a => a % 2 ^ (w - 1)) (fun a => (a.natAbs : Int)) := rfl

theorem negLane_eq_signLane : negLane = signLane (fun w a => a ^^^ 2 ^ (w - 1)) (fun a => -a) := rfl

theorem pickLane_eq (greater : Bool) (t : Typ) (a b : Nat) : pickLane greater t a b =
    if t.isFloat ∧ ((t.format.decode a).isNan ∨ (t.format.decode b).isNan) then
      (t.format.canon, if (t.format.decode a).isSnan ∨ (t.format.decode b).isSnan then flagNV else 0)
    else if greater then (if orderKey t a ≤ orderKey t b then b else a, 0)
    else (if orderKey t a ≤ orderKey t b then a else b, 0) := by
  simp only [pickLane, Bool.and_eq_true, Bool.or_eq_true]
  split
  case isTrue => rfl
  case isFalse =>
    by_cases hle : orderKey t a ≤ orderKey t b
    · cases greater <;> simp [hle]
    · cases greater <;> simp [hle]

/-- Settles O11: a lane picked by the order keys, or one with its sign changed. -/
theorem vectorMinMaxSign : Obligations.VectorMinMaxSign := by
  unfold Obligations.VectorMinMaxSign
  intro pick sign
  have picks {i : Bundle → Fields → Instr} {o : Op} {greater : Bool} (hi : ∀ b f s, exec (i b f) s =
      issue o b f (vectorBody 2 (mapLanes (fun t _ a b _ => pickLane greater t a b))) s) :
      MapsLanes i o (fun _ => 2) (fun _ => 1) Typ.isFloat (pick greater) := by
    refine mapsLanes_of hi fun x u taken j _ => ?_
    simp only [pick, ← pickLane_eq, and_self]
  have signs {i : Bundle → Fields → Instr} {o : Op} {onCode : Nat → Nat → Nat} {onInt : Int → Int}
      (hi : ∀ b f s, exec (i b f) s = issue o b f (vectorBody 2 (mapPlain (signLane onCode onInt))) s) :
      MapsLanes i o (fun _ => 2) (fun _ => 1) (fun _ => false) (sign onCode onInt) := by
    refine mapsLanes_of hi fun x u taken j _ => ?_
    simp only [sign, signLane, fitLane_eq]
    split
    · exact ⟨rfl, rfl⟩
    · exact ⟨Nat.mod_mod _ _, rfl⟩
  clear_value pick sign
  refine ⟨picks fun _ _ _ => rfl, picks fun _ _ _ => rfl, signs fun _ _ _ => ?_, signs fun _ _ _ => ?_⟩
  · rw [← absLane_eq_signLane]
    rfl
  · rw [← negLane_eq_signLane]
    rfl

/-! ### Logic, shifts and selection (R227, R228, R230) -/

/-- Settles O12: the model's operation on lanes is the one on vectors of w bits. -/
theorem vectorLogicSelect : Obligations.VectorLogicSelect := by
  unfold Obligations.VectorLogicSelect
  intro two
  have maps {i : Bundle → Fields → Instr} {o : Op} {g : (w : Nat) → BitVec w → BitVec w → BitVec w}
      (n : Nat → Nat → Nat → Nat)
      (hn : ∀ {w : Nat} (a b : BitVec w), 0 < w → n w a.toNat b.toNat = (g w a b).toNat)
      (hi : ∀ b f s, exec (i b f) s = issue o b f (vectorBody 2 (mapPlain (shiftLane n))) s) :
      MapsLanes i o (fun _ => 2) (fun _ => 1) (fun _ => false) (two g) := by
    refine mapsLanes_of hi fun x u taken j _ => ?_
    have h := hn (BitVec.ofNat x.f.typ.width (x.lane u taken x.f.sa j))
      (BitVec.ofNat x.f.typ.width (x.lane u taken x.f.sb j)) x.f.typ.width_pos
    rw [Ctx.toNat_ofNat_lane, Ctx.toNat_ofNat_lane] at h
    exact ⟨congrArg (· % 2 ^ x.f.typ.width) h, rfl⟩
  clear_value two
  constructor
  · simp only [List.forall_mem_cons]
    refine ⟨?_, ?_, ?_, ?_, ?_, ?_, List.forall_mem_nil _⟩
    · exact maps (fun _ => Nat.land) (fun _ _ _ => rfl) fun _ _ _ => rfl
    · exact maps (fun _ => Nat.lor) (fun _ _ _ => rfl) fun _ _ _ => rfl
    · exact maps (fun _ => Nat.xor) (fun _ _ _ => rfl) fun _ _ _ => rfl
    · exact maps shlBits (fun a b _ => shlBits_eq_toNat a b.toNat) fun _ _ _ => rfl
    · exact maps shrBits (fun a b _ => shrBits_eq_toNat a b.toNat) fun _ _ _ => rfl
    · exact maps sraBits (fun a b hw => sraBits_eq_toNat a b.toNat hw) fun _ _ _ => rfl
  · exact mapsLanes_of (fun _ _ _ => rfl) fun _ _ _ _ _ => ⟨rfl, rfl⟩

/-! ### Transcendentals (R221, R231) -/

/-- An FP32 transcendental takes ten ticks and holds the unit for two. -/
theorem elemBody_eq (k : Elem) : elemBody k = fun x u => vectorUnit (if x.f.typ = .f32 then 2 else 1)
    (queueBody (if x.f.typ = .f32 then 10 else 6) (mapLanes (elemLane k))) x u := by
  funext x u
  simp only [elemBody, beq_iff_eq]

/-- Settles O14: each operation takes its function to every lane. -/
theorem vectorElementary : Obligations.VectorElementary := by
  unfold Obligations.VectorElementary
  have maps {i : Bundle → Fields → Instr} {o : Op} {k : Elem}
      (hi : ∀ b f s, exec (i b f) s = issue o b f (elemBody k) s) :
      MapsLanes i o (fun t => if t = .f32 then 10 else 6) (fun t => if t = .f32 then 2 else 1) Typ.isFloat
        (fun x u taken i =>
          let r := k.apply x.f.typ.format (x.lane u taken x.f.sa i)
          (r.code, r.flags)) := by
    rw [elemBody_eq] at hi
    exact mapsLanes_of hi fun _ _ _ _ _ => ⟨rfl, rfl⟩
  simp only [List.forall_mem_cons]
  exact ⟨maps fun _ _ _ => rfl, maps fun _ _ _ => rfl, maps fun _ _ _ => rfl, maps fun _ _ _ => rfl,
    maps fun _ _ _ => rfl, List.forall_mem_nil _⟩

end Sys2Proof.Machine

end


/-! The compare of vectors, into a queue and into a predicate (R229). -/

section

namespace Sys2Proof.Machine

/-! ### Lanes that hold (R229) -/

theorem sum_two_pow_lt (P : Nat → Bool) (n : Nat) :
    ((List.range n).map (fun i => if P i then 2 ^ i else 0)).sum < 2 ^ n := by
  induction n with
  | zero => exact Nat.one_pos
  | succ n ih =>
    rw [List.range_succ, List.map_append, List.sum_append, List.map_singleton, List.sum_singleton, pow_succ]
    split
    · omega
    · omega

/-- A sum of distinct powers of two has these bits. -/
theorem sum_two_pow_testBit (P : Nat → Bool) (n i : Nat) :
    ((List.range n).map (fun i => if P i then 2 ^ i else 0)).sum.testBit i = (decide (i < n) && P i) := by
  induction n with
  | zero => simp
  | succ n ih =>
    have hlt := sum_two_pow_lt P n
    rw [List.range_succ, List.map_append, List.sum_append, List.map_singleton, List.sum_singleton]
    have hor : ((List.range n).map (fun i => if P i then 2 ^ i else 0)).sum + (if P n then 2 ^ n else 0) =
        (if P n then 2 ^ n else 0) ||| ((List.range n).map (fun i => if P i then 2 ^ i else 0)).sum := by
      split
      · rw [Nat.add_comm]
        simpa using Nat.two_pow_add_eq_or_of_lt hlt 1
      · rw [Nat.zero_or, Nat.add_zero]
    rw [hor, Nat.testBit_or, ih, apply_ite (Nat.testBit · i), Nat.testBit_two_pow, Nat.zero_testBit]
    by_cases hi : i = n
    · subst hi
      simp
    · simp [Ne.symm hi, Nat.le_iff_lt_or_eq, hi]

/-- The bits of a predicate, a lane each or a pair of 8-bit lanes each. -/
theorem predBits_getLsbD (w : Nat) (l : List Nat) {i : Nat} (hi : i < 64) :
    (BitVec.ofNat 64 (predBits w l)).getLsbD i = if w = 8
      then (l[2 * i]?).getD 0 == 1 && (l[2 * i + 1]?).getD 0 == 1 else (l[i]?).getD 0 == 1 := by
  rw [BitVec.getLsbD_ofNat, predBits, sum_two_pow_testBit, decide_eq_true hi, Bool.true_and, Bool.true_and]


theorem flagNV_getLsbD (n : Nat) : flagNV.getLsbD n = true ↔ n = 4 := by
  have hnv : flagNV = BitVec.twoPow 5 4 := rfl
  rw [hnv, BitVec.getLsbD_twoPow, Bool.and_eq_true, decide_eq_true_iff, decide_eq_true_iff, eq_comm (a := 4)]
  exact and_iff_right (by decide)

/-- A lane's test sets NV where one of its floats is a signalling NaN, and no other flag. -/
theorem testLane_flags (t : Typ) (c a b n : Nat) : (testLane t c a b).2.getLsbD n = true ↔
    n = 4 ∧ t.isFloat ∧ ((t.format.decode a).isSnan ∨ (t.format.decode b).isSnan) := by
  unfold testLane
  dsimp only
  split
  case isTrue hf =>
    simp only [Bool.or_eq_true]
    split
    case isTrue hs => simp [flagNV_getLsbD, hf, hs]
    case isFalse hs => simp [hs]
  case isFalse hf => simp [hf]

section
variable (x : Ctx) (u : State) (taken : Operand → Entry)

/-- The test of lane i of the operands, with its flags. -/
def Ctx.laneTest (i : Nat) : Bool × Flags :=
  testLane x.f.typ (x.f.mod.toNat % 8) (x.lane u taken x.f.sa i) (x.lane u taken x.f.sb i)

/-- Lane i is enabled and its test holds. -/
def Ctx.laneHolds (i : Nat) : Bool := x.laneOn u x.f.typ.width i && (x.laneTest u taken i).1

/-- The tests of the enabled lanes, 1 where one holds, with their flags. -/
def Ctx.laneTests : List Nat × Flags :=
  elements (x.laneOn u x.f.typ.width) (fun i => (if (x.laneTest u taken i).1 then 1 else 0, (x.laneTest u taken i).2))
    (1024 / x.f.typ.width)

theorem vcmpEntry_eq : vcmpEntry x u taken =
    if x.f.dst.isPred then
      (0, .reg x.st x.f.dst (combine (x.f.mod.toNat / 8) (x.reg u x.f.dst)
        (BitVec.ofNat 64 (predBits x.f.typ.width (x.laneTests u taken).1))) :: x.floatFlags (x.laneTests u taken).2)
    else (entryOf x.f.typ.width ((x.laneTests u taken).1.map (fun e => if e = 1 then 2 ^ x.f.typ.width - 1 else 0)),
      x.floatFlags (x.laneTests u taken).2) := by
  have hcond : bits x.f.mod.toNat 0 3 = x.f.mod.toNat % 8 := by simp [bits]
  have hmode : bits x.f.mod.toNat 3 2 = x.f.mod.toNat / 8 := Nat.mod_eq_of_lt (by omega)
  rw [vcmpEntry, hcond, hmode]
  rfl

theorem Ctx.laneTests_getElem? {i : Nat} (hi : i < 1024 / x.f.typ.width) :
    (x.laneTests u taken).1[i]? = some (if x.laneHolds u taken i then 1 else 0) := by
  simp only [Ctx.laneTests, elements, Ctx.laneHolds, List.getElem?_map, List.getElem?_range hi, Option.map_some,
    apply_ite Prod.fst, Bool.and_eq_true, ite_and]

theorem Ctx.laneTests_eq_one (i : Nat) : (((x.laneTests u taken).1[i]?).getD 0 == 1) =
    (decide (i < 1024 / x.f.typ.width) && x.laneHolds u taken i) := by
  by_cases hi : i < 1024 / x.f.typ.width
  · rw [Ctx.laneTests_getElem? _ _ _ hi, decide_eq_true hi]
    cases x.laneHolds u taken i
    · rfl
    · rfl
  · rw [Ctx.laneTests, elements_beyond _ _ _ _ (Nat.not_lt.1 hi), decide_eq_false hi]
    rfl

theorem Ctx.laneTests_flags (n : Nat) : (x.laneTests u taken).2.getLsbD n = true ↔
    n = 4 ∧ x.f.typ.isFloat ∧ ∃ i < 1024 / x.f.typ.width, x.laneOn u x.f.typ.width i = true ∧
      ((x.f.typ.format.decode (x.lane u taken x.f.sa i)).isSnan ∨
        (x.f.typ.format.decode (x.lane u taken x.f.sb i)).isSnan) := by
  simp only [Ctx.laneTests, elements_flags, Ctx.laneTest, testLane_flags]
  constructor
  · rintro ⟨i, hi, hon, hn, hf, hs⟩
    exact ⟨hn, hf, i, hi, hon, hs⟩
  · rintro ⟨hn, hf, i, hi, hon, hs⟩
    exact ⟨i, hi, hon, hn, hf, hs⟩

/-- All ones in the lanes that hold, 0 in the others. -/
theorem laneOf_vcmp {i : Nat} (hi : i < 1024 / x.f.typ.width) :
    laneOf (entryOf x.f.typ.width ((x.laneTests u taken).1.map (fun e => if e = 1 then 2 ^ x.f.typ.width - 1 else 0)))
      x.f.typ.width i = if x.laneHolds u taken i then 2 ^ x.f.typ.width - 1 else 0 := by
  have hlt : 2 ^ x.f.typ.width - 1 < 2 ^ x.f.typ.width := Nat.sub_one_lt (Nat.two_pow_pos _).ne'
  rw [laneOf_entryOf _ _ _ hi, List.getElem?_map, Ctx.laneTests_getElem? _ _ _ hi, Option.map_some, Option.getD_some]
  cases x.laneHolds u taken i
  · rfl
  · exact Nat.mod_eq_of_lt hlt

theorem predBits_vcmp {i : Nat} (hi : i < 64) :
    (BitVec.ofNat 64 (predBits x.f.typ.width (x.laneTests u taken).1)).getLsbD i =
      if x.f.typ.width = 8 then x.laneHolds u taken (2 * i) && x.laneHolds u taken (2 * i + 1)
      else decide (i < 1024 / x.f.typ.width) && x.laneHolds u taken i := by
  simp only [predBits_getLsbD _ _ hi, Ctx.laneTests_eq_one]
  split
  case isTrue hw =>
    have h0 : 2 * i < 1024 / x.f.typ.width := by rw [hw]; omega
    have h1 : 2 * i + 1 < 1024 / x.f.typ.width := by rw [hw]; omega
    rw [decide_eq_true h0, decide_eq_true h1, Bool.true_and, Bool.true_and]
  case isFalse => rfl

end

theorem not_isPred_of_queueNum {d : Operand} {q : Nat} (h : queueNum d = some q) : d.isPred = false := by
  cases d with
  | p _ => exact nomatch h
  | _ => rfl

/-- Settles O13: an entry of all ones where a lane holds, or a predicate of these lanes. -/
theorem vectorCompare : Obligations.VectorCompare := by
  unfold Obligations.VectorCompare
  refine takesQueues_of (fun _ => 2) (fun _ => 1) vcmpEntry (fun _ _ _ => rfl) fun x u v taken ho => ?_
  have hpos : pushPosition x.o x.f = queueNum x.f.dst := by rw [ho]; rfl
  have hcmp : pushPosition .vcmp x.f = queueNum x.f.dst := rfl
  refine ⟨(x.laneTests u taken).2, x.laneTests_flags u taken, ?_⟩
  rw [hpos, hcmp, vcmpEntry_eq]
  rcases hq : queueNum x.f.dst with _ | q
  case none =>
    intro hp
    refine ⟨_, _, fun i hi => predBits_vcmp x u taken hi, combine_eq _ _, ?_⟩
    rw [if_pos hp]
    rfl
  case some =>
    rw [not_isPred_of_queueNum hq, if_neg Bool.false_ne_true]
    exact ⟨_, fun i hi => laneOf_vcmp x u taken hi, rfl⟩

end Sys2Proof.Machine

end

/-! Moves of vector lanes, order keys, digit counts and the cut of a histogram (R218, R221, R234 to R240). -/

section

namespace Sys2Proof.Machine

/-! ### Moves (R234 to R238) -/

theorem Ctx.immLane_eq (x : Ctx) : x.immLane = x.f.imm.toNat % 128 := by simp [Ctx.immLane, bits]

theorem permLane_eq (x : Ctx) (u : State) (taken : Operand → Entry) (i : Nat) : permLane x u taken i =
    let j := laneOf (taken x.f.sb) x.f.typ.width i
    if j < 1024 / x.f.typ.width then laneOf (taken x.f.sa) x.f.typ.width j else 0 := by
  simp only [permLane, ← Nat.not_lt, ite_not]

/-- The order key of a lane by its bits: a float below 0 inverted, any other signed value with its top bit inverted. -/
theorem orderKey_eq (t : Typ) (v : Nat) : orderKey t v =
    let k := BitVec.ofNat t.width v
    (if t.isFloat then (if k.msb then ~~~k else k ||| BitVec.ofNat t.width (2 ^ (t.width - 1)))
      else if t.signed then k ^^^ BitVec.ofNat t.width (2 ^ (t.width - 1)) else k).toNat := by
  have htop : t.width - 1 < t.width := Nat.sub_one_lt t.width_pos.ne'
  have hpow : 2 ^ (t.width - 1) % 2 ^ t.width = 2 ^ (t.width - 1) :=
    Nat.mod_eq_of_lt (Nat.pow_lt_pow_right (by decide) htop)
  have hmsb : bit v (t.width - 1) = (BitVec.ofNat t.width v).msb := by
    rw [BitVec.msb_eq_getLsbD_last, BitVec.getLsbD_ofNat, decide_eq_true htop, Bool.true_and, bit_eq_testBit]
  rw [orderKey, hmsb]
  dsimp only
  split
  · split
    case isTrue => rw [BitVec.toNat_not, BitVec.toNat_ofNat]
    case isFalse hpos =>
      have hlt : v % 2 ^ t.width < 2 ^ (t.width - 1) := by
        rw [Bool.not_eq_true, BitVec.msb_eq_false_iff_two_mul_lt, BitVec.toNat_ofNat] at hpos
        have hw : 2 ^ t.width = 2 * 2 ^ (t.width - 1) := by rw [← pow_succ', Nat.sub_add_cancel t.width_pos]
        omega
      rw [BitVec.toNat_or, BitVec.toNat_ofNat, BitVec.toNat_ofNat, hpow, Nat.add_comm, Nat.or_comm]
      simpa using Nat.two_pow_add_eq_or_of_lt hlt 1
  · split
    · rw [BitVec.toNat_xor, BitVec.toNat_ofNat, BitVec.toNat_ofNat, hpow]
    · rw [BitVec.toNat_ofNat]

/-- A move of lanes answers with the lanes that it moves, and no flag. -/
theorem mapsLanes_of_move {i : Bundle → Fields → Instr} {o : Op} {lat : Nat}
    {g g' : Ctx → State → (Operand → Entry) → Nat → Nat}
    (hi : ∀ b f s, exec (i b f) s = issue o b f (vectorBody lat (moveLanes g)) s)
    (h : ∀ x u taken i, g x u taken i % 2 ^ x.f.typ.width = g' x u taken i % 2 ^ x.f.typ.width) :
    MapsLanes i o (fun _ => lat) (fun _ => 1) (fun _ => false) (fun x u taken i => (g' x u taken i, 0)) :=
  mapsLanes_of hi fun x u taken i _ => ⟨h x u taken i, rfl⟩

/-- An entry inserted into holds the new lane where it is enabled, and its own lanes elsewhere. -/
theorem laneOf_insert (x : Ctx) (u : State) (taken : Operand → Entry) {i : Nat} (hi : i < 1024 / x.f.typ.width) :
    laneOf (insertEntry x u taken).1 x.f.typ.width i =
      if i = x.f.imm.toNat % 128 ∧ x.laneOn u x.f.typ.width i then (x.reg u x.f.sb).toNat % 2 ^ x.f.typ.width
      else laneOf (taken x.f.sa) x.f.typ.width i := by
  have hlane : ((lanesOf (taken x.f.sa) x.f.typ.width)[i]?).getD 0 % 2 ^ x.f.typ.width =
      laneOf (taken x.f.sa) x.f.typ.width i := by
    rw [lanesOf, List.getElem?_map, List.getElem?_range hi, Option.map_some, Option.getD_some,
      Nat.mod_eq_of_lt (laneOf_lt _ _ _)]
  have hlen : i < (lanesOf (taken x.f.sa) x.f.typ.width).length := by
    rwa [lanesOf, List.length_map, List.length_range]
  rw [insertEntry, laneOf_entryOf _ _ _ hi, Ctx.immLane_eq]
  by_cases hon : x.laneOn u x.f.typ.width (x.f.imm.toNat % 128) = true
  · rw [if_pos hon]
    by_cases h : i = x.f.imm.toNat % 128
    · subst h
      rw [if_pos ⟨rfl, hon⟩, List.getElem?_set_self hlen, Option.getD_some, Nat.mod_mod]
    · rw [if_neg fun e => h e.1, List.getElem?_set_ne (Ne.symm h), hlane]
  · have hout : ¬ (i = x.f.imm.toNat % 128 ∧ x.laneOn u x.f.typ.width i = true) := fun e => hon (e.1 ▸ e.2)
    rw [if_neg hon, if_neg hout, hlane]

/-! ### Digits (R239) -/

/-- The values of what is left by two filters, in one pass. -/
theorem map_filter_map_filter {α β γ : Type} (p : α → Bool) (f : α → β) (q : β → Bool) (g : β → γ) (l : List α) :
    (((l.filter p).map f).filter q).map g =
      l.filterMap (fun a => if p a ∧ q (f a) then some (g (f a)) else none) := by
  rw [← List.filterMap_eq_map, List.filterMap_filter, List.filterMap_map, List.filterMap_filter]
  refine List.filterMap_congr fun a _ => ?_
  rw [ite_and]
  rfl

theorem histEntry_eq (x : Ctx) (u : State) (taken : Operand → Entry) : (histEntry x u taken).2 =
    [.hist (x.f.mod.getLsbD 0) ((List.range (1024 / x.f.typ.width)).filterMap (fun i =>
      let key := laneOf (taken x.f.sa) x.f.typ.width i
      if x.laneOn u x.f.typ.width i ∧ key / 2 ^ (x.f.imm.toNat % 32 + 8) = (x.reg u x.f.sb).toNat
      then some (key / 2 ^ (x.f.imm.toNat % 32) % 256) else none))] := by
  have hshift : bits x.f.imm.toNat 0 5 = x.f.imm.toNat % 32 := by simp [bits]
  rw [histEntry, hshift, Ctx.bit_mod]
  dsimp only
  rw [map_filter_map_filter]
  simp only [beq_iff_eq]
  rfl

/-! ### The cut of a histogram (R239, R240) -/

theorem Core.histPending_iff (k : Core) :
    k.histPending = true ↔ ∃ l ∈ k.flight, ∃ e ∈ l.effects, ∃ z ds, e = .hist z ds := by
  simp only [Core.histPending, List.any_eq_true]
  refine exists_congr fun l => and_congr_right fun _ => exists_congr fun e => and_congr_right fun _ => ?_
  cases e <;> simp

/-- The keys that a histogram counts under a digit. -/
def binCount (h : Tbl (BitVec 32)) (d : Nat) : Nat := (Tbl.get 0 h d).toNat

/-- A walk stops at the first digit with which its running sum reaches k. -/
theorem cutFrom_reaches (h : Tbl (BitVec 32)) {k sum : Nat} {l : List Nat} (hlt : sum < k)
    (hle : k ≤ sum + (l.map (binCount h)).sum) :
    ∃ n, ∃ hn : n < l.length, ∃ past, past = sum + ((l.take n).map (binCount h)).sum ∧
      cutFrom h k sum l = (l[n], past) ∧ past < k ∧ k ≤ past + binCount h l[n] := by
  induction l generalizing sum with
  | nil => exact absurd hle (by simpa using hlt)
  | cons d l ih =>
    by_cases hd : k ≤ sum + binCount h d
    · exact ⟨0, Nat.succ_pos _, sum, rfl, if_pos hd, hlt, hd⟩
    · rw [List.map_cons, List.sum_cons, ← Nat.add_assoc] at hle
      obtain ⟨n, hn, past, hpast, hcut, hlow, hhigh⟩ := ih (Nat.not_le.1 hd) hle
      refine ⟨n + 1, Nat.succ_lt_succ hn, past, ?_, (if_neg hd).trans hcut, hlow, hhigh⟩
      rw [hpast, List.take_succ_cons, List.map_cons, List.sum_cons, Nat.add_assoc]

/-- The keys on the far side of a digit: below it in ascending order, above it in descending order. -/
def keysPast (h : Nat → Nat) (asc : Bool) (d : Nat) : Nat :=
  if asc then ((List.range d).map h).sum else ((List.range (255 - d)).map (fun j => h (d + 1 + j))).sum

/-- The digits in the order of the walk. -/
def digitWalk (asc : Bool) : List Nat := if asc then List.range 256 else (List.range 256).map (fun d => 255 - d)

theorem digitWalk_length (asc : Bool) : (digitWalk asc).length = 256 := by cases asc <;> simp [digitWalk]

theorem sum_digitWalk (h : Nat → Nat) (asc : Bool) : ((digitWalk asc).map h).sum = ((List.range 256).map h).sum := by
  cases asc with
  | false =>
    have hrev : digitWalk false = (List.range 256).reverse := by
      rw [List.range_eq_range', List.reverse_range']
      rfl
    rw [hrev, List.map_reverse, List.sum_reverse]
  | true => rfl

/-- What a walk has passed before its digit n. -/
theorem sum_take_digitWalk (h : Nat → Nat) (asc : Bool) {n : Nat} (hn : n < (digitWalk asc).length) :
    (((digitWalk asc).take n).map h).sum = keysPast h asc (digitWalk asc)[n] := by
  have hn' : n < 256 := by rwa [digitWalk_length] at hn
  cases asc with
  | false =>
    have hrev : (digitWalk false).take n = ((List.range n).map (fun j => 255 - n + 1 + j)).reverse := by
      rw [← List.range'_eq_map_range, List.reverse_range', digitWalk, if_neg Bool.false_ne_true, ← List.map_take,
        List.take_range, Nat.min_eq_left hn'.le]
      exact List.map_congr_left fun j hj => by omega
    have hd : (digitWalk false)[n] = 255 - n := by simp [digitWalk]
    have hback : 255 - (255 - n) = n := by omega
    rw [hrev, List.map_reverse, List.sum_reverse, List.map_map, hd, keysPast, if_neg Bool.false_ne_true, hback]
    rfl
  | true =>
    have hd : (digitWalk true)[n] = n := by simp [digitWalk]
    simp only [hd]
    rw [digitWalk, if_pos rfl, List.take_range, Nat.min_eq_left hn'.le]
    rfl

theorem digitWalk_lt (asc : Bool) : ∀ d ∈ digitWalk asc, d < 256 := by
  intro d hd
  cases asc with
  | false =>
    obtain ⟨j, -, rfl⟩ := List.mem_map.1 hd
    omega
  | true => exact List.mem_range.1 hd

theorem vcutValue_eq (h : Tbl (BitVec 32)) (asc : Bool) (k : Nat) : vcutValue h asc k =
    if k = 0 ∨ ((List.range 256).map (binCount h)).sum < k then BitVec.allOnes 64
    else
      let cut := cutFrom h k 0 (digitWalk asc)
      BitVec.ofNat 64 (min cut.2 (2 ^ 32 - 1) * 2 ^ 32 + min (binCount h cut.1) (2 ^ 24 - 1) * 2 ^ 8 + cut.1) := rfl

/-- VCUT answers with the digit at which the k-th key lies, or with all ones where there is none. -/
theorem vcutValue_spec (h : Tbl (BitVec 32)) (asc : Bool) (k : Nat) :
    if k = 0 ∨ ((List.range 256).map (binCount h)).sum < k then vcutValue h asc k = BitVec.allOnes 64
    else ∃ d < 256, keysPast (binCount h) asc d < k ∧ k ≤ keysPast (binCount h) asc d + binCount h d ∧
      vcutValue h asc k = BitVec.ofNat 64
        (min (keysPast (binCount h) asc d) (2 ^ 32 - 1) * 2 ^ 32 + min (binCount h d) (2 ^ 24 - 1) * 2 ^ 8 + d) := by
  split
  case isTrue hnone => exact if_pos hnone
  case isFalse hsome =>
    obtain ⟨hk, htotal⟩ := not_or.1 hsome
    obtain ⟨n, hn, past, hpast, hcut, hlow, hhigh⟩ := cutFrom_reaches (l := digitWalk asc) h (Nat.pos_of_ne_zero hk)
      (by rw [Nat.zero_add, sum_digitWalk]; exact Nat.not_lt.1 htotal)
    rw [Nat.zero_add, sum_take_digitWalk _ _ hn] at hpast
    subst hpast
    refine ⟨_, digitWalk_lt asc _ (List.getElem_mem hn), hlow, hhigh, ?_⟩
    rw [vcutValue_eq, if_neg hsome, hcut]

theorem vcutBody_waits {x : Ctx} {u : State} (hfl : x.fl = false) (hp : (u.core x.c).histPending = true) :
    vcutBody x u = .wait u .latency := by
  rw [vcutBody, hfl, hp]
  rfl

theorem vcutBody_done {x : Ctx} {u : State} (h : x.fl = false → ¬ (u.core x.c).histPending = true) :
    vcutBody x u = .done (x.result u 4 [.reg x.st x.f.dst
      (vcutValue (u.core x.c).hist (x.f.mod.getLsbD 0) (x.raw u .untyped x.f.sa).toNat)]) .seq := by
  have hrun : ¬ (!x.fl && (u.core x.c).histPending) = true := by simpa using h
  rw [vcutBody, if_neg hrun, Ctx.bit_mod]
  rfl

/-! ### Waits for the unit (R218, R221) -/

theorem vectorUnit_taken {busy : Nat} {body : Ctx → State → Res} {x : Ctx} {u : State} (h : ¬ x.unitFree u) :
    vectorUnit busy body x u = .wait u .latency := if_pos (Nat.not_le.1 h)

/-- An instruction whose body waits for the unit, whatever its fields. -/
theorem waits_of_unit {i : Bundle → Fields → Instr} {o : Op}
    (h : ∀ b f, ∃ body : Ctx → State → Res, (∀ s, exec (i b f) s = issue o b f body s) ∧
      ∀ x u, ¬ x.unitFree u → body x u = .wait u .latency) :
    Waits i o (fun x u => ¬ x.unitFree u) (fun _ _ => .latency) := by
  intro b f s u hr hg
  obtain ⟨body, hi, hw⟩ := h b f
  rw [hi, issue, issue_ready hr, hw _ _ hg, Ctx.conclude]

/-! ### The statement -/

/-- Settles O16: the moves lane by lane, VHIST by its digits, VCUT by its walk, and the waits by the unit and HIST. -/
theorem vectorMovesAndSelect : Obligations.VectorMovesAndSelect := by
  unfold Obligations.VectorMovesAndSelect
  refine ⟨⟨?_, ?_, ?_, ?_, ?_, ?_, ?_⟩, ⟨?_, ?_⟩, ?_, ?_⟩
  · exact mapsLanes_of_move (fun _ _ _ => rfl) fun x u taken i => congrArg (· % _) (permLane_eq x u taken i)
  · refine mapsLanes_of_move (fun _ _ _ => rfl) fun x u taken i => ?_
    rw [bcastLane, Ctx.immLane_eq]
  · exact mapsLanes_of_move (fun _ _ _ => rfl) fun _ _ _ _ => rfl
  · exact mapsLanes_of_move (fun _ _ _ => rfl) fun _ _ _ _ => Nat.mod_mod _ _
  · exact mapsLanes_of_move (fun _ _ _ => rfl) fun _ _ _ _ => congrArg (· % _) (orderKey_eq _ _)
  · refine takesQueues_of (fun _ => 2) (fun _ => 1) extractEntry (fun _ _ _ => rfl) fun x u v taken ho hq => ?_
    rw [ho, hq, extractEntry, Ctx.immLane_eq]
    rfl
  · refine takesQueues_of (fun _ => 2) (fun _ => 1) insertEntry (fun _ _ _ => rfl) fun x u v taken ho q hq => ?_
    rw [ho, hq]
    exact ⟨_, rfl, fun i hi => laneOf_insert x u taken hi⟩
  · refine takesQueues_of (fun _ => 4) (fun _ => 1) histEntry (fun _ _ _ => rfl) fun x u v taken ho hq => ?_
    rw [ho, hq, histEntry_eq]
  · intro b f s u hr hfree hland
    have hdone := vcutBody_done (x := Ctx.of .vcut b f s) (u := u) fun hfl hp => by
      obtain ⟨l, hl, e, he, z, ds, heq⟩ := (Core.histPending_iff _).1 hp
      exact hland hfl l hl e he z ds heq
    exact ⟨_, exec_of_done (vectorUnit 1 vcutBody) (fun _ _ _ => rfl) hr (vectorUnit_free hfree hdone),
      vcutValue_spec _ _ _⟩
  · simp only [List.forall_mem_cons]
    and_intros
    iterate 35 exact waits_of_unit fun _ _ => ⟨_, fun _ => rfl, fun _ _ => vectorUnit_taken⟩
    exact List.forall_mem_nil _
  · refine waits_of_wait (vectorUnit 1 vcutBody) (fun _ _ _ => rfl) fun x u _ ⟨hfree, hfl, hp⟩ => ?_
    rw [vectorUnit, if_neg (Nat.not_lt.2 hfree), vcutBody_waits hfl ((Core.histPending_iff _).2 hp)]

end Sys2Proof.Machine

end
